-- ==== Sys2Proof/Word.lean ====
section
/-! DEFINITION. The machine word of the ZN-7 (spec/00_scope.md R1, spec/04_tile_programs.md R77):
scalar registers, the PC and the status registers hold 64 bits. Bit 0 is the least significant. With it the operand
names of an instruction word (spec/02_instruction_word.md R31, R35). -/

set_option Elab.async false

namespace Sys2Proof

/-- A scalar register or status register value (R77). -/
abbrev Word := BitVec 64

/-- One byte of scratchpad, query memory or host memory (R1). -/
abbrev Byte := BitVec 8

/-- An exact natural number cut to 64 bits. -/
def word (n : Nat) : Word := BitVec.ofNat 64 n

@[simp] theorem word_toNat (n : Nat) : (word n).toNat = n % 2 ^ 64 := by
  simp [word]

/-- A scalar register number, s0 to s31 (R31). -/
abbrev SReg := Fin 32

/-- A tile register number, t0 to t63 (R31). -/
abbrev TReg := Fin 64

/-- A six-bit type code field (R85, R171, R199). -/
abbrev TypeCode := Fin 64

/-- The RM field of a scalar floating-point word, 0 to 6; 7 is reserved (R237). -/
abbrev RmField := Fin 7

/-- The mask field M (R35). -/
inductive MaskMode where
  /-- 0b00 -/
  | unmasked
  /-- 0b01 -/
  | masked
  /-- 0b10 -/
  | inverse
  /-- 0b11 -/
  | pip
  deriving DecidableEq, Repr

/-- The two bits of M (R35). -/
def MaskMode.code : MaskMode → Nat
  | .unmasked => 0
  | .masked => 1
  | .inverse => 2
  | .pip => 3

/-- M read from its two bits (R35). -/
def MaskMode.ofCode (n : Nat) : MaskMode :=
  match n with
  | 0 => .unmasked
  | 1 => .masked
  | 2 => .inverse
  | _ => .pip

@[simp] theorem MaskMode.ofCode_code (m : MaskMode) : MaskMode.ofCode m.code = m := by
  cases m <;> rfl

theorem MaskMode.code_lt (m : MaskMode) : m.code < 4 := by
  cases m <;> decide

/-- A peer's answer to chunk `chunk` of a transfer or a `qcopy`: its acknowledgement, or its refusal (R301, R361). -/
inductive PeerReply where
  | taken (chunk : Nat)
  | refused (chunk : Nat)
  deriving DecidableEq, Repr

/-- The chunk a peer answers for. -/
def PeerReply.chunk : PeerReply → Nat
  | .taken c => c
  | .refused c => c

/-- Is the answer a refusal? -/
def PeerReply.isRefusal : PeerReply → Bool
  | .taken _ => false
  | .refused _ => true

@[simp] theorem PeerReply.chunk_taken (c : Nat) : (PeerReply.taken c).chunk = c := rfl
@[simp] theorem PeerReply.chunk_refused (c : Nat) : (PeerReply.refused c).chunk = c := rfl
@[simp] theorem PeerReply.isRefusal_taken (c : Nat) : (PeerReply.taken c).isRefusal = false := rfl
@[simp] theorem PeerReply.isRefusal_refused (c : Nat) : (PeerReply.refused c).isRefusal = true := rfl

/-- What has befallen the stored units of an image by the time a restore reads them (R320, R422): nothing, an error of unit
`n` that the decoder corrects, or one it does not. -/
inductive Damage where
  | intact
  | soft (n : Nat)
  | hard (n : Nat)
  deriving DecidableEq, Repr

end Sys2Proof
end

