-- ==== Sys2Proof/Syntax.lean ====
section
/-! DEFINITION. The instruction set of the ZN-7: one constructor for each row of spec/opcode_table.json.
Tile instructions come first, then the control and system words and the scalar words: 321 words (spec/02_instruction_word.md R29 to R46); their arguments are the fields of the
word, `c` being the convoy bit. The last 132 are the machine's other steps and the outside world's events
(spec/01_engines_and_their_ties.md R16, spec/95_what_each_step_holds.md), which have no bits; their arguments name
the instance (a player, a transfer, a stack, a queue) or carry what the outside party supplies. -/

set_option Elab.async false

namespace Sys2Proof

/-- One constructor per row of the opcode table. -/
inductive Instr where
  /-- TADD (R141): Element-wise add modulo 2^SEW. -/
  | tadd (c : Bool) (d : TReg) (a : TReg) (b : TReg) (m : MaskMode)
  /-- TSUB (R141): Element-wise subtract. -/
  | tsub (c : Bool) (d : TReg) (a : TReg) (b : TReg) (m : MaskMode)
  /-- TAND (R141): Element-wise and. -/
  | tand (c : Bool) (d : TReg) (a : TReg) (b : TReg) (m : MaskMode)
  /-- TOR (R141): Element-wise or. -/
  | tor (c : Bool) (d : TReg) (a : TReg) (b : TReg) (m : MaskMode)
  /-- TXOR (R141): Element-wise exclusive or. -/
  | txor (c : Bool) (d : TReg) (a : TReg) (b : TReg) (m : MaskMode)
  /-- TANDN (R141): Element-wise a and not b. -/
  | tandn (c : Bool) (d : TReg) (a : TReg) (b : TReg) (m : MaskMode)
  /-- TMIN (R141): Element-wise minimum. -/
  | tmin (c : Bool) (d : TReg) (a : TReg) (b : TReg) (m : MaskMode)
  /-- TMAX (R141): Element-wise maximum. -/
  | tmax (c : Bool) (d : TReg) (a : TReg) (b : TReg) (m : MaskMode)
  /-- TSLL (R142): Element-wise shift left. -/
  | tsll (c : Bool) (d : TReg) (a : TReg) (b : TReg) (m : MaskMode)
  /-- TSRL (R142): Element-wise logical shift right. -/
  | tsrl (c : Bool) (d : TReg) (a : TReg) (b : TReg) (m : MaskMode)
  /-- TSRA (R142): Element-wise arithmetic shift right. -/
  | tsra (c : Bool) (d : TReg) (a : TReg) (b : TReg) (m : MaskMode)
  /-- TMUL (R143): Element-wise low product. -/
  | tmul (c : Bool) (d : TReg) (a : TReg) (b : TReg) (m : MaskMode)
  /-- TMULH (R143): Element-wise high product. -/
  | tmulh (c : Bool) (d : TReg) (a : TReg) (b : TReg) (m : MaskMode)
  /-- TMULHSU (R143): High product of signed a and unsigned b. -/
  | tmulhsu (c : Bool) (d : TReg) (a : TReg) (b : TReg) (m : MaskMode)
  /-- TDIV (R143): Element-wise quotient. -/
  | tdiv (c : Bool) (d : TReg) (a : TReg) (b : TReg) (m : MaskMode)
  /-- TREM (R143): Element-wise remainder. -/
  | trem (c : Bool) (d : TReg) (a : TReg) (b : TReg) (m : MaskMode)
  /-- TSEL (R144): Selects a or b by bit f of t0. -/
  | tsel (c : Bool) (d : TReg) (a : TReg) (b : TReg)
  /-- TMOV (R144): Copies element bits unchanged. -/
  | tmov (c : Bool) (d : TReg) (a : TReg) (m : MaskMode)
  /-- TIOTA (R144): Writes each element's logical index. -/
  | tiota (c : Bool) (d : TReg) (m : MaskMode)
  /-- TADD_S (R145): Adds scalar sb to each element. -/
  | taddS (c : Bool) (d : TReg) (a : TReg) (b : SReg) (m : MaskMode)
  /-- TSUB_S (R145): Subtracts scalar sb. -/
  | tsubS (c : Bool) (d : TReg) (a : TReg) (b : SReg) (m : MaskMode)
  /-- TAND_S (R145): Ands with scalar sb. -/
  | tandS (c : Bool) (d : TReg) (a : TReg) (b : SReg) (m : MaskMode)
  /-- TOR_S (R145): Ors with scalar sb. -/
  | torS (c : Bool) (d : TReg) (a : TReg) (b : SReg) (m : MaskMode)
  /-- TXOR_S (R145): Exclusive-ors with scalar sb. -/
  | txorS (c : Bool) (d : TReg) (a : TReg) (b : SReg) (m : MaskMode)
  /-- TANDN_S (R145): Ands with the complement of sb. -/
  | tandnS (c : Bool) (d : TReg) (a : TReg) (b : SReg) (m : MaskMode)
  /-- TMIN_S (R145): Minimum against sb. -/
  | tminS (c : Bool) (d : TReg) (a : TReg) (b : SReg) (m : MaskMode)
  /-- TMAX_S (R145): Maximum against sb. -/
  | tmaxS (c : Bool) (d : TReg) (a : TReg) (b : SReg) (m : MaskMode)
  /-- TSLL_S (R145): Shift left by sb. -/
  | tsllS (c : Bool) (d : TReg) (a : TReg) (b : SReg) (m : MaskMode)
  /-- TSRL_S (R145): Logical shift right by sb. -/
  | tsrlS (c : Bool) (d : TReg) (a : TReg) (b : SReg) (m : MaskMode)
  /-- TSRA_S (R145): Arithmetic shift right by sb. -/
  | tsraS (c : Bool) (d : TReg) (a : TReg) (b : SReg) (m : MaskMode)
  /-- TMUL_S (R145): Low product with sb. -/
  | tmulS (c : Bool) (d : TReg) (a : TReg) (b : SReg) (m : MaskMode)
  /-- TMULH_S (R145): High product with sb. -/
  | tmulhS (c : Bool) (d : TReg) (a : TReg) (b : SReg) (m : MaskMode)
  /-- TMULHSU_S (R145): High signed-unsigned product with sb. -/
  | tmulhsuS (c : Bool) (d : TReg) (a : TReg) (b : SReg) (m : MaskMode)
  /-- TDIV_S (R145): Quotient by sb. -/
  | tdivS (c : Bool) (d : TReg) (a : TReg) (b : SReg) (m : MaskMode)
  /-- TREM_S (R145): Remainder by sb. -/
  | tremS (c : Bool) (d : TReg) (a : TReg) (b : SReg) (m : MaskMode)
  /-- TSPLAT (R147): Writes the low bits of sb into every active element. -/
  | tsplat (c : Bool) (d : TReg) (b : SReg) (m : MaskMode)
  /-- TRSUB_S (R145): Computes sb minus each element. -/
  | trsubS (c : Bool) (d : TReg) (a : TReg) (b : SReg) (m : MaskMode)
  /-- TSEL_S (R144): Selects a or sb by bit f of t0. -/
  | tselS (c : Bool) (d : TReg) (a : TReg) (b : SReg)
  /-- TADD_I (R146): Adds the immediate. -/
  | taddI (c : Bool) (d : TReg) (a : TReg) (i : BitVec 6) (m : MaskMode)
  /-- TAND_I (R146): Ands with the immediate. -/
  | tandI (c : Bool) (d : TReg) (a : TReg) (i : BitVec 6) (m : MaskMode)
  /-- TOR_I (R146): Ors with the immediate. -/
  | torI (c : Bool) (d : TReg) (a : TReg) (i : BitVec 6) (m : MaskMode)
  /-- TXOR_I (R146): Exclusive-ors with the immediate. -/
  | txorI (c : Bool) (d : TReg) (a : TReg) (i : BitVec 6) (m : MaskMode)
  /-- TMIN_I (R146): Minimum against the immediate. -/
  | tminI (c : Bool) (d : TReg) (a : TReg) (i : BitVec 6) (m : MaskMode)
  /-- TMAX_I (R146): Maximum against the immediate. -/
  | tmaxI (c : Bool) (d : TReg) (a : TReg) (i : BitVec 6) (m : MaskMode)
  /-- TSLL_I (R146): Shift left by the unsigned immediate. -/
  | tsllI (c : Bool) (d : TReg) (a : TReg) (i : BitVec 6) (m : MaskMode)
  /-- TSRL_I (R146): Logical shift right by the immediate. -/
  | tsrlI (c : Bool) (d : TReg) (a : TReg) (i : BitVec 6) (m : MaskMode)
  /-- TSRA_I (R146): Arithmetic shift right by the immediate. -/
  | tsraI (c : Bool) (d : TReg) (a : TReg) (i : BitVec 6) (m : MaskMode)
  /-- TSPLAT_I (R147): Writes the immediate into every active element. -/
  | tsplatI (c : Bool) (d : TReg) (i : BitVec 6) (m : MaskMode)
  /-- TRSUB_I (R146): Computes the immediate minus each element. -/
  | trsubI (c : Bool) (d : TReg) (a : TReg) (i : BitVec 6) (m : MaskMode)
  /-- TFADD (R148): Floating add, rounded once. -/
  | tfadd (c : Bool) (d : TReg) (a : TReg) (b : TReg) (m : MaskMode)
  /-- TFSUB (R148): Floating subtract. -/
  | tfsub (c : Bool) (d : TReg) (a : TReg) (b : TReg) (m : MaskMode)
  /-- TFMUL (R148): Floating multiply. -/
  | tfmul (c : Bool) (d : TReg) (a : TReg) (b : TReg) (m : MaskMode)
  /-- TFDIV (R149): Floating divide. -/
  | tfdiv (c : Bool) (d : TReg) (a : TReg) (b : TReg) (m : MaskMode)
  /-- TFMIN (R151): Floating minimum. -/
  | tfmin (c : Bool) (d : TReg) (a : TReg) (b : TReg) (m : MaskMode)
  /-- TFMAX (R151): Floating maximum. -/
  | tfmax (c : Bool) (d : TReg) (a : TReg) (b : TReg) (m : MaskMode)
  /-- TFSQRT (R149): Floating square root. -/
  | tfsqrt (c : Bool) (d : TReg) (a : TReg) (m : MaskMode)
  /-- TFRSQE (R153): Exactly defined reciprocal square-root estimate. -/
  | tfrsqe (c : Bool) (d : TReg) (a : TReg) (m : MaskMode)
  /-- TFRECE (R153): Exactly defined reciprocal estimate. -/
  | tfrece (c : Bool) (d : TReg) (a : TReg) (m : MaskMode)
  /-- TFSIGNC (R152): Magnitude of a with the sign of b. -/
  | tfsignc (c : Bool) (d : TReg) (a : TReg) (b : TReg) (m : MaskMode)
  /-- TFSIGNN (R152): Magnitude of a with the inverted sign of b. -/
  | tfsignn (c : Bool) (d : TReg) (a : TReg) (b : TReg) (m : MaskMode)
  /-- TFSIGNX (R152): Magnitude of a with the xor of signs. -/
  | tfsignx (c : Bool) (d : TReg) (a : TReg) (b : TReg) (m : MaskMode)
  /-- TFMA (R150): Fused a·b + d. -/
  | tfma (c : Bool) (d : TReg) (a : TReg) (b : TReg) (m : MaskMode)
  /-- TFMS (R150): Fused a·b − d. -/
  | tfms (c : Bool) (d : TReg) (a : TReg) (b : TReg) (m : MaskMode)
  /-- TFNMA (R150): Fused −a·b + d. -/
  | tfnma (c : Bool) (d : TReg) (a : TReg) (b : TReg) (m : MaskMode)
  /-- TFNMS (R150): Fused −a·b − d. -/
  | tfnms (c : Bool) (d : TReg) (a : TReg) (b : TReg) (m : MaskMode)
  /-- TFADD_S (R154): Floating add of sb. -/
  | tfaddS (c : Bool) (d : TReg) (a : TReg) (b : SReg) (m : MaskMode)
  /-- TFSUB_S (R154): Floating subtract of sb. -/
  | tfsubS (c : Bool) (d : TReg) (a : TReg) (b : SReg) (m : MaskMode)
  /-- TFMUL_S (R154): Floating multiply by sb. -/
  | tfmulS (c : Bool) (d : TReg) (a : TReg) (b : SReg) (m : MaskMode)
  /-- TFDIV_S (R154): Floating divide by sb. -/
  | tfdivS (c : Bool) (d : TReg) (a : TReg) (b : SReg) (m : MaskMode)
  /-- TFMIN_S (R154): Floating minimum with sb. -/
  | tfminS (c : Bool) (d : TReg) (a : TReg) (b : SReg) (m : MaskMode)
  /-- TFMAX_S (R154): Floating maximum with sb. -/
  | tfmaxS (c : Bool) (d : TReg) (a : TReg) (b : SReg) (m : MaskMode)
  /-- TFSIGNC_S (R154): Sign copy from sb. -/
  | tfsigncS (c : Bool) (d : TReg) (a : TReg) (b : SReg) (m : MaskMode)
  /-- TFSIGNN_S (R154): Inverted sign copy from sb. -/
  | tfsignnS (c : Bool) (d : TReg) (a : TReg) (b : SReg) (m : MaskMode)
  /-- TFSIGNX_S (R154): Sign xor with sb. -/
  | tfsignxS (c : Bool) (d : TReg) (a : TReg) (b : SReg) (m : MaskMode)
  /-- TFMA_S (R154): Fused a·sb + d. -/
  | tfmaS (c : Bool) (d : TReg) (a : TReg) (b : SReg) (m : MaskMode)
  /-- TFMS_S (R154): Fused a·sb − d. -/
  | tfmsS (c : Bool) (d : TReg) (a : TReg) (b : SReg) (m : MaskMode)
  /-- TFNMA_S (R154): Fused −a·sb + d. -/
  | tfnmaS (c : Bool) (d : TReg) (a : TReg) (b : SReg) (m : MaskMode)
  /-- TFNMS_S (R154): Fused −a·sb − d. -/
  | tfnmsS (c : Bool) (d : TReg) (a : TReg) (b : SReg) (m : MaskMode)
  /-- TFRSUB_S (R154): Floating sb minus a. -/
  | tfrsubS (c : Bool) (d : TReg) (a : TReg) (b : SReg) (m : MaskMode)
  /-- TFRDIV_S (R154): Floating sb divided by a. -/
  | tfrdivS (c : Bool) (d : TReg) (a : TReg) (b : SReg) (m : MaskMode)
  /-- TCEQ (R156): Compares for equality into a mask. -/
  | tceq (c : Bool) (d : TReg) (a : TReg) (b : TReg) (m : MaskMode)
  /-- TCNE (R156): Compares for inequality. -/
  | tcne (c : Bool) (d : TReg) (a : TReg) (b : TReg) (m : MaskMode)
  /-- TCLT (R156): Compares less-than. -/
  | tclt (c : Bool) (d : TReg) (a : TReg) (b : TReg) (m : MaskMode)
  /-- TCLE (R156): Compares less-or-equal. -/
  | tcle (c : Bool) (d : TReg) (a : TReg) (b : TReg) (m : MaskMode)
  /-- TCGT (R156): Compares greater-than. -/
  | tcgt (c : Bool) (d : TReg) (a : TReg) (b : TReg) (m : MaskMode)
  /-- TCGE (R156): Compares greater-or-equal. -/
  | tcge (c : Bool) (d : TReg) (a : TReg) (b : TReg) (m : MaskMode)
  /-- TCUN (R156): Tests for an unordered pair. -/
  | tcun (c : Bool) (d : TReg) (a : TReg) (b : TReg) (m : MaskMode)
  /-- TCEQ_S (R156): Equality compare against sb. -/
  | tceqS (c : Bool) (d : TReg) (a : TReg) (b : SReg) (m : MaskMode)
  /-- TCNE_S (R156): Inequality compare against sb. -/
  | tcneS (c : Bool) (d : TReg) (a : TReg) (b : SReg) (m : MaskMode)
  /-- TCLT_S (R156): Less-than compare against sb. -/
  | tcltS (c : Bool) (d : TReg) (a : TReg) (b : SReg) (m : MaskMode)
  /-- TCLE_S (R156): Less-or-equal compare against sb. -/
  | tcleS (c : Bool) (d : TReg) (a : TReg) (b : SReg) (m : MaskMode)
  /-- TCGT_S (R156): Greater-than compare against sb. -/
  | tcgtS (c : Bool) (d : TReg) (a : TReg) (b : SReg) (m : MaskMode)
  /-- TCGE_S (R156): Greater-or-equal compare against sb. -/
  | tcgeS (c : Bool) (d : TReg) (a : TReg) (b : SReg) (m : MaskMode)
  /-- TCUN_S (R156): Unordered test against sb. -/
  | tcunS (c : Bool) (d : TReg) (a : TReg) (b : SReg) (m : MaskMode)
  /-- TSADD (R158): Saturating add. -/
  | tsadd (c : Bool) (d : TReg) (a : TReg) (b : TReg) (m : MaskMode)
  /-- TSSUB (R158): Saturating subtract. -/
  | tssub (c : Bool) (d : TReg) (a : TReg) (b : TReg) (m : MaskMode)
  /-- TAVG (R158): Averaging add under xround. -/
  | tavg (c : Bool) (d : TReg) (a : TReg) (b : TReg) (m : MaskMode)
  /-- TAVGSUB (R158): Averaging subtract under xround. -/
  | tavgsub (c : Bool) (d : TReg) (a : TReg) (b : TReg) (m : MaskMode)
  /-- TSMUL (R159): Saturating fractional multiply. -/
  | tsmul (c : Bool) (d : TReg) (a : TReg) (b : TReg) (m : MaskMode)
  /-- TWADD (R160): Widening add. -/
  | twadd (c : Bool) (d : TReg) (a : TReg) (b : TReg) (m : MaskMode)
  /-- TWSUB (R160): Widening subtract. -/
  | twsub (c : Bool) (d : TReg) (a : TReg) (b : TReg) (m : MaskMode)
  /-- TWMUL (R160): Widening multiply. -/
  | twmul (c : Bool) (d : TReg) (a : TReg) (b : TReg) (m : MaskMode)
  /-- TWMACC (R160): Widening multiply-accumulate into td. -/
  | twmacc (c : Bool) (d : TReg) (a : TReg) (b : TReg) (m : MaskMode)
  /-- TNSHR (R161): Narrowing shift with rounding and clamp. -/
  | tnshr (c : Bool) (d : TReg) (a : TReg) (b : TReg) (m : MaskMode)
  /-- TCVT (R171): Converts to type dt of the same width. -/
  | tcvt (c : Bool) (d : TReg) (a : TReg) (t : TypeCode) (m : MaskMode)
  /-- TCVTN (R171): Narrowing conversion to dt. -/
  | tcvtn (c : Bool) (d : TReg) (a : TReg) (t : TypeCode) (m : MaskMode)
  /-- TCVTW (R171): Widening conversion to dt. -/
  | tcvtw (c : Bool) (d : TReg) (a : TReg) (t : TypeCode) (m : MaskMode)
  /-- TCVTE (R171): Fused fp32 to e2m1 conversion. -/
  | tcvte (c : Bool) (d : TReg) (a : TReg) (m : MaskMode)
  /-- TSCALE (R171): Multiplies by the t1 block scale. -/
  | tscale (c : Bool) (d : TReg) (a : TReg) (m : MaskMode)
  /-- TCVTNS (R171): Divides by the t1 scale and narrows to dt. -/
  | tcvtns (c : Bool) (d : TReg) (a : TReg) (t : TypeCode) (m : MaskMode)
  /-- TCVTES (R171): Divides by the t1 scale and converts fp32 to e2m1. -/
  | tcvtes (c : Bool) (d : TReg) (a : TReg) (m : MaskMode)
  /-- TMXSCALE (R173): Derives E8M0 block scales into bytes from 0. -/
  | tmxscale (c : Bool) (d : TReg) (a : TReg) (t : TypeCode) (m : MaskMode)
  /-- TMXSCALE_B (R173): Derives E8M0 block scales into bytes from 128·L. -/
  | tmxscaleB (c : Bool) (d : TReg) (a : TReg) (t : TypeCode) (m : MaskMode)
  /-- TREDSUM (R176): Canonical sum reduction with carry. -/
  | tredsum (c : Bool) (d : TReg) (a : TReg) (b : TReg) (m : MaskMode)
  /-- TREDOSUM (R176): Ordered sum reduction. -/
  | tredosum (c : Bool) (d : TReg) (a : TReg) (b : TReg) (m : MaskMode)
  /-- TREDGSUM (R176): Writes one tree value per 64-element group. -/
  | tredgsum (c : Bool) (d : TReg) (a : TReg) (m : MaskMode)
  /-- TSCAN (R177): Canonical inclusive scan. -/
  | tscan (c : Bool) (d : TReg) (a : TReg) (b : TReg) (m : MaskMode)
  /-- TREDMAX (R176): Maximum reduction. -/
  | tredmax (c : Bool) (d : TReg) (a : TReg) (b : TReg) (m : MaskMode)
  /-- TREDMIN (R176): Minimum reduction. -/
  | tredmin (c : Bool) (d : TReg) (a : TReg) (b : TReg) (m : MaskMode)
  /-- TREDMAXI (R176): Maximum reduction with index. -/
  | tredmaxi (c : Bool) (d : TReg) (a : TReg) (b : TReg) (m : MaskMode)
  /-- TREDMINI (R176): Minimum reduction with index. -/
  | tredmini (c : Bool) (d : TReg) (a : TReg) (b : TReg) (m : MaskMode)
  /-- TREDAND (R176): Bitwise and reduction. -/
  | tredand (c : Bool) (d : TReg) (a : TReg) (b : TReg) (m : MaskMode)
  /-- TREDOR (R176): Bitwise or reduction. -/
  | tredor (c : Bool) (d : TReg) (a : TReg) (b : TReg) (m : MaskMode)
  /-- TREDXOR (R176): Bitwise exclusive-or reduction. -/
  | tredxor (c : Bool) (d : TReg) (a : TReg) (b : TReg) (m : MaskMode)
  /-- TCOMPRESS (R182): Packs the active elements. -/
  | tcompress (c : Bool) (d : TReg) (a : TReg) (m : MaskMode)
  /-- TEXPAND (R182): Unpacks into the active positions. -/
  | texpand (c : Bool) (d : TReg) (a : TReg) (m : MaskMode)
  /-- TSLIDEUP (R183): Slides elements up by the immediate. -/
  | tslideup (c : Bool) (d : TReg) (a : TReg) (i : BitVec 6) (m : MaskMode)
  /-- TSLIDEDN (R183): Slides elements down by the immediate. -/
  | tslidedn (c : Bool) (d : TReg) (a : TReg) (i : BitVec 6) (m : MaskMode)
  /-- TSLIDEUP_S (R183): Slides elements up by sb. -/
  | tslideupS (c : Bool) (d : TReg) (a : TReg) (s : SReg) (m : MaskMode)
  /-- TSLIDEDN_S (R183): Slides elements down by sb. -/
  | tslidednS (c : Bool) (d : TReg) (a : TReg) (s : SReg) (m : MaskMode)
  /-- TRGATHER (R184): Gathers elements of ta by index. -/
  | trgather (c : Bool) (d : TReg) (a : TReg) (b : TReg) (m : MaskMode)
  /-- TTRANS (R185): Transposes RC by RC blocks. -/
  | ttrans (c : Bool) (d : TReg) (a : TReg) (m : MaskMode)
  /-- TROWBC (R185): Broadcasts row 0 to every row. -/
  | trowbc (c : Bool) (d : TReg) (a : TReg) (m : MaskMode)
  /-- TCOLBC (R185): Broadcasts element 0 of each row. -/
  | tcolbc (c : Bool) (d : TReg) (a : TReg) (m : MaskMode)
  /-- TEXTR (R186): Extracts position 0 of ta into sd. -/
  | textr (c : Bool) (s : SReg) (a : TReg)
  /-- TMAND (R187): Mask and. -/
  | tmand (c : Bool) (d : TReg) (a : TReg) (b : TReg) (m : MaskMode)
  /-- TMOR (R187): Mask or. -/
  | tmor (c : Bool) (d : TReg) (a : TReg) (b : TReg) (m : MaskMode)
  /-- TMXOR (R187): Mask exclusive or. -/
  | tmxor (c : Bool) (d : TReg) (a : TReg) (b : TReg) (m : MaskMode)
  /-- TMANDN (R187): Mask a and not b. -/
  | tmandn (c : Bool) (d : TReg) (a : TReg) (b : TReg) (m : MaskMode)
  /-- TMNOT (R187): Mask not. -/
  | tmnot (c : Bool) (d : TReg) (a : TReg) (m : MaskMode)
  /-- TMBEFORE (R187): Sets bits before the first set bit. -/
  | tmbefore (c : Bool) (d : TReg) (a : TReg) (m : MaskMode)
  /-- TMTHROUGH (R187): Sets bits through the first set bit. -/
  | tmthrough (c : Bool) (d : TReg) (a : TReg) (m : MaskMode)
  /-- TMONLY (R187): Sets only the first set bit. -/
  | tmonly (c : Bool) (d : TReg) (a : TReg) (m : MaskMode)
  /-- TMPOP (R187): Counts active set mask bits into sd. -/
  | tmpop (c : Bool) (s : SReg) (a : TReg) (m : MaskMode)
  /-- TMFIRST (R187): Writes the first active set index into sd. -/
  | tmfirst (c : Bool) (s : SReg) (a : TReg) (m : MaskMode)
  /-- TXNORPOP (R164): Accumulates the count of agreeing bit positions. -/
  | txnorpop (c : Bool) (d : TReg) (a : TReg) (b : TReg) (m : MaskMode)
  /-- TPEXT (R165): Extracts plane s into bit 0. -/
  | tpext (c : Bool) (d : TReg) (a : TReg) (b : TReg) (m : MaskMode)
  /-- TPINS (R165): Inserts bit 0 into plane s. -/
  | tpins (c : Bool) (d : TReg) (a : TReg) (b : TReg) (m : MaskMode)
  /-- TLD (R200): Unit-stride tile load. -/
  | tld (c : Bool) (v : TReg) (a : SReg) (m : MaskMode)
  /-- TLDS (R200): Strided tile load. -/
  | tlds (c : Bool) (v : TReg) (a : SReg) (s : SReg) (m : MaskMode)
  /-- TLDX (R200): Indexed tile load, elements unordered. -/
  | tldx (c : Bool) (v : TReg) (a : SReg) (x : TReg) (m : MaskMode)
  /-- TLDXO (R200): Indexed tile load in ascending order. -/
  | tldxo (c : Bool) (v : TReg) (a : SReg) (x : TReg) (m : MaskMode)
  /-- TLDFF (R205): Fault-first load that trims FLIM. -/
  | tldff (c : Bool) (v : TReg) (a : SReg) (m : MaskMode)
  /-- TLDSEG (R203): Segment load of nf fields converting from mt. -/
  | tldseg (c : Bool) (v : TReg) (a : SReg) (t : TypeCode) (m : MaskMode) (n : Fin 8)
  /-- TST (R202): Unit-stride tile store. -/
  | tst (c : Bool) (v : TReg) (a : SReg) (m : MaskMode)
  /-- TSTS (R202): Strided tile store. -/
  | tsts (c : Bool) (v : TReg) (a : SReg) (s : SReg) (m : MaskMode)
  /-- TSTX (R202): Indexed tile store. -/
  | tstx (c : Bool) (v : TReg) (a : SReg) (x : TReg) (m : MaskMode)
  /-- TSTXO (R202): Indexed tile store in ascending order. -/
  | tstxo (c : Bool) (v : TReg) (a : SReg) (x : TReg) (m : MaskMode)
  /-- TSTSEG (R203): Segment store converting to mt. -/
  | tstseg (c : Bool) (v : TReg) (a : SReg) (t : TypeCode) (m : MaskMode) (n : Fin 8)
  /-- TLDSC (R208): Sequentially consistent indexed load drawing tickets. -/
  | tldsc (c : Bool) (v : TReg) (a : SReg) (x : TReg) (m : MaskMode)
  /-- TSTSC (R208): Sequentially consistent indexed store drawing tickets. -/
  | tstsc (c : Bool) (v : TReg) (a : SReg) (x : TReg) (m : MaskMode)
  /-- TGLL (R209): Linked load that sets link tags. -/
  | tgll (c : Bool) (v : TReg) (a : SReg) (x : TReg) (m : MaskMode)
  /-- TSCC (R210): Store-conditional per line, results into t0. -/
  | tscc (c : Bool) (v : TReg) (a : SReg) (x : TReg) (m : Bool)
  /-- MXATTACH (R271): Attaches a matrix accumulator grant. -/
  | mxattach (c : Bool) (d : TReg) (a : TReg) (b : TReg)
  /-- MXDETACH (R274): Writes back the accumulator and releases the grant. -/
  | mxdetach (c : Bool) (d : TReg) (p : TReg)
  /-- MXZERO (R273): Zeroes the accumulator and discards any open block. -/
  | mxzero (c : Bool) (d : TReg)
  /-- MXSYNC (R274): Writes the accumulator back to the tile group in chunks. -/
  | mxsync (c : Bool) (d : TReg) (p : TReg)
  /-- MXOP (R272): Rank-1 update adding an outer product. -/
  | mxop (c : Bool) (d : TReg) (a : TReg) (b : TReg) (m : MaskMode) (e : Bool)
  /-- MXOPN (R272): Rank-1 update subtracting an outer product. -/
  | mxopn (c : Bool) (d : TReg) (a : TReg) (b : TReg) (m : MaskMode) (e : Bool)
  /-- XCOPY (R290): Linear stream copy. -/
  | xcopy (c : Bool) (d : SReg) (a : SReg) (b : SReg) (p : TReg)
  /-- XCOPY2 (R290): Two-dimensional stream copy. -/
  | xcopy2 (c : Bool) (d : SReg) (a : SReg) (b : SReg) (p : TReg)
  /-- XCOPY3 (R290): Three-dimensional stream copy. -/
  | xcopy3 (c : Bool) (d : SReg) (a : SReg) (b : SReg) (p : TReg)
  /-- XGATH (R290): Gathers rows by an address list. -/
  | xgath (c : Bool) (d : SReg) (a : SReg) (b : SReg) (p : TReg)
  /-- XPUT (R290): Stores a scalar value as a release. -/
  | xput (c : Bool) (d : SReg) (a : SReg) (b : SReg) (p : TReg)
  /-- XSEAL (R293): Seals a 2 MiB QM page into a host blob. -/
  | xseal (c : Bool) (d : SReg) (a : SReg) (p : TReg)
  /-- XUNSEAL (R294): Checks and decrypts a blob into a QM page. -/
  | xunseal (c : Bool) (d : SReg) (a : SReg) (p : TReg)
  /-- XBAR (R295): Orders the player's transfers. -/
  | xbar (c : Bool) (p : TReg)
  /-- XCANCEL (R296): Cancels unfinished transfers on pip tile tp. -/
  | xcancel (c : Bool) (p : TReg)
  /-- QDOT (R337): Row dot products against a query vector. -/
  | qdot (c : Bool) (v : TReg) (q : TReg) (p : TReg) (a : SReg)
  /-- QDOTM (R337): Weighted column sums over rows. -/
  | qdotm (c : Bool) (v : TReg) (q : TReg) (p : TReg) (a : SReg)
  /-- QDOTX (R337): Dot products of indexed rows. -/
  | qdotx (c : Bool) (v : TReg) (q : TReg) (p : TReg) (a : SReg)
  /-- QSUM (R338): Masked, optionally filtered row sums. -/
  | qsum (c : Bool) (v : TReg) (q : TReg) (p : TReg) (a : SReg)
  /-- QCOUNT (R338): Counts selected row elements. -/
  | qcount (c : Bool) (v : TReg) (q : TReg) (p : TReg) (a : SReg)
  /-- QMAX (R339): Row maximum with column index. -/
  | qmax (c : Bool) (v : TReg) (q : TReg) (p : TReg) (a : SReg)
  /-- QMIN (R339): Row minimum with column index. -/
  | qmin (c : Bool) (v : TReg) (q : TReg) (p : TReg) (a : SReg)
  /-- QBEST (R340): Returns the K best elements of a vector. -/
  | qbest (c : Bool) (v : TReg) (p : TReg) (a : SReg)
  /-- QHAMM (R366): Ranks collection rows by Hamming distance. -/
  | qhamm (c : Bool) (v : TReg) (q : TReg) (p : TReg) (a : SReg)
  /-- QCODE (R366): Ranks coded collection rows by table distance. -/
  | qcode (c : Bool) (v : TReg) (q : TReg) (p : TReg) (a : SReg)
  /-- QNARROW (R341): Reads elements of type st and converts them into the reply. -/
  | qnarrow (c : Bool) (v : TReg) (t : TypeCode) (p : TReg) (a : SReg)
  /-- QGSUM (R337): Sums indexed rows column by column. -/
  | qgsum (c : Bool) (v : TReg) (q : TReg) (p : TReg) (a : SReg)
  /-- QST (R345): Unit-stride QM write. -/
  | qst (c : Bool) (v : TReg) (a : SReg)
  /-- QSTX (R345): QM write at offsets. -/
  | qstx (c : Bool) (v : TReg) (q : TReg) (a : SReg)
  /-- QRADD_ADD (R346): Posted reduce-add into QM. -/
  | qraddAdd (c : Bool) (v : TReg) (q : TReg) (a : SReg)
  /-- QRADD_MAX (R346): Posted reduce-max into QM. -/
  | qraddMax (c : Bool) (v : TReg) (q : TReg) (a : SReg)
  /-- QRADD_MIN (R346): Posted reduce-min into QM. -/
  | qraddMin (c : Bool) (v : TReg) (q : TReg) (a : SReg)
  /-- QRADD_OR (R346): Posted reduce-or into QM. -/
  | qraddOr (c : Bool) (v : TReg) (q : TReg) (a : SReg)
  /-- QRADD_AND (R346): Posted reduce-and into QM. -/
  | qraddAnd (c : Bool) (v : TReg) (q : TReg) (a : SReg)
  /-- QAPPEND (R347): Appends rows to a collection's side list. -/
  | qappend (c : Bool) (v : TReg) (q : TReg) (p : TReg) (a : SReg)
  /-- QCAS (R342): Compare-and-swap of QM elements with a success mask. -/
  | qcas (c : Bool) (v : TReg) (q : TReg) (p : TReg) (a : SReg)
  /-- QEVAL (R355): Runs a row program over QM elements in place. -/
  | qeval (c : Bool) (s : SReg) (a : SReg)
  /-- QCOPY (R360): Copies QM units between regions without a compute die. -/
  | qcopy (c : Bool) (d : SReg) (p : TReg) (a : SReg)
  /-- QMERGE (R368): Compacts a collection into a target region. -/
  | qmerge (c : Bool) (d : SReg) (q : TReg) (p : TReg) (a : SReg)
  /-- GETSR (R234): Reads a status register into sd, waiting for flags where R136 requires. -/
  | getsr (d : SReg) (n : BitVec 12)
  /-- PUTSR (R234): Writes sa to a status register that has no row of its own, with the refusal checks. -/
  | putsr (a : SReg) (n : BitVec 12)
  /-- PUTSR_FLAGS (R136): Replaces FLAGS bits after every earlier tile and scalar FP instruction has raised its flags. -/
  | putsrFlags (a : SReg)
  /-- PUTSR_EAFQ (R297): Removes the oldest fault record and may clear EAFQ.OVF. -/
  | putsrEafq (a : SReg)
  /-- PUTSR_EAFQR_RESUME (R376): Removes the oldest record and queues its held instruction for resumption. -/
  | putsrEafqrResume (a : SReg)
  /-- PUTSR_EAFQR_DISCARD (R376): Removes the oldest record and discards its held instruction. -/
  | putsrEafqrDiscard (a : SReg)
  /-- PUTSR_QRMV (R380): Starts a remap of the QRMT page's backing onto the written page. -/
  | putsrQrmv (a : SReg)
  /-- PUTSR_QEWIN (R356): Sets the evaluation window and starts the relative base table load. -/
  | putsrQewin (a : SReg)
  /-- FENCE (R212): Orders the listed kinds of accesses at a scope. -/
  | fence (s : Fin 4) (k : BitVec 4)
  /-- BAR (R213): Arrives at the party barrier dword and waits for the generation to change. -/
  | bar
  /-- WAIT_EQ (R214): Arms the monitor and waits until the dword equals sb. -/
  | waitEq (d : SReg) (a : SReg) (b : SReg)
  /-- WAIT_NE (R214): Waits until the dword differs from sb. -/
  | waitNe (d : SReg) (a : SReg) (b : SReg)
  /-- WAIT_GEU (R214): Waits until the dword is at least sb, unsigned. -/
  | waitGeu (d : SReg) (a : SReg) (b : SReg)
  /-- WAIT_ANY (R214): Waits until the dword and sb share a set bit. -/
  | waitAny (d : SReg) (a : SReg) (b : SReg)
  /-- PWAIT (R215): Waits for named pip chunks and acquires them. -/
  | pwait (a : SReg) (b : SReg) (p : TReg)
  /-- WMPUB (R216): Releases and raises the watermark dword to max(dword, sa). -/
  | wmpub (d : SReg) (a : SReg)
  /-- TRAP (R241): Traps trap-instruction with code n. -/
  | trap (n : BitVec 6)
  /-- HALT (R242): Waits for the player's work to drain and ends the player. -/
  | halt
  /-- ERET (R241): Returns from a trap, resuming or reissuing the convoy at EPC. -/
  | eret
  /-- YIELD (R243): Moves the player behind the other ready players of its core. -/
  | yield
  /-- LAUNCH (R244): Hands a device-side launch record to the command processor and returns a status. -/
  | launch (d : SReg) (a : SReg) (b : SReg)
  /-- SETVL (R93): Applies a pending reseat and sets VL and FLIM for a strip. -/
  | setvl (d : SReg) (a : SReg) (b : SReg)
  /-- SETVL_G (R94): Party collective that cuts consecutive strips for all members. -/
  | setvlG (d : SReg) (a : SReg)
  /-- SETVLW (R95): Sets the strip and waits for the watermark to cover it. -/
  | setvlw (d : SReg) (a : SReg) (b : SReg)
  /-- SETTYPE (R96): Writes TTY and recomputes VLMAX, VL and FLIM. -/
  | settype (d : SReg) (a : SReg)
  /-- RESEAT (R97): Records a pending seat mask request. -/
  | reseat (d : SReg) (a : SReg)
  /-- ALLOT (R98): Changes the number of allotted tile registers. -/
  | allot (d : SReg) (a : SReg)
  /-- TBANY (R230): Branches when some mask bit below FLIM is set. -/
  | tbany (t : Fin 8) (o : BitVec 19)
  /-- TBALL (R230): Branches when every mask bit below FLIM is set. -/
  | tball (t : Fin 8) (o : BitVec 19)
  /-- TBNONE (R230): Branches when no mask bit below FLIM is set. -/
  | tbnone (t : Fin 8) (o : BitVec 19)
  /-- TBDIV (R231): Divides the fragment, parking the not-taken part. -/
  | tbdiv (t : Fin 8) (o : BitVec 19)
  /-- TJOIN (R232): Switches to a parked fragment or reconverges. -/
  | tjoin
  /-- TFSPILL (R233): Moves the oldest parked fragment out to tm and EFSPC. -/
  | tfspill (t : Fin 8)
  /-- TFFILL (R233): Inserts a fragment from tm and EFSPC as the oldest entry. -/
  | tffill (t : Fin 8)
  /-- SLUI (R223): Writes sd with the sign-extended imm20 shifted left by 15. -/
  | slui (d : SReg) (i : BitVec 20)
  /-- SPCREL (R223): Writes sd with the word's own address plus sext(imm20)·2^15. -/
  | spcrel (d : SReg) (i : BitVec 20)
  /-- SJAL (R225): Writes the return address to sd and jumps by sext(off20)·4. -/
  | sjal (d : SReg) (o : BitVec 20)
  /-- SJALR (R225): Jumps to sa + sext(imm15) and writes the return address to sd. -/
  | sjalr (d : SReg) (a : SReg) (i : BitVec 15)
  /-- SBEQ (R224): Branches when sa equals sb. -/
  | sbeq (a : SReg) (b : SReg) (o : BitVec 15)
  /-- SBNE (R224): Branches when sa differs from sb. -/
  | sbne (a : SReg) (b : SReg) (o : BitVec 15)
  /-- SBLT (R224): Branches when sa is less than sb, signed. -/
  | sblt (a : SReg) (b : SReg) (o : BitVec 15)
  /-- SBGE (R224): Branches when sa is at least sb, signed. -/
  | sbge (a : SReg) (b : SReg) (o : BitVec 15)
  /-- SBLTN (R224): Branches when sa is less than sb, unsigned. -/
  | sbltn (a : SReg) (b : SReg) (o : BitVec 15)
  /-- SBGEN (R224): Branches when sa is at least sb, unsigned. -/
  | sbgen (a : SReg) (b : SReg) (o : BitVec 15)
  /-- SADDI (R221): Adds the sign-extended immediate to sa. -/
  | saddi (d : SReg) (a : SReg) (i : BitVec 15)
  /-- SANDI (R221): Ands sa with the sign-extended immediate. -/
  | sandi (d : SReg) (a : SReg) (i : BitVec 15)
  /-- SORI (R221): Ors sa with the sign-extended immediate. -/
  | sori (d : SReg) (a : SReg) (i : BitVec 15)
  /-- SXORI (R221): Exclusive-ors sa with the sign-extended immediate. -/
  | sxori (d : SReg) (a : SReg) (i : BitVec 15)
  /-- SLTI (R221): Sets sd to 1 when sa is below the immediate, signed. -/
  | slti (d : SReg) (a : SReg) (i : BitVec 15)
  /-- SLTIN (R221): Sets sd to 1 when sa is below the immediate, unsigned. -/
  | sltin (d : SReg) (a : SReg) (i : BitVec 15)
  /-- SSLLI (R222): Shifts sa left by the immediate amount. -/
  | sslli (d : SReg) (a : SReg) (n : BitVec 6)
  /-- SSRLI (R222): Shifts sa right logically by the immediate amount. -/
  | ssrli (d : SReg) (a : SReg) (n : BitVec 6)
  /-- SSRAI (R222): Shifts sa right arithmetically by the immediate amount. -/
  | ssrai (d : SReg) (a : SReg) (n : BitVec 6)
  /-- SADD (R220): Adds sa and sb modulo 2^64. -/
  | sadd (d : SReg) (a : SReg) (b : SReg)
  /-- SSUB (R220): Subtracts sb from sa modulo 2^64. -/
  | ssub (d : SReg) (a : SReg) (b : SReg)
  /-- SAND (R220): Bitwise and of sa and sb. -/
  | sand (d : SReg) (a : SReg) (b : SReg)
  /-- SOR (R220): Bitwise or of sa and sb. -/
  | sor (d : SReg) (a : SReg) (b : SReg)
  /-- SXOR (R220): Bitwise exclusive or of sa and sb. -/
  | sxor (d : SReg) (a : SReg) (b : SReg)
  /-- SANDN (R220): Ands sa with the complement of sb. -/
  | sandn (d : SReg) (a : SReg) (b : SReg)
  /-- SSLL (R220): Shifts sa left by sb mod 64. -/
  | ssll (d : SReg) (a : SReg) (b : SReg)
  /-- SSRL (R220): Shifts sa right logically by sb mod 64. -/
  | ssrl (d : SReg) (a : SReg) (b : SReg)
  /-- SSRA (R220): Shifts sa right arithmetically by sb mod 64. -/
  | ssra (d : SReg) (a : SReg) (b : SReg)
  /-- SSLT (R220): Sets sd to 1 when sa is below sb, signed. -/
  | sslt (d : SReg) (a : SReg) (b : SReg)
  /-- SSLTN (R220): Sets sd to 1 when sa is below sb, unsigned. -/
  | ssltn (d : SReg) (a : SReg) (b : SReg)
  /-- SMIN (R220): Signed minimum of sa and sb. -/
  | smin (d : SReg) (a : SReg) (b : SReg)
  /-- SMAX (R220): Signed maximum of sa and sb. -/
  | smax (d : SReg) (a : SReg) (b : SReg)
  /-- SMINN (R220): Unsigned minimum of sa and sb. -/
  | sminn (d : SReg) (a : SReg) (b : SReg)
  /-- SMAXN (R220): Unsigned maximum of sa and sb. -/
  | smaxn (d : SReg) (a : SReg) (b : SReg)
  /-- SMUL (R220): Low 64 bits of sa times sb. -/
  | smul (d : SReg) (a : SReg) (b : SReg)
  /-- SMULH (R220): High 64 bits of the signed product. -/
  | smulh (d : SReg) (a : SReg) (b : SReg)
  /-- SMULHN (R220): High 64 bits of the unsigned product. -/
  | smulhn (d : SReg) (a : SReg) (b : SReg)
  /-- SMULHSU (R220): High 64 bits of signed sa times unsigned sb. -/
  | smulhsu (d : SReg) (a : SReg) (b : SReg)
  /-- SDIV (R220): Signed quotient under R107. -/
  | sdiv (d : SReg) (a : SReg) (b : SReg)
  /-- SDIVN (R220): Unsigned quotient under R107. -/
  | sdivn (d : SReg) (a : SReg) (b : SReg)
  /-- SREM (R220): Signed remainder under R107. -/
  | srem (d : SReg) (a : SReg) (b : SReg)
  /-- SREMN (R220): Unsigned remainder under R107. -/
  | sremn (d : SReg) (a : SReg) (b : SReg)
  /-- SPOPC (R220): Counts the set bits of sa. -/
  | spopc (d : SReg) (a : SReg)
  /-- SCLZ (R220): Counts leading zero bits of sa. -/
  | sclz (d : SReg) (a : SReg)
  /-- SCTZ (R220): Counts trailing zero bits of sa. -/
  | sctz (d : SReg) (a : SReg)
  /-- SLD_D (R195): Loads a scratchpad dword into sd. -/
  | sldD (d : SReg) (a : SReg) (i : BitVec 15)
  /-- SLD_W (R195): Loads a sign-extended word. -/
  | sldW (d : SReg) (a : SReg) (i : BitVec 15)
  /-- SLDN_W (R195): Loads a zero-extended word. -/
  | sldnW (d : SReg) (a : SReg) (i : BitVec 15)
  /-- SLD_H (R195): Loads a sign-extended half. -/
  | sldH (d : SReg) (a : SReg) (i : BitVec 15)
  /-- SLDN_H (R195): Loads a zero-extended half. -/
  | sldnH (d : SReg) (a : SReg) (i : BitVec 15)
  /-- SLD_B (R195): Loads a sign-extended byte. -/
  | sldB (d : SReg) (a : SReg) (i : BitVec 15)
  /-- SLDN_B (R195): Loads a zero-extended byte. -/
  | sldnB (d : SReg) (a : SReg) (i : BitVec 15)
  /-- SST_D (R195): Stores a dword into the SPAD write buffer. -/
  | sstD (v : SReg) (a : SReg) (i : BitVec 15)
  /-- SST_W (R195): Stores the low word of sv. -/
  | sstW (v : SReg) (a : SReg) (i : BitVec 15)
  /-- SST_H (R195): Stores the low half of sv. -/
  | sstH (v : SReg) (a : SReg) (i : BitVec 15)
  /-- SST_B (R195): Stores the low byte of sv. -/
  | sstB (v : SReg) (a : SReg) (i : BitVec 15)
  /-- SFADD (R237): Scalar floating add of sa and sb, rounded once. -/
  | sfadd (d : SReg) (a : SReg) (b : SReg) (r : RmField) (f : Bool)
  /-- SFSUB (R237): Scalar floating subtract. -/
  | sfsub (d : SReg) (a : SReg) (b : SReg) (r : RmField) (f : Bool)
  /-- SFMUL (R237): Scalar floating multiply. -/
  | sfmul (d : SReg) (a : SReg) (b : SReg) (r : RmField) (f : Bool)
  /-- SFDIV (R237): Scalar floating divide. -/
  | sfdiv (d : SReg) (a : SReg) (b : SReg) (r : RmField) (f : Bool)
  /-- SFSQRT (R237): Scalar floating square root. -/
  | sfsqrt (d : SReg) (a : SReg) (r : RmField) (f : Bool)
  /-- SFMIN (R237): Scalar floating minimum under R151. -/
  | sfmin (d : SReg) (a : SReg) (b : SReg) (f : Bool)
  /-- SFMAX (R237): Scalar floating maximum under R151. -/
  | sfmax (d : SReg) (a : SReg) (b : SReg) (f : Bool)
  /-- SFMA (R237): Fused sa·sb + sd with one rounding. -/
  | sfma (d : SReg) (a : SReg) (b : SReg) (r : RmField) (f : Bool)
  /-- SFSIGNC (R237): Magnitude of sa with the sign of sb. -/
  | sfsignc (d : SReg) (a : SReg) (b : SReg) (f : Bool)
  /-- SFSIGNN (R237): Magnitude of sa with the inverted sign of sb. -/
  | sfsignn (d : SReg) (a : SReg) (b : SReg) (f : Bool)
  /-- SFSIGNX (R237): Magnitude of sa with the xor of the signs. -/
  | sfsignx (d : SReg) (a : SReg) (b : SReg) (f : Bool)
  /-- SFEQ (R237): Floating equality compare to 1 or 0. -/
  | sfeq (d : SReg) (a : SReg) (b : SReg) (f : Bool)
  /-- SFLT (R237): Floating less-than compare. -/
  | sflt (d : SReg) (a : SReg) (b : SReg) (f : Bool)
  /-- SFLE (R237): Floating less-or-equal compare. -/
  | sfle (d : SReg) (a : SReg) (b : SReg) (f : Bool)
  /-- SFCVTI (R237): Converts the float in sa to i64. -/
  | sfcvti (d : SReg) (a : SReg) (r : RmField) (f : Bool)
  /-- SFCVTN (R237): Converts the float in sa to n64. -/
  | sfcvtn (d : SReg) (a : SReg) (r : RmField) (f : Bool)
  /-- SICVTF (R237): Converts i64 sa to the float. -/
  | sicvtf (d : SReg) (a : SReg) (r : RmField) (f : Bool)
  /-- SNCVTF (R237): Converts n64 sa to the float. -/
  | sncvtf (d : SReg) (a : SReg) (r : RmField) (f : Bool)
  /-- SFCVTX (R237): Converts sa from the other float width to this one. -/
  | sfcvtx (d : SReg) (a : SReg) (r : RmField) (f : Bool)
  /-- SAMO_ADD (R197): Atomic add at the spad home, returning the old value. -/
  | samoAdd (d : SReg) (a : SReg) (b : SReg) (s : Fin 4) (o : Fin 4) (w : Bool)
  /-- SAMO_AND (R197): Atomic and. -/
  | samoAnd (d : SReg) (a : SReg) (b : SReg) (s : Fin 4) (o : Fin 4) (w : Bool)
  /-- SAMO_OR (R197): Atomic or. -/
  | samoOr (d : SReg) (a : SReg) (b : SReg) (s : Fin 4) (o : Fin 4) (w : Bool)
  /-- SAMO_XOR (R197): Atomic exclusive or. -/
  | samoXor (d : SReg) (a : SReg) (b : SReg) (s : Fin 4) (o : Fin 4) (w : Bool)
  /-- SAMO_SWAP (R197): Atomic swap. -/
  | samoSwap (d : SReg) (a : SReg) (b : SReg) (s : Fin 4) (o : Fin 4) (w : Bool)
  /-- SAMO_MIN (R197): Atomic signed minimum. -/
  | samoMin (d : SReg) (a : SReg) (b : SReg) (s : Fin 4) (o : Fin 4) (w : Bool)
  /-- SAMO_MAX (R197): Atomic signed maximum. -/
  | samoMax (d : SReg) (a : SReg) (b : SReg) (s : Fin 4) (o : Fin 4) (w : Bool)
  /-- SAMO_MINN (R197): Atomic unsigned minimum. -/
  | samoMinn (d : SReg) (a : SReg) (b : SReg) (s : Fin 4) (o : Fin 4) (w : Bool)
  /-- SAMO_MAXN (R197): Atomic unsigned maximum. -/
  | samoMaxn (d : SReg) (a : SReg) (b : SReg) (s : Fin 4) (o : Fin 4) (w : Bool)
  /-- SAMO_CAS (R197): Atomic compare-and-swap against sd. -/
  | samoCas (d : SReg) (a : SReg) (b : SReg) (s : Fin 4) (o : Fin 4) (w : Bool)
  /-- ISSUE_CONVOY (R17): Issues the head convoy after checking every member in order. -/
  | issueConvoy (p : Nat)
  /-- ELEMENT_PERFORM (R18): An element engine performs one active element of an in-flight instruction. -/
  | elementPerform (p : Nat) (m : Nat) (f : Nat)
  /-- TURN_TICKET (R18): An SC element draws a turn ticket after its buffered writes drain and performs. -/
  | turnTicket (p : Nat) (m : Nat) (f : Nat)
  /-- WRITE_BUFFER_DRAIN (R19): A write buffer entry drains to its home. -/
  | writeBufferDrain (p : Nat) (k : Nat)
  /-- SPAD_HOME_APPLY (R20): A spad home applies one arriving access to its line. -/
  | spadHomeApply (k : Nat)
  /-- MONITOR_WAKE (R214): A sleeping wait, bar or setvlw wakes, rereads and compares again. -/
  | monitorWake (p : Nat)
  /-- FENCE_COMPLETE (R25): A fence completes once its listed earlier accesses have performed. -/
  | fenceComplete (p : Nat)
  /-- PWAIT_COMPLETE (R215): A pwait completes when its named chunks are set and acquires them. -/
  | pwaitComplete (p : Nat)
  /-- HALT_COMPLETE (R242): A halt whose waits have ended ends the player and returns its seats. -/
  | haltComplete (p : Nat)
  /-- ALLOT_COMPLETE (R98): An allot shrink completes after in-flight uses of the freed registers end. -/
  | allotComplete (p : Nat)
  /-- RESEAT_APPLY (R80): A pending reseat takes effect once no tile instruction is in flight. -/
  | reseatApply (p : Nat)
  /-- LAUNCH_HANDOFF (R244): A launch hands its record over after earlier writes have performed. -/
  | launchHandoff (p : Nat)
  /-- WMPUB_APPLY (R216): The watermark max step is applied after the release drains. -/
  | wmpubApply (p : Nat)
  /-- STREAM_ACCEPT (R288): The stream engine checks and accepts an instruction into a slot. -/
  | streamAccept (p : Nat)
  /-- STREAM_CHUNK_PERFORM (R292): A transfer chunk performs at its destination and sets its pip bit. -/
  | streamChunkPerform (x : Nat) (k : Nat)
  /-- LANDING_FLAG_STORE (R299): Stores the landing flag as a release after all chunks. -/
  | landingFlagStore (x : Nat)
  /-- HOST_FLUSH_READ_RETURN (R300): The flushing read of a HOST chunk returns and the chunk performs. -/
  | hostFlushReadReturn (x : Nat) (k : Nat)
  /-- PEER_ACKNOWLEDGEMENT (R300): A peer acknowledgement or refusal of a PEER chunk returns; an acknowledged chunk performs. -/
  | peerAcknowledgement (x : Nat) (k : PeerReply)
  /-- CHAWICK_FRAME_RECEIVE (R301): An incoming Chawick frame is checked and its writes applied. -/
  | chawickFrameReceive (port : Nat) (qm : Bool) (region : Nat) (off : Nat) (data : List Byte) (tagOk : Bool)
  /-- QUERY_ACCEPT (R335): The query engine checks and accepts an instruction into a slot. -/
  | queryAccept (p : Nat)
  /-- QUERY_QUEUE_SEND (R22): The query queue sends one item to its stack units. -/
  | queryQueueSend (q : Nat)
  /-- STACK_UNIT_TOUCH (R23): A stack unit answers a query's touch of one unit. -/
  | stackUnitTouch (q : Nat) (u : Nat)
  /-- STACK_UNIT_WRITE_APPLY (R314): A data PC applies a partial write and forms its delta. -/
  | stackUnitWriteApply (q : Nat) (f : Nat)
  /-- PARITY_DELTA_ACCEPT (R315): A full parity queue accepts a waiting delta when room frees. -/
  | parityDeltaAccept (st : Nat)
  /-- PARITY_DELTA_APPLY (R315): The parity queue XORs one delta into its parity unit. -/
  | parityDeltaApply (st : Nat) (k : Nat)
  /-- FULL_STRIPE_WRITE (R316): A full-stripe write is applied once pending deltas are gone. -/
  | fullStripeWrite (q : Nat) (f : Nat)
  /-- RECONSTRUCTING_READ (R317): A closed stripe is read for rebuild after its deltas drain. -/
  | reconstructingRead (q : Nat) (u : Nat)
  /-- QUERY_REPLY_CHUNK (R343): A reply chunk is written to tile registers and its pip bit set. -/
  | queryReplyChunk (q : Nat) (c : Nat)
  /-- QCOPY_CHUNK_PERFORM (R361): A qcopy chunk performs at its destination. -/
  | qcopyChunkPerform (q : Nat) (c : Nat)
  /-- COLLECTION_ITEM_STEP (R365): An item naming a collection takes its step at the header's stack unit. -/
  | collectionItemStep (q : Nat)
  /-- SIDE_COUNT_RAISE (R347): The visible side count rises after the appended rows perform. -/
  | sideCountRaise (q : Nat)
  /-- QMERGE_COPY (R368): Live rows are copied once earlier writes have performed. -/
  | qmergeCopy (q : Nat)
  /-- QMERGE_SWITCH (R368): The collection pages switch to the target band after earlier queries end. -/
  | qmergeSwitch (q : Nat)
  /-- QEVAL_ELEMENT (R357): A PC evaluates the row program for one element of a slab. -/
  | qevalElement (q : Nat) (f : Nat)
  /-- BASE_TABLE_LOAD (R356): The relative base table load for a player completes. -/
  | baseTableLoad (p : Nat)
  /-- MATRIX_ACCEPT (R276): The matrix array reaches and accepts a player's matrix instruction. -/
  | matrixAccept (p : Nat)
  /-- MXATTACH_SLOT_GRANT (R266): A waiting attachment is granted slots in arrival order. -/
  | mxattachSlotGrant (p : Nat)
  /-- MXATTACH_LOAD_DONE (R278): The accumulator load of an attachment ends. -/
  | mxattachLoadDone (p : Nat)
  /-- MATRIX_ARBITER_CYCLE (R277): The arbiter serves one family group's steps in a cycle. -/
  | matrixArbiterCycle (cl : Nat)
  /-- MATRIX_CHUNK_LAND (R274): A write-back chunk lands and sets its pip bit. -/
  | matrixChunkLand (p : Nat) (c : Nat)
  /-- HELD_INSTRUCTION_REACCEPT (R376): A resumed held instruction is re-accepted into a slot. -/
  | heldInstructionReaccept (p : Nat)
  /-- REMAP_SWITCH (R380): After drains, the remap switches the page backing. -/
  | remapSwitch (p : Nat)
  /-- EXPORT_MARK_SET (R382): The export mark is set after translated items drain. -/
  | exportMarkSet
  /-- TRANSLATION_WALK (R413): A page-table walk completes for a missed translation. -/
  | translationWalk (asid : Nat) (va : Nat)
  /-- SCRUB_ROW_VISIT (R321): The scrubber reads, certifies or rewrites one row. -/
  | scrubRowVisit (st : Nat) (pc : Nat) (row : Nat)
  /-- CLEAN_ROW_EXPIRY (R319): A row's clean certification lapses after 16 s. -/
  | cleanRowExpiry (st : Nat) (pc : Nat) (row : Nat)
  /-- STACK_FATAL_ERROR (R322): A stack interface or base die reports a fatal error. -/
  | stackFatalError (st : Nat)
  /-- DEGRADED_SWITCH (R323): After parity queues drain, stack units switch to degraded routing. -/
  | degradedSwitch (st : Nat)
  /-- PREEMPTION_REQUEST (R405): The command processor requests pre-emption of a party. -/
  | preemptionRequest (l : Nat) (party : Nat)
  /-- PREEMPTION_TAKEN (R256): A player's in-flight work stops and the request is taken. -/
  | preemptionTaken (p : Nat)
  /-- CONTEXT_SAVE (R406): A player's image is stored and its resources freed. -/
  | contextSave (p : Nat)
  /-- CONTEXT_RESTORE (R422): A saved image is read, checked and restored. -/
  | contextRestore (c : Nat) (damage : Damage)
  /-- WORLD_SWITCH (R423): Starts passing a cluster from one owner world to another. -/
  | worldSwitch (cl : Nat) (w : Nat)
  /-- WORLD_SWITCH_CLEAR (R423): After engines hold no item of the old world, state is zeroed and the owner set. -/
  | worldSwitchClear (cl : Nat)
  /-- CONTEXT_REMOVAL (R426): Starts removal of a context after a fatal fault or cancel. -/
  | contextRemoval (l : Nat)
  /-- REMOVAL_STEP_DRAINED (R426): A removal step's count reaches zero and the next step begins. -/
  | removalStepDrained (l : Nat)
  /-- REMOVAL_STALL (R427): A removal count fails to reach zero within 10 ms. -/
  | removalStall (l : Nat)
  /-- AGING_INTERVAL (R397): An aging interval of a waiting candidate expires. -/
  | agingInterval (q : Nat) (l : Nat) (party : Nat)
  /-- LAUNCH_PLACEMENT (R398): The command processor orders candidates and places parties that fit. -/
  | launchPlacement
  /-- PACKET_HEAD (R393): A pending packet becomes head and is checked. -/
  | packetHead (q : Nat)
  /-- PACKET_FETCH_START (R390): The command processor begins fetching available packets. -/
  | packetFetchStart (q : Nat)
  /-- LAUNCH_PACKET (R393): A fetched LAUNCH packet enters the pending list. -/
  | launchPacket (q : Nat)
  /-- MODE (R394): A MODE packet fetched with the packet that follows it. -/
  | mode (q : Nat)
  /-- CANCEL (R395): A fetched CANCEL removes or ends the launch with its target tag. -/
  | cancel (q : Nat)
  /-- SUMMARY_PACKET (R452): A SUMMARY packet requests the summary record. -/
  | summaryPacket (q : Nat)
  /-- PACKET_RESERVED_OPCODE (R391): A fetched packet with a reserved opcode fails as malformed. -/
  | packetReservedOpcode (q : Nat)
  /-- QUEUE_TAIL_DOORBELL (R390): A tail write makes new packets available. -/
  | queueTailDoorbell (q : Nat) (v : Nat)
  /-- COMPLETION_HEAD_WRITE (R390): The host reports consumed completion entries. -/
  | completionHeadWrite (q : Nat) (v : Nat)
  /-- RING_BASE_WRITE (R390): Writing the ring base resets head and tail to 0. -/
  | ringBaseWrite (q : Nat) (v : Nat)
  /-- COMPLETION_BASE_WRITE (R390): Writing the completion base resets the completion counts. -/
  | completionBaseWrite (q : Nat) (v : Nat)
  /-- HOST_BAR_WRITE (R389): A host write to a BAR register with no row of its own. -/
  | hostBarWrite (off : Nat) (size : Nat) (v : Nat)
  /-- DSTART_WARM (R441): A write of 1 requests a warm start, or is absorbed. -/
  | dstartWarm (v : Nat)
  /-- WARM_START_QUIESCED (R441): After contexts are removed, entries are written and state erased. -/
  | warmStartQuiesced
  /-- DPCAP_WRITE (R459): Sets the power cap within 600 to 2600 W. -/
  | dpcapWrite (v : Nat)
  /-- WORLD_CREATE (R415): Makes a free world pending. -/
  | worldCreate (w : Nat)
  /-- WORLD_DESTROY (R415): Removes a world's contexts, zeroes its memory and erases its keys. -/
  | worldDestroy (w : Nat)
  /-- ASID_CREATE (R415): Creates an empty root table. -/
  | asidCreate (w : Nat) (asid : Nat)
  /-- ASID_DESTROY (R415): Destroys an unused ASID. -/
  | asidDestroy (asid : Nat)
  /-- MAP (R417): Writes a leaf, zeroing protected backings first. -/
  | map (asid : Nat) (va : Nat) (lvl : Nat) (leaf : Nat)
  /-- UNMAP (R413): Clears a leaf after caches and translated items drain. -/
  | unmap (asid : Nat) (va : Nat)
  /-- QUEUE_BIND (R415): Sets a queue's world and ASID. -/
  | queueBind (q : Nat) (w : Nat) (asid : Nat)
  /-- HANDLER_SET (R415): Sets a world's handler region and vector. -/
  | handlerSet (w : Nat) (module : Nat) (vec : Nat)
  /-- PORT_BIND (R436): Binds a Chawick port to a world. -/
  | portBind (port : Nat) (w : Nat)
  /-- REGION_ALLOC (R415): Allocates a QM region. -/
  | regionAlloc (w : Nat) (cls : Nat) (slab : Bool) (home : Nat) (size : Nat) (ety : Nat) (width : Nat) (body : Nat) (side : Nat)
  /-- REGION_FREE (R415): Zeroes and frees an unmapped region. -/
  | regionFree (id : Nat)
  /-- SUMMARY (R452): Mailbox command that writes the summary record. -/
  | summary (addr : Nat) (len : Nat)
  /-- DUMP_ERRORS (R446): Writes error records from a sequence onward. -/
  | dumpErrors (addr : Nat) (first : Nat) (count : Nat)
  /-- MAILBOX_RESERVED_CODE (R415): A mailbox command with a reserved code returns status 1. -/
  | mailboxReservedCode (code : Nat)
  /-- MODULE_LOAD (R72): The host driver asks the loader to load an executable module. -/
  | moduleLoad (asid : Nat) (file : List Byte) (clusters : List Nat)
  /-- MODULE_READY (R72): The loader's fence completes and the module is marked ready. -/
  | moduleReady (h : Nat)
  /-- GET_VERSION (R433): SPDM version request. -/
  | getVersion (sess : Nat) (req : List Byte)
  /-- GET_CAPABILITIES (R433): SPDM capabilities request. -/
  | getCapabilities (sess : Nat) (req : List Byte)
  /-- NEGOTIATE_ALGORITHMS (R433): SPDM algorithm negotiation. -/
  | negotiateAlgorithms (sess : Nat) (req : List Byte)
  /-- GET_DIGESTS (R433): SPDM certificate digests request. -/
  | getDigests (sess : Nat) (req : List Byte)
  /-- GET_CERTIFICATE (R432): Returns the slot 0 certificate chain. -/
  | getCertificate (sess : Nat) (req : List Byte)
  /-- CHALLENGE (R433): SPDM challenge signed with the identity key. -/
  | challenge (sess : Nat) (req : List Byte)
  /-- GET_MEASUREMENTS (R434): Returns measurement blocks 1 to 4. -/
  | getMeasurements (sess : Nat) (req : List Byte)
  /-- KEY_EXCHANGE (R433): Starts an FFDHE3072 secured session. -/
  | keyExchange (sess : Nat) (port : Nat) (peerTag : Nat) (req : List Byte)
  /-- FINISH (R433): Completes a secured session handshake. -/
  | finish (sess : Nat) (req : List Byte)
  /-- HEARTBEAT (R433): SPDM session heartbeat. -/
  | heartbeat (sess : Nat) (req : List Byte)
  /-- KEY_UPDATE (R436): Updates the session data keys. -/
  | keyUpdate (sess : Nat) (req : List Byte)
  /-- END_SESSION (R433): Ends a secured session. -/
  | endSession (sess : Nat) (req : List Byte)
  /-- UNSUPPORTED_REQUEST (R433): Any other SPDM request receives ERROR(UnsupportedRequest). -/
  | unsupportedRequest (sess : Nat) (req : List Byte)
  /-- OWNER_BIND (R416): Binds a pending world to the owner's session. -/
  | ownerBind (w : Nat) (sess : Nat)
  /-- SET_QRATIO (R416): Sets the world's QRATIO before it is live. -/
  | setQratio (w : Nat) (sess : Nat) (v : Nat)
  /-- ALLOW_MODULE (R416): Allows modules with a given table digest. -/
  | allowModule (w : Nat) (sess : Nat) (d : Nat)
  /-- ALLOW_PORT (R416): Permits PORT_BIND of a port to the world. -/
  | allowPort (w : Nat) (sess : Nat) (port : Nat) (peerTag : Nat) (peerWorld : Nat)
  /-- PATH_ASSERT (R416): Records the owner's path assertion. -/
  | pathAssert (w : Nat) (sess : Nat)
  /-- OWNER_SEAL (R416): Makes the world live when its conditions hold. -/
  | ownerSeal (w : Nat) (sess : Nat)
  /-- IDE_KM (R435): Keys the host link IDE stream. -/
  | ideKm (sess : Nat)
  /-- COLD_START (R439): Release of reset by the root of trust begins a cold start. -/
  | coldStart
  /-- PHY_TRAINING (R439): Stage 0x01 ends with the links trained or lost. -/
  | phyTraining (host : Bool) (lost : Nat)
  /-- SELF_TEST (R439): Stage 0x02 ends, retiring seats and losing stacks as found. -/
  | selfTest (ok : Bool) (seats : List (Nat × Nat)) (lostStacks : List Nat)
  /-- QM_SCRUB (R439): Stage 0x03 ends with every unit zeroed with parity. -/
  | qmScrub (lostStacks : List Nat)
  /-- PARITY_VERIFICATION (R439): Stage 0x04 ends after every unit and stripe is checked. -/
  | parityVerification (bad : List (Nat × Nat))
  /-- KEY_DERIVATION (R418): Stage 0x05 ends with keys and the identity key derived. -/
  | keyDerivation (salt : Nat) (fail : Nat)
  /-- FIRMWARE_MEASUREMENT (R439): Stage 0x06 ends with the measurement blocks taken. -/
  | firmwareMeasurement (ok : Bool)
  /-- DEVICE_FATAL_ERROR (R444): A firmware fault or floor-die uncorrectable error occurs. -/
  | deviceFatalError (code : Nat)
  /-- HOST_LINK_DOWN (R458): The host link goes down. -/
  | hostLinkDown
  /-- HOST_LINK_TRAINED (R458): The host link trains again and fetching resumes. -/
  | hostLinkTrained
  /-- IDE_SECURE_STATE_LOSS (R435): The IDE stream leaves its secure state. -/
  | ideSecureStateLoss
  /-- PORT_LINK_DROP (R451): A Chawick port's link drops. -/
  | portLinkDrop (port : Nat)
  /-- PORT_RETRAIN (R451): A port retrain attempt completes or fails. -/
  | portRetrain (port : Nat) (ok : Bool)
  /-- FRAME_TAG_FAILURE (R436): A frame tag fails, ending the session. -/
  | frameTagFailure (port : Nat)
  /-- FRAME_KEY_LIMIT (R436): A key nears 2^30 frames and KEY_UPDATE runs. -/
  | frameKeyLimit (port : Nat)
  /-- JUNCTION_TEMPERATURE (R461): The junction temperature crosses 100, 105 or 120 °C. -/
  | junctionTemperature (t : Nat)
  /-- POWER_ESTIMATE_WINDOW (R461): A 10 µs estimate window ends and duty may fall. -/
  | powerEstimateWindow (work : List (Nat × Nat))
  /-- POWER_MEASURE_WINDOW (R461): A 1 ms measured window ends and duty may fall or rise. -/
  | powerMeasureWindow (watts : Nat)
  /-- ILLEGAL_OPCODE (R42): A fetched word with a reserved major opcode or a reserved FN or FN10 value traps illegal-opcode with no effect. -/
  | illegalOpcode (w : Nat)
  /-- FETCH_BOUND (R227): A fetch of a word outside the code region, or of a word whose page fails translation, traps before any decode; at EVEC this is a fatal fault. -/
  | fetchBound (pc : Nat)
  /-- MISALIGNED_FETCH (R30): A fetch at a PC with bits [1:0] non-zero traps misaligned before any word is decoded. -/
  | misalignedFetch (pc : Nat)
  /-- HOST_READ_RETURN (R301): The non-posted PCIe read of a HOST source chunk, or of an xunseal blob, returns its data so the chunk can proceed. -/
  | hostReadReturn (x : Nat) (k : Nat)
  deriving DecidableEq, Repr

end Sys2Proof
end

