-- ==== Sys2Proof/WellFormed.lean ====
section
/-! DEFINITION. When an instruction is well formed: the values of its fields that no word may hold
(spec/02_instruction_word.md R33; spec/08 R211; spec/09 R234, R235, R237; spec/17 R329). -/

set_option Elab.async false

namespace Sys2Proof

/-- The status register numbers of the map (R235). -/
def srMapped (n : Nat) : Bool :=
  decide (n ≤ 0x16) || (decide (0x18 ≤ n) && decide (n ≤ 0x1E)) || (decide (0x20 ≤ n) && decide (n ≤ 0x35))

/-- The numbers whose access is RW or SRW (R235). -/
def srWritable (n : Nat) : Bool :=
  [0x07, 0x08, 0x09, 0x0C, 0x0D, 0x0E, 0x0F, 0x10, 0x12, 0x13, 0x16, 0x18, 0x19, 0x1A, 0x1B, 0x1C, 0x1D, 0x1E,
    0x21, 0x22, 0x23, 0x24, 0x25, 0x26, 0x28, 0x29, 0x2A, 0x2B, 0x2C, 0x2D, 0x2F, 0x33, 0x34, 0x35].contains n

/-- The writable numbers without a row of their own in the opcode table. -/
def srPlainWritable (n : Nat) : Bool :=
  srWritable n && !([0x07, 0x2C, 0x2F, 0x33, 0x35].contains n)

/-- No word has these field values: an empty kind list of `fence`, an RM on the exact `sfcvtx.d`, a status register
number outside the map or not writable, and `qstx` with the field value that means `qst`. -/
def Instr.wellFormed (i : Instr) : Bool :=
  match i with
  | .fence _ k => k != 0
  | .sfcvtx _ _ r f => f || r == 0
  | .getsr _ n => srMapped n.toNat
  | .putsr _ n => srPlainWritable n.toNat
  | .qstx _ _ q _ => q != 0
  | _ => true

end Sys2Proof
end

