-- ==== Sys2Proof/Decode.lean ====
section
/-! DEFINITION. Decoding and encoding of the instruction word (spec/02_instruction_word.md R29 to R46 and the FN
tables of the owning chapters, which spec/opcode_table.json lists). A word that no row admits decodes to nothing: it
traps illegal-opcode (R33, R36, R42, R44). The numbers of a word are natural numbers; bit 0 is the least significant.
A definition is marked noncomputable only because Lean's code generator builds no constructor past the 244th; the kernel
evaluates every one of them. -/

set_option Elab.async false

namespace Sys2Proof

/-! ### Fields -/

/-- The `n` bits of `w` from bit `lo` upward. -/
def fld (w lo n : Nat) : Nat := w / 2 ^ lo % 2 ^ n

def sreg (n : Nat) : SReg := ⟨n % 32, Nat.mod_lt _ (by decide)⟩
def treg (n : Nat) : TReg := ⟨n % 64, Nat.mod_lt _ (by decide)⟩
def rmf (n : Nat) : RmField := ⟨n % 7, Nat.mod_lt _ (by decide)⟩
def fin4 (n : Nat) : Fin 4 := ⟨n % 4, Nat.mod_lt _ (by decide)⟩
def fin8 (n : Nat) : Fin 8 := ⟨n % 8, Nat.mod_lt _ (by decide)⟩
def bit (n : Nat) : Bool := n % 2 == 1

@[simp] theorem sreg_val (d : SReg) : sreg d.val = d := Fin.ext (Nat.mod_eq_of_lt d.isLt)
@[simp] theorem treg_val (d : TReg) : treg d.val = d := Fin.ext (Nat.mod_eq_of_lt d.isLt)
@[simp] theorem rmf_val (d : RmField) : rmf d.val = d := Fin.ext (Nat.mod_eq_of_lt d.isLt)
@[simp] theorem fin4_val (d : Fin 4) : fin4 d.val = d := Fin.ext (Nat.mod_eq_of_lt d.isLt)
@[simp] theorem fin8_val (d : Fin 8) : fin8 d.val = d := Fin.ext (Nat.mod_eq_of_lt d.isLt)
@[simp] theorem bit_toNat (c : Bool) : bit c.toNat = c := by cases c <;> rfl
theorem bit_lt (c : Bool) : c.toNat < 2 ^ 1 := by cases c <;> decide

/-! ### Words from fields (R31) -/

/-- A word of formats SU and J. -/
def wordSU (c maj x0 x1 : Nat) : Nat :=
  c * 2 ^ 31 + maj * 2 ^ 25 + x0 * 2 ^ 20 + x1

/-- A word of formats SI and B. -/
def wordSI (c maj x0 x1 x2 : Nat) : Nat :=
  c * 2 ^ 31 + maj * 2 ^ 25 + x0 * 2 ^ 20 + x1 * 2 ^ 15 + x2

/-- A word of format SI with the shift split of R222. -/
def wordSH (c maj x0 x1 x2 x3 : Nat) : Nat :=
  c * 2 ^ 31 + maj * 2 ^ 25 + x0 * 2 ^ 20 + x1 * 2 ^ 15 + x2 * 2 ^ 6 + x3

/-- A word of format SI with a status register number. -/
def wordSR (c maj x0 x1 x2 x3 : Nat) : Nat :=
  c * 2 ^ 31 + maj * 2 ^ 25 + x0 * 2 ^ 20 + x1 * 2 ^ 15 + x2 * 2 ^ 12 + x3

/-- A word of format S3. -/
def wordS3 (c maj x0 x1 x2 x3 : Nat) : Nat :=
  c * 2 ^ 31 + maj * 2 ^ 25 + x0 * 2 ^ 20 + x1 * 2 ^ 15 + x2 * 2 ^ 10 + x3

/-- A word of format S3 of major 0x1E (R237). -/
def wordSF (c maj x0 x1 x2 x3 x4 x5 x6 : Nat) : Nat :=
  c * 2 ^ 31 + maj * 2 ^ 25 + x0 * 2 ^ 20 + x1 * 2 ^ 15 + x2 * 2 ^ 10 + x3 * 2 ^ 9 + x4 * 2 ^ 6 + x5 * 2 ^ 5 + x6

/-- A word of format S3 of major 0x1F (R196). -/
def wordSA (c maj x0 x1 x2 x3 x4 x5 x6 x7 : Nat) : Nat :=
  c * 2 ^ 31 + maj * 2 ^ 25 + x0 * 2 ^ 20 + x1 * 2 ^ 15 + x2 * 2 ^ 10 + x3 * 2 ^ 9 + x4 * 2 ^ 7 + x5 * 2 ^ 5 + x6 * 2 ^ 4 + x7

/-- A word of format S3 of major 0x22 (R211, R240). -/
def wordSY (c maj x0 x1 x2 x3 x4 : Nat) : Nat :=
  c * 2 ^ 31 + maj * 2 ^ 25 + x0 * 2 ^ 20 + x1 * 2 ^ 15 + x2 * 2 ^ 10 + x3 * 2 ^ 6 + x4

/-- A word of format TB (R229). -/
def wordTB (c maj x0 x1 x2 : Nat) : Nat :=
  c * 2 ^ 31 + maj * 2 ^ 25 + x0 * 2 ^ 22 + x1 * 2 ^ 19 + x2

/-- A word of formats T3, TS and TI. -/
def wordT3 (c maj x0 x1 x2 x3 x4 : Nat) : Nat :=
  c * 2 ^ 31 + maj * 2 ^ 25 + x0 * 2 ^ 19 + x1 * 2 ^ 13 + x2 * 2 ^ 7 + x3 * 2 ^ 5 + x4

/-- A word of format T3 of major 0x35. -/
def wordMX (c maj x0 x1 x2 x3 x4 x5 : Nat) : Nat :=
  c * 2 ^ 31 + maj * 2 ^ 25 + x0 * 2 ^ 19 + x1 * 2 ^ 13 + x2 * 2 ^ 7 + x3 * 2 ^ 5 + x4 * 2 ^ 4 + x5

/-- A word of format TM of majors 0x31 and 0x32. -/
def wordTM (c maj x0 x1 x2 x3 x4 x5 x6 : Nat) : Nat :=
  c * 2 ^ 31 + maj * 2 ^ 25 + x0 * 2 ^ 19 + x1 * 2 ^ 14 + x2 * 2 ^ 8 + x3 * 2 ^ 7 + x4 * 2 ^ 5 + x5 * 2 ^ 3 + x6

/-- A word of format TM of major 0x33. -/
def wordTC (c maj x0 x1 x2 x3 x4 x5 : Nat) : Nat :=
  c * 2 ^ 31 + maj * 2 ^ 25 + x0 * 2 ^ 19 + x1 * 2 ^ 14 + x2 * 2 ^ 8 + x3 * 2 ^ 7 + x4 * 2 ^ 5 + x5

/-- A word of format X. -/
def wordX (c maj x0 x1 x2 x3 x4 : Nat) : Nat :=
  c * 2 ^ 31 + maj * 2 ^ 25 + x0 * 2 ^ 20 + x1 * 2 ^ 15 + x2 * 2 ^ 10 + x3 * 2 ^ 4 + x4

/-- A word of format Q. -/
def wordQ (c maj x0 x1 x2 x3 x4 : Nat) : Nat :=
  c * 2 ^ 31 + maj * 2 ^ 25 + x0 * 2 ^ 19 + x1 * 2 ^ 13 + x2 * 2 ^ 7 + x3 * 2 ^ 2 + x4

/-! ### The FN tables, major by major -/

/-- Major 0x01, formats SU and J. -/
def dec01 (c x0 x1 : Nat) : Option Instr :=
  if c = 0 then some (.slui (sreg x0) (BitVec.ofNat 20 x1)) else none

/-- Major 0x02, formats SU and J. -/
def dec02 (c x0 x1 : Nat) : Option Instr :=
  if c = 0 then some (.spcrel (sreg x0) (BitVec.ofNat 20 x1)) else none

/-- Major 0x03, formats SU and J. -/
def dec03 (c x0 x1 : Nat) : Option Instr :=
  if c = 0 then some (.sjal (sreg x0) (BitVec.ofNat 20 x1)) else none

/-- Major 0x04, formats SI and B. -/
def dec04 (c x0 x1 x2 : Nat) : Option Instr :=
  if c = 0 then some (.sjalr (sreg x0) (sreg x1) (BitVec.ofNat 15 x2)) else none

/-- Major 0x05, formats SI and B. -/
def dec05 (c x0 x1 x2 : Nat) : Option Instr :=
  if c = 0 then some (.sbeq (sreg x0) (sreg x1) (BitVec.ofNat 15 x2)) else none

/-- Major 0x06, formats SI and B. -/
def dec06 (c x0 x1 x2 : Nat) : Option Instr :=
  if c = 0 then some (.sbne (sreg x0) (sreg x1) (BitVec.ofNat 15 x2)) else none

/-- Major 0x07, formats SI and B. -/
def dec07 (c x0 x1 x2 : Nat) : Option Instr :=
  if c = 0 then some (.sblt (sreg x0) (sreg x1) (BitVec.ofNat 15 x2)) else none

/-- Major 0x08, formats SI and B. -/
def dec08 (c x0 x1 x2 : Nat) : Option Instr :=
  if c = 0 then some (.sbge (sreg x0) (sreg x1) (BitVec.ofNat 15 x2)) else none

/-- Major 0x09, formats SI and B. -/
noncomputable def dec09 (c x0 x1 x2 : Nat) : Option Instr :=
  if c = 0 then some (.sbltn (sreg x0) (sreg x1) (BitVec.ofNat 15 x2)) else none

/-- Major 0x0A, formats SI and B. -/
noncomputable def dec0A (c x0 x1 x2 : Nat) : Option Instr :=
  if c = 0 then some (.sbgen (sreg x0) (sreg x1) (BitVec.ofNat 15 x2)) else none

/-- Major 0x0B, formats SI and B. -/
noncomputable def dec0B (c x0 x1 x2 : Nat) : Option Instr :=
  if c = 0 then some (.saddi (sreg x0) (sreg x1) (BitVec.ofNat 15 x2)) else none

/-- Major 0x0C, formats SI and B. -/
noncomputable def dec0C (c x0 x1 x2 : Nat) : Option Instr :=
  if c = 0 then some (.sandi (sreg x0) (sreg x1) (BitVec.ofNat 15 x2)) else none

/-- Major 0x0D, formats SI and B. -/
noncomputable def dec0D (c x0 x1 x2 : Nat) : Option Instr :=
  if c = 0 then some (.sori (sreg x0) (sreg x1) (BitVec.ofNat 15 x2)) else none

/-- Major 0x0E, formats SI and B. -/
noncomputable def dec0E (c x0 x1 x2 : Nat) : Option Instr :=
  if c = 0 then some (.sxori (sreg x0) (sreg x1) (BitVec.ofNat 15 x2)) else none

/-- Major 0x0F, formats SI and B. -/
noncomputable def dec0F (c x0 x1 x2 : Nat) : Option Instr :=
  if c = 0 then some (.slti (sreg x0) (sreg x1) (BitVec.ofNat 15 x2)) else none

/-- Major 0x10, formats SI and B. -/
noncomputable def dec10 (c x0 x1 x2 : Nat) : Option Instr :=
  if c = 0 then some (.sltin (sreg x0) (sreg x1) (BitVec.ofNat 15 x2)) else none

/-- Major 0x11, format SI with the shift split of R222. -/
noncomputable def dec11 (c x0 x1 x2 x3 : Nat) : Option Instr :=
  match x2 with
  | 0 => if c = 0 then some (.sslli (sreg x0) (sreg x1) (BitVec.ofNat 6 x3)) else none
  | 128 => if c = 0 then some (.ssrli (sreg x0) (sreg x1) (BitVec.ofNat 6 x3)) else none
  | 256 => if c = 0 then some (.ssrai (sreg x0) (sreg x1) (BitVec.ofNat 6 x3)) else none
  | _ => none

/-- Major 0x12, format S3. -/
noncomputable def dec12 (c x0 x1 x2 x3 : Nat) : Option Instr :=
  match x3 with
  | 0 => if c = 0 then some (.sadd (sreg x0) (sreg x1) (sreg x2)) else none
  | 1 => if c = 0 then some (.ssub (sreg x0) (sreg x1) (sreg x2)) else none
  | 2 => if c = 0 then some (.sand (sreg x0) (sreg x1) (sreg x2)) else none
  | 3 => if c = 0 then some (.sor (sreg x0) (sreg x1) (sreg x2)) else none
  | 4 => if c = 0 then some (.sxor (sreg x0) (sreg x1) (sreg x2)) else none
  | 5 => if c = 0 then some (.sandn (sreg x0) (sreg x1) (sreg x2)) else none
  | 6 => if c = 0 then some (.ssll (sreg x0) (sreg x1) (sreg x2)) else none
  | 7 => if c = 0 then some (.ssrl (sreg x0) (sreg x1) (sreg x2)) else none
  | 8 => if c = 0 then some (.ssra (sreg x0) (sreg x1) (sreg x2)) else none
  | 9 => if c = 0 then some (.sslt (sreg x0) (sreg x1) (sreg x2)) else none
  | 10 => if c = 0 then some (.ssltn (sreg x0) (sreg x1) (sreg x2)) else none
  | 11 => if c = 0 then some (.smin (sreg x0) (sreg x1) (sreg x2)) else none
  | 12 => if c = 0 then some (.smax (sreg x0) (sreg x1) (sreg x2)) else none
  | 13 => if c = 0 then some (.sminn (sreg x0) (sreg x1) (sreg x2)) else none
  | 14 => if c = 0 then some (.smaxn (sreg x0) (sreg x1) (sreg x2)) else none
  | 16 => if c = 0 then some (.smul (sreg x0) (sreg x1) (sreg x2)) else none
  | 17 => if c = 0 then some (.smulh (sreg x0) (sreg x1) (sreg x2)) else none
  | 18 => if c = 0 then some (.smulhn (sreg x0) (sreg x1) (sreg x2)) else none
  | 19 => if c = 0 then some (.smulhsu (sreg x0) (sreg x1) (sreg x2)) else none
  | 20 => if c = 0 then some (.sdiv (sreg x0) (sreg x1) (sreg x2)) else none
  | 21 => if c = 0 then some (.sdivn (sreg x0) (sreg x1) (sreg x2)) else none
  | 22 => if c = 0 then some (.srem (sreg x0) (sreg x1) (sreg x2)) else none
  | 23 => if c = 0 then some (.sremn (sreg x0) (sreg x1) (sreg x2)) else none
  | 24 => if c = 0 ∧ x2 = 0 then some (.spopc (sreg x0) (sreg x1)) else none
  | 25 => if c = 0 ∧ x2 = 0 then some (.sclz (sreg x0) (sreg x1)) else none
  | 26 => if c = 0 ∧ x2 = 0 then some (.sctz (sreg x0) (sreg x1)) else none
  | _ => none

/-- Major 0x13, formats SI and B. -/
noncomputable def dec13 (c x0 x1 x2 : Nat) : Option Instr :=
  if c = 0 then some (.sldD (sreg x0) (sreg x1) (BitVec.ofNat 15 x2)) else none

/-- Major 0x14, formats SI and B. -/
noncomputable def dec14 (c x0 x1 x2 : Nat) : Option Instr :=
  if c = 0 then some (.sldW (sreg x0) (sreg x1) (BitVec.ofNat 15 x2)) else none

/-- Major 0x15, formats SI and B. -/
noncomputable def dec15 (c x0 x1 x2 : Nat) : Option Instr :=
  if c = 0 then some (.sldnW (sreg x0) (sreg x1) (BitVec.ofNat 15 x2)) else none

/-- Major 0x16, formats SI and B. -/
noncomputable def dec16 (c x0 x1 x2 : Nat) : Option Instr :=
  if c = 0 then some (.sldH (sreg x0) (sreg x1) (BitVec.ofNat 15 x2)) else none

/-- Major 0x17, formats SI and B. -/
noncomputable def dec17 (c x0 x1 x2 : Nat) : Option Instr :=
  if c = 0 then some (.sldnH (sreg x0) (sreg x1) (BitVec.ofNat 15 x2)) else none

/-- Major 0x18, formats SI and B. -/
noncomputable def dec18 (c x0 x1 x2 : Nat) : Option Instr :=
  if c = 0 then some (.sldB (sreg x0) (sreg x1) (BitVec.ofNat 15 x2)) else none

/-- Major 0x19, formats SI and B. -/
noncomputable def dec19 (c x0 x1 x2 : Nat) : Option Instr :=
  if c = 0 then some (.sldnB (sreg x0) (sreg x1) (BitVec.ofNat 15 x2)) else none

/-- Major 0x1A, formats SI and B. -/
noncomputable def dec1A (c x0 x1 x2 : Nat) : Option Instr :=
  if c = 0 then some (.sstD (sreg x0) (sreg x1) (BitVec.ofNat 15 x2)) else none

/-- Major 0x1B, formats SI and B. -/
noncomputable def dec1B (c x0 x1 x2 : Nat) : Option Instr :=
  if c = 0 then some (.sstW (sreg x0) (sreg x1) (BitVec.ofNat 15 x2)) else none

/-- Major 0x1C, formats SI and B. -/
noncomputable def dec1C (c x0 x1 x2 : Nat) : Option Instr :=
  if c = 0 then some (.sstH (sreg x0) (sreg x1) (BitVec.ofNat 15 x2)) else none

/-- Major 0x1D, formats SI and B. -/
noncomputable def dec1D (c x0 x1 x2 : Nat) : Option Instr :=
  if c = 0 then some (.sstB (sreg x0) (sreg x1) (BitVec.ofNat 15 x2)) else none

/-- Major 0x1E, format S3 of major 0x1E (R237). -/
noncomputable def dec1E (c x0 x1 x2 x3 x4 x5 x6 : Nat) : Option Instr :=
  match x6 with
  | 0 => if c = 0 ∧ x3 = 0 ∧ x4 < 7 then some (.sfadd (sreg x0) (sreg x1) (sreg x2) (rmf x4) (bit x5)) else none
  | 1 => if c = 0 ∧ x3 = 0 ∧ x4 < 7 then some (.sfsub (sreg x0) (sreg x1) (sreg x2) (rmf x4) (bit x5)) else none
  | 2 => if c = 0 ∧ x3 = 0 ∧ x4 < 7 then some (.sfmul (sreg x0) (sreg x1) (sreg x2) (rmf x4) (bit x5)) else none
  | 3 => if c = 0 ∧ x3 = 0 ∧ x4 < 7 then some (.sfdiv (sreg x0) (sreg x1) (sreg x2) (rmf x4) (bit x5)) else none
  | 4 => if c = 0 ∧ x2 = 0 ∧ x3 = 0 ∧ x4 < 7 then some (.sfsqrt (sreg x0) (sreg x1) (rmf x4) (bit x5)) else none
  | 5 => if c = 0 ∧ x3 = 0 ∧ x4 = 0 then some (.sfmin (sreg x0) (sreg x1) (sreg x2) (bit x5)) else none
  | 6 => if c = 0 ∧ x3 = 0 ∧ x4 = 0 then some (.sfmax (sreg x0) (sreg x1) (sreg x2) (bit x5)) else none
  | 7 => if c = 0 ∧ x3 = 0 ∧ x4 < 7 then some (.sfma (sreg x0) (sreg x1) (sreg x2) (rmf x4) (bit x5)) else none
  | 8 => if c = 0 ∧ x3 = 0 ∧ x4 = 0 then some (.sfsignc (sreg x0) (sreg x1) (sreg x2) (bit x5)) else none
  | 9 => if c = 0 ∧ x3 = 0 ∧ x4 = 0 then some (.sfsignn (sreg x0) (sreg x1) (sreg x2) (bit x5)) else none
  | 10 => if c = 0 ∧ x3 = 0 ∧ x4 = 0 then some (.sfsignx (sreg x0) (sreg x1) (sreg x2) (bit x5)) else none
  | 11 => if c = 0 ∧ x3 = 0 ∧ x4 = 0 then some (.sfeq (sreg x0) (sreg x1) (sreg x2) (bit x5)) else none
  | 12 => if c = 0 ∧ x3 = 0 ∧ x4 = 0 then some (.sflt (sreg x0) (sreg x1) (sreg x2) (bit x5)) else none
  | 13 => if c = 0 ∧ x3 = 0 ∧ x4 = 0 then some (.sfle (sreg x0) (sreg x1) (sreg x2) (bit x5)) else none
  | 14 => if c = 0 ∧ x2 = 0 ∧ x3 = 0 ∧ x4 < 7 then some (.sfcvti (sreg x0) (sreg x1) (rmf x4) (bit x5)) else none
  | 15 => if c = 0 ∧ x2 = 0 ∧ x3 = 0 ∧ x4 < 7 then some (.sfcvtn (sreg x0) (sreg x1) (rmf x4) (bit x5)) else none
  | 16 => if c = 0 ∧ x2 = 0 ∧ x3 = 0 ∧ x4 < 7 then some (.sicvtf (sreg x0) (sreg x1) (rmf x4) (bit x5)) else none
  | 17 => if c = 0 ∧ x2 = 0 ∧ x3 = 0 ∧ x4 < 7 then some (.sncvtf (sreg x0) (sreg x1) (rmf x4) (bit x5)) else none
  | 18 => if c = 0 ∧ x2 = 0 ∧ x3 = 0 ∧ x4 < 7 ∧ (x5 = 1 ∨ x4 = 0) then some (.sfcvtx (sreg x0) (sreg x1) (rmf x4) (bit x5)) else none
  | _ => none

/-- Major 0x1F, format S3 of major 0x1F (R196). -/
noncomputable def dec1F (c x0 x1 x2 x3 x4 x5 x6 x7 : Nat) : Option Instr :=
  match x7 with
  | 0 => if c = 0 ∧ x3 = 0 then some (.samoAdd (sreg x0) (sreg x1) (sreg x2) (fin4 x4) (fin4 x5) (bit x6)) else none
  | 1 => if c = 0 ∧ x3 = 0 then some (.samoAnd (sreg x0) (sreg x1) (sreg x2) (fin4 x4) (fin4 x5) (bit x6)) else none
  | 2 => if c = 0 ∧ x3 = 0 then some (.samoOr (sreg x0) (sreg x1) (sreg x2) (fin4 x4) (fin4 x5) (bit x6)) else none
  | 3 => if c = 0 ∧ x3 = 0 then some (.samoXor (sreg x0) (sreg x1) (sreg x2) (fin4 x4) (fin4 x5) (bit x6)) else none
  | 4 => if c = 0 ∧ x3 = 0 then some (.samoSwap (sreg x0) (sreg x1) (sreg x2) (fin4 x4) (fin4 x5) (bit x6)) else none
  | 5 => if c = 0 ∧ x3 = 0 then some (.samoMin (sreg x0) (sreg x1) (sreg x2) (fin4 x4) (fin4 x5) (bit x6)) else none
  | 6 => if c = 0 ∧ x3 = 0 then some (.samoMax (sreg x0) (sreg x1) (sreg x2) (fin4 x4) (fin4 x5) (bit x6)) else none
  | 7 => if c = 0 ∧ x3 = 0 then some (.samoMinn (sreg x0) (sreg x1) (sreg x2) (fin4 x4) (fin4 x5) (bit x6)) else none
  | 8 => if c = 0 ∧ x3 = 0 then some (.samoMaxn (sreg x0) (sreg x1) (sreg x2) (fin4 x4) (fin4 x5) (bit x6)) else none
  | 9 => if c = 0 ∧ x3 = 0 then some (.samoCas (sreg x0) (sreg x1) (sreg x2) (fin4 x4) (fin4 x5) (bit x6)) else none
  | _ => none

/-- Major 0x20, format SI with a status register number. -/
def dec20 (c x0 x1 x2 x3 : Nat) : Option Instr :=
  if c = 0 ∧ x1 = 0 ∧ x2 = 0 ∧ srMapped x3 = true then some (.getsr (sreg x0) (BitVec.ofNat 12 x3)) else none

/-- Major 0x21 (R234): the registers with a row of their own first. Writing `EAFQR` is one word; the value written
selects resume or discard (R375). -/
def dec21 (c x0 x1 x2 x3 : Nat) : Option Instr :=
  if c = 0 ∧ x0 = 0 ∧ x2 = 0 then
    match x3 with
    | 7 => some (.putsrFlags (sreg x1))
    | 44 => some (.putsrEafq (sreg x1))
    | 51 => some (.putsrEafqrResume (sreg x1))
    | 53 => some (.putsrQrmv (sreg x1))
    | 47 => some (.putsrQewin (sreg x1))
    | n => if srPlainWritable n = true then some (.putsr (sreg x1) (BitVec.ofNat 12 n)) else none
  else none

/-- Major 0x22, format S3 of major 0x22 (R211, R240). -/
def dec22 (c x0 x1 x2 x3 x4 : Nat) : Option Instr :=
  match x3 with
  | 0 => if c = 0 ∧ x0 = 0 ∧ x1 = 0 ∧ x2 = 0 ∧ x4 % 16 ≠ 0 then some (.fence (fin4 (x4 / 16)) (BitVec.ofNat 4 (x4 % 16))) else none
  | 1 => if c = 0 ∧ x0 = 0 ∧ x1 = 0 ∧ x2 = 0 ∧ x4 = 0 then some (.bar) else none
  | 2 =>
    if c = 0 ∧ x4 = 0 then some (.waitEq (sreg x0) (sreg x1) (sreg x2)) else
    if c = 0 ∧ x4 = 16 then some (.waitNe (sreg x0) (sreg x1) (sreg x2)) else
    if c = 0 ∧ x4 = 32 then some (.waitGeu (sreg x0) (sreg x1) (sreg x2)) else
    if c = 0 ∧ x4 = 48 then some (.waitAny (sreg x0) (sreg x1) (sreg x2)) else
    none
  | 3 => if c = 0 ∧ x0 = 0 then some (.pwait (sreg x1) (sreg x2) (treg x4)) else none
  | 4 => if c = 0 ∧ x2 = 0 ∧ x4 = 0 then some (.wmpub (sreg x0) (sreg x1)) else none
  | 8 => if c = 0 ∧ x0 = 0 ∧ x1 = 0 ∧ x2 = 0 then some (.trap (BitVec.ofNat 6 x4)) else none
  | 9 => if c = 0 ∧ x0 = 0 ∧ x1 = 0 ∧ x2 = 0 ∧ x4 = 0 then some (.halt) else none
  | 10 => if c = 0 ∧ x0 = 0 ∧ x1 = 0 ∧ x2 = 0 ∧ x4 = 0 then some (.eret) else none
  | 11 => if c = 0 ∧ x0 = 0 ∧ x1 = 0 ∧ x2 = 0 ∧ x4 = 0 then some (.yield) else none
  | 12 => if c = 0 ∧ x4 = 0 then some (.launch (sreg x0) (sreg x1) (sreg x2)) else none
  | _ => none

/-- Major 0x23, format S3. -/
def dec23 (c x0 x1 x2 x3 : Nat) : Option Instr :=
  match x3 with
  | 0 => if c = 0 then some (.setvl (sreg x0) (sreg x1) (sreg x2)) else none
  | 1 => if c = 0 ∧ x2 = 0 then some (.setvlG (sreg x0) (sreg x1)) else none
  | 2 => if c = 0 then some (.setvlw (sreg x0) (sreg x1) (sreg x2)) else none
  | 3 => if c = 0 ∧ x2 = 0 then some (.settype (sreg x0) (sreg x1)) else none
  | 4 => if c = 0 ∧ x2 = 0 then some (.reseat (sreg x0) (sreg x1)) else none
  | 5 => if c = 0 ∧ x2 = 0 then some (.allot (sreg x0) (sreg x1)) else none
  | _ => none

/-- Major 0x24, formats T3, TS and TI. -/
def dec24 (c x0 x1 x2 x3 x4 : Nat) : Option Instr :=
  match x4 with
  | 0 => some (.tadd (bit c) (treg x0) (treg x1) (treg x2) (MaskMode.ofCode x3))
  | 1 => some (.tsub (bit c) (treg x0) (treg x1) (treg x2) (MaskMode.ofCode x3))
  | 2 => some (.tand (bit c) (treg x0) (treg x1) (treg x2) (MaskMode.ofCode x3))
  | 3 => some (.tor (bit c) (treg x0) (treg x1) (treg x2) (MaskMode.ofCode x3))
  | 4 => some (.txor (bit c) (treg x0) (treg x1) (treg x2) (MaskMode.ofCode x3))
  | 5 => some (.tandn (bit c) (treg x0) (treg x1) (treg x2) (MaskMode.ofCode x3))
  | 6 => some (.tmin (bit c) (treg x0) (treg x1) (treg x2) (MaskMode.ofCode x3))
  | 7 => some (.tmax (bit c) (treg x0) (treg x1) (treg x2) (MaskMode.ofCode x3))
  | 8 => some (.tsll (bit c) (treg x0) (treg x1) (treg x2) (MaskMode.ofCode x3))
  | 9 => some (.tsrl (bit c) (treg x0) (treg x1) (treg x2) (MaskMode.ofCode x3))
  | 10 => some (.tsra (bit c) (treg x0) (treg x1) (treg x2) (MaskMode.ofCode x3))
  | 11 => some (.tmul (bit c) (treg x0) (treg x1) (treg x2) (MaskMode.ofCode x3))
  | 12 => some (.tmulh (bit c) (treg x0) (treg x1) (treg x2) (MaskMode.ofCode x3))
  | 13 => some (.tmulhsu (bit c) (treg x0) (treg x1) (treg x2) (MaskMode.ofCode x3))
  | 14 => some (.tdiv (bit c) (treg x0) (treg x1) (treg x2) (MaskMode.ofCode x3))
  | 15 => some (.trem (bit c) (treg x0) (treg x1) (treg x2) (MaskMode.ofCode x3))
  | 16 => if x3 = 0 then some (.tsel (bit c) (treg x0) (treg x1) (treg x2)) else none
  | 17 => if x2 = 0 then some (.tmov (bit c) (treg x0) (treg x1) (MaskMode.ofCode x3)) else none
  | 18 => if x1 = 0 ∧ x2 = 0 then some (.tiota (bit c) (treg x0) (MaskMode.ofCode x3)) else none
  | _ => none

/-- Major 0x25, formats T3, TS and TI. -/
def dec25 (c x0 x1 x2 x3 x4 : Nat) : Option Instr :=
  match x4 with
  | 0 => if x2 % 2 = 0 then some (.taddS (bit c) (treg x0) (treg x1) (sreg (x2 / 2)) (MaskMode.ofCode x3)) else none
  | 1 => if x2 % 2 = 0 then some (.tsubS (bit c) (treg x0) (treg x1) (sreg (x2 / 2)) (MaskMode.ofCode x3)) else none
  | 2 => if x2 % 2 = 0 then some (.tandS (bit c) (treg x0) (treg x1) (sreg (x2 / 2)) (MaskMode.ofCode x3)) else none
  | 3 => if x2 % 2 = 0 then some (.torS (bit c) (treg x0) (treg x1) (sreg (x2 / 2)) (MaskMode.ofCode x3)) else none
  | 4 => if x2 % 2 = 0 then some (.txorS (bit c) (treg x0) (treg x1) (sreg (x2 / 2)) (MaskMode.ofCode x3)) else none
  | 5 => if x2 % 2 = 0 then some (.tandnS (bit c) (treg x0) (treg x1) (sreg (x2 / 2)) (MaskMode.ofCode x3)) else none
  | 6 => if x2 % 2 = 0 then some (.tminS (bit c) (treg x0) (treg x1) (sreg (x2 / 2)) (MaskMode.ofCode x3)) else none
  | 7 => if x2 % 2 = 0 then some (.tmaxS (bit c) (treg x0) (treg x1) (sreg (x2 / 2)) (MaskMode.ofCode x3)) else none
  | 8 => if x2 % 2 = 0 then some (.tsllS (bit c) (treg x0) (treg x1) (sreg (x2 / 2)) (MaskMode.ofCode x3)) else none
  | 9 => if x2 % 2 = 0 then some (.tsrlS (bit c) (treg x0) (treg x1) (sreg (x2 / 2)) (MaskMode.ofCode x3)) else none
  | 10 => if x2 % 2 = 0 then some (.tsraS (bit c) (treg x0) (treg x1) (sreg (x2 / 2)) (MaskMode.ofCode x3)) else none
  | 11 => if x2 % 2 = 0 then some (.tmulS (bit c) (treg x0) (treg x1) (sreg (x2 / 2)) (MaskMode.ofCode x3)) else none
  | 12 => if x2 % 2 = 0 then some (.tmulhS (bit c) (treg x0) (treg x1) (sreg (x2 / 2)) (MaskMode.ofCode x3)) else none
  | 13 => if x2 % 2 = 0 then some (.tmulhsuS (bit c) (treg x0) (treg x1) (sreg (x2 / 2)) (MaskMode.ofCode x3)) else none
  | 14 => if x2 % 2 = 0 then some (.tdivS (bit c) (treg x0) (treg x1) (sreg (x2 / 2)) (MaskMode.ofCode x3)) else none
  | 15 => if x2 % 2 = 0 then some (.tremS (bit c) (treg x0) (treg x1) (sreg (x2 / 2)) (MaskMode.ofCode x3)) else none
  | 16 => if x1 = 0 ∧ x2 % 2 = 0 then some (.tsplat (bit c) (treg x0) (sreg (x2 / 2)) (MaskMode.ofCode x3)) else none
  | 17 => if x2 % 2 = 0 then some (.trsubS (bit c) (treg x0) (treg x1) (sreg (x2 / 2)) (MaskMode.ofCode x3)) else none
  | 18 => if x2 % 2 = 0 ∧ x3 = 0 then some (.tselS (bit c) (treg x0) (treg x1) (sreg (x2 / 2))) else none
  | _ => none

/-- Major 0x26, formats T3, TS and TI. -/
def dec26 (c x0 x1 x2 x3 x4 : Nat) : Option Instr :=
  match x4 with
  | 0 => some (.taddI (bit c) (treg x0) (treg x1) (BitVec.ofNat 6 x2) (MaskMode.ofCode x3))
  | 2 => some (.tandI (bit c) (treg x0) (treg x1) (BitVec.ofNat 6 x2) (MaskMode.ofCode x3))
  | 3 => some (.torI (bit c) (treg x0) (treg x1) (BitVec.ofNat 6 x2) (MaskMode.ofCode x3))
  | 4 => some (.txorI (bit c) (treg x0) (treg x1) (BitVec.ofNat 6 x2) (MaskMode.ofCode x3))
  | 6 => some (.tminI (bit c) (treg x0) (treg x1) (BitVec.ofNat 6 x2) (MaskMode.ofCode x3))
  | 7 => some (.tmaxI (bit c) (treg x0) (treg x1) (BitVec.ofNat 6 x2) (MaskMode.ofCode x3))
  | 8 => some (.tsllI (bit c) (treg x0) (treg x1) (BitVec.ofNat 6 x2) (MaskMode.ofCode x3))
  | 9 => some (.tsrlI (bit c) (treg x0) (treg x1) (BitVec.ofNat 6 x2) (MaskMode.ofCode x3))
  | 10 => some (.tsraI (bit c) (treg x0) (treg x1) (BitVec.ofNat 6 x2) (MaskMode.ofCode x3))
  | 16 => if x1 = 0 then some (.tsplatI (bit c) (treg x0) (BitVec.ofNat 6 x2) (MaskMode.ofCode x3)) else none
  | 17 => some (.trsubI (bit c) (treg x0) (treg x1) (BitVec.ofNat 6 x2) (MaskMode.ofCode x3))
  | _ => none

/-- Major 0x27, formats T3, TS and TI. -/
def dec27 (c x0 x1 x2 x3 x4 : Nat) : Option Instr :=
  match x4 with
  | 0 => some (.tfadd (bit c) (treg x0) (treg x1) (treg x2) (MaskMode.ofCode x3))
  | 1 => some (.tfsub (bit c) (treg x0) (treg x1) (treg x2) (MaskMode.ofCode x3))
  | 2 => some (.tfmul (bit c) (treg x0) (treg x1) (treg x2) (MaskMode.ofCode x3))
  | 3 => some (.tfdiv (bit c) (treg x0) (treg x1) (treg x2) (MaskMode.ofCode x3))
  | 4 => some (.tfmin (bit c) (treg x0) (treg x1) (treg x2) (MaskMode.ofCode x3))
  | 5 => some (.tfmax (bit c) (treg x0) (treg x1) (treg x2) (MaskMode.ofCode x3))
  | 6 => if x2 = 0 then some (.tfsqrt (bit c) (treg x0) (treg x1) (MaskMode.ofCode x3)) else none
  | 7 => if x2 = 0 then some (.tfrsqe (bit c) (treg x0) (treg x1) (MaskMode.ofCode x3)) else none
  | 8 => if x2 = 0 then some (.tfrece (bit c) (treg x0) (treg x1) (MaskMode.ofCode x3)) else none
  | 9 => some (.tfsignc (bit c) (treg x0) (treg x1) (treg x2) (MaskMode.ofCode x3))
  | 10 => some (.tfsignn (bit c) (treg x0) (treg x1) (treg x2) (MaskMode.ofCode x3))
  | 11 => some (.tfsignx (bit c) (treg x0) (treg x1) (treg x2) (MaskMode.ofCode x3))
  | 12 => some (.tfma (bit c) (treg x0) (treg x1) (treg x2) (MaskMode.ofCode x3))
  | 13 => some (.tfms (bit c) (treg x0) (treg x1) (treg x2) (MaskMode.ofCode x3))
  | 14 => some (.tfnma (bit c) (treg x0) (treg x1) (treg x2) (MaskMode.ofCode x3))
  | 15 => some (.tfnms (bit c) (treg x0) (treg x1) (treg x2) (MaskMode.ofCode x3))
  | _ => none

/-- Major 0x28, formats T3, TS and TI. -/
def dec28 (c x0 x1 x2 x3 x4 : Nat) : Option Instr :=
  match x4 with
  | 0 => if x2 % 2 = 0 then some (.tfaddS (bit c) (treg x0) (treg x1) (sreg (x2 / 2)) (MaskMode.ofCode x3)) else none
  | 1 => if x2 % 2 = 0 then some (.tfsubS (bit c) (treg x0) (treg x1) (sreg (x2 / 2)) (MaskMode.ofCode x3)) else none
  | 2 => if x2 % 2 = 0 then some (.tfmulS (bit c) (treg x0) (treg x1) (sreg (x2 / 2)) (MaskMode.ofCode x3)) else none
  | 3 => if x2 % 2 = 0 then some (.tfdivS (bit c) (treg x0) (treg x1) (sreg (x2 / 2)) (MaskMode.ofCode x3)) else none
  | 4 => if x2 % 2 = 0 then some (.tfminS (bit c) (treg x0) (treg x1) (sreg (x2 / 2)) (MaskMode.ofCode x3)) else none
  | 5 => if x2 % 2 = 0 then some (.tfmaxS (bit c) (treg x0) (treg x1) (sreg (x2 / 2)) (MaskMode.ofCode x3)) else none
  | 9 => if x2 % 2 = 0 then some (.tfsigncS (bit c) (treg x0) (treg x1) (sreg (x2 / 2)) (MaskMode.ofCode x3)) else none
  | 10 => if x2 % 2 = 0 then some (.tfsignnS (bit c) (treg x0) (treg x1) (sreg (x2 / 2)) (MaskMode.ofCode x3)) else none
  | 11 => if x2 % 2 = 0 then some (.tfsignxS (bit c) (treg x0) (treg x1) (sreg (x2 / 2)) (MaskMode.ofCode x3)) else none
  | 12 => if x2 % 2 = 0 then some (.tfmaS (bit c) (treg x0) (treg x1) (sreg (x2 / 2)) (MaskMode.ofCode x3)) else none
  | 13 => if x2 % 2 = 0 then some (.tfmsS (bit c) (treg x0) (treg x1) (sreg (x2 / 2)) (MaskMode.ofCode x3)) else none
  | 14 => if x2 % 2 = 0 then some (.tfnmaS (bit c) (treg x0) (treg x1) (sreg (x2 / 2)) (MaskMode.ofCode x3)) else none
  | 15 => if x2 % 2 = 0 then some (.tfnmsS (bit c) (treg x0) (treg x1) (sreg (x2 / 2)) (MaskMode.ofCode x3)) else none
  | 16 => if x2 % 2 = 0 then some (.tfrsubS (bit c) (treg x0) (treg x1) (sreg (x2 / 2)) (MaskMode.ofCode x3)) else none
  | 17 => if x2 % 2 = 0 then some (.tfrdivS (bit c) (treg x0) (treg x1) (sreg (x2 / 2)) (MaskMode.ofCode x3)) else none
  | _ => none

/-- Major 0x29, formats T3, TS and TI. -/
def dec29 (c x0 x1 x2 x3 x4 : Nat) : Option Instr :=
  match x4 with
  | 0 => some (.tceq (bit c) (treg x0) (treg x1) (treg x2) (MaskMode.ofCode x3))
  | 1 => some (.tcne (bit c) (treg x0) (treg x1) (treg x2) (MaskMode.ofCode x3))
  | 2 => some (.tclt (bit c) (treg x0) (treg x1) (treg x2) (MaskMode.ofCode x3))
  | 3 => some (.tcle (bit c) (treg x0) (treg x1) (treg x2) (MaskMode.ofCode x3))
  | 4 => some (.tcgt (bit c) (treg x0) (treg x1) (treg x2) (MaskMode.ofCode x3))
  | 5 => some (.tcge (bit c) (treg x0) (treg x1) (treg x2) (MaskMode.ofCode x3))
  | 6 => some (.tcun (bit c) (treg x0) (treg x1) (treg x2) (MaskMode.ofCode x3))
  | _ => none

/-- Major 0x2A, formats T3, TS and TI. -/
def dec2A (c x0 x1 x2 x3 x4 : Nat) : Option Instr :=
  match x4 with
  | 0 => if x2 % 2 = 0 then some (.tceqS (bit c) (treg x0) (treg x1) (sreg (x2 / 2)) (MaskMode.ofCode x3)) else none
  | 1 => if x2 % 2 = 0 then some (.tcneS (bit c) (treg x0) (treg x1) (sreg (x2 / 2)) (MaskMode.ofCode x3)) else none
  | 2 => if x2 % 2 = 0 then some (.tcltS (bit c) (treg x0) (treg x1) (sreg (x2 / 2)) (MaskMode.ofCode x3)) else none
  | 3 => if x2 % 2 = 0 then some (.tcleS (bit c) (treg x0) (treg x1) (sreg (x2 / 2)) (MaskMode.ofCode x3)) else none
  | 4 => if x2 % 2 = 0 then some (.tcgtS (bit c) (treg x0) (treg x1) (sreg (x2 / 2)) (MaskMode.ofCode x3)) else none
  | 5 => if x2 % 2 = 0 then some (.tcgeS (bit c) (treg x0) (treg x1) (sreg (x2 / 2)) (MaskMode.ofCode x3)) else none
  | 6 => if x2 % 2 = 0 then some (.tcunS (bit c) (treg x0) (treg x1) (sreg (x2 / 2)) (MaskMode.ofCode x3)) else none
  | _ => none

/-- Major 0x2B, formats T3, TS and TI. -/
def dec2B (c x0 x1 x2 x3 x4 : Nat) : Option Instr :=
  match x4 with
  | 0 => some (.tsadd (bit c) (treg x0) (treg x1) (treg x2) (MaskMode.ofCode x3))
  | 1 => some (.tssub (bit c) (treg x0) (treg x1) (treg x2) (MaskMode.ofCode x3))
  | 2 => some (.tavg (bit c) (treg x0) (treg x1) (treg x2) (MaskMode.ofCode x3))
  | 3 => some (.tavgsub (bit c) (treg x0) (treg x1) (treg x2) (MaskMode.ofCode x3))
  | 4 => some (.tsmul (bit c) (treg x0) (treg x1) (treg x2) (MaskMode.ofCode x3))
  | 5 => some (.twadd (bit c) (treg x0) (treg x1) (treg x2) (MaskMode.ofCode x3))
  | 6 => some (.twsub (bit c) (treg x0) (treg x1) (treg x2) (MaskMode.ofCode x3))
  | 7 => some (.twmul (bit c) (treg x0) (treg x1) (treg x2) (MaskMode.ofCode x3))
  | 8 => some (.twmacc (bit c) (treg x0) (treg x1) (treg x2) (MaskMode.ofCode x3))
  | 9 => some (.tnshr (bit c) (treg x0) (treg x1) (treg x2) (MaskMode.ofCode x3))
  | _ => none

/-- Major 0x2C, formats T3, TS and TI. -/
def dec2C (c x0 x1 x2 x3 x4 : Nat) : Option Instr :=
  match x4 with
  | 0 => some (.tcvt (bit c) (treg x0) (treg x1) (treg x2) (MaskMode.ofCode x3))
  | 1 => some (.tcvtn (bit c) (treg x0) (treg x1) (treg x2) (MaskMode.ofCode x3))
  | 2 => some (.tcvtw (bit c) (treg x0) (treg x1) (treg x2) (MaskMode.ofCode x3))
  | 3 => if x2 = 0 then some (.tcvte (bit c) (treg x0) (treg x1) (MaskMode.ofCode x3)) else none
  | 4 => if x2 = 0 then some (.tscale (bit c) (treg x0) (treg x1) (MaskMode.ofCode x3)) else none
  | 5 => some (.tcvtns (bit c) (treg x0) (treg x1) (treg x2) (MaskMode.ofCode x3))
  | 6 => if x2 = 0 then some (.tcvtes (bit c) (treg x0) (treg x1) (MaskMode.ofCode x3)) else none
  | 7 => some (.tmxscale (bit c) (treg x0) (treg x1) (treg x2) (MaskMode.ofCode x3))
  | 8 => some (.tmxscaleB (bit c) (treg x0) (treg x1) (treg x2) (MaskMode.ofCode x3))
  | _ => none

/-- Major 0x2D, formats T3, TS and TI. -/
def dec2D (c x0 x1 x2 x3 x4 : Nat) : Option Instr :=
  match x4 with
  | 0 => some (.tredsum (bit c) (treg x0) (treg x1) (treg x2) (MaskMode.ofCode x3))
  | 1 => some (.tredosum (bit c) (treg x0) (treg x1) (treg x2) (MaskMode.ofCode x3))
  | 2 => if x2 = 0 then some (.tredgsum (bit c) (treg x0) (treg x1) (MaskMode.ofCode x3)) else none
  | 3 => some (.tscan (bit c) (treg x0) (treg x1) (treg x2) (MaskMode.ofCode x3))
  | 4 => some (.tredmax (bit c) (treg x0) (treg x1) (treg x2) (MaskMode.ofCode x3))
  | 5 => some (.tredmin (bit c) (treg x0) (treg x1) (treg x2) (MaskMode.ofCode x3))
  | 6 => some (.tredmaxi (bit c) (treg x0) (treg x1) (treg x2) (MaskMode.ofCode x3))
  | 7 => some (.tredmini (bit c) (treg x0) (treg x1) (treg x2) (MaskMode.ofCode x3))
  | 8 => some (.tredand (bit c) (treg x0) (treg x1) (treg x2) (MaskMode.ofCode x3))
  | 9 => some (.tredor (bit c) (treg x0) (treg x1) (treg x2) (MaskMode.ofCode x3))
  | 10 => some (.tredxor (bit c) (treg x0) (treg x1) (treg x2) (MaskMode.ofCode x3))
  | _ => none

/-- Major 0x2E, formats T3, TS and TI. -/
def dec2E (c x0 x1 x2 x3 x4 : Nat) : Option Instr :=
  match x4 with
  | 0 => if x2 = 0 then some (.tcompress (bit c) (treg x0) (treg x1) (MaskMode.ofCode x3)) else none
  | 1 => if x2 = 0 then some (.texpand (bit c) (treg x0) (treg x1) (MaskMode.ofCode x3)) else none
  | 2 => some (.tslideup (bit c) (treg x0) (treg x1) (BitVec.ofNat 6 x2) (MaskMode.ofCode x3))
  | 3 => some (.tslidedn (bit c) (treg x0) (treg x1) (BitVec.ofNat 6 x2) (MaskMode.ofCode x3))
  | 4 => if x2 % 2 = 0 then some (.tslideupS (bit c) (treg x0) (treg x1) (sreg (x2 / 2)) (MaskMode.ofCode x3)) else none
  | 5 => if x2 % 2 = 0 then some (.tslidednS (bit c) (treg x0) (treg x1) (sreg (x2 / 2)) (MaskMode.ofCode x3)) else none
  | 6 => some (.trgather (bit c) (treg x0) (treg x1) (treg x2) (MaskMode.ofCode x3))
  | 7 => if x2 = 0 then some (.ttrans (bit c) (treg x0) (treg x1) (MaskMode.ofCode x3)) else none
  | 8 => if x2 = 0 then some (.trowbc (bit c) (treg x0) (treg x1) (MaskMode.ofCode x3)) else none
  | 9 => if x2 = 0 then some (.tcolbc (bit c) (treg x0) (treg x1) (MaskMode.ofCode x3)) else none
  | 10 => if x0 % 2 = 0 ∧ x2 = 0 ∧ x3 = 0 then some (.textr (bit c) (sreg (x0 / 2)) (treg x1)) else none
  | _ => none

/-- Major 0x2F, formats T3, TS and TI. -/
def dec2F (c x0 x1 x2 x3 x4 : Nat) : Option Instr :=
  match x4 with
  | 0 => some (.tmand (bit c) (treg x0) (treg x1) (treg x2) (MaskMode.ofCode x3))
  | 1 => some (.tmor (bit c) (treg x0) (treg x1) (treg x2) (MaskMode.ofCode x3))
  | 2 => some (.tmxor (bit c) (treg x0) (treg x1) (treg x2) (MaskMode.ofCode x3))
  | 3 => some (.tmandn (bit c) (treg x0) (treg x1) (treg x2) (MaskMode.ofCode x3))
  | 4 => if x2 = 0 then some (.tmnot (bit c) (treg x0) (treg x1) (MaskMode.ofCode x3)) else none
  | 5 => if x2 = 0 then some (.tmbefore (bit c) (treg x0) (treg x1) (MaskMode.ofCode x3)) else none
  | 6 => if x2 = 0 then some (.tmthrough (bit c) (treg x0) (treg x1) (MaskMode.ofCode x3)) else none
  | 7 => if x2 = 0 then some (.tmonly (bit c) (treg x0) (treg x1) (MaskMode.ofCode x3)) else none
  | 8 => if x0 % 2 = 0 ∧ x2 = 0 then some (.tmpop (bit c) (sreg (x0 / 2)) (treg x1) (MaskMode.ofCode x3)) else none
  | 9 => if x0 % 2 = 0 ∧ x2 = 0 then some (.tmfirst (bit c) (sreg (x0 / 2)) (treg x1) (MaskMode.ofCode x3)) else none
  | _ => none

/-- Major 0x30, formats T3, TS and TI. -/
def dec30 (c x0 x1 x2 x3 x4 : Nat) : Option Instr :=
  match x4 with
  | 0 => some (.txnorpop (bit c) (treg x0) (treg x1) (treg x2) (MaskMode.ofCode x3))
  | 1 => some (.tpext (bit c) (treg x0) (treg x1) (treg x2) (MaskMode.ofCode x3))
  | 2 => some (.tpins (bit c) (treg x0) (treg x1) (treg x2) (MaskMode.ofCode x3))
  | _ => none

/-- Major 0x31, format TM of majors 0x31 and 0x32. -/
def dec31 (c x0 x1 x2 x3 x4 x5 x6 : Nat) : Option Instr :=
  match x5 with
  | 0 =>
    match x6 with
    | 0 => if x2 = 0 ∧ x3 = 0 then some (.tld (bit c) (treg x0) (sreg x1) (MaskMode.ofCode x4)) else none
    | 1 => if x2 / 32 = 0 ∧ x3 = 0 then some (.tlds (bit c) (treg x0) (sreg x1) (sreg (x2 % 32)) (MaskMode.ofCode x4)) else none
    | 2 =>
      if x3 = 0 then some (.tldx (bit c) (treg x0) (sreg x1) (treg x2) (MaskMode.ofCode x4)) else
      if x3 = 1 then some (.tldxo (bit c) (treg x0) (sreg x1) (treg x2) (MaskMode.ofCode x4)) else
      none
    | 3 => if x2 = 0 ∧ x3 = 0 then some (.tldff (bit c) (treg x0) (sreg x1) (MaskMode.ofCode x4)) else none
    | _ => none
  | 1 => if x3 = 0 then some (.tldseg (bit c) (treg x0) (sreg x1) (treg x2) (MaskMode.ofCode x4) (fin8 x6)) else none
  | _ => none

/-- Major 0x32, format TM of majors 0x31 and 0x32. -/
def dec32 (c x0 x1 x2 x3 x4 x5 x6 : Nat) : Option Instr :=
  match x5 with
  | 0 =>
    match x6 with
    | 0 => if x2 = 0 ∧ x3 = 0 then some (.tst (bit c) (treg x0) (sreg x1) (MaskMode.ofCode x4)) else none
    | 1 => if x2 / 32 = 0 ∧ x3 = 0 then some (.tsts (bit c) (treg x0) (sreg x1) (sreg (x2 % 32)) (MaskMode.ofCode x4)) else none
    | 2 =>
      if x3 = 0 then some (.tstx (bit c) (treg x0) (sreg x1) (treg x2) (MaskMode.ofCode x4)) else
      if x3 = 1 then some (.tstxo (bit c) (treg x0) (sreg x1) (treg x2) (MaskMode.ofCode x4)) else
      none
    | _ => none
  | 1 => if x3 = 0 then some (.tstseg (bit c) (treg x0) (sreg x1) (treg x2) (MaskMode.ofCode x4) (fin8 x6)) else none
  | _ => none

/-- Major 0x33, format TM of major 0x33. -/
def dec33 (c x0 x1 x2 x3 x4 x5 : Nat) : Option Instr :=
  match x5 with
  | 0 => if x3 = 0 then some (.tldsc (bit c) (treg x0) (sreg x1) (treg x2) (MaskMode.ofCode x4)) else none
  | 1 => if x3 = 0 then some (.tstsc (bit c) (treg x0) (sreg x1) (treg x2) (MaskMode.ofCode x4)) else none
  | 2 => if x3 = 0 then some (.tgll (bit c) (treg x0) (sreg x1) (treg x2) (MaskMode.ofCode x4)) else none
  | 3 => if x3 = 0 ∧ x4 / 2 = 0 then some (.tscc (bit c) (treg x0) (sreg x1) (treg x2) (bit (x4 % 2))) else none
  | _ => none

/-- Major 0x34, format TB (R229). -/
def dec34 (c x0 x1 x2 : Nat) : Option Instr :=
  match x0 with
  | 0 => if c = 0 then some (.tbany (fin8 x1) (BitVec.ofNat 19 x2)) else none
  | 1 => if c = 0 then some (.tball (fin8 x1) (BitVec.ofNat 19 x2)) else none
  | 2 => if c = 0 then some (.tbnone (fin8 x1) (BitVec.ofNat 19 x2)) else none
  | 3 => if c = 0 then some (.tbdiv (fin8 x1) (BitVec.ofNat 19 x2)) else none
  | 4 => if c = 0 ∧ x1 = 0 ∧ x2 = 0 then some (.tjoin) else none
  | 5 => if c = 0 ∧ x2 = 0 then some (.tfspill (fin8 x1)) else none
  | 6 => if c = 0 ∧ x2 = 0 then some (.tffill (fin8 x1)) else none
  | _ => none

/-- Major 0x35, format T3 of major 0x35. -/
def dec35 (c x0 x1 x2 x3 x4 x5 : Nat) : Option Instr :=
  match x5 with
  | 0 => if x3 = 0 ∧ x4 = 0 then some (.mxattach (bit c) (treg x0) (treg x1) (treg x2)) else none
  | 1 => if x1 = 0 ∧ x3 = 0 ∧ x4 = 0 then some (.mxdetach (bit c) (treg x0) (treg x2)) else none
  | 2 => if x1 = 0 ∧ x2 = 0 ∧ x3 = 0 ∧ x4 = 0 then some (.mxzero (bit c) (treg x0)) else none
  | 3 => if x1 = 0 ∧ x3 = 0 ∧ x4 = 0 then some (.mxsync (bit c) (treg x0) (treg x2)) else none
  | 4 => some (.mxop (bit c) (treg x0) (treg x1) (treg x2) (MaskMode.ofCode x3) (bit x4))
  | 5 => some (.mxopn (bit c) (treg x0) (treg x1) (treg x2) (MaskMode.ofCode x3) (bit x4))
  | _ => none

/-- Major 0x36, format X. -/
def dec36 (c x0 x1 x2 x3 x4 : Nat) : Option Instr :=
  match x4 with
  | 0 => some (.xcopy (bit c) (sreg x0) (sreg x1) (sreg x2) (treg x3))
  | 1 => some (.xcopy2 (bit c) (sreg x0) (sreg x1) (sreg x2) (treg x3))
  | 2 => some (.xcopy3 (bit c) (sreg x0) (sreg x1) (sreg x2) (treg x3))
  | 3 => some (.xgath (bit c) (sreg x0) (sreg x1) (sreg x2) (treg x3))
  | 4 => some (.xput (bit c) (sreg x0) (sreg x1) (sreg x2) (treg x3))
  | 5 => if x2 = 0 then some (.xseal (bit c) (sreg x0) (sreg x1) (treg x3)) else none
  | 6 => if x2 = 0 then some (.xunseal (bit c) (sreg x0) (sreg x1) (treg x3)) else none
  | 7 => if x0 = 0 ∧ x1 = 0 ∧ x2 = 0 then some (.xbar (bit c) (treg x3)) else none
  | 8 => if x0 = 0 ∧ x1 = 0 ∧ x2 = 0 then some (.xcancel (bit c) (treg x3)) else none
  | _ => none

/-- Major 0x37, format Q. -/
def dec37 (c x0 x1 x2 x3 x4 : Nat) : Option Instr :=
  match x4 with
  | 0 => some (.qdot (bit c) (treg x0) (treg x1) (treg x2) (sreg x3))
  | 1 => some (.qdotm (bit c) (treg x0) (treg x1) (treg x2) (sreg x3))
  | 2 => some (.qdotx (bit c) (treg x0) (treg x1) (treg x2) (sreg x3))
  | 3 => some (.qsum (bit c) (treg x0) (treg x1) (treg x2) (sreg x3))
  | _ => none

/-- Major 0x38, format Q. -/
def dec38 (c x0 x1 x2 x3 x4 : Nat) : Option Instr :=
  match x4 with
  | 0 => some (.qcount (bit c) (treg x0) (treg x1) (treg x2) (sreg x3))
  | 1 => some (.qmax (bit c) (treg x0) (treg x1) (treg x2) (sreg x3))
  | 2 => some (.qmin (bit c) (treg x0) (treg x1) (treg x2) (sreg x3))
  | 3 => if x1 = 0 then some (.qbest (bit c) (treg x0) (treg x2) (sreg x3)) else none
  | _ => none

/-- Major 0x39, format Q. -/
def dec39 (c x0 x1 x2 x3 x4 : Nat) : Option Instr :=
  match x4 with
  | 0 => some (.qhamm (bit c) (treg x0) (treg x1) (treg x2) (sreg x3))
  | 1 => some (.qcode (bit c) (treg x0) (treg x1) (treg x2) (sreg x3))
  | 2 => some (.qnarrow (bit c) (treg x0) (treg x1) (treg x2) (sreg x3))
  | 3 => some (.qgsum (bit c) (treg x0) (treg x1) (treg x2) (sreg x3))
  | _ => none

/-- Major 0x3A, format Q. -/
def dec3A (c x0 x1 x2 x3 x4 : Nat) : Option Instr :=
  match x4 with
  | 0 =>
    if x1 = 0 ∧ x2 = 0 then some (.qst (bit c) (treg x0) (sreg x3)) else
    if x2 = 0 ∧ x1 ≠ 0 then some (.qstx (bit c) (treg x0) (treg x1) (sreg x3)) else
    none
  | 1 =>
    if x2 = 0 then some (.qraddAdd (bit c) (treg x0) (treg x1) (sreg x3)) else
    if x2 = 1 then some (.qraddMax (bit c) (treg x0) (treg x1) (sreg x3)) else
    if x2 = 2 then some (.qraddMin (bit c) (treg x0) (treg x1) (sreg x3)) else
    if x2 = 3 then some (.qraddOr (bit c) (treg x0) (treg x1) (sreg x3)) else
    if x2 = 4 then some (.qraddAnd (bit c) (treg x0) (treg x1) (sreg x3)) else
    none
  | 2 => some (.qappend (bit c) (treg x0) (treg x1) (treg x2) (sreg x3))
  | 3 => some (.qcas (bit c) (treg x0) (treg x1) (treg x2) (sreg x3))
  | _ => none

/-- Major 0x3B, format Q. -/
def dec3B (c x0 x1 x2 x3 x4 : Nat) : Option Instr :=
  match x4 with
  | 0 => if x0 % 2 = 0 ∧ x1 = 0 ∧ x2 = 0 then some (.qeval (bit c) (sreg (x0 / 2)) (sreg x3)) else none
  | 1 => if x0 % 2 = 0 ∧ x1 = 0 then some (.qcopy (bit c) (sreg (x0 / 2)) (treg x2) (sreg x3)) else none
  | 2 => if x0 % 2 = 0 then some (.qmerge (bit c) (sreg (x0 / 2)) (treg x1) (treg x2) (sreg x3)) else none
  | _ => none

/-! ### The opcode map (R41, R42) -/

/-- The decoder of one major. -/
noncomputable def decodeMaj (w maj : Nat) : Option Instr :=
  match maj with
  | 1 => dec01 (fld w 31 1) (fld w 20 5) (fld w 0 20)
  | 2 => dec02 (fld w 31 1) (fld w 20 5) (fld w 0 20)
  | 3 => dec03 (fld w 31 1) (fld w 20 5) (fld w 0 20)
  | 4 => dec04 (fld w 31 1) (fld w 20 5) (fld w 15 5) (fld w 0 15)
  | 5 => dec05 (fld w 31 1) (fld w 20 5) (fld w 15 5) (fld w 0 15)
  | 6 => dec06 (fld w 31 1) (fld w 20 5) (fld w 15 5) (fld w 0 15)
  | 7 => dec07 (fld w 31 1) (fld w 20 5) (fld w 15 5) (fld w 0 15)
  | 8 => dec08 (fld w 31 1) (fld w 20 5) (fld w 15 5) (fld w 0 15)
  | 9 => dec09 (fld w 31 1) (fld w 20 5) (fld w 15 5) (fld w 0 15)
  | 10 => dec0A (fld w 31 1) (fld w 20 5) (fld w 15 5) (fld w 0 15)
  | 11 => dec0B (fld w 31 1) (fld w 20 5) (fld w 15 5) (fld w 0 15)
  | 12 => dec0C (fld w 31 1) (fld w 20 5) (fld w 15 5) (fld w 0 15)
  | 13 => dec0D (fld w 31 1) (fld w 20 5) (fld w 15 5) (fld w 0 15)
  | 14 => dec0E (fld w 31 1) (fld w 20 5) (fld w 15 5) (fld w 0 15)
  | 15 => dec0F (fld w 31 1) (fld w 20 5) (fld w 15 5) (fld w 0 15)
  | 16 => dec10 (fld w 31 1) (fld w 20 5) (fld w 15 5) (fld w 0 15)
  | 17 => dec11 (fld w 31 1) (fld w 20 5) (fld w 15 5) (fld w 6 9) (fld w 0 6)
  | 18 => dec12 (fld w 31 1) (fld w 20 5) (fld w 15 5) (fld w 10 5) (fld w 0 10)
  | 19 => dec13 (fld w 31 1) (fld w 20 5) (fld w 15 5) (fld w 0 15)
  | 20 => dec14 (fld w 31 1) (fld w 20 5) (fld w 15 5) (fld w 0 15)
  | 21 => dec15 (fld w 31 1) (fld w 20 5) (fld w 15 5) (fld w 0 15)
  | 22 => dec16 (fld w 31 1) (fld w 20 5) (fld w 15 5) (fld w 0 15)
  | 23 => dec17 (fld w 31 1) (fld w 20 5) (fld w 15 5) (fld w 0 15)
  | 24 => dec18 (fld w 31 1) (fld w 20 5) (fld w 15 5) (fld w 0 15)
  | 25 => dec19 (fld w 31 1) (fld w 20 5) (fld w 15 5) (fld w 0 15)
  | 26 => dec1A (fld w 31 1) (fld w 20 5) (fld w 15 5) (fld w 0 15)
  | 27 => dec1B (fld w 31 1) (fld w 20 5) (fld w 15 5) (fld w 0 15)
  | 28 => dec1C (fld w 31 1) (fld w 20 5) (fld w 15 5) (fld w 0 15)
  | 29 => dec1D (fld w 31 1) (fld w 20 5) (fld w 15 5) (fld w 0 15)
  | 30 => dec1E (fld w 31 1) (fld w 20 5) (fld w 15 5) (fld w 10 5) (fld w 9 1) (fld w 6 3) (fld w 5 1) (fld w 0 5)
  | 31 => dec1F (fld w 31 1) (fld w 20 5) (fld w 15 5) (fld w 10 5) (fld w 9 1) (fld w 7 2) (fld w 5 2) (fld w 4 1) (fld w 0 4)
  | 32 => dec20 (fld w 31 1) (fld w 20 5) (fld w 15 5) (fld w 12 3) (fld w 0 12)
  | 33 => dec21 (fld w 31 1) (fld w 20 5) (fld w 15 5) (fld w 12 3) (fld w 0 12)
  | 34 => dec22 (fld w 31 1) (fld w 20 5) (fld w 15 5) (fld w 10 5) (fld w 6 4) (fld w 0 6)
  | 35 => dec23 (fld w 31 1) (fld w 20 5) (fld w 15 5) (fld w 10 5) (fld w 0 10)
  | 36 => dec24 (fld w 31 1) (fld w 19 6) (fld w 13 6) (fld w 7 6) (fld w 5 2) (fld w 0 5)
  | 37 => dec25 (fld w 31 1) (fld w 19 6) (fld w 13 6) (fld w 7 6) (fld w 5 2) (fld w 0 5)
  | 38 => dec26 (fld w 31 1) (fld w 19 6) (fld w 13 6) (fld w 7 6) (fld w 5 2) (fld w 0 5)
  | 39 => dec27 (fld w 31 1) (fld w 19 6) (fld w 13 6) (fld w 7 6) (fld w 5 2) (fld w 0 5)
  | 40 => dec28 (fld w 31 1) (fld w 19 6) (fld w 13 6) (fld w 7 6) (fld w 5 2) (fld w 0 5)
  | 41 => dec29 (fld w 31 1) (fld w 19 6) (fld w 13 6) (fld w 7 6) (fld w 5 2) (fld w 0 5)
  | 42 => dec2A (fld w 31 1) (fld w 19 6) (fld w 13 6) (fld w 7 6) (fld w 5 2) (fld w 0 5)
  | 43 => dec2B (fld w 31 1) (fld w 19 6) (fld w 13 6) (fld w 7 6) (fld w 5 2) (fld w 0 5)
  | 44 => dec2C (fld w 31 1) (fld w 19 6) (fld w 13 6) (fld w 7 6) (fld w 5 2) (fld w 0 5)
  | 45 => dec2D (fld w 31 1) (fld w 19 6) (fld w 13 6) (fld w 7 6) (fld w 5 2) (fld w 0 5)
  | 46 => dec2E (fld w 31 1) (fld w 19 6) (fld w 13 6) (fld w 7 6) (fld w 5 2) (fld w 0 5)
  | 47 => dec2F (fld w 31 1) (fld w 19 6) (fld w 13 6) (fld w 7 6) (fld w 5 2) (fld w 0 5)
  | 48 => dec30 (fld w 31 1) (fld w 19 6) (fld w 13 6) (fld w 7 6) (fld w 5 2) (fld w 0 5)
  | 49 => dec31 (fld w 31 1) (fld w 19 6) (fld w 14 5) (fld w 8 6) (fld w 7 1) (fld w 5 2) (fld w 3 2) (fld w 0 3)
  | 50 => dec32 (fld w 31 1) (fld w 19 6) (fld w 14 5) (fld w 8 6) (fld w 7 1) (fld w 5 2) (fld w 3 2) (fld w 0 3)
  | 51 => dec33 (fld w 31 1) (fld w 19 6) (fld w 14 5) (fld w 8 6) (fld w 7 1) (fld w 5 2) (fld w 0 5)
  | 52 => dec34 (fld w 31 1) (fld w 22 3) (fld w 19 3) (fld w 0 19)
  | 53 => dec35 (fld w 31 1) (fld w 19 6) (fld w 13 6) (fld w 7 6) (fld w 5 2) (fld w 4 1) (fld w 0 4)
  | 54 => dec36 (fld w 31 1) (fld w 20 5) (fld w 15 5) (fld w 10 5) (fld w 4 6) (fld w 0 4)
  | 55 => dec37 (fld w 31 1) (fld w 19 6) (fld w 13 6) (fld w 7 6) (fld w 2 5) (fld w 0 2)
  | 56 => dec38 (fld w 31 1) (fld w 19 6) (fld w 13 6) (fld w 7 6) (fld w 2 5) (fld w 0 2)
  | 57 => dec39 (fld w 31 1) (fld w 19 6) (fld w 13 6) (fld w 7 6) (fld w 2 5) (fld w 0 2)
  | 58 => dec3A (fld w 31 1) (fld w 19 6) (fld w 13 6) (fld w 7 6) (fld w 2 5) (fld w 0 2)
  | 59 => dec3B (fld w 31 1) (fld w 19 6) (fld w 13 6) (fld w 7 6) (fld w 2 5) (fld w 0 2)
  | _ => none

/-- The instruction a 32-bit word stands for, or nothing where the word traps illegal-opcode (R42). -/
noncomputable def decodeWord (w : Nat) : Option Instr := decodeMaj w (fld w 25 6)

/-- The instruction word at the front of a byte string, little-endian (R29). -/
def wordOfBytes (bs : List Byte) : Nat :=
  match bs with
  | b0 :: b1 :: b2 :: b3 :: _ => b0.toNat + b1.toNat * 2 ^ 8 + b2.toNat * 2 ^ 16 + b3.toNat * 2 ^ 24
  | _ => 0

/-- The four bytes of a word, lowest address first (R29). -/
def bytesOfWord (w : Nat) : List Byte :=
  [BitVec.ofNat 8 w, BitVec.ofNat 8 (w / 2 ^ 8), BitVec.ofNat 8 (w / 2 ^ 16), BitVec.ofNat 8 (w / 2 ^ 24)]

/-- Decodes the word at the front of a byte string; fewer than four bytes decode to nothing. -/
noncomputable def decode (bs : List Byte) : Option (Instr × List Byte) :=
  match bs with
  | b0 :: b1 :: b2 :: b3 :: rest => (decodeWord (wordOfBytes [b0, b1, b2, b3])).map (fun i => (i, rest))
  | _ => none

/-- The instruction the decoder reads from `nbits` bits `w`, the bits above them zero. -/
noncomputable def decodeTableWord (nbits w : Nat) : Option Instr :=
  (decode (bytesOfWord (w % 2 ^ nbits))).map Prod.fst

/-! ### The encoder -/

/-- The word of an instruction; a step without bits has none. -/
def encode (i : Instr) : Option Nat :=
  match i with
  | .slui d i => some (wordSU 0 1 d.val i.toNat)
  | .spcrel d i => some (wordSU 0 2 d.val i.toNat)
  | .sjal d o => some (wordSU 0 3 d.val o.toNat)
  | .sjalr d a i => some (wordSI 0 4 d.val a.val i.toNat)
  | .sbeq a b o => some (wordSI 0 5 a.val b.val o.toNat)
  | .sbne a b o => some (wordSI 0 6 a.val b.val o.toNat)
  | .sblt a b o => some (wordSI 0 7 a.val b.val o.toNat)
  | .sbge a b o => some (wordSI 0 8 a.val b.val o.toNat)
  | .sbltn a b o => some (wordSI 0 9 a.val b.val o.toNat)
  | .sbgen a b o => some (wordSI 0 10 a.val b.val o.toNat)
  | .saddi d a i => some (wordSI 0 11 d.val a.val i.toNat)
  | .sandi d a i => some (wordSI 0 12 d.val a.val i.toNat)
  | .sori d a i => some (wordSI 0 13 d.val a.val i.toNat)
  | .sxori d a i => some (wordSI 0 14 d.val a.val i.toNat)
  | .slti d a i => some (wordSI 0 15 d.val a.val i.toNat)
  | .sltin d a i => some (wordSI 0 16 d.val a.val i.toNat)
  | .sslli d a n => some (wordSH 0 17 d.val a.val 0 n.toNat)
  | .ssrli d a n => some (wordSH 0 17 d.val a.val 128 n.toNat)
  | .ssrai d a n => some (wordSH 0 17 d.val a.val 256 n.toNat)
  | .sadd d a b => some (wordS3 0 18 d.val a.val b.val 0)
  | .ssub d a b => some (wordS3 0 18 d.val a.val b.val 1)
  | .sand d a b => some (wordS3 0 18 d.val a.val b.val 2)
  | .sor d a b => some (wordS3 0 18 d.val a.val b.val 3)
  | .sxor d a b => some (wordS3 0 18 d.val a.val b.val 4)
  | .sandn d a b => some (wordS3 0 18 d.val a.val b.val 5)
  | .ssll d a b => some (wordS3 0 18 d.val a.val b.val 6)
  | .ssrl d a b => some (wordS3 0 18 d.val a.val b.val 7)
  | .ssra d a b => some (wordS3 0 18 d.val a.val b.val 8)
  | .sslt d a b => some (wordS3 0 18 d.val a.val b.val 9)
  | .ssltn d a b => some (wordS3 0 18 d.val a.val b.val 10)
  | .smin d a b => some (wordS3 0 18 d.val a.val b.val 11)
  | .smax d a b => some (wordS3 0 18 d.val a.val b.val 12)
  | .sminn d a b => some (wordS3 0 18 d.val a.val b.val 13)
  | .smaxn d a b => some (wordS3 0 18 d.val a.val b.val 14)
  | .smul d a b => some (wordS3 0 18 d.val a.val b.val 16)
  | .smulh d a b => some (wordS3 0 18 d.val a.val b.val 17)
  | .smulhn d a b => some (wordS3 0 18 d.val a.val b.val 18)
  | .smulhsu d a b => some (wordS3 0 18 d.val a.val b.val 19)
  | .sdiv d a b => some (wordS3 0 18 d.val a.val b.val 20)
  | .sdivn d a b => some (wordS3 0 18 d.val a.val b.val 21)
  | .srem d a b => some (wordS3 0 18 d.val a.val b.val 22)
  | .sremn d a b => some (wordS3 0 18 d.val a.val b.val 23)
  | .spopc d a => some (wordS3 0 18 d.val a.val 0 24)
  | .sclz d a => some (wordS3 0 18 d.val a.val 0 25)
  | .sctz d a => some (wordS3 0 18 d.val a.val 0 26)
  | .sldD d a i => some (wordSI 0 19 d.val a.val i.toNat)
  | .sldW d a i => some (wordSI 0 20 d.val a.val i.toNat)
  | .sldnW d a i => some (wordSI 0 21 d.val a.val i.toNat)
  | .sldH d a i => some (wordSI 0 22 d.val a.val i.toNat)
  | .sldnH d a i => some (wordSI 0 23 d.val a.val i.toNat)
  | .sldB d a i => some (wordSI 0 24 d.val a.val i.toNat)
  | .sldnB d a i => some (wordSI 0 25 d.val a.val i.toNat)
  | .sstD v a i => some (wordSI 0 26 v.val a.val i.toNat)
  | .sstW v a i => some (wordSI 0 27 v.val a.val i.toNat)
  | .sstH v a i => some (wordSI 0 28 v.val a.val i.toNat)
  | .sstB v a i => some (wordSI 0 29 v.val a.val i.toNat)
  | .sfadd d a b r f => some (wordSF 0 30 d.val a.val b.val 0 r.val f.toNat 0)
  | .sfsub d a b r f => some (wordSF 0 30 d.val a.val b.val 0 r.val f.toNat 1)
  | .sfmul d a b r f => some (wordSF 0 30 d.val a.val b.val 0 r.val f.toNat 2)
  | .sfdiv d a b r f => some (wordSF 0 30 d.val a.val b.val 0 r.val f.toNat 3)
  | .sfsqrt d a r f => some (wordSF 0 30 d.val a.val 0 0 r.val f.toNat 4)
  | .sfmin d a b f => some (wordSF 0 30 d.val a.val b.val 0 0 f.toNat 5)
  | .sfmax d a b f => some (wordSF 0 30 d.val a.val b.val 0 0 f.toNat 6)
  | .sfma d a b r f => some (wordSF 0 30 d.val a.val b.val 0 r.val f.toNat 7)
  | .sfsignc d a b f => some (wordSF 0 30 d.val a.val b.val 0 0 f.toNat 8)
  | .sfsignn d a b f => some (wordSF 0 30 d.val a.val b.val 0 0 f.toNat 9)
  | .sfsignx d a b f => some (wordSF 0 30 d.val a.val b.val 0 0 f.toNat 10)
  | .sfeq d a b f => some (wordSF 0 30 d.val a.val b.val 0 0 f.toNat 11)
  | .sflt d a b f => some (wordSF 0 30 d.val a.val b.val 0 0 f.toNat 12)
  | .sfle d a b f => some (wordSF 0 30 d.val a.val b.val 0 0 f.toNat 13)
  | .sfcvti d a r f => some (wordSF 0 30 d.val a.val 0 0 r.val f.toNat 14)
  | .sfcvtn d a r f => some (wordSF 0 30 d.val a.val 0 0 r.val f.toNat 15)
  | .sicvtf d a r f => some (wordSF 0 30 d.val a.val 0 0 r.val f.toNat 16)
  | .sncvtf d a r f => some (wordSF 0 30 d.val a.val 0 0 r.val f.toNat 17)
  | .sfcvtx d a r f => some (wordSF 0 30 d.val a.val 0 0 r.val f.toNat 18)
  | .samoAdd d a b s o w => some (wordSA 0 31 d.val a.val b.val 0 s.val o.val w.toNat 0)
  | .samoAnd d a b s o w => some (wordSA 0 31 d.val a.val b.val 0 s.val o.val w.toNat 1)
  | .samoOr d a b s o w => some (wordSA 0 31 d.val a.val b.val 0 s.val o.val w.toNat 2)
  | .samoXor d a b s o w => some (wordSA 0 31 d.val a.val b.val 0 s.val o.val w.toNat 3)
  | .samoSwap d a b s o w => some (wordSA 0 31 d.val a.val b.val 0 s.val o.val w.toNat 4)
  | .samoMin d a b s o w => some (wordSA 0 31 d.val a.val b.val 0 s.val o.val w.toNat 5)
  | .samoMax d a b s o w => some (wordSA 0 31 d.val a.val b.val 0 s.val o.val w.toNat 6)
  | .samoMinn d a b s o w => some (wordSA 0 31 d.val a.val b.val 0 s.val o.val w.toNat 7)
  | .samoMaxn d a b s o w => some (wordSA 0 31 d.val a.val b.val 0 s.val o.val w.toNat 8)
  | .samoCas d a b s o w => some (wordSA 0 31 d.val a.val b.val 0 s.val o.val w.toNat 9)
  | .getsr d n => some (wordSR 0 32 d.val 0 0 n.toNat)
  | .putsr a n => some (wordSR 0 33 0 a.val 0 n.toNat)
  | .putsrFlags a => some (wordSR 0 33 0 a.val 0 7)
  | .putsrEafq a => some (wordSR 0 33 0 a.val 0 44)
  | .putsrEafqrResume a => some (wordSR 0 33 0 a.val 0 51)
  | .putsrEafqrDiscard a => some (wordSR 0 33 0 a.val 0 51)
  | .putsrQrmv a => some (wordSR 0 33 0 a.val 0 53)
  | .putsrQewin a => some (wordSR 0 33 0 a.val 0 47)
  | .fence s k => some (wordSY 0 34 0 0 0 0 (16 * s.val + k.toNat))
  | .bar => some (wordSY 0 34 0 0 0 1 0)
  | .waitEq d a b => some (wordSY 0 34 d.val a.val b.val 2 0)
  | .waitNe d a b => some (wordSY 0 34 d.val a.val b.val 2 16)
  | .waitGeu d a b => some (wordSY 0 34 d.val a.val b.val 2 32)
  | .waitAny d a b => some (wordSY 0 34 d.val a.val b.val 2 48)
  | .pwait a b p => some (wordSY 0 34 0 a.val b.val 3 p.val)
  | .wmpub d a => some (wordSY 0 34 d.val a.val 0 4 0)
  | .trap n => some (wordSY 0 34 0 0 0 8 n.toNat)
  | .halt => some (wordSY 0 34 0 0 0 9 0)
  | .eret => some (wordSY 0 34 0 0 0 10 0)
  | .yield => some (wordSY 0 34 0 0 0 11 0)
  | .launch d a b => some (wordSY 0 34 d.val a.val b.val 12 0)
  | .setvl d a b => some (wordS3 0 35 d.val a.val b.val 0)
  | .setvlG d a => some (wordS3 0 35 d.val a.val 0 1)
  | .setvlw d a b => some (wordS3 0 35 d.val a.val b.val 2)
  | .settype d a => some (wordS3 0 35 d.val a.val 0 3)
  | .reseat d a => some (wordS3 0 35 d.val a.val 0 4)
  | .allot d a => some (wordS3 0 35 d.val a.val 0 5)
  | .tbany t o => some (wordTB 0 52 0 t.val o.toNat)
  | .tball t o => some (wordTB 0 52 1 t.val o.toNat)
  | .tbnone t o => some (wordTB 0 52 2 t.val o.toNat)
  | .tbdiv t o => some (wordTB 0 52 3 t.val o.toNat)
  | .tjoin => some (wordTB 0 52 4 0 0)
  | .tfspill t => some (wordTB 0 52 5 t.val 0)
  | .tffill t => some (wordTB 0 52 6 t.val 0)
  | .tadd c d a b m => some (wordT3 c.toNat 36 d.val a.val b.val m.code 0)
  | .tsub c d a b m => some (wordT3 c.toNat 36 d.val a.val b.val m.code 1)
  | .tand c d a b m => some (wordT3 c.toNat 36 d.val a.val b.val m.code 2)
  | .tor c d a b m => some (wordT3 c.toNat 36 d.val a.val b.val m.code 3)
  | .txor c d a b m => some (wordT3 c.toNat 36 d.val a.val b.val m.code 4)
  | .tandn c d a b m => some (wordT3 c.toNat 36 d.val a.val b.val m.code 5)
  | .tmin c d a b m => some (wordT3 c.toNat 36 d.val a.val b.val m.code 6)
  | .tmax c d a b m => some (wordT3 c.toNat 36 d.val a.val b.val m.code 7)
  | .tsll c d a b m => some (wordT3 c.toNat 36 d.val a.val b.val m.code 8)
  | .tsrl c d a b m => some (wordT3 c.toNat 36 d.val a.val b.val m.code 9)
  | .tsra c d a b m => some (wordT3 c.toNat 36 d.val a.val b.val m.code 10)
  | .tmul c d a b m => some (wordT3 c.toNat 36 d.val a.val b.val m.code 11)
  | .tmulh c d a b m => some (wordT3 c.toNat 36 d.val a.val b.val m.code 12)
  | .tmulhsu c d a b m => some (wordT3 c.toNat 36 d.val a.val b.val m.code 13)
  | .tdiv c d a b m => some (wordT3 c.toNat 36 d.val a.val b.val m.code 14)
  | .trem c d a b m => some (wordT3 c.toNat 36 d.val a.val b.val m.code 15)
  | .tsel c d a b => some (wordT3 c.toNat 36 d.val a.val b.val 0 16)
  | .tmov c d a m => some (wordT3 c.toNat 36 d.val a.val 0 m.code 17)
  | .tiota c d m => some (wordT3 c.toNat 36 d.val 0 0 m.code 18)
  | .taddS c d a b m => some (wordT3 c.toNat 37 d.val a.val (2 * b.val) m.code 0)
  | .tsubS c d a b m => some (wordT3 c.toNat 37 d.val a.val (2 * b.val) m.code 1)
  | .tandS c d a b m => some (wordT3 c.toNat 37 d.val a.val (2 * b.val) m.code 2)
  | .torS c d a b m => some (wordT3 c.toNat 37 d.val a.val (2 * b.val) m.code 3)
  | .txorS c d a b m => some (wordT3 c.toNat 37 d.val a.val (2 * b.val) m.code 4)
  | .tandnS c d a b m => some (wordT3 c.toNat 37 d.val a.val (2 * b.val) m.code 5)
  | .tminS c d a b m => some (wordT3 c.toNat 37 d.val a.val (2 * b.val) m.code 6)
  | .tmaxS c d a b m => some (wordT3 c.toNat 37 d.val a.val (2 * b.val) m.code 7)
  | .tsllS c d a b m => some (wordT3 c.toNat 37 d.val a.val (2 * b.val) m.code 8)
  | .tsrlS c d a b m => some (wordT3 c.toNat 37 d.val a.val (2 * b.val) m.code 9)
  | .tsraS c d a b m => some (wordT3 c.toNat 37 d.val a.val (2 * b.val) m.code 10)
  | .tmulS c d a b m => some (wordT3 c.toNat 37 d.val a.val (2 * b.val) m.code 11)
  | .tmulhS c d a b m => some (wordT3 c.toNat 37 d.val a.val (2 * b.val) m.code 12)
  | .tmulhsuS c d a b m => some (wordT3 c.toNat 37 d.val a.val (2 * b.val) m.code 13)
  | .tdivS c d a b m => some (wordT3 c.toNat 37 d.val a.val (2 * b.val) m.code 14)
  | .tremS c d a b m => some (wordT3 c.toNat 37 d.val a.val (2 * b.val) m.code 15)
  | .tsplat c d b m => some (wordT3 c.toNat 37 d.val 0 (2 * b.val) m.code 16)
  | .trsubS c d a b m => some (wordT3 c.toNat 37 d.val a.val (2 * b.val) m.code 17)
  | .tselS c d a b => some (wordT3 c.toNat 37 d.val a.val (2 * b.val) 0 18)
  | .taddI c d a i m => some (wordT3 c.toNat 38 d.val a.val i.toNat m.code 0)
  | .tandI c d a i m => some (wordT3 c.toNat 38 d.val a.val i.toNat m.code 2)
  | .torI c d a i m => some (wordT3 c.toNat 38 d.val a.val i.toNat m.code 3)
  | .txorI c d a i m => some (wordT3 c.toNat 38 d.val a.val i.toNat m.code 4)
  | .tminI c d a i m => some (wordT3 c.toNat 38 d.val a.val i.toNat m.code 6)
  | .tmaxI c d a i m => some (wordT3 c.toNat 38 d.val a.val i.toNat m.code 7)
  | .tsllI c d a i m => some (wordT3 c.toNat 38 d.val a.val i.toNat m.code 8)
  | .tsrlI c d a i m => some (wordT3 c.toNat 38 d.val a.val i.toNat m.code 9)
  | .tsraI c d a i m => some (wordT3 c.toNat 38 d.val a.val i.toNat m.code 10)
  | .tsplatI c d i m => some (wordT3 c.toNat 38 d.val 0 i.toNat m.code 16)
  | .trsubI c d a i m => some (wordT3 c.toNat 38 d.val a.val i.toNat m.code 17)
  | .tfadd c d a b m => some (wordT3 c.toNat 39 d.val a.val b.val m.code 0)
  | .tfsub c d a b m => some (wordT3 c.toNat 39 d.val a.val b.val m.code 1)
  | .tfmul c d a b m => some (wordT3 c.toNat 39 d.val a.val b.val m.code 2)
  | .tfdiv c d a b m => some (wordT3 c.toNat 39 d.val a.val b.val m.code 3)
  | .tfmin c d a b m => some (wordT3 c.toNat 39 d.val a.val b.val m.code 4)
  | .tfmax c d a b m => some (wordT3 c.toNat 39 d.val a.val b.val m.code 5)
  | .tfsqrt c d a m => some (wordT3 c.toNat 39 d.val a.val 0 m.code 6)
  | .tfrsqe c d a m => some (wordT3 c.toNat 39 d.val a.val 0 m.code 7)
  | .tfrece c d a m => some (wordT3 c.toNat 39 d.val a.val 0 m.code 8)
  | .tfsignc c d a b m => some (wordT3 c.toNat 39 d.val a.val b.val m.code 9)
  | .tfsignn c d a b m => some (wordT3 c.toNat 39 d.val a.val b.val m.code 10)
  | .tfsignx c d a b m => some (wordT3 c.toNat 39 d.val a.val b.val m.code 11)
  | .tfma c d a b m => some (wordT3 c.toNat 39 d.val a.val b.val m.code 12)
  | .tfms c d a b m => some (wordT3 c.toNat 39 d.val a.val b.val m.code 13)
  | .tfnma c d a b m => some (wordT3 c.toNat 39 d.val a.val b.val m.code 14)
  | .tfnms c d a b m => some (wordT3 c.toNat 39 d.val a.val b.val m.code 15)
  | .tfaddS c d a b m => some (wordT3 c.toNat 40 d.val a.val (2 * b.val) m.code 0)
  | .tfsubS c d a b m => some (wordT3 c.toNat 40 d.val a.val (2 * b.val) m.code 1)
  | .tfmulS c d a b m => some (wordT3 c.toNat 40 d.val a.val (2 * b.val) m.code 2)
  | .tfdivS c d a b m => some (wordT3 c.toNat 40 d.val a.val (2 * b.val) m.code 3)
  | .tfminS c d a b m => some (wordT3 c.toNat 40 d.val a.val (2 * b.val) m.code 4)
  | .tfmaxS c d a b m => some (wordT3 c.toNat 40 d.val a.val (2 * b.val) m.code 5)
  | .tfsigncS c d a b m => some (wordT3 c.toNat 40 d.val a.val (2 * b.val) m.code 9)
  | .tfsignnS c d a b m => some (wordT3 c.toNat 40 d.val a.val (2 * b.val) m.code 10)
  | .tfsignxS c d a b m => some (wordT3 c.toNat 40 d.val a.val (2 * b.val) m.code 11)
  | .tfmaS c d a b m => some (wordT3 c.toNat 40 d.val a.val (2 * b.val) m.code 12)
  | .tfmsS c d a b m => some (wordT3 c.toNat 40 d.val a.val (2 * b.val) m.code 13)
  | .tfnmaS c d a b m => some (wordT3 c.toNat 40 d.val a.val (2 * b.val) m.code 14)
  | .tfnmsS c d a b m => some (wordT3 c.toNat 40 d.val a.val (2 * b.val) m.code 15)
  | .tfrsubS c d a b m => some (wordT3 c.toNat 40 d.val a.val (2 * b.val) m.code 16)
  | .tfrdivS c d a b m => some (wordT3 c.toNat 40 d.val a.val (2 * b.val) m.code 17)
  | .tceq c d a b m => some (wordT3 c.toNat 41 d.val a.val b.val m.code 0)
  | .tcne c d a b m => some (wordT3 c.toNat 41 d.val a.val b.val m.code 1)
  | .tclt c d a b m => some (wordT3 c.toNat 41 d.val a.val b.val m.code 2)
  | .tcle c d a b m => some (wordT3 c.toNat 41 d.val a.val b.val m.code 3)
  | .tcgt c d a b m => some (wordT3 c.toNat 41 d.val a.val b.val m.code 4)
  | .tcge c d a b m => some (wordT3 c.toNat 41 d.val a.val b.val m.code 5)
  | .tcun c d a b m => some (wordT3 c.toNat 41 d.val a.val b.val m.code 6)
  | .tceqS c d a b m => some (wordT3 c.toNat 42 d.val a.val (2 * b.val) m.code 0)
  | .tcneS c d a b m => some (wordT3 c.toNat 42 d.val a.val (2 * b.val) m.code 1)
  | .tcltS c d a b m => some (wordT3 c.toNat 42 d.val a.val (2 * b.val) m.code 2)
  | .tcleS c d a b m => some (wordT3 c.toNat 42 d.val a.val (2 * b.val) m.code 3)
  | .tcgtS c d a b m => some (wordT3 c.toNat 42 d.val a.val (2 * b.val) m.code 4)
  | .tcgeS c d a b m => some (wordT3 c.toNat 42 d.val a.val (2 * b.val) m.code 5)
  | .tcunS c d a b m => some (wordT3 c.toNat 42 d.val a.val (2 * b.val) m.code 6)
  | .tsadd c d a b m => some (wordT3 c.toNat 43 d.val a.val b.val m.code 0)
  | .tssub c d a b m => some (wordT3 c.toNat 43 d.val a.val b.val m.code 1)
  | .tavg c d a b m => some (wordT3 c.toNat 43 d.val a.val b.val m.code 2)
  | .tavgsub c d a b m => some (wordT3 c.toNat 43 d.val a.val b.val m.code 3)
  | .tsmul c d a b m => some (wordT3 c.toNat 43 d.val a.val b.val m.code 4)
  | .twadd c d a b m => some (wordT3 c.toNat 43 d.val a.val b.val m.code 5)
  | .twsub c d a b m => some (wordT3 c.toNat 43 d.val a.val b.val m.code 6)
  | .twmul c d a b m => some (wordT3 c.toNat 43 d.val a.val b.val m.code 7)
  | .twmacc c d a b m => some (wordT3 c.toNat 43 d.val a.val b.val m.code 8)
  | .tnshr c d a b m => some (wordT3 c.toNat 43 d.val a.val b.val m.code 9)
  | .tcvt c d a t m => some (wordT3 c.toNat 44 d.val a.val t.val m.code 0)
  | .tcvtn c d a t m => some (wordT3 c.toNat 44 d.val a.val t.val m.code 1)
  | .tcvtw c d a t m => some (wordT3 c.toNat 44 d.val a.val t.val m.code 2)
  | .tcvte c d a m => some (wordT3 c.toNat 44 d.val a.val 0 m.code 3)
  | .tscale c d a m => some (wordT3 c.toNat 44 d.val a.val 0 m.code 4)
  | .tcvtns c d a t m => some (wordT3 c.toNat 44 d.val a.val t.val m.code 5)
  | .tcvtes c d a m => some (wordT3 c.toNat 44 d.val a.val 0 m.code 6)
  | .tmxscale c d a t m => some (wordT3 c.toNat 44 d.val a.val t.val m.code 7)
  | .tmxscaleB c d a t m => some (wordT3 c.toNat 44 d.val a.val t.val m.code 8)
  | .tredsum c d a b m => some (wordT3 c.toNat 45 d.val a.val b.val m.code 0)
  | .tredosum c d a b m => some (wordT3 c.toNat 45 d.val a.val b.val m.code 1)
  | .tredgsum c d a m => some (wordT3 c.toNat 45 d.val a.val 0 m.code 2)
  | .tscan c d a b m => some (wordT3 c.toNat 45 d.val a.val b.val m.code 3)
  | .tredmax c d a b m => some (wordT3 c.toNat 45 d.val a.val b.val m.code 4)
  | .tredmin c d a b m => some (wordT3 c.toNat 45 d.val a.val b.val m.code 5)
  | .tredmaxi c d a b m => some (wordT3 c.toNat 45 d.val a.val b.val m.code 6)
  | .tredmini c d a b m => some (wordT3 c.toNat 45 d.val a.val b.val m.code 7)
  | .tredand c d a b m => some (wordT3 c.toNat 45 d.val a.val b.val m.code 8)
  | .tredor c d a b m => some (wordT3 c.toNat 45 d.val a.val b.val m.code 9)
  | .tredxor c d a b m => some (wordT3 c.toNat 45 d.val a.val b.val m.code 10)
  | .tcompress c d a m => some (wordT3 c.toNat 46 d.val a.val 0 m.code 0)
  | .texpand c d a m => some (wordT3 c.toNat 46 d.val a.val 0 m.code 1)
  | .tslideup c d a i m => some (wordT3 c.toNat 46 d.val a.val i.toNat m.code 2)
  | .tslidedn c d a i m => some (wordT3 c.toNat 46 d.val a.val i.toNat m.code 3)
  | .tslideupS c d a s m => some (wordT3 c.toNat 46 d.val a.val (2 * s.val) m.code 4)
  | .tslidednS c d a s m => some (wordT3 c.toNat 46 d.val a.val (2 * s.val) m.code 5)
  | .trgather c d a b m => some (wordT3 c.toNat 46 d.val a.val b.val m.code 6)
  | .ttrans c d a m => some (wordT3 c.toNat 46 d.val a.val 0 m.code 7)
  | .trowbc c d a m => some (wordT3 c.toNat 46 d.val a.val 0 m.code 8)
  | .tcolbc c d a m => some (wordT3 c.toNat 46 d.val a.val 0 m.code 9)
  | .textr c s a => some (wordT3 c.toNat 46 (2 * s.val) a.val 0 0 10)
  | .tmand c d a b m => some (wordT3 c.toNat 47 d.val a.val b.val m.code 0)
  | .tmor c d a b m => some (wordT3 c.toNat 47 d.val a.val b.val m.code 1)
  | .tmxor c d a b m => some (wordT3 c.toNat 47 d.val a.val b.val m.code 2)
  | .tmandn c d a b m => some (wordT3 c.toNat 47 d.val a.val b.val m.code 3)
  | .tmnot c d a m => some (wordT3 c.toNat 47 d.val a.val 0 m.code 4)
  | .tmbefore c d a m => some (wordT3 c.toNat 47 d.val a.val 0 m.code 5)
  | .tmthrough c d a m => some (wordT3 c.toNat 47 d.val a.val 0 m.code 6)
  | .tmonly c d a m => some (wordT3 c.toNat 47 d.val a.val 0 m.code 7)
  | .tmpop c s a m => some (wordT3 c.toNat 47 (2 * s.val) a.val 0 m.code 8)
  | .tmfirst c s a m => some (wordT3 c.toNat 47 (2 * s.val) a.val 0 m.code 9)
  | .txnorpop c d a b m => some (wordT3 c.toNat 48 d.val a.val b.val m.code 0)
  | .tpext c d a b m => some (wordT3 c.toNat 48 d.val a.val b.val m.code 1)
  | .tpins c d a b m => some (wordT3 c.toNat 48 d.val a.val b.val m.code 2)
  | .tld c v a m => some (wordTM c.toNat 49 v.val a.val 0 0 m.code 0 0)
  | .tlds c v a s m => some (wordTM c.toNat 49 v.val a.val s.val 0 m.code 0 1)
  | .tldx c v a x m => some (wordTM c.toNat 49 v.val a.val x.val 0 m.code 0 2)
  | .tldxo c v a x m => some (wordTM c.toNat 49 v.val a.val x.val 1 m.code 0 2)
  | .tldff c v a m => some (wordTM c.toNat 49 v.val a.val 0 0 m.code 0 3)
  | .tldseg c v a t m n => some (wordTM c.toNat 49 v.val a.val t.val 0 m.code 1 n.val)
  | .tst c v a m => some (wordTM c.toNat 50 v.val a.val 0 0 m.code 0 0)
  | .tsts c v a s m => some (wordTM c.toNat 50 v.val a.val s.val 0 m.code 0 1)
  | .tstx c v a x m => some (wordTM c.toNat 50 v.val a.val x.val 0 m.code 0 2)
  | .tstxo c v a x m => some (wordTM c.toNat 50 v.val a.val x.val 1 m.code 0 2)
  | .tstseg c v a t m n => some (wordTM c.toNat 50 v.val a.val t.val 0 m.code 1 n.val)
  | .tldsc c v a x m => some (wordTC c.toNat 51 v.val a.val x.val 0 m.code 0)
  | .tstsc c v a x m => some (wordTC c.toNat 51 v.val a.val x.val 0 m.code 1)
  | .tgll c v a x m => some (wordTC c.toNat 51 v.val a.val x.val 0 m.code 2)
  | .tscc c v a x m => some (wordTC c.toNat 51 v.val a.val x.val 0 m.toNat 3)
  | .mxattach c d a b => some (wordMX c.toNat 53 d.val a.val b.val 0 0 0)
  | .mxdetach c d p => some (wordMX c.toNat 53 d.val 0 p.val 0 0 1)
  | .mxzero c d => some (wordMX c.toNat 53 d.val 0 0 0 0 2)
  | .mxsync c d p => some (wordMX c.toNat 53 d.val 0 p.val 0 0 3)
  | .mxop c d a b m e => some (wordMX c.toNat 53 d.val a.val b.val m.code e.toNat 4)
  | .mxopn c d a b m e => some (wordMX c.toNat 53 d.val a.val b.val m.code e.toNat 5)
  | .xcopy c d a b p => some (wordX c.toNat 54 d.val a.val b.val p.val 0)
  | .xcopy2 c d a b p => some (wordX c.toNat 54 d.val a.val b.val p.val 1)
  | .xcopy3 c d a b p => some (wordX c.toNat 54 d.val a.val b.val p.val 2)
  | .xgath c d a b p => some (wordX c.toNat 54 d.val a.val b.val p.val 3)
  | .xput c d a b p => some (wordX c.toNat 54 d.val a.val b.val p.val 4)
  | .xseal c d a p => some (wordX c.toNat 54 d.val a.val 0 p.val 5)
  | .xunseal c d a p => some (wordX c.toNat 54 d.val a.val 0 p.val 6)
  | .xbar c p => some (wordX c.toNat 54 0 0 0 p.val 7)
  | .xcancel c p => some (wordX c.toNat 54 0 0 0 p.val 8)
  | .qdot c v q p a => some (wordQ c.toNat 55 v.val q.val p.val a.val 0)
  | .qdotm c v q p a => some (wordQ c.toNat 55 v.val q.val p.val a.val 1)
  | .qdotx c v q p a => some (wordQ c.toNat 55 v.val q.val p.val a.val 2)
  | .qsum c v q p a => some (wordQ c.toNat 55 v.val q.val p.val a.val 3)
  | .qcount c v q p a => some (wordQ c.toNat 56 v.val q.val p.val a.val 0)
  | .qmax c v q p a => some (wordQ c.toNat 56 v.val q.val p.val a.val 1)
  | .qmin c v q p a => some (wordQ c.toNat 56 v.val q.val p.val a.val 2)
  | .qbest c v p a => some (wordQ c.toNat 56 v.val 0 p.val a.val 3)
  | .qhamm c v q p a => some (wordQ c.toNat 57 v.val q.val p.val a.val 0)
  | .qcode c v q p a => some (wordQ c.toNat 57 v.val q.val p.val a.val 1)
  | .qnarrow c v t p a => some (wordQ c.toNat 57 v.val t.val p.val a.val 2)
  | .qgsum c v q p a => some (wordQ c.toNat 57 v.val q.val p.val a.val 3)
  | .qst c v a => some (wordQ c.toNat 58 v.val 0 0 a.val 0)
  | .qstx c v q a => some (wordQ c.toNat 58 v.val q.val 0 a.val 0)
  | .qraddAdd c v q a => some (wordQ c.toNat 58 v.val q.val 0 a.val 1)
  | .qraddMax c v q a => some (wordQ c.toNat 58 v.val q.val 1 a.val 1)
  | .qraddMin c v q a => some (wordQ c.toNat 58 v.val q.val 2 a.val 1)
  | .qraddOr c v q a => some (wordQ c.toNat 58 v.val q.val 3 a.val 1)
  | .qraddAnd c v q a => some (wordQ c.toNat 58 v.val q.val 4 a.val 1)
  | .qappend c v q p a => some (wordQ c.toNat 58 v.val q.val p.val a.val 2)
  | .qcas c v q p a => some (wordQ c.toNat 58 v.val q.val p.val a.val 3)
  | .qeval c s a => some (wordQ c.toNat 59 (2 * s.val) 0 0 a.val 0)
  | .qcopy c d p a => some (wordQ c.toNat 59 (2 * d.val) 0 p.val a.val 1)
  | .qmerge c d q p a => some (wordQ c.toNat 59 (2 * d.val) q.val p.val a.val 2)
  | .issueConvoy _ => none
  | .elementPerform _ _ _ => none
  | .turnTicket _ _ _ => none
  | .writeBufferDrain _ _ => none
  | .spadHomeApply _ => none
  | .monitorWake _ => none
  | .fenceComplete _ => none
  | .pwaitComplete _ => none
  | .haltComplete _ => none
  | .allotComplete _ => none
  | .reseatApply _ => none
  | .launchHandoff _ => none
  | .wmpubApply _ => none
  | .streamAccept _ => none
  | .streamChunkPerform _ _ => none
  | .landingFlagStore _ => none
  | .hostFlushReadReturn _ _ => none
  | .peerAcknowledgement _ _ => none
  | .chawickFrameReceive _ _ _ _ _ _ => none
  | .queryAccept _ => none
  | .queryQueueSend _ => none
  | .stackUnitTouch _ _ => none
  | .stackUnitWriteApply _ _ => none
  | .parityDeltaAccept _ => none
  | .parityDeltaApply _ _ => none
  | .fullStripeWrite _ _ => none
  | .reconstructingRead _ _ => none
  | .queryReplyChunk _ _ => none
  | .qcopyChunkPerform _ _ => none
  | .collectionItemStep _ => none
  | .sideCountRaise _ => none
  | .qmergeCopy _ => none
  | .qmergeSwitch _ => none
  | .qevalElement _ _ => none
  | .baseTableLoad _ => none
  | .matrixAccept _ => none
  | .mxattachSlotGrant _ => none
  | .mxattachLoadDone _ => none
  | .matrixArbiterCycle _ => none
  | .matrixChunkLand _ _ => none
  | .heldInstructionReaccept _ => none
  | .remapSwitch _ => none
  | .exportMarkSet => none
  | .translationWalk _ _ => none
  | .scrubRowVisit _ _ _ => none
  | .cleanRowExpiry _ _ _ => none
  | .stackFatalError _ => none
  | .degradedSwitch _ => none
  | .preemptionRequest _ _ => none
  | .preemptionTaken _ => none
  | .contextSave _ => none
  | .contextRestore _ _ => none
  | .worldSwitch _ _ => none
  | .worldSwitchClear _ => none
  | .contextRemoval _ => none
  | .removalStepDrained _ => none
  | .removalStall _ => none
  | .agingInterval _ _ _ => none
  | .launchPlacement => none
  | .packetHead _ => none
  | .packetFetchStart _ => none
  | .launchPacket _ => none
  | .mode _ => none
  | .cancel _ => none
  | .summaryPacket _ => none
  | .packetReservedOpcode _ => none
  | .queueTailDoorbell _ _ => none
  | .completionHeadWrite _ _ => none
  | .ringBaseWrite _ _ => none
  | .completionBaseWrite _ _ => none
  | .hostBarWrite _ _ _ => none
  | .dstartWarm _ => none
  | .warmStartQuiesced => none
  | .dpcapWrite _ => none
  | .worldCreate _ => none
  | .worldDestroy _ => none
  | .asidCreate _ _ => none
  | .asidDestroy _ => none
  | .map _ _ _ _ => none
  | .unmap _ _ => none
  | .queueBind _ _ _ => none
  | .handlerSet _ _ _ => none
  | .portBind _ _ => none
  | .regionAlloc _ _ _ _ _ _ _ _ _ => none
  | .regionFree _ => none
  | .summary _ _ => none
  | .dumpErrors _ _ _ => none
  | .mailboxReservedCode _ => none
  | .moduleLoad _ _ _ => none
  | .moduleReady _ => none
  | .getVersion _ _ => none
  | .getCapabilities _ _ => none
  | .negotiateAlgorithms _ _ => none
  | .getDigests _ _ => none
  | .getCertificate _ _ => none
  | .challenge _ _ => none
  | .getMeasurements _ _ => none
  | .keyExchange _ _ _ _ => none
  | .finish _ _ => none
  | .heartbeat _ _ => none
  | .keyUpdate _ _ => none
  | .endSession _ _ => none
  | .unsupportedRequest _ _ => none
  | .ownerBind _ _ => none
  | .setQratio _ _ _ => none
  | .allowModule _ _ _ => none
  | .allowPort _ _ _ _ _ => none
  | .pathAssert _ _ => none
  | .ownerSeal _ _ => none
  | .ideKm _ => none
  | .coldStart => none
  | .phyTraining _ _ => none
  | .selfTest _ _ _ => none
  | .qmScrub _ => none
  | .parityVerification _ => none
  | .keyDerivation _ _ => none
  | .firmwareMeasurement _ => none
  | .deviceFatalError _ => none
  | .hostLinkDown => none
  | .hostLinkTrained => none
  | .ideSecureStateLoss => none
  | .portLinkDrop _ => none
  | .portRetrain _ _ => none
  | .frameTagFailure _ => none
  | .frameKeyLimit _ => none
  | .junctionTemperature _ => none
  | .powerEstimateWindow _ => none
  | .powerMeasureWindow _ => none
  | .illegalOpcode _ => none
  | .fetchBound _ => none
  | .misalignedFetch _ => none
  | .hostReadReturn _ _ => none

/-- The instruction a word decodes to when two rows share the word: writing `EAFQR` (R375) is decoded as `putsrEafqrResume`. -/
def canonical (i : Instr) : Instr :=
  match i with
  | .putsrEafqrDiscard a => .putsrEafqrResume a
  | i => i

end Sys2Proof
end

