-- ==== Sys2Proof/Config.lean ====
section
/-! DEFINITION. What an implementation fixes and what the manual leaves open. A constant here has no body: nothing can
be proved of its value, so a statement that mentions it holds for every value (notes/assumptions 5, 6, 8 and 100). -/

set_option Elab.async false

namespace Sys2Proof

/-- The c that have passed since the last read of `CLOCK`; the argument is a counter that never repeats
(R236; notes/assumptions/8.md). -/
opaque Config.freeElapsed : Nat → Nat

/-- A value the manual does not state, applied to the model's counter `fresh` (notes/assumptions/5.md). -/
opaque Config.freeValue : Nat → Nat

/-- `DID.REV`, the silicon revision (R438). -/
opaque Config.revision : BitVec 16

/-- The fused serial (R432, R434, R440). -/
opaque Config.serial : List Byte

/-- The SHA-256 of the vendor's modulus, fused (R430, R434). -/
opaque Config.vendorKeyHash : BitVec 256

/-- The payload of the firmware image (R430, R434). -/
opaque Config.firmwarePayload : List Byte

/-- The firmware version and its security version number (R430, R434, R453). -/
opaque Config.firmwareVersion : BitVec 32
opaque Config.firmwareSvn : BitVec 32

/-- The SVN fused as the least that boot code accepts (R430). -/
opaque Config.minimumSvn : BitVec 32

/-- The fault code with which boot code stops on an image it refuses: the manual gives none (R430, R443;
notes/assumptions/90.md). -/
opaque Config.bootFault : Nat

/-- The identity public key, which the fused secret fixes: the same at every start (R432). -/
opaque Config.identityKey : List Byte

/-- The certificates of slot 0: the vendor root, the manufacturing CA, and what X.509 v3 puts around the identity public key and
the fused serial in the device certificate (R432). -/
opaque Config.vendorRoot : List Byte
opaque Config.manufacturingCa : List Byte
opaque Config.deviceCertificate : (key serial : List Byte) → List Byte

/-- Does a peer's certificate chain, as its `FINISH` carries it, lead to the vendor root (R436)? -/
opaque Config.chainVerifies : (finish : List Byte) → Bool

/-- Does the device take RSAPSS-3072 of what a `NEGOTIATE_ALGORITHMS` offers (R433)? -/
opaque Config.takesPss : (request : List Byte) → Bool

/-- The type that SPDM 1.3 gives the value of a measurement block. -/
opaque Config.measurementType : (index : Nat) → Byte

/-- What SPDM 1.3 puts before and behind the fields of a response that the manual states (R433). -/
opaque Config.spdmHead : (code session : Nat) → (request : List Byte) → List Byte
opaque Config.spdmTail : (code session : Nat) → (request body : List Byte) → List Byte

/-- The link-layer replays of the host link since they were last looked at (R444, R447; notes/assumptions/100.md). -/
opaque Config.freeReplays : Nat → Nat

/-- Where a world's 12-byte seal nonces start: they count up from there, so that none repeats under one key (R293). -/
opaque Config.nonceBase : (world : Nat) → Nat

/-- The sealing root, derived from the fused secret (R418). -/
opaque Config.sealingRoot : BitVec 256

/-- Bits [55:48] of the virtual addresses at which the command processor maps windows and barrier dwords: the manual
gives no address (R101, R400; notes/assumptions/5.md). -/
opaque Config.windowTop : BitVec 8

end Sys2Proof
end

