-- ==== Sys2Proof/Machine/Numbers.lean ====
section
/-! DEFINITION. Number formats and the rules of arithmetic (spec/05_number_formats.md R105 to R133) and
the element type codes (spec/04_tile_programs.md R85). An element is held as the natural number of its bits;
arithmetic is exact on integers or dyadic values and is rounded once by `pack`. -/

set_option Elab.async false

namespace Sys2Proof.Machine

/-! ### Flags (R117) -/

/-- The seven sticky flags as bits [6:0] of `FLAGS` (R117). -/
abbrev Flags := BitVec 7

def flagNV : Flags := 1#7
def flagDZ : Flags := 2#7
def flagOF : Flags := 4#7
def flagUF : Flags := 8#7
def flagNX : Flags := 16#7
def flagSAT : Flags := 32#7
def flagCLK : Flags := 64#7

/-- A result together with the flags it raises. -/
structure Res where
  val : Nat
  flags : Flags
  deriving DecidableEq, Repr

/-- A flag raised only when a condition holds. -/
def flagIf (c : Bool) (f : Flags) : Flags := if c then f else 0

/-! ### Rounding modes (R112) -/

/-- `FRM.MODE` (R112). -/
inductive Rm where
  | rne | rtz | rdn | rup | rmm | rod
  deriving DecidableEq, Repr

/-- The mode of an `FRM` value; 6 and 7 are never held (R112). -/
def Rm.ofCode (n : Nat) : Rm :=
  match n with
  | 0 => .rne
  | 1 => .rtz
  | 2 => .rdn
  | 3 => .rup
  | 4 => .rmm
  | _ => .rod

/-- `XRM.MODE` (R112). -/
inductive Xrm where
  | hup | hev | flr | jam
  deriving DecidableEq, Repr

def Xrm.ofCode (n : Nat) : Xrm :=
  match n with
  | 0 => .hup
  | 1 => .hev
  | 2 => .flr
  | _ => .jam

/-! ### Element types (R85, R105, R108) -/

/-- The floating formats of R108. -/
inductive FName where
  | fp64 | fp32 | fp16 | bf16 | e5m2 | e4m3 | e2m1
  deriving DecidableEq, Repr

/-- How a format spends its top exponent (R108, last two columns). -/
inductive Special where
  /-- E all-ones: infinity when the fraction is 0, else NaN -/
  | ieee
  /-- only S.1111.111 is NaN, no infinity -/
  | e4m3
  /-- neither infinity nor NaN -/
  | none
  deriving DecidableEq, Repr

/-- The layout of a floating format (R108). -/
structure FFmt where
  eb : Nat
  mb : Nat
  bias : Nat
  special : Special
  deriving DecidableEq, Repr

def FName.fmt : FName → FFmt
  | .fp64 => ⟨11, 52, 1023, .ieee⟩
  | .fp32 => ⟨8, 23, 127, .ieee⟩
  | .fp16 => ⟨5, 10, 15, .ieee⟩
  | .bf16 => ⟨8, 7, 127, .ieee⟩
  | .e5m2 => ⟨5, 2, 15, .ieee⟩
  | .e4m3 => ⟨4, 3, 7, .e4m3⟩
  | .e2m1 => ⟨2, 1, 1, .none⟩

def FFmt.width (F : FFmt) : Nat := 1 + F.eb + F.mb

/-- The element types of R85. `slice` is `ki`w (signed) or `kn`w. -/
inductive ElemTy where
  | int (signed : Bool) (w : Nat)
  | flt (n : FName)
  | e8m0
  | slice (signed : Bool) (w : Nat)
  deriving DecidableEq, Repr

/-- The SEW codes of R85; every other code is illegal. -/
def ElemTy.ofCode (c : Nat) : Option ElemTy :=
  match c with
  | 0x00 => some (.int true 8)
  | 0x01 => some (.int true 16)
  | 0x02 => some (.int true 32)
  | 0x03 => some (.int true 64)
  | 0x04 => some (.int false 8)
  | 0x05 => some (.int false 16)
  | 0x06 => some (.int false 32)
  | 0x07 => some (.int false 64)
  | 0x08 => some (.flt .fp16)
  | 0x09 => some (.flt .bf16)
  | 0x0A => some (.flt .fp32)
  | 0x0B => some (.flt .fp64)
  | 0x0C => some (.flt .e4m3)
  | 0x0D => some (.flt .e5m2)
  | 0x0E => some (.flt .e2m1)
  | 0x0F => some .e8m0
  | c =>
    if 0x10 ≤ c ∧ c ≤ 0x1F then some (.slice true (c - 0x10 + 1))
    else if 0x20 ≤ c ∧ c ≤ 0x2F then some (.slice false (c - 0x20 + 1))
    else none

/-- The width in bits of a type (R85, R170). -/
def ElemTy.width : ElemTy → Nat
  | .int _ w => w
  | .flt n => n.fmt.width
  | .e8m0 => 8
  | .slice _ w => w

def ElemTy.isSlice : ElemTy → Bool
  | .slice _ _ => true
  | _ => false

/-- The set F of the arithmetic chapter: `fp64`, `fp32`, `fp16`, `bf16`. -/
def ElemTy.inF : ElemTy → Bool
  | .flt .fp64 => true
  | .flt .fp32 => true
  | .flt .fp16 => true
  | .flt .bf16 => true
  | _ => false

/-- The sets I and N together. -/
def ElemTy.inIN : ElemTy → Bool
  | .int _ _ => true
  | _ => false

def ElemTy.inI : ElemTy → Bool
  | .int s _ => s
  | _ => false

def ElemTy.isFloat : ElemTy → Bool
  | .flt _ => true
  | _ => false

/-- Signed reading under I and `ki`w (R141). -/
def ElemTy.signed : ElemTy → Bool
  | .int s _ => s
  | .slice s _ => s
  | _ => false

/-! ### Integers (R105 to R107, R116) -/

/-- The two's complement value of the low `w` bits (R105). -/
def toSigned (w x : Nat) : Int :=
  let y := x % 2 ^ w
  if w ≠ 0 ∧ 2 ^ (w - 1) ≤ y then (y : Int) - (2 : Int) ^ w else y

/-- An exact integer wrapped modulo 2^w (R106). -/
def wrap (w : Nat) (v : Int) : Nat := (v % (2 : Int) ^ w).toNat

/-- The value of an element of an integer type (R105). -/
def intVal (signed : Bool) (w x : Nat) : Int :=
  if signed then toSigned w x else ((x % 2 ^ w : Nat) : Int)

def intMin (signed : Bool) (w : Nat) : Int := if signed then -(2 : Int) ^ (w - 1) else 0
def intMax (signed : Bool) (w : Nat) : Int :=
  if signed then (2 : Int) ^ (w - 1) - 1 else (2 : Int) ^ w - 1

/-- `sat(fmt, x)`: clamps to the type and raises SAT when it clamps (R106). -/
def sat (signed : Bool) (w : Nat) (v : Int) : Res :=
  if v < intMin signed w then ⟨wrap w (intMin signed w), flagSAT⟩
  else if intMax signed w < v then ⟨wrap w (intMax signed w), flagSAT⟩
  else ⟨wrap w v, 0⟩

/-- Quotient truncated toward zero with the exceptional cases of R107. -/
def divTrunc (signed : Bool) (w a b : Nat) : Nat :=
  if b % 2 ^ w = 0 then 2 ^ w - 1
  else wrap w (Int.tdiv (intVal signed w a) (intVal signed w b))

/-- Remainder with the dividend's sign, with the exceptional cases of R107. -/
def remTrunc (signed : Bool) (w a b : Nat) : Nat :=
  if b % 2 ^ w = 0 then a % 2 ^ w
  else wrap w (Int.tmod (intVal signed w a) (intVal signed w b))

/-- Fixed-point rounding of an exact integer shifted right by `d` (R116). -/
def xround (v : Int) (d : Nat) (xrm : Xrm) : Int :=
  if d = 0 then v
  else
    let q := Int.fdiv v ((2 : Int) ^ d)
    let rest := v - q * (2 : Int) ^ d
    let half := (2 : Int) ^ (d - 1)
    match xrm with
    | .hup => if half ≤ rest then q + 1 else q
    | .hev => if half < rest ∨ (rest = half ∧ q % 2 = 1) then q + 1 else q
    | .flr => q
    | .jam => if rest ≠ 0 ∧ q % 2 = 0 then q + 1 else q

/-! ### Exact floating values -/

/-- The value of an encoding. A finite non-zero value is (-1)^neg * man * 2^exp. A NaN keeps its fraction field
`frac` of `fw` bits, quiet bit included (R110). -/
inductive FVal where
  | zero (neg : Bool)
  | fin (neg : Bool) (man : Nat) (exp : Int)
  | inf (neg : Bool)
  | nan (neg : Bool) (frac fw : Nat) (quiet : Bool)
  deriving DecidableEq, Repr

def FVal.neg? : FVal → Bool
  | .zero s => s
  | .fin s _ _ => s
  | .inf s => s
  | .nan s _ _ _ => s

def FVal.isNan : FVal → Bool
  | .nan _ _ _ _ => true
  | _ => false

/-- A signalling NaN (R110). -/
def FVal.isSnan : FVal → Bool
  | .nan _ _ _ q => !q
  | _ => false

def FVal.isZero : FVal → Bool
  | .zero _ => true
  | _ => false

def FVal.isInf : FVal → Bool
  | .inf _ => true
  | _ => false

/-- Exact negation of a number; a NaN keeps its sign (R150). -/
def FVal.negate : FVal → FVal
  | .zero s => .zero (!s)
  | .fin s m e => .fin (!s) m e
  | .inf s => .inf (!s)
  | .nan s f w q => .nan s f w q

/-- The canonical quiet NaN (R109): its fraction is the quiet bit alone. -/
def FVal.canonical : FVal := .nan false 1 1 true

/-- Reads an encoding of a format (R108, R110). An `e4m3` NaN has no quiet bit; in a wider format its fraction 111 stands
left-aligned, which is the model's choice of payload (R125; notes/assumptions/84.md). -/
def unpack (F : FFmt) (x : Nat) : FVal :=
  let neg := x.testBit (F.eb + F.mb)
  let e := x / 2 ^ F.mb % 2 ^ F.eb
  let m := x % 2 ^ F.mb
  if F.special = .ieee ∧ e = 2 ^ F.eb - 1 then
    if m = 0 then .inf neg else .nan neg m F.mb (m.testBit (F.mb - 1))
  else if F.special = .e4m3 ∧ e = 15 ∧ m = 7 then .nan neg m F.mb true
  else if e = 0 then
    if m = 0 then .zero neg else .fin neg m (1 - (F.bias : Int) - F.mb)
  else .fin neg (2 ^ F.mb + m) ((e : Int) - F.bias - F.mb)

/-- The E8M0 scale code `c` ≠ 0xFF is 2^(c - 127) (R111). -/
def scaleVal (c : Nat) : FVal :=
  if c % 256 = 255 then .canonical else .fin false 1 ((c % 256 : Nat) - 127)

/-- The encoding of the canonical quiet NaN (R109); `e2m1` has none and gives +0 (R125). -/
def qnan (F : FFmt) : Nat :=
  match F.special with
  | .ieee => (2 ^ F.eb - 1) * 2 ^ F.mb + 2 ^ (F.mb - 1)
  | .e4m3 => 0x7F
  | .none => 0

/-- The magnitude of the largest finite encoding (R108, R109). -/
def maxFin (F : FFmt) : Nat :=
  match F.special with
  | .ieee => (2 ^ F.eb - 1) * 2 ^ F.mb - 1
  | .e4m3 => 2 ^ (F.eb + F.mb) - 2
  | .none => 2 ^ (F.eb + F.mb) - 1

/-- `man / 2^sh` rounded to an integer magnitude under a mode; the Bool says inexact (R113). -/
def roundShift (mode : Rm) (neg : Bool) (man sh : Nat) : Nat × Bool :=
  let q := man >>> sh
  let rest := man % 2 ^ sh
  if rest = 0 then (q, false)
  else
    let half := 2 ^ (sh - 1)
    let up : Bool :=
      match mode with
      | .rne => decide (half < rest) || (decide (rest = half) && decide (q % 2 = 1))
      | .rtz => false
      | .rdn => neg
      | .rup => !neg
      | .rmm => decide (half ≤ rest)
      | .rod => decide (q % 2 = 0)
    (if up then q + 1 else q, true)

/-- `man * 2^d` for an integer `d`, rounded to an integer magnitude. -/
def roundScaled (mode : Rm) (neg : Bool) (man : Nat) (d : Int) : Nat × Bool :=
  if 0 ≤ d then (man * 2 ^ d.toNat, false) else roundShift mode neg man (-d).toNat

/-- The sign bit placed above a magnitude. -/
def withSign (F : FFmt) (neg : Bool) (mag : Nat) : Nat :=
  if neg then mag + 2 ^ (F.eb + F.mb) else mag

/-- Does an overflowed result become an infinity (R114)? -/
def overflowsToInf (F : FFmt) (mode : Rm) (neg : Bool) : Bool :=
  decide (F.special = .ieee) &&
    match mode with
    | .rne => true
    | .rmm => true
    | .rup => !neg
    | .rdn => neg
    | .rtz => false
    | .rod => false

/-- The finite non-zero value `man * 2^exp` rounded once (R113 to R115). `q` counts units of the last place of the
result; the encoding of a magnitude is linear in `q` within a binade, so the exponent field is added on. -/
def packFin (F : FFmt) (mode : Rm) (neg : Bool) (man : Nat) (exp : Int) : Res :=
  let top : Int := exp + Nat.log2 man
  let emin : Int := 1 - F.bias
  let qe : Int := (if top < emin then emin else top) - F.mb
  let r := roundScaled mode neg man (exp - qe)
  let field : Nat := (qe - (emin - F.mb)).toNat
  let mag := field * 2 ^ F.mb + r.1
  let tiny : Bool :=
    decide (top < emin) &&
      (let u := roundScaled mode neg man (exp - (top - F.mb))
       decide (top - F.mb + Nat.log2 u.1 < emin))
  if maxFin F < mag then
    ⟨withSign F neg (if overflowsToInf F mode neg then (2 ^ F.eb - 1) * 2 ^ F.mb else maxFin F), flagOF ||| flagNX⟩
  else ⟨withSign F neg mag, flagIf r.2 flagNX ||| flagIf (r.2 && tiny) flagUF⟩

/-- A value rounded once to a format: R113 to R115 for numbers, R121 and R125 for NaN and infinity. -/
def pack (F : FFmt) (mode : Rm) (v : FVal) : Res :=
  match v with
  | .zero s => ⟨withSign F s 0, 0⟩
  | .fin s m e => if m = 0 then ⟨withSign F s 0, 0⟩ else packFin F mode s m e
  | .inf s =>
    match F.special with
    | .ieee => ⟨withSign F s ((2 ^ F.eb - 1) * 2 ^ F.mb), 0⟩
    | _ => ⟨withSign F s (maxFin F), flagNV⟩
  | .nan s frac fw _ =>
    match F.special with
    | .ieee =>
      let p := if fw ≤ F.mb then frac * 2 ^ (F.mb - fw) else frac / 2 ^ (fw - F.mb)
      ⟨withSign F s ((2 ^ F.eb - 1) * 2 ^ F.mb + (p ||| 2 ^ (F.mb - 1))), 0⟩
    | .e4m3 => ⟨withSign F s 0x7F, 0⟩
    | .none => ⟨0, flagNV⟩

/-! ### Exact operations (R118 to R122, R149, R150) -/

/-- R121 step 1: the first NaN of the operands in order, NV for any signalling one. -/
def firstNan (vs : List FVal) : Option FVal := vs.find? FVal.isNan

def snanFlag (vs : List FVal) : Flags := flagIf (vs.any FVal.isSnan) flagNV

/-- An exact value with the flags its operation raises before rounding. -/
structure FRes where
  v : FVal
  flags : Flags
  deriving DecidableEq, Repr

/-- The exact value of an integer times a power of two. -/
def ofInt (v : Int) (e : Int) : FVal :=
  if v = 0 then .zero false else .fin (decide (v < 0)) v.natAbs e

/-- Sum of two non-NaN values; `mode` fixes the sign of an exact zero (R118, R122). -/
def addNum (mode : Rm) (a b : FVal) : FRes :=
  match a, b with
  | .inf s, .inf t => if s = t then ⟨.inf s, 0⟩ else ⟨.canonical, flagNV⟩
  | .inf s, _ => ⟨.inf s, 0⟩
  | _, .inf t => ⟨.inf t, 0⟩
  | .zero s, .zero t => if s = t then ⟨.zero s, 0⟩ else ⟨.zero (decide (mode = .rdn)), 0⟩
  | .zero _, b => ⟨b, 0⟩
  | a, .zero _ => ⟨a, 0⟩
  | .fin s m e, .fin t n k =>
    let lo := if e ≤ k then e else k
    let x : Int := (m * 2 ^ (e - lo).toNat : Nat)
    let y : Int := (n * 2 ^ (k - lo).toNat : Nat)
    let sum := (if s then -x else x) + (if t then -y else y)
    if sum = 0 then ⟨.zero (decide (mode = .rdn)), 0⟩ else ⟨ofInt sum lo, 0⟩
  | a, _ => ⟨a, 0⟩

/-- Product of two non-NaN values (R118, R122). -/
def mulNum (a b : FVal) : FRes :=
  let s := a.neg? != b.neg?
  match a, b with
  | .inf _, .zero _ => ⟨.canonical, flagNV⟩
  | .zero _, .inf _ => ⟨.canonical, flagNV⟩
  | .inf _, _ => ⟨.inf s, 0⟩
  | _, .inf _ => ⟨.inf s, 0⟩
  | .zero _, _ => ⟨.zero s, 0⟩
  | _, .zero _ => ⟨.zero s, 0⟩
  | .fin _ m e, .fin _ n k => ⟨.fin s (m * n) (e + k), 0⟩
  | a, _ => ⟨a, 0⟩

/-- Sum with NaN rules (R121). -/
def addVal (mode : Rm) (a b : FVal) : FRes :=
  match firstNan [a, b] with
  | some n => ⟨n, snanFlag [a, b]⟩
  | none => addNum mode a b

/-- Product with NaN rules (R121). -/
def mulVal (a b : FVal) : FRes :=
  match firstNan [a, b] with
  | some n => ⟨n, snanFlag [a, b]⟩
  | none => mulNum a b

/-- Quotient to 66 or more bits with a sticky last bit, enough for one rounding to any format (R120, R149). -/
def divNum (a b : FVal) : FRes :=
  let s := a.neg? != b.neg?
  match a, b with
  | .inf _, .inf _ => ⟨.canonical, flagNV⟩
  | .inf _, _ => ⟨.inf s, 0⟩
  | _, .inf _ => ⟨.zero s, 0⟩
  | .zero _, .zero _ => ⟨.canonical, flagNV⟩
  | _, .zero _ => ⟨.inf s, flagDZ⟩
  | .zero _, _ => ⟨.zero s, 0⟩
  | .fin _ m e, .fin _ n k =>
    let sh := Nat.log2 n + 66
    let q := m * 2 ^ sh / n
    let sticky := if m * 2 ^ sh % n = 0 then 0 else 1
    ⟨.fin s (2 * q + sticky) (e - k - sh - 1), 0⟩
  | a, _ => ⟨a, 0⟩

def divVal (a b : FVal) : FRes :=
  match firstNan [a, b] with
  | some n => ⟨n, snanFlag [a, b]⟩
  | none => divNum a b

/-- Integer square root, one result bit at a time from bit `n`. -/
def isqrtAux (x : Nat) : Nat → Nat → Nat
  | 0, r => r
  | n + 1, r =>
    let c := r + 2 ^ n
    isqrtAux x n (if c * c ≤ x then c else r)

/-- The integer part of the square root. -/
def isqrt (x : Nat) : Nat := isqrtAux x (Nat.log2 x / 2 + 1) 0

/-- `man * 2^exp` written with an even exponent. -/
def evenExp (man : Nat) (exp : Int) : Nat × Int :=
  if exp % 2 = 0 then (man, exp) else (2 * man, exp - 1)

/-- Square root (R118, R122, R149), with a sticky last bit. -/
def sqrtVal (a : FVal) : FRes :=
  match a with
  | .nan _ _ _ _ => ⟨a, snanFlag [a]⟩
  | .zero _ => ⟨a, 0⟩
  | .inf false => ⟨a, 0⟩
  | .inf true => ⟨.canonical, flagNV⟩
  | .fin true _ _ => ⟨.canonical, flagNV⟩
  | .fin false m e =>
    let p := evenExp m e
    let x := p.1 * 2 ^ 132
    let r := isqrt x
    ⟨.fin false (2 * r + (if r * r = x then 0 else 1)) (p.2 / 2 - 67), 0⟩

/-- 1 / sqrt(a) for a finite positive value, with a sticky last bit (R153). -/
def rsqrtFin (man : Nat) (exp : Int) : FVal :=
  let p := evenExp man exp
  let t := Nat.log2 p.1 / 2 + 68
  let num := 2 ^ (2 * t)
  let q := isqrt (num / p.1)
  .fin false (2 * q + (if q * q * p.1 = num then 0 else 1)) (-(t : Int) - 1 - p.2 / 2)

/-- Fused multiply-add of exact values: ±(a × b) ± d, NaN order a, b, d (R118, R121, R150). -/
def fmaVal (mode : Rm) (negP negD : Bool) (a b d : FVal) : FRes :=
  let invalid := flagIf ((a.isZero && b.isInf) || (a.isInf && b.isZero)) flagNV
  match firstNan [a, b, d] with
  | some n => ⟨n, snanFlag [a, b, d] ||| invalid⟩
  | none =>
    let p := mulNum a b
    if p.v.isNan then p
    else addNum mode (if negP then p.v.negate else p.v) (if negD then d.negate else d)

/-- An exact result rounded to a format, with both sets of flags. -/
def FRes.round (F : FFmt) (mode : Rm) (r : FRes) : Res :=
  let p := pack F mode r.v
  ⟨p.val, r.flags ||| p.flags⟩

def fadd (F : FFmt) (mode : Rm) (a b : Nat) : Res := (addVal mode (unpack F a) (unpack F b)).round F mode
/-- a − b; a NaN b keeps its own sign (R121). -/
def fsub (F : FFmt) (mode : Rm) (a b : Nat) : Res := (addVal mode (unpack F a) (unpack F b).negate).round F mode
def fmul (F : FFmt) (mode : Rm) (a b : Nat) : Res := (mulVal (unpack F a) (unpack F b)).round F mode
def fdiv (F : FFmt) (mode : Rm) (a b : Nat) : Res := (divVal (unpack F a) (unpack F b)).round F mode
/-- b − a and b ÷ a of the reversed scalar forms: the NaN order stays a, b (R121, R154). -/
def frsub (F : FFmt) (mode : Rm) (a b : Nat) : Res :=
  match firstNan [unpack F a, unpack F b] with
  | some n => (⟨n, snanFlag [unpack F a, unpack F b]⟩ : FRes).round F mode
  | none => fsub F mode b a
def frdiv (F : FFmt) (mode : Rm) (a b : Nat) : Res :=
  match firstNan [unpack F a, unpack F b] with
  | some n => (⟨n, snanFlag [unpack F a, unpack F b]⟩ : FRes).round F mode
  | none => fdiv F mode b a
def fsqrt (F : FFmt) (mode : Rm) (a : Nat) : Res := (sqrtVal (unpack F a)).round F mode
def ffma (F : FFmt) (mode : Rm) (negP negD : Bool) (a b d : Nat) : Res :=
  (fmaVal mode negP negD (unpack F a) (unpack F b) (unpack F d)).round F mode

/-! ### Sign operations (R152) -/

def fsignBit (F : FFmt) (a : Nat) : Bool := a.testBit (F.eb + F.mb)
def fmag (F : FFmt) (a : Nat) : Nat := a % 2 ^ (F.eb + F.mb)

def fsignc (F : FFmt) (a b : Nat) : Nat := withSign F (fsignBit F b) (fmag F a)
def fsignn (F : FFmt) (a b : Nat) : Nat := withSign F (!fsignBit F b) (fmag F a)
def fsignx (F : FFmt) (a b : Nat) : Nat := withSign F (fsignBit F a != fsignBit F b) (fmag F a)

/-! ### Estimates (R153) -/

/-- Clears fraction bits [m − 8 : 0] of a finite result that is not ±max. -/
def clearLow (F : FFmt) (y : Nat) : Nat :=
  if fmag F y = maxFin F ∨ (2 ^ F.eb - 1) * 2 ^ F.mb ≤ fmag F y then y
  else y - y % 2 ^ (F.mb - 7)

/-- `tfrece` (R153). -/
def frece (F : FFmt) (a : Nat) : Res :=
  match unpack F a with
  | .zero s => ⟨withSign F s ((2 ^ F.eb - 1) * 2 ^ F.mb), flagDZ⟩
  | .inf s => ⟨withSign F s 0, 0⟩
  | .nan s f w q => (FRes.mk (.nan s f w q) (flagIf (!q) flagNV)).round F .rtz
  | .fin s m e =>
    let r := pack F .rtz (divNum (.fin false 1 0) (.fin s m e)).v
    ⟨clearLow F r.val, r.flags &&& flagOF⟩

/-- `tfrsqe` (R153). -/
def frsqe (F : FFmt) (a : Nat) : Res :=
  match unpack F a with
  | .zero s => ⟨withSign F s ((2 ^ F.eb - 1) * 2 ^ F.mb), flagDZ⟩
  | .inf false => ⟨0, 0⟩
  | .inf true => ⟨qnan F, flagNV⟩
  | .nan s f w q => (FRes.mk (.nan s f w q) (flagIf (!q) flagNV)).round F .rtz
  | .fin true _ _ => ⟨qnan F, flagNV⟩
  | .fin false m e =>
    let r := pack F .rtz (rsqrtFin m e)
    ⟨clearLow F r.val, r.flags &&& flagOF⟩

/-! ### Order and compares (R132, R133, R151, R156) -/

/-- The total order of R132 as an integer key: −0 stands just below +0. -/
def floatKey (F : FFmt) (x : Nat) : Int :=
  if fsignBit F x then -(fmag F x : Int) - 1 else (fmag F x : Int)

/-- IEEE value order: both zeros have key 0 (R156). -/
def ieeeKey (F : FFmt) (x : Nat) : Int :=
  if fsignBit F x then -(fmag F x : Int) else (fmag F x : Int)

/-- `tfmin`, `tfmax` and the two-operand rule of R133 (R151). -/
def fminmax (F : FFmt) (wantMax : Bool) (a b : Nat) : Res :=
  let x := unpack F a
  let y := unpack F b
  let fl := snanFlag [x, y]
  if x.isNan && y.isNan then ⟨qnan F, fl⟩
  else if x.isNan then ⟨b, fl⟩
  else if y.isNan then ⟨a, fl⟩
  else if wantMax then ⟨if floatKey F a < floatKey F b then b else a, fl⟩
  else ⟨if floatKey F b < floatKey F a then b else a, fl⟩

/-- The seven compares of R155. -/
inductive Cmp where
  | eq | ne | lt | le | gt | ge | un
  deriving DecidableEq, Repr

def Cmp.onInt (c : Cmp) (x y : Int) : Bool :=
  match c with
  | .eq => decide (x = y)
  | .ne => decide (x ≠ y)
  | .lt => decide (x < y)
  | .le => decide (x ≤ y)
  | .gt => decide (y < x)
  | .ge => decide (y ≤ x)
  | .un => false

/-- Floating compare with its flag (R118, R156). -/
def fcmp (F : FFmt) (c : Cmp) (a b : Nat) : Bool × Flags :=
  let x := unpack F a
  let y := unpack F b
  if x.isNan || y.isNan then
    match c with
    | .eq => (false, snanFlag [x, y])
    | .ne => (true, snanFlag [x, y])
    | .un => (true, snanFlag [x, y])
    | _ => (false, flagNV)
  else (c.onInt (ieeeKey F a) (ieeeKey F b), 0)

/-! ### Conversions (R124, R125) -/

/-- A value of type `t` read as an exact number; an integer is `ofInt` (R105, R108, R111). -/
def elemVal (t : ElemTy) (x : Nat) : FVal :=
  match t with
  | .int s w => ofInt (intVal s w x) 0
  | .slice s w => ofInt (intVal s w x) 0
  | .flt n => unpack n.fmt x
  | .e8m0 => scaleVal x

/-- A float becomes an integer in two steps (R125). -/
def toInt (signed : Bool) (w : Nat) (mode : Rm) (v : FVal) : Res :=
  match v with
  | .zero _ => ⟨0, 0⟩
  | .nan _ _ _ _ => ⟨0, flagNV⟩
  | .inf s => ⟨wrap w (if s then intMin signed w else intMax signed w), flagNV⟩
  | .fin s m e =>
    let r := roundScaled mode s m e
    let i : Int := if s then -(r.1 : Int) else r.1
    if i < intMin signed w then ⟨wrap w (intMin signed w), flagNV⟩
    else if intMax signed w < i then ⟨wrap w (intMax signed w), flagNV⟩
    else ⟨wrap w i, flagIf r.2 flagNX⟩

/-- One conversion from `src` to `dst` (R124, R125). `e8m0` and sliced types are no destination (R170). -/
def convert (dst src : ElemTy) (mode : Rm) (x : Nat) : Res :=
  match dst, src with
  | .int s w, .int s' w' => sat s w (intVal s' w' x)
  | .int s w, .e8m0 => if x % 256 = 255 then ⟨0, flagNV⟩ else toInt s w mode (scaleVal x)
  | .int s w, src => toInt s w mode (elemVal src x)
  | .flt n, .e8m0 => if x % 256 = 255 then ⟨qnan n.fmt, flagNV⟩ else pack n.fmt mode (scaleVal x)
  | .flt n, src =>
    let v := elemVal src x
    (FRes.mk v (snanFlag [v])).round n.fmt mode
  | _, _ => ⟨x, 0⟩

/-- `x * 2^k` rounded once to a format, with the scaled special cases (R126, R171). -/
def scaleConvert (dst : FFmt) (mode : Rm) (v : FVal) (k : Int) : Res :=
  let w := match v with
    | .fin s m e => .fin s m (e + k)
    | v => v
  (FRes.mk w (snanFlag [v])).round dst mode

/-! ### Reductions (R128 to R130, R133) -/

/-- A partial sum: `none` is padding (R128). -/
abbrev Part := Option Nat

/-- An element type's addition in a reduction: modulo 2^w for integers, rounded for floats (R128). -/
def redAdd (t : ElemTy) (mode : Rm) (a b : Nat) : Res :=
  match t with
  | .flt n => fadd n.fmt mode a b
  | t => ⟨(a + b) % 2 ^ t.width, 0⟩

/-- Sum of two positions, padding being an identity (R128). -/
def partAdd (t : ElemTy) (mode : Rm) (a b : Part × Flags) : Part × Flags :=
  match a.1, b.1 with
  | none, _ => (b.1, a.2 ||| b.2)
  | _, none => (a.1, a.2 ||| b.2)
  | some x, some y =>
    let r := redAdd t mode x y
    (some r.val, r.flags ||| a.2 ||| b.2)

/-- One pairwise level. -/
def pairLevel (t : ElemTy) (mode : Rm) : List (Part × Flags) → List (Part × Flags)
  | a :: b :: rest => partAdd t mode a b :: pairLevel t mode rest
  | [a] => [a]
  | [] => []

/-- The six fixed pairwise levels over one group (R128). -/
def tree64 (t : ElemTy) (mode : Rm) (xs : List Part) : Part × Flags :=
  let l0 := (xs ++ List.replicate (64 - xs.length) none).map (fun x => (x, (0 : Flags)))
  let p := pairLevel t mode
  match p (p (p (p (p (p l0))))) with
  | v :: _ => v
  | [] => (none, 0)

/-- The running accumulator of a reduction: value and flags (R131). -/
structure Acc where
  part : Part
  flags : Flags
  deriving DecidableEq, Repr

/-- Folds one group of 64 positions into the accumulator (R128). -/
def foldGroup (t : ElemTy) (mode : Rm) (acc : Acc) (xs : List Part) : Acc :=
  let v := tree64 t mode xs
  let r := partAdd t mode (acc.part, acc.flags) v
  ⟨r.1, r.2⟩

/-- A list cut into groups of 64, at most `n` of them. -/
def groups64 {α : Type} : Nat → List α → List (List α)
  | 0, _ => []
  | n + 1, xs => if xs.isEmpty then [] else xs.take 64 :: groups64 n (xs.drop 64)

/-- `canon_sum` (R128): position list with `none` for positions that take no part. -/
def canonSum (t : ElemTy) (mode : Rm) (carry : Acc) (xs : List Part) : Acc :=
  (groups64 (xs.length / 64 + 1) xs).foldl (foldGroup t mode) carry

/-- The ordered fold of R130. -/
def orderedSum (t : ElemTy) (mode : Rm) (carry : Acc) (xs : List Part) : Acc :=
  xs.foldl (fun acc x =>
    match x with
    | none => acc
    | some _ =>
      let r := partAdd t mode (acc.part, acc.flags) (x, 0)
      ⟨r.1, r.2⟩) carry

/-- The order key of an element for maxima and minima (R132). -/
def orderKey (t : ElemTy) (x : Nat) : Int :=
  match t with
  | .flt n => floatKey n.fmt x
  | .int s w => intVal s w x
  | .slice s w => intVal s w x
  | .e8m0 => x

def elemIsNan (t : ElemTy) (x : Nat) : Bool :=
  match t with
  | .flt n => (unpack n.fmt x).isNan
  | _ => false

def elemIsSnan (t : ElemTy) (x : Nat) : Bool :=
  match t with
  | .flt n => (unpack n.fmt x).isSnan
  | _ => false

/-- The state of a selection: the best non-NaN candidate, the lowest-indexed NaN element, NV so far (R133, R189). -/
structure Sel where
  best : Option (Nat × Int)
  nan : Option Int
  flags : Flags
  deriving DecidableEq, Repr

def Sel.empty : Sel := ⟨none, none, 0⟩

/-- Offers candidate `x` with index `idx`, indexes ascending; the carry has index −1 (R133). -/
def Sel.offer (t : ElemTy) (wantMax : Bool) (s : Sel) (x : Nat) (idx : Int) : Sel :=
  let fl := s.flags ||| flagIf (elemIsSnan t x) flagNV
  if elemIsNan t x then
    { s with nan := (match s.nan with
        | none => some idx
        | some j => if j < 0 then some idx else some j), flags := fl }
  else
    match s.best with
    | none => { s with best := some (x, idx), flags := fl }
    | some (y, _) =>
      let better : Bool :=
        if wantMax then decide (orderKey t y < orderKey t x) else decide (orderKey t x < orderKey t y)
      { s with best := if better then some (x, idx) else s.best, flags := fl }

/-- The selection's value and index (R133). With no candidate at all the value is 0 and the index −1. -/
def Sel.result (t : ElemTy) (s : Sel) : Nat × Int :=
  match s.best, s.nan with
  | some b, _ => b
  | none, some j => (match t with
      | .flt n => qnan n.fmt
      | _ => 0, j)
  | none, none => (0, -1)

end Sys2Proof.Machine
end

