-- ==== Sys2Proof/Machine/State.lean ====
section
/-! DEFINITION. The state of the ZN-7 as plain data: every piece of state the spec names (INVENTORY.md, '## State'),
the reasons a step can stop, and the state right after the release of reset. -/

set_option Elab.async false

namespace Sys2Proof.Machine

/-- Bytes by address: addresses strictly rising, no entry equal to 0, which is what an unlisted address reads as
(notes/assumptions/2.md). -/
abbrev Memory := List Host.Cell

/-! ### A convoy in flight -/

/-- The marker of an in-flight instruction (R15, R189): the first element group not fully performed, and what a
reduction or a packing permute has gathered so far. -/
structure Marker where
  /-- the first element not fully performed, a multiple of 64 -/
  next : Nat
  /-- sum or logic reduction: partial result and its flags -/
  acc : Acc
  /-- maximum or minimum reduction: best candidate, lowest NaN -/
  sel : Sel
  /-- selected elements counted so far -/
  count : Nat
  deriving DecidableEq, Repr

/-- One member of a convoy (R14, R15, R254). -/
structure Member where
  instr : Instr
  /-- address of its word -/
  addr : Word
  /-- scalar operands as read at issue (R135, R200); empty while they are still to be read: behind an earlier member that
  writes one of them (R247), and after a trap or a pre-emption (R254) -/
  scal : List Word
  /-- complete: every element performed, or accepted by its engine (R8) -/
  fin : Bool
  /-- DONE, one bit for each logical index -/
  done : Nat
  /-- element groups it has completed, their inactive elements filled as R91 asks: one bit for each group -/
  groups : Nat
  /-- t0's first register as the instruction read it (R36), once read -/
  mask : Option Nat
  /-- a trimming load that has checked its elements: the element count it keeps (R205) -/
  kept : Option Nat
  /-- the destination's value before its first element, where a source reads the same registers in another layout (R15, R134) -/
  under : Option Nat
  /-- of an interrupted member: the bits of t0 that its convoy has overwritten since it read them, and what it read there
  (R36, R156) -/
  ownT0 : Option (Nat × Nat)
  marker : Option Marker
  deriving DecidableEq, Repr

/-- A convoy in flight or in the resume slot, with what was captured at issue (R136, R254). -/
structure Convoy where
  start : Word
  members : List Member
  tty : BitVec 13
  frm : BitVec 3
  xrm : BitVec 2
  vl : Nat
  flim : Nat
  /-- address of the instruction to issue after it (R17, R463) -/
  next : Word
  deriving DecidableEq, Repr

/-- A word of the issue queue (R16): its address, its bits and what it decodes to. -/
structure Fetched where
  addr : Word
  bits : Nat
  instr : Option Instr
  deriving DecidableEq, Repr

/-! ### Asynchronous items -/

/-- The causes of traps and fault records (R239). -/
inductive Cause where
  | illegalOpcode | illegalType | convoyConflict | registerAllotment | misaligned | spadRange | pageFault | qmLoad
  | replyBound | fragmentOverflow | determinism | fetchBound | dataError | partnerFault | worldViolation | privileged
  | trapInstruction | matrixGrant | streamFault
  deriving DecidableEq, Repr

/-- The stream instructions that become transfers (R287). -/
inductive XOp where
  | copy | copy2 | copy3 | gath | put | xseal | xunseal | bar
  deriving DecidableEq, Repr

/-- An accepted transfer: what it captured (R288, R298, R302) and how far it has come. -/
structure Xfer where
  id : Nat
  /-- player that issued it -/
  owner : Nat
  op : XOp
  dst : Word
  src : Word
  len : Word
  dim1 : Word
  dim2 : Word
  str1 : Word
  str2 : Word
  /-- chunk bytes, 64 for SIZE 0 -/
  size : Nat
  np : Bool
  flagA : Word
  flagV : Word
  pip : Nat
  wid : Nat
  asid : Nat
  /-- address of its word, for its record (R429) -/
  pc : Word
  chunks : Nat
  /-- chunks performed -/
  done : Nat
  /-- chunks in progress: a HOST read, a HOST flush or a PEER acknowledgement is outstanding, with the data read -/
  reading : List Nat
  flushing : List Nat
  acking : List Nat
  flagOwed : Bool
  fault : Bool
  /-- it faulted or was cancelled while chunks were in progress: its record's cause, subcode and address (R296, R297) -/
  ending : Option (Cause × Nat × Word)
  /-- stopped by pre-emption at a chunk boundary (R302) -/
  stopped : Bool
  deriving DecidableEq, Repr

/-- The query-engine instructions (R329, R351). -/
inductive QOp where
  | dot | dotm | dotx | sum | count | max | min | best | hamm | code | narrow | gsum
  | st | stx | raddAdd | raddMax | raddMin | raddOr | raddAnd | append | cas
  | eval | copy | merge
  deriving DecidableEq, Repr

/-- An accepted query, QM write or management item: what it captured (R333) and how far it has come. -/
structure Query where
  id : Nat
  owner : Nat
  op : QOp
  sa : Word
  sd : Word
  tty : BitVec 13
  flim : Nat
  vl : Nat
  frm : BitVec 3
  lanes : Nat
  qratio : Nat
  qlen : BitVec 49
  qstride : Word
  qk : BitVec 34
  qlo : Word
  qhi : Word
  /-- query vector, weights, mask or data group as read at acceptance -/
  vec : Nat
  /-- index or offset group -/
  idx : Nat
  /-- expected values of `qcas` -/
  exp : Nat
  tv : Nat
  tq : Nat
  /-- registers of the destination group, 0 for none -/
  dregs : Nat
  pip : Nat
  wid : Nat
  asid : Nat
  /-- address of its word, for its record (R429) -/
  pc : Word
  /-- row program of `qeval` (R354) -/
  prog : List Byte
  /-- the item has left the query queue (R22) -/
  sent : Bool
  /-- the collection's item step has been taken, with the side count read or the first row reserved (R365, R347) -/
  item : Option Nat
  /-- units touched, each in one state (R23): unit number and its 8192 bits -/
  touched : List (Nat × Nat)
  /-- DONE of a reply: chunks written, or chunks performed for `qcopy` -/
  chunks : Nat
  /-- DONE of a write: elements performed, rows for `qappend` -/
  done : Nat
  /-- success bits of `qcas` elements performed -/
  ok : Nat
  /-- elements whose data unit has applied the write (R314) -/
  applied : Nat
  flags : Flags
  fault : Bool
  stopped : Bool
  /-- chunks of a `qcopy` that a peer has not acknowledged (R361) -/
  acking : List Nat
  /-- it faulted while chunks or elements of it were in progress: its record's cause, subcode and address (R348) -/
  ending : Option (Cause × Nat × Word)
  deriving DecidableEq, Repr

/-- What a fault record holds (R374). -/
inductive Held where
  | xfer (x : Xfer)
  | query (q : Query)
  deriving DecidableEq, Repr

/-- A record of the asynchronous fault queue (R12, R297). -/
structure FaultRec where
  cause : BitVec 8
  eng : BitVec 4
  ptile : BitVec 6
  sub : BitVec 6
  chunk : BitVec 20
  addr : Word
  held : Option Held
  deriving DecidableEq, Repr

/-- The latest accepted instruction that names a pip tile (R13). -/
structure PipOwner where
  tile : Nat
  chunks : Nat
  item : Nat
  fault : Bool
  deriving DecidableEq, Repr

/-! ### The matrix array, from a player's side -/

/-- `GRANT` (R267). -/
structure Grant where
  att : Bool
  bstep : BitVec 5
  acc : BitVec 6
  asize : BitVec 4
  afmt : BitVec 6
  bfmt : BitVec 6
  rows : BitVec 10
  cols : BitVec 10
  deriving DecidableEq, Repr

def Grant.none : Grant := ⟨false, 0, 0, 0, 0, 0, 0, 0⟩

/-- An accepted matrix instruction that the array has not yet served (R276). -/
inductive MxWork where
  /-- a rank-1 step with the operands read at acceptance (R272) -/
  | op (neg : Bool) (e : Bool) (a b active scales : Nat) (frm : BitVec 3)
  | zero
  /-- a write-back with its pip tile, its item number and the address of its word; `det` frees the grant after the last chunk
  (R274) -/
  | back (det : Bool) (pip item landed : Nat) (pc : Word)
  deriving DecidableEq, Repr

/-- The accumulator of an attached player (R265, R272, R282). -/
structure Accum where
  /-- grant the accumulator was opened under; kept until the last chunk of `mxdetach` has landed -/
  grant : Grant
  /-- accumulator element (i, j) at position i*N + j of the accumulator type -/
  vals : Nat
  /-- open block, 128 bits an element: a two's-complement sum in units of 2^-32, the marks NaN, +inf and -inf -/
  blk : Nat
  /-- elements with a term in the open block -/
  used : Nat
  /-- poisoned rows (R279) -/
  poison : Nat
  /-- rows of the store with an error that the next access corrects, and with one it finds uncorrectable (R279) -/
  soft : Nat
  hard : Nat
  /-- flags of the steps, not yet ORed into FLAGS -/
  flags : Flags
  work : List MxWork
  /-- rows of the oldest step that the arbiter has served (R277) -/
  served : Nat
  /-- the load of the group has ended (R278) -/
  loaded : Bool
  deriving DecidableEq, Repr

/-! ### Players -/

/-- A store in a write buffer or on its way to its home (R19): the bits `mask` of `len` bytes at physical `addr`. -/
structure Store where
  addr : Nat
  len : Nat
  val : Nat
  mask : Nat
  deriving DecidableEq, Repr

/-- A parked fragment (R103). -/
structure Fragment where
  mask : Nat
  pc : Word
  level : Nat
  deriving DecidableEq, Repr

/-- Where a player runs and whose it is (R399, R408, R420). -/
structure Place where
  launch : Nat
  party : Nat
  rank : Nat
  size : Nat
  cluster : Nat
  core : Nat
  slot : Nat
  queue : Nat
  asid : Nat
  wid : Nat
  /-- handle of the module whose TEXT is the code region (R227) -/
  module : Nat
  deriving DecidableEq, Repr

/-- Trap and privilege registers (R235). -/
structure Trap where
  priv : Bool
  ecause : BitVec 8
  epc : Word
  eidx : Word
  etval : Word
  evec : Word
  escratch : Word
  ppriv : Bool
  resume : Bool
  level : BitVec 4
  nspill : BitVec 8
  efspc : Word
  etinfo : BitVec 22
  /-- between a trap and the fetch of the word at EVEC (R228) -/
  entering : Bool
  deriving DecidableEq, Repr

/-- Query and remap registers (R332, R356, R375, R379). -/
structure QRegs where
  qlen : BitVec 49
  qstride : Word
  qk : BitVec 34
  qratio : BitVec 9
  qlo : Word
  qhi : Word
  qewin : Word
  /-- the base table entry of the evaluation window is loaded (R356): the region it names -/
  window : Option Nat
  /-- that entry is being loaded -/
  loading : Bool
  act : Bool
  qrmt : Word
  qrmv : Word
  deriving DecidableEq, Repr

/-- Stream registers (R286). -/
structure XRegs where
  dim1 : Word
  dim2 : Word
  str1 : Word
  str2 : Word
  chunk : BitVec 33
  flagA : Word
  flagV : Word
  deriving DecidableEq, Repr

/-- Shape and strip state (R77, R79, R83, R84, R97, R100). -/
structure Shape where
  seat : BitVec 16
  allot : Nat
  tty : BitVec 13
  limit : Nat
  vl : Nat
  flim : Nat
  vlmax : Nat
  gbase : Nat
  gstep : Nat
  pending : Option (BitVec 16)
  /-- a retired seat awaits the next configuration instruction (R82) -/
  await : Bool
  deriving DecidableEq, Repr

/-- Everything one player holds (R77, R257). -/
structure Player where
  id : Nat
  /-- false for the vacant record and for a player that has halted or been removed -/
  live : Bool
  place : Place
  pc : Word
  sregs : Vector Word 32
  tregs : Vector Nat 64
  shape : Shape
  /-- join stack, top first; its length is the join level J (R103) -/
  joins : List Nat
  /-- pending-fragment buffer, newest first -/
  parked : List Fragment
  flags : Flags
  frm : BitVec 3
  xrm : BitVec 2
  det : Bool
  gtrim : Bool
  wmk : Word
  barp : Word
  trap : Trap
  q : QRegs
  x : XRegs
  /-- asynchronous fault queue, oldest first, at most 16 -/
  afq : List FaultRec
  /-- a record was lost because the queue was full (R297) -/
  afqOvf : Bool
  grant : Grant
  /-- accumulators held in the array, oldest first: the attached one, and detached ones whose chunks still land -/
  accum : List Accum
  /-- issue queue (R16): words fetched and not yet issued -/
  queue : List Fetched
  conv : Option Convoy
  slot : Option Convoy
  wbuf : List Store
  /-- the instruction a waiting player waits in (R95, R98, R212 to R216, R242, R244, R291) -/
  waiting : Option Instr
  /-- generation and address of a `bar` whose arrival is counted (R213) -/
  barGen : Option (Nat × Word)
  /-- armed monitor line and its wake flag (R27) -/
  armed : Option Nat
  wake : Bool
  owners : List PipOwner
  /-- tile register bits with an uncorrectable error (R255): register and bit -/
  tbad : List (Nat × Nat)
  /-- tile register bits with an error that a read corrects (R255) -/
  tsoft : List (Nat × Nat)
  /-- a pre-emption request is pending, and its hold for a paired MODE (R394, R405) -/
  preempt : Bool
  hold : Bool
  /-- base and pages of the scratchpad window (R400) -/
  window : Word
  windowPages : Nat
  /-- the player has issued its first convoy (R394) -/
  started : Bool
  /-- its pre-emption request has been taken and its image awaits the save (R256) -/
  frozen : Bool
  deriving DecidableEq, Repr

/-! ### Memories -/

/-- A link tag: line and player, newest first in its list (R209). -/
structure Tag where
  line : Nat
  player : Nat
  deriving DecidableEq, Repr

/-- Scratchpad with what is on its way to the homes, host memory and peer memories. -/
structure Mems where
  spad : Memory
  /-- scratchpad dwords with an uncorrectable error (R255), by address / 8 -/
  spadBad : List Nat
  /-- scratchpad dwords with an error that an access corrects (R255) -/
  spadSoft : List Nat
  /-- drained stores not yet applied, oldest first (R16): the player and the store -/
  arrivals : List (Nat × Store)
  tags : List Tag
  /-- next ticket of the turn counter (R16) -/
  turn : Nat
  host : Memory
  /-- bytes behind PEER pages, keyed by the frame layout of R410 -/
  peer : Memory
  deriving DecidableEq, Repr

/-- A region descriptor (R309). -/
structure Region where
  id : Nat
  /-- 0 RAW, 1 SKETCH, 2 CODED, 3 CONTEXT -/
  cls : Nat
  slab : Bool
  /-- 0 to 3, or 15 -/
  home : Nat
  ubase : Nat
  rows : Nat
  /-- size in units of 1 KiB -/
  units : Nat
  world : Nat
  ety : Nat
  width : Nat
  body : Nat
  side : Nat
  /-- offsets of the side list and of the tombstone map, as the header holds them (R363) -/
  sideOff : Nat
  tombOff : Nat
  merging : Bool
  retired : Bool
  deriving DecidableEq, Repr

/-- A delta on its way to a parity unit (R314, R315); `val` is the exclusive or over `len` bytes at `off`. -/
structure Delta where
  stack : Nat
  pc : Nat
  row : Nat
  off : Nat
  len : Nat
  val : Nat
  item : Nat
  elem : Nat
  deriving DecidableEq, Repr

/-- A delta that waits for room, with the data write it holds back (R315): the unit and its new bytes. -/
structure WaitDelta where
  delta : Delta
  unit : Nat
  bytes : Nat
  deriving DecidableEq, Repr

/-- Query memory: bytes keyed by ((stack*64 + PC)*1310720 + row)*1024 + offset, parity units included. -/
structure Qm where
  cells : Memory
  /-- units whose stored symbols are uncorrectable (R320) -/
  bad : List Nat
  /-- units that hold an error the decoder corrects, each with the symbols it corrects (R319, R320) -/
  soft : List (Nat × Nat)
  /-- the parity queues, accepted deltas oldest first; a delta names its stack -/
  deltas : List Delta
  held : List WaitDelta
  /-- clean rows, as runs of (stack*64 + PC)*1310720 + row: the first and how many (R319) -/
  clean : List (Nat × Nat)
  regions : List Region
  /-- lost stack served in degraded mode (R322) -/
  lost : Option Nat
  /-- declared lost, degraded routing not yet switched (R323) -/
  losing : Option Nat
  unav : Bool
  warm : Bool
  /-- units reconstructed in this scrub interval, by stack (R322) -/
  recon : List (Nat × Nat)
  /-- rows the scrubber has visited in this interval, by stack (R454) -/
  visited : List (Nat × Nat)
  /-- symbols corrected in this interval, by stack (R320, R454) -/
  corrected : List (Nat × Nat)
  deriving DecidableEq, Repr

/-- A page closed to translation by a remap or an export (R380, R382). -/
structure Closed where
  asid : Nat
  page : Nat
  deriving DecidableEq, Repr

/-- Translation: what the table store holds, the root of each ASID, cached leaves, closed pages (R409 to R413). -/
structure Vm where
  /-- entries of the table store by slot*512 + index; an unlisted entry is 0 -/
  tables : List (Nat × BitVec 64)
  /-- the CONTEXT regions of the table store (R412) -/
  store : List Nat
  /-- ASID, its world, the slot of its root table -/
  roots : List (Nat × Nat × Nat)
  nextTable : Nat
  /-- cached translations: ASID, page base, level, entry -/
  cache : List (Nat × Nat × Nat × BitVec 64)
  closed : List Closed
  /-- the host driver's export request not yet set: ASID and address (R382) -/
  exporting : Option (Nat × Nat)
  deriving DecidableEq, Repr

/-! ### Command processor -/

/-- A launch descriptor (R69). -/
structure Desc where
  entry : Word
  parties : Nat
  players : Nat
  seats : Nat
  allot : Nat
  det : Bool
  args : Vector Word 8
  deriving DecidableEq, Repr

/-- A loaded module (R66, R72). -/
structure Module where
  handle : Nat
  ready : Bool
  /-- the loader's fence has not completed (R72 step 8) -/
  loading : Bool
  world : Nat
  asid : Nat
  digest : Nat
  /-- TEXT sections: base and length in bytes -/
  text : List (Nat × Nat)
  descs : List Desc
  /-- scratchpad pages of loaded sections: cluster and page -/
  pages : List (Nat × Nat)
  deriving DecidableEq, Repr

/-- What waits in a queue's pending list (R390, R391). -/
inductive PKind where
  | launch | mode | summary | reserved
  deriving DecidableEq, Repr

/-- A packet or a device-side launch in a pending list (R391, R396). -/
structure Packet where
  kind : PKind
  cqe : Bool
  order : Bool
  tag : BitVec 32
  operand : Word
  descIx : Nat
  dies : Nat
  window : Nat
  waitA : Word
  waitV : Word
  doneA : Word
  doneV : Word
  argMask : Nat
  args : Vector Word 8
  /-- MODE paired with this launch: DET and whether the MODE wants an entry, and its tag (R394) -/
  mode : Option (Bool × Bool × BitVec 32)
  /-- device-side launch: module, address space, and the record's descriptor (R396) -/
  device : Option (Nat × Nat × Desc)
  /-- reserved field or stated range broken (R392) -/
  malformed : Bool
  /-- launch number once its first party has been placed -/
  started : Option Nat
  /-- the checks made when the packet became head have passed (R393) -/
  checked : Bool
  deriving DecidableEq, Repr

/-- A completion entry (R392) as written: tag, status, queue, cause. -/
structure Entry where
  tag : BitVec 32
  status : Nat
  queue : Nat
  cause : Nat
  deriving DecidableEq, Repr

/-- A queue table entry with its pending list (R389, R390). -/
structure HostQueue where
  ringBase : Nat
  ringEntries : Nat
  level : Nat
  ageShift : Nat
  world : Nat
  enable : Bool
  compBase : Nat
  compEntries : Nat
  head : BitVec 32
  tail : BitVec 32
  compTail : BitVec 32
  compHead : BitVec 32
  asid : Nat
  pending : List Packet
  /-- packets fetched whose read has started (R390) -/
  fetching : Nat
  /-- aging intervals the head has waited (R397) -/
  aged : Nat
  /-- entries that wait for the host link (R458) -/
  entries : List Entry
  /-- completion entries reserved by started launches (R392) -/
  reserved : Nat
  deriving DecidableEq, Repr

/-- A launch that has started (R404). -/
structure Launch where
  id : Nat
  queue : Nat
  tag : BitVec 32
  cqe : Bool
  world : Nat
  asid : Nat
  module : Nat
  desc : Desc
  det : Bool
  doneA : Word
  doneV : Word
  window : Nat
  dies : Nat
  device : Bool
  parties : Nat
  placed : Nat
  /-- removal: step 0 (due) to 7, status and cause (R426) -/
  removing : Option (Nat × Nat × Nat)
  /-- tags of CANCEL packets whose entries follow its own (R395) -/
  cancels : List (BitVec 32)
  deriving DecidableEq, Repr

/-- A party that has been placed (R399, R400). -/
structure Party where
  launch : Nat
  index : Nat
  cluster : Nat
  /-- physical address of the barrier dword (R101) -/
  bar : Nat
  level : Nat
  /-- start order, for R405 -/
  order : Nat
  /-- scratchpad pages behind the windows (R400): rank and page -/
  frames : List (Nat × Nat)
  /-- 0 running, 1 pre-emption requested, 2 saved, 3 being restored -/
  saved : Nat
  aged : Nat
  deriving DecidableEq, Repr

/-- A saved context (R257, R419 to R422): what its image holds, and what the command processor keeps about it. -/
structure Image where
  /-- the player's own items: control, shape, resume slot, fragments, tile registers, fault queue, matrix, synchronisation -/
  player : Player
  /-- the markers of its stopped transfers and queries (R302, R359) -/
  xfers : List Xfer
  queries : List Query
  window : List Byte
  /-- context number and save count (R420) -/
  context : Nat
  count : Nat
  /-- the CONTEXT region that holds the bytes (R327) -/
  region : Nat
  deriving DecidableEq, Repr

/-- The state of a protected world (R414). -/
inductive WState where
  | free | pending | live
  deriving DecidableEq, Repr

/-- A world (R414 to R418). -/
structure World where
  st : WState
  gen : Nat
  qratio : Nat
  handler : List (Nat × Nat)
  handlerSet : Bool
  vector : Word
  owner : Option Nat
  modules : List Nat
  ports : List (Nat × Nat × Nat)
  path : Bool
  exports : Nat
  saves : Nat
  deriving DecidableEq, Repr

/-- An SPDM session (R433): 0 negotiating, 1 key exchanged, 2 secured. -/
structure Session where
  id : Nat
  phase : Nat
  port : Option Nat
  deriving DecidableEq, Repr

/-- A Chawick port (R436, R451). -/
structure Port where
  trained : Bool
  keyed : Bool
  lost : Bool
  world : Option Nat
  peerTag : Nat
  peerWorld : Nat
  frames : Nat
  retrains : Nat
  fails : Nat
  /-- it awaits a new session after a tag failure (R451) -/
  rekey : Bool
  deriving DecidableEq, Repr

/-- The command processor's tables. -/
structure Cp where
  queues : Vector HostQueue 64
  modules : List Module
  launches : List Launch
  parties : List Party
  images : List Image
  worlds : Vector World 65
  /-- owner world of clusters that have one (R414) -/
  owners : List (Nat × Nat)
  /-- clusters under a world switch, with the new owner (R423) -/
  switching : List (Nat × Nat)
  sessions : List Session
  /-- SPDM responses sent, newest last: session and bytes -/
  responses : List (Nat × List Byte)
  ports : Vector Port 12
  /-- link IDE stream active (R435) -/
  ide : Bool
  /-- rotation of R398: level and the queue that most recently started at it -/
  rotation : List (Nat × Nat)
  /-- scratchpad bytes of windows and barrier dwords in use: cluster, first byte, bytes (R399, R400) -/
  used : List (Nat × Nat × Nat)
  /-- resets of R427 not over: the launch whose removal stalled, array (true) or core, number (R454) -/
  resets : List (Nat × Bool × Nat)
  nextPlayer : Nat
  nextLaunch : Nat
  nextModule : Nat
  nextContext : Nat
  nextOrder : Nat
  deriving DecidableEq, Repr

/-- An error record (R428), stripped when it is made (R429). -/
structure ErrRec where
  seq : Nat
  cause : Nat
  engine : Nat
  world : Nat
  flags : Nat
  asid : Nat
  place : Nat
  memPlace : Nat
  sub : Nat
  eidx : Nat
  addr : Nat
  region : Nat
  pc : Nat
  word : Nat
  time : Nat
  deriving DecidableEq, Repr

/-- Start, status, health, errors and power (R438 to R461). -/
structure Dev where
  stage : Nat
  sfault : Nat
  ready : Bool
  failed : Bool
  absorbed : Bool
  warm : Bool
  /-- a warm start is running -/
  warming : Bool
  linkUp : Bool
  cap : Nat
  meas : Nat
  duty : Nat
  /-- `DPMEAS.DUTY` as the last window left it (R438) -/
  dutyReg : Nat
  temp : Nat
  hot : Bool
  fatalCause : Nat
  seq : Nat
  log : List ErrRec
  counters : Vector Nat 64
  /-- health log: lost stacks in the order declared, retired seat masks by core (R440) -/
  lostStacks : List Nat
  retired : List (Nat × Nat)
  /-- health log: the fused serial (R440) -/
  serial : List Byte
  /-- admin mailbox: command bytes, status, result dword, doorbell (R415, R446) -/
  mbCmd : Nat
  mbStatus : Nat
  mbResult : Nat
  mbBell : Bool
  /-- the command was rung while the device served its queues; it then completes during a warm start too (R441) -/
  mbTaken : Bool
  msix : List Nat
  warmStarts : Nat
  clock : Nat
  salt : Nat
  identity : Bool
  measured : Bool
  /-- measurement 1, taken at stage 0x06 (R431, R434) -/
  block1 : List Byte
  /-- status of the last module load (R73) -/
  loadStatus : Nat
  deriving DecidableEq, Repr

/-- A matrix array's arbiter (R277): the family group it served last, and by group the core and slot after which its
visits go on. -/
structure Arbiter where
  group : Nat
  seats : List (Nat × Nat)
  deriving DecidableEq, Repr

/-- The engines' accepted items. -/
structure Eng where
  xfers : List Xfer
  queries : List Query
  nextItem : Nat
  /-- players whose instruction waits to be accepted, in the order it reached its engine (R266, R291, R333), with the
  engine: 2 matrix, 3 stream, 4 query -/
  arrivals : List (Nat × Nat)
  /-- held instructions that wait for a slot (R376) -/
  resumed : List (Nat × Held)
  /-- arbiters by cluster -/
  arbiters : List (Nat × Arbiter)
  deriving DecidableEq, Repr

/-- The whole machine. -/
structure State where
  /-- the player whose instructions step runs -/
  me : Player
  others : List Player
  mem : Mems
  qm : Qm
  vm : Vm
  eng : Eng
  cp : Cp
  dev : Dev
  /-- steps of the machine and of the outside world to be taken next (notes/assumptions/4.md); the model's own -/
  agenda : List Instr
  /-- argument of the free values (notes/assumptions/5.md); the model's own -/
  fresh : Nat
  deriving DecidableEq, Repr

/-! ### Why a step can stop -/

/-- A step ends in a fault only at an address the spec says does not exist. -/
inductive Fault where
  /-- raised by `SCRUB_ROW_VISIT` and `CLEAN_ROW_EXPIRY` of a row that does not exist (R306: stacks 0 to 11, PCs 0 to 63,
  rows 0 to 1 310 719); no band of R310 reaches one; safe, the machine stops where no chip has a behaviour -/
  | noSuchRow (unit : Nat)
  deriving DecidableEq, Repr

/-- A refusal names an instruction without a meaning. -/
inductive Refusal where
  /-- raised by an arm of `exec` that has no meaning yet; safe -/
  | notModelled (mnemonic : String)
  deriving DecidableEq, Repr

/-! ### Reset -/

def Shape.reset : Shape := ⟨0, 0, 0x00A, 0, 0, 0, 0, 0, 0, none, false⟩
def Trap.reset : Trap := ⟨false, 0, 0, 0, 0, 0, 0, false, false, 0, 0, 0, 0, false⟩
def QRegs.reset : QRegs := ⟨0, 0, 0, 4, 0, 0, 0, none, false, false, 0, 0⟩
def XRegs.reset : XRegs := ⟨0, 0, 0, 0, 0, 0, 0⟩
def Place.reset : Place := ⟨0, 0, 0, 0, 0, 0, 0, 0, 0, 0, 0⟩

/-- The record of a player before any launch (notes/assumptions/1.md). -/
def Player.vacant : Player where
  id := 0
  live := false
  place := Place.reset
  pc := 0
  sregs := Vector.replicate 32 0
  tregs := Vector.replicate 64 0
  shape := Shape.reset
  joins := []
  parked := []
  flags := 0
  frm := 0
  xrm := 0
  det := false
  gtrim := false
  wmk := 0
  barp := 0
  trap := Trap.reset
  q := QRegs.reset
  x := XRegs.reset
  afq := []
  afqOvf := false
  grant := Grant.none
  accum := []
  queue := []
  conv := none
  slot := none
  wbuf := []
  waiting := none
  barGen := none
  armed := none
  wake := false
  owners := []
  tbad := []
  tsoft := []
  preempt := false
  hold := false
  window := 0
  windowPages := 0
  started := false
  frozen := false

def HostQueue.reset : HostQueue := ⟨0, 0, 0, 0, 0, false, 0, 0, 0, 0, 0, 0, 0, [], 0, 0, [], 0⟩
def World.reset : World := ⟨.free, 0, 4, [], false, 0, none, [], [], false, 0, 0⟩
def Port.reset : Port := ⟨false, false, false, none, 0, 0, 0, 0, 0, false⟩

def Mems.reset : Mems := ⟨[], [], [], [], [], 0, [], []⟩
def Qm.reset : Qm := ⟨[], [], [], [], [], [], [], none, none, false, false, [], [], []⟩
def Vm.reset : Vm := ⟨[], [], [], 0, [], [], none⟩
def Eng.reset : Eng := ⟨[], [], 0, [], [], []⟩

def Cp.reset : Cp where
  queues := Vector.replicate 64 HostQueue.reset
  modules := []
  launches := []
  parties := []
  images := []
  worlds := (Vector.replicate 65 World.reset).set 0 { World.reset with st := .live }
  owners := []
  switching := []
  sessions := []
  responses := []
  ports := Vector.replicate 12 Port.reset
  ide := false
  rotation := []
  used := []
  resets := []
  nextPlayer := 1
  nextLaunch := 1
  nextModule := 1
  nextContext := 0
  nextOrder := 0

/-- The status block right after the release of reset (R438): stage 0x01, cap 2600 W. -/
def Dev.reset : Dev where
  stage := 1
  sfault := 0
  ready := false
  failed := false
  absorbed := false
  warm := false
  warming := false
  linkUp := false
  cap := 2600
  meas := 0
  duty := 16
  dutyReg := 0
  temp := 0
  hot := false
  fatalCause := 0
  seq := 0
  log := []
  counters := Vector.replicate 64 0
  lostStacks := []
  retired := []
  serial := Config.serial
  mbCmd := 0
  mbStatus := 0
  mbResult := 0
  mbBell := false
  mbTaken := false
  msix := []
  warmStarts := 0
  clock := 0
  salt := 0
  identity := false
  measured := false
  block1 := []
  loadStatus := 0

/-- The machine right after the release of reset (R430, R437 to R439): no player, nothing mapped, stage 0x01. -/
def State.reset : State where
  me := Player.vacant
  others := []
  mem := Mems.reset
  qm := Qm.reset
  vm := Vm.reset
  eng := Eng.reset
  cp := Cp.reset
  dev := Dev.reset
  agenda := []
  fresh := 0

end Sys2Proof.Machine
end

