-- ==== Sys2Proof/Machine/Memory.lean ====
section
/-! DEFINITION. Byte memories (spec/00_scope.md R1: byte-addressed, little-endian): reads and writes that keep the
canonical form, and bit strings inside natural numbers. -/

set_option Elab.async false

namespace Sys2Proof.Machine

/-! ### Bits of natural numbers -/

/-- The `w` bits of `x` from bit `pos`. -/
def getBits (x pos w : Nat) : Nat := x / 2 ^ pos % 2 ^ w

/-- `x` with its `w` bits from bit `pos` replaced by `v`. -/
def setBits (x pos w v : Nat) : Nat :=
  x - getBits x pos w * 2 ^ pos + v % 2 ^ w * 2 ^ pos

/-- `n` one bits. -/
def ones (n : Nat) : Nat := 2 ^ n - 1

/-- The number of set bits among the low `n` bits of `x`. -/
def popCount (x : Nat) : Nat → Nat
  | 0 => 0
  | n + 1 => (if x.testBit n then 1 else 0) + popCount x n

/-- The set bit numbers of `x` below `n`, ascending. -/
def setBitsBelow (x n : Nat) : List Nat := (List.range n).filter (fun i => x.testBit i)

/-- The lowest set bit below `n`. -/
def lowestBit (x n : Nat) : Option Nat := (List.range n).find? (fun i => x.testBit i)

/-- Old and new mixed by a bit mask. -/
def mixBits (old new mask : Nat) : Nat := (old ^^^ (old &&& mask)) ||| (new &&& mask)

/-! ### Bytes -/

/-- The byte at an address; an unlisted address reads as 0 (notes/assumptions/2.md). -/
def Memory.get : Memory → Nat → Byte
  | [], _ => 0
  | (k, b) :: rest, a => if k = a then b else Memory.get rest a

/-- Writes one byte and keeps the canonical form. -/
def Memory.set : Memory → Nat → Byte → Memory
  | [], a, v => if v = 0 then [] else [(a, v)]
  | (k, b) :: rest, a, v =>
    if a < k then (if v = 0 then (k, b) :: rest else (a, v) :: (k, b) :: rest)
    else if a = k then (if v = 0 then rest else (a, v) :: rest)
    else (k, b) :: Memory.set rest a v

/-- The canonical form: addresses strictly rising, no byte equal to 0. -/
abbrev Memory.wf (m : Memory) : Prop :=
  m.Pairwise (fun x y => x.1 < y.1) ∧ ∀ x ∈ m, x.2 ≠ 0

/-- `n` bytes from `a`, the first the least significant (R1). -/
def Memory.read (m : Memory) (a : Nat) : Nat → Nat
  | 0 => 0
  | n + 1 => (m.get a).toNat + 256 * Memory.read m (a + 1) n

/-- Writes the low `n` bytes of `v` from `a` (R1). -/
def Memory.write (m : Memory) (a : Nat) : Nat → Nat → Memory
  | 0, _ => m
  | n + 1, v => Memory.write (m.set a (BitVec.ofNat 8 v)) (a + 1) n (v / 256)

/-- Writes the bits `mask` of `n` bytes and leaves the other bits (R202). -/
def Memory.writeMasked (m : Memory) (a n v mask : Nat) : Memory :=
  m.write a n (mixBits (m.read a n) v mask)

/-- The bytes from `a` as a list. -/
def Memory.bytes (m : Memory) (a n : Nat) : List Byte := (List.range n).map (fun i => m.get (a + i))

/-- Writes a list of bytes. -/
def Memory.writeBytes (m : Memory) (a : Nat) : List Byte → Memory
  | [] => m
  | b :: rest => Memory.writeBytes (m.set a b) (a + 1) rest

/-- Zeroes the addresses of [lo, lo + n): their entries go. -/
def Memory.clear (m : Memory) (lo n : Nat) : Memory :=
  m.filter (fun c => !(decide (lo ≤ c.1) && decide (c.1 < lo + n)))

/-- The natural number of a byte list, the first byte least significant. -/
def bytesToNat : List Byte → Nat
  | [] => 0
  | b :: rest => b.toNat + 256 * bytesToNat rest

/-- The low `n` bytes of a number, the least significant first. -/
def natToBytes (v : Nat) : Nat → List Byte
  | 0 => []
  | n + 1 => BitVec.ofNat 8 v :: natToBytes (v / 256) n

/-- Bytes of a fixed-size little-endian field. -/
def le (n v : Nat) : List Byte := natToBytes v n
def zeros (n : Nat) : List Byte := List.replicate n 0

/-! ### Association lists -/

/-- The value of a key, if listed. -/
def lookupNat {α : Type} (k : Nat) : List (Nat × α) → Option α
  | [] => none
  | (j, v) :: rest => if j = k then some v else lookupNat k rest

/-- Replaces or appends the value of a key. -/
def setNat {α : Type} (k : Nat) (v : α) : List (Nat × α) → List (Nat × α)
  | [] => [(k, v)]
  | (j, w) :: rest => if j = k then (k, v) :: rest else (j, w) :: setNat k v rest

/-- Inserts by a key, behind the entries of the same key. -/
def insertBy {α : Type} (key : α → Nat) (x : α) : List α → List α
  | [] => [x]
  | y :: rest => if key x < key y then x :: y :: rest else y :: insertBy key x rest

/-- Sorts by a key, keeping the order of equal keys. -/
def sortBy {α : Type} (key : α → Nat) (l : List α) : List α := l.foldl (fun acc x => insertBy key x acc) []

/-- Removes every entry of a key. -/
def eraseNat {α : Type} (k : Nat) (l : List (Nat × α)) : List (Nat × α) := l.filter (fun e => e.1 ≠ k)

end Sys2Proof.Machine
end

