-- ==== Sys2Proof/Machine/Ops.lean ====
section
/-! DEFINITION. The named operations over the state: registers, players, traps and return, translation, scratchpad
access, fetch, faults of asynchronous items, and error reports. Every meaning is written over these. -/

set_option Elab.async false

namespace Sys2Proof.Machine

/-- The outcome of a step of this machine. -/
abbrev Out := Host.Outcome State Fault Refusal

/-! ### Causes (R239) -/

def Cause.code : Cause → BitVec 8
  | .illegalOpcode => 0x01
  | .illegalType => 0x02
  | .convoyConflict => 0x03
  | .registerAllotment => 0x04
  | .misaligned => 0x05
  | .spadRange => 0x06
  | .pageFault => 0x07
  | .qmLoad => 0x08
  | .replyBound => 0x09
  | .fragmentOverflow => 0x0A
  | .determinism => 0x0B
  | .fetchBound => 0x0C
  | .dataError => 0x0D
  | .partnerFault => 0x0E
  | .worldViolation => 0x0F
  | .privileged => 0x10
  | .trapInstruction => 0x11
  | .matrixGrant => 0x12
  | .streamFault => 0x13

/-! ### Registers -/

/-- A scalar source: s0 reads zero (R34). -/
def Player.rd (p : Player) (r : SReg) : Word := if r = 0 then 0 else p.sregs[r]

/-- A scalar destination: a write to s0 is discarded (R34). -/
def Player.wr (p : Player) (r : SReg) (v : Word) : Player :=
  if r = 0 then p else { p with sregs := p.sregs.set r v }

def State.rd (s : State) (r : SReg) : Word := s.me.rd r
def State.wr (s : State) (r : SReg) (v : Word) : State := { s with me := s.me.wr r v }
def State.setPc (s : State) (v : Word) : State := { s with me := { s.me with pc := v } }
/-- The next word in program order. -/
def State.advance (s : State) : State := s.setPc (s.me.pc + 4)
/-- ORs flags into FLAGS (R117). -/
def State.raise (s : State) (f : Flags) : State := { s with me := { s.me with flags := s.me.flags ||| f } }
def State.withMe (s : State) (p : Player) : State := { s with me := p }
/-- Writes a scalar result and goes on to the next word. -/
def State.finishWr (s : State) (r : SReg) (v : Word) : Out := .next (s.wr r v).advance

/-- The lanes of a player: 16 for each seat held (R79). -/
def Player.lanes (p : Player) : Nat := 16 * popCount p.shape.seat.toNat 16

/-- The supervisor bit (R235). -/
def State.super (s : State) : Bool := s.me.trap.priv

/-! ### Players -/

def State.players (s : State) : List Player := s.me :: s.others

def State.player? (s : State) (id : Nat) : Option Player := s.players.find? (fun p => p.id = id)

/-- Changes one player's record. -/
def State.updPlayer (s : State) (id : Nat) (f : Player → Player) : State :=
  { s with
    me := if s.me.id = id then f s.me else s.me
    others := s.others.map (fun p => if p.id = id then f p else p) }

/-- Changes every player's record. -/
def State.mapPlayers (s : State) (f : Player → Player) : State :=
  { s with me := f s.me, others := s.others.map f }

/-- Makes a player the current one; the record of a player that has ended goes. -/
def State.focus (s : State) (id : Nat) : State :=
  if s.me.id = id then s
  else
    match s.others.find? (fun p => p.id = id) with
    | none => s
    | some p =>
      { s with
        me := p
        others := if s.me.live then s.others.map (fun q => if q.id = id then s.me else q)
          else s.others.filter (fun q => q.id ≠ id) }

/-- May a player issue: alive, not waiting, not stopped by a pre-emption request (R256, R394, R406), its launch not under
removal (R426)? -/
def State.runnable (s : State) (p : Player) : Bool :=
  p.live && p.waiting.isNone && !p.frozen && !(p.preempt && !p.hold) && !s.dev.failed &&
    !s.cp.launches.any (fun l => decide (l.id = p.place.launch) && l.removing.isSome)

/-- Takes a step of another player and comes back to the current one. With no such player nothing happens. -/
def onPlayer (id : Nat) (f : State → Out) (s : State) : Out :=
  match s.player? id with
  | none => .next s
  | some _ =>
    match f (s.focus id) with
    | .next t => .next (t.focus s.me.id)
    | o => o

/-! ### Taking a trap and returning (R238, R241, R253) -/

/-- An interrupted member (R254, R257): DONE and its marker stay, with the captured element count of a trimming load, and what
R15 and R36 need where the convoy has overwritten a register that it still reads; `t0` is t0 as it stands. DONE takes in the
inactive elements of the groups the member has completed. Everything else is read again on resumption. -/
def Member.setAside (m : Member) (flim t0 : Nat) : Member :=
  { m with
    scal := []
    done := (List.range flim).foldl (fun x f => if m.groups.testBit (f / 64) then x ||| 2 ^ f else x) m.done
    mask := none
    ownT0 := match m.mask with
      | some x => if m.fin || x == t0 then none else some (x ^^^ t0, x)
      | none => m.ownT0 }

def Convoy.setAside (c : Convoy) (t0 : Nat) : Convoy := { c with members := c.members.map (fun m => m.setAside c.flim t0) }

/-- Trap entry, from R238: the cause, the return address, the privilege and the resume bit are saved, the
player runs at supervisor privilege from `EVEC`. The convoy in flight goes into the resume slot (R254). -/
def Player.takeTrap (p : Player) (c : Cause) (epc eidx etval : Word) (resume : Bool) (info : BitVec 22) : Player :=
  { p with
    pc := p.trap.evec
    queue := []
    waiting := none
    conv := none
    slot := match p.conv with
      | some cv => some (cv.setAside p.tregs[0])
      | none => p.slot
    trap := { p.trap with
      ecause := c.code
      epc := epc
      eidx := eidx
      etval := etval
      ppriv := p.trap.priv
      resume := resume
      priv := true
      etinfo := info
      entering := true } }

/-- A trap of an instruction that is not a convoy member, or of a whole convoy at issue (R48, R238, R253):
`EPC` is the PC, `ESTAT.RESUME` and `ETINFO` are 0. -/
def trapHere (c : Cause) (eidx etval : Word) (s : State) : Out :=
  .next { s with me := s.me.takeTrap c s.me.pc eidx etval false 0 }

/-- `ETINFO` from its fields (R253). -/
def etinfo (memb eng seat lane treg : Nat) : BitVec 22 :=
  BitVec.ofNat 22 (memb % 8 + eng % 16 * 2 ^ 4 + seat % 16 * 2 ^ 8 + lane % 16 * 2 ^ 12 + treg % 64 * 2 ^ 16)

/-- Has the member performed an element, or does it hold a marker (R238)? -/
def Member.begun (m : Member) : Bool := m.fin || m.done != 0 || m.marker.isSome

def Convoy.begun (c : Convoy) : Bool := c.members.any Member.begun

/-- A trap of the convoy in flight at run time (R251). -/
def trapConvoy (c : Cause) (eidx etval : Word) (info : BitVec 22) (s : State) : Out :=
  match s.me.conv with
  | none => .next { s with me := s.me.takeTrap c s.me.pc eidx etval false info }
  | some cv => .next { s with me := s.me.takeTrap c cv.start eidx etval cv.begun info }

/-- `eret` (R241): the privilege and the PC come back, and the interrupted convoy continues when `ESTAT.RESUME` is 1
and `EPC` is the convoy's address; otherwise the resume slot is discarded. It continues though a seat retired since still
awaits a configuration instruction (R82; notes/assumptions/96.md). -/
def Player.returnFromTrap (p : Player) : Player :=
  let cont : Option Convoy :=
    match p.slot with
    | some cv => if p.trap.resume ∧ cv.start = p.trap.epc then some cv else none
    | none => none
  { p with
    pc := p.trap.epc
    queue := []
    conv := cont
    slot := none
    trap := { p.trap with priv := p.trap.ppriv } }

/-! ### Translation (R408 to R413) -/

inductive Space where
  | spad | qm | host | peer
  deriving DecidableEq, Repr

def Space.ofCode (n : Nat) : Space :=
  match n with
  | 0 => .spad
  | 1 => .qm
  | 2 => .host
  | _ => .peer

/-- A leaf as an access uses it (R410). -/
structure Leaf where
  level : Nat
  space : Space
  w : Bool
  x : Bool
  exp : Bool
  frame : Nat
  wtag : Nat
  deriving DecidableEq, Repr

/-- Bytes that a leaf of a level maps: 4 KiB, 2 MiB, 1 GiB (R409). -/
def leafSize (level : Nat) : Nat := 4096 * 512 ^ level

def Leaf.ofEntry (level : Nat) (e : BitVec 64) : Leaf :=
  ⟨level, Space.ofCode (getBits e.toNat 2 2), e.getLsbD 4, e.getLsbD 5, e.getLsbD 6, getBits e.toNat 12 45, getBits e.toNat 57 7⟩

/-- Is this a leaf of R411? -/
def Leaf.valid (l : Leaf) : Bool :=
  match l.space with
  | .spad => decide (l.level ≤ 1) && decide (l.frame < 2 ^ 18)
  | .host => decide (l.level ≤ 1)
  | .qm => (decide (l.level = 1) || decide (l.level = 2)) && decide (l.frame < 2 ^ 36)
  | .peer => if getBits l.frame 40 1 = 0 then decide (l.level = 0) else decide (l.level = 1)

/-- The fields every entry must obey: V, the reserved bits and WTAG (R410, R411). -/
def entryOk (e : BitVec 64) : Bool :=
  e.getLsbD 0 && decide (getBits e.toNat 7 5 = 0) && decide (getBits e.toNat 57 7 ≤ 64)

/-- The index of an address at a level (R409). -/
def levelIndex (va : Nat) (level : Nat) : Nat := va / (4096 * 512 ^ level) % 512

def Vm.entry (v : Vm) (slot ix : Nat) : BitVec 64 := (lookupNat (slot * 512 + ix) v.tables).getD 0

/-- The walk below a table of the given level (R409, R411). -/
def Vm.walk (v : Vm) (va : Nat) : (level slot : Nat) → Option Leaf
  | 0, slot =>
    let e := v.entry slot (levelIndex va 0)
    if entryOk e && e.getLsbD 1 then
      (if (Leaf.ofEntry 0 e).valid then some (Leaf.ofEntry 0 e) else none)
    else none
  | level + 1, slot =>
    let e := v.entry slot (levelIndex va (level + 1))
    if !entryOk e then none
    else if e.getLsbD 1 then
      (if (Leaf.ofEntry (level + 1) e).valid then some (Leaf.ofEntry (level + 1) e) else none)
    else v.walk va level (getBits e.toNat 12 45)

/-- A cached copy of a leaf that covers the address (R413). -/
def Vm.cached (v : Vm) (asid va : Nat) : Option Leaf :=
  (v.cache.find? (fun c => c.1 = asid ∧ c.2.1 = va / leafSize c.2.2.1 * leafSize c.2.2.1)).map
    (fun c => Leaf.ofEntry c.2.2.1 c.2.2.2)

/-- The leaf an address uses: the cached copy, or a walk from the root of the ASID (R409, R413). -/
def Vm.leaf (v : Vm) (asid : Nat) (va : Nat) : Option Leaf :=
  match v.cached asid va with
  | some l => some l
  | none =>
    match lookupNat asid v.roots with
    | none => none
    | some r => v.walk va 4 r.2

/-- Bits [63:57] equal bit 56 (R193, order 1). -/
def canonicalVa (va : Word) : Bool :=
  let top := getBits va.toNat 56 8
  decide (top = 0) || decide (top = 255)

/-- The address inside the 57 translated bits. -/
def vaIndex (va : Word) : Nat := va.toNat % 2 ^ 57

/-- The scratchpad physical address of an address under a SPAD leaf. -/
def Leaf.phys (l : Leaf) (va : Word) : Nat := l.frame * 4096 + vaIndex va % leafSize l.level

/-! ### Counters (R447) -/

/-- Adds one to a counter; it saturates (R447). -/
def Dev.bump (d : Dev) (i : Nat) : Dev :=
  if h : i < 64 then
    { d with counters := d.counters.set i (if d.counters[i] < 2 ^ 64 - 1 then d.counters[i] + 1 else d.counters[i]) }
  else d

def State.bump (s : State) (i : Nat) : State := { s with dev := s.dev.bump i }

/-- Counts `n` events. -/
def State.count (s : State) (i n : Nat) : State := (List.range n).foldl (fun t _ => t.bump i) s

/-! ### Scratchpad access (R191 to R204, R255) -/

/-- Does an access touch a dword with an uncorrectable error (R255)? -/
def Mems.badHit (m : Mems) (pa n : Nat) : Bool :=
  m.spadBad.any (fun d => decide (pa / 8 ≤ d) && decide (d ≤ (pa + n - 1) / 8))

/-- The correctable errors in the dwords of an access are corrected in place and counted (R255, R447). -/
def State.correctSpad (s : State) (pa n : Nat) : State :=
  let hit := fun (d : Nat) => decide (pa / 8 ≤ d) && decide (d ≤ (pa + n - 1) / 8)
  ({ s with mem := { s.mem with spadSoft := s.mem.spadSoft.filter (fun d => !hit d) } }).count 2
    (s.mem.spadSoft.filter hit).length

/-- The same for tile register bits that an element has read (R255). -/
def State.correctTile (s : State) (hits : List (Nat × Nat)) : State :=
  ({ s with me := { s.me with tsoft := s.me.tsoft.filter (fun b => !hits.contains b) } }).count 0 hits.length

/-- The same for bits of one register read outside a member's elements, by a tile branch or a `pwait`. -/
def State.correctBits (s : State) (t : TReg) (read : Nat → Bool) : State :=
  s.correctTile (s.me.tsoft.filter (fun b => decide (b.1 = t.val) && read b.2))

/-- How an access uses scratchpad (R193). -/
inductive Use where
  | load | store | atomic
  deriving DecidableEq, Repr

def Use.writes : Use → Bool
  | .load => false
  | .store => true
  | .atomic => true

def Use.reads : Use → Bool
  | .load => true
  | .store => false
  | .atomic => true

/-- The checks of R193 in their order, for `n` bytes that must be aligned to `align`. -/
def checkAccess (s : State) (p : Player) (va : Word) (align n : Nat) (use : Use) : Except Cause Nat :=
  if !canonicalVa va then .error .spadRange
  else if va.toNat % align ≠ 0 then .error .misaligned
  else
    match s.vm.leaf p.place.asid (vaIndex va) with
    | none => .error .pageFault
    | some l =>
      match l.space with
      | .qm => .error .qmLoad
      | .host => .error .spadRange
      | .peer => .error .spadRange
      | .spad =>
        if l.wtag ≠ p.place.wid then .error .worldViolation
        else if use.writes && !l.w then .error .pageFault
        else if (use.reads || n < 8) && s.mem.badHit (l.phys va) n then .error .dataError
        else .ok (l.phys va)

/-- A store seen at one byte address. -/
def Store.onByte (st : Store) (a : Nat) (old : Byte) : Byte :=
  if st.addr ≤ a ∧ a < st.addr + st.len then
    let k := 8 * (a - st.addr)
    BitVec.ofNat 8 (mixBits old.toNat (getBits st.val k 8) (getBits st.mask k 8))
  else old

/-- The stores of a player that no home has applied, oldest first (R19, R248). -/
def State.ownStores (s : State) (p : Player) : List Store :=
  (s.mem.arrivals.filter (fun a => a.1 = p.id)).map Prod.snd ++ p.wbuf

/-- The byte a player's own read observes: the youngest buffered value, else the home's (R19). -/
def State.spadByte (s : State) (p : Player) (a : Nat) : Byte :=
  (s.ownStores p).foldl (fun b st => st.onByte a b) (s.mem.spad.get a)

/-- `n` bytes as a player's own read observes them. -/
def State.spadRead (s : State) (p : Player) (a : Nat) : Nat → Nat
  | 0 => 0
  | n + 1 => (s.spadByte p a).toNat + 256 * State.spadRead s p (a + 1) n

/-- The line of a scratchpad address (R191). -/
def lineOf (a : Nat) : Nat := a / 64

/-- A write performing to a line wakes the monitors armed on it (R27). -/
def State.wakeLine (s : State) (l : Nat) : State :=
  s.mapPlayers (fun p => if p.armed = some l then { p with wake := true } else p)

/-- A write to a line by a player breaks every other player's tag on it (R20, R209). -/
def breakTags (tags : List Tag) (l player : Nat) : List Tag :=
  tags.filter (fun t => t.line ≠ l || t.player = player)

/-- A home applies a store of a player: bytes, check bits, tags, monitors (R20, R27, R209, R255). -/
def State.applyStore (s : State) (player : Nat) (st : Store) : State :=
  let full : Bool := decide (st.len = 8) && decide (st.addr % 8 = 0) && decide (st.mask % 2 ^ 64 = ones 64)
  let s := if full then { s with mem := { s.mem with spadSoft := s.mem.spadSoft.filter (fun d => d ≠ st.addr / 8) } }
    else s.correctSpad st.addr st.len
  ({ s with mem := { s.mem with
      spad := s.mem.spad.writeMasked st.addr st.len st.val st.mask
      spadBad := if full then s.mem.spadBad.filter (fun d => d ≠ st.addr / 8) else s.mem.spadBad
      tags := breakTags s.mem.tags (lineOf st.addr) player } }).wakeLine (lineOf st.addr)

/-- A whole-byte store. -/
def Store.plain (addr len val : Nat) : Store := ⟨addr, len, val % 2 ^ (8 * len), ones (8 * len)⟩

/-- A store enters the player's SPAD write buffer (R19). -/
def State.pushStore (s : State) (st : Store) : State :=
  { s with me := { s.me with wbuf := s.me.wbuf ++ [st] } }

/-- Every store of the current player drains and is applied, oldest first. -/
def State.drainOwn (s : State) : State :=
  let own := s.ownStores s.me
  let s' := { s with
    me := { s.me with wbuf := [] }
    mem := { s.mem with arrivals := s.mem.arrivals.filter (fun a => a.1 ≠ s.me.id) } }
  own.foldl (fun t st => t.applyStore s.me.id st) s'

/-- Does a store touch the bytes [a, a + n)? -/
def Store.overlaps (st : Store) (a n : Nat) : Bool := decide (st.addr < a + n) && decide (a < st.addr + st.len)

/-- The stores of the current player to the given bytes drain and are applied in program order, with every earlier
store of theirs to the same bytes (R208). -/
def State.drainBytes (s : State) (a n : Nat) : State :=
  if (s.ownStores s.me).any (fun st => st.overlaps a n) then s.drainOwn else s

/-! ### Fetch (R227, R228, R30) -/

/-- The code region of a player (R227). -/
def codeRegion (s : State) (p : Player) : List (Nat × Nat) :=
  let text := match s.cp.modules.find? (fun m => m.handle = p.place.module) with
    | some m => m.text
    | none => []
  if p.trap.priv then
    text ++ (if h : p.place.wid < 65 then (s.cp.worlds[p.place.wid]).handler else [])
  else text

def inRange (r : Nat × Nat) (a : Nat) : Bool := decide (r.1 ≤ a) && decide (a < r.1 + r.2)

/-- Does the word at `a` lie wholly inside the region? -/
def inRegion (rs : List (Nat × Nat)) (a : Nat) : Bool :=
  (List.range 4).all (fun i => rs.any (fun r => inRange r (a + i)))

/-- The word at an address, or the cause its fetch traps with. -/
def fetchWord (s : State) (p : Player) (pc : Word) : Except Cause Nat :=
  if pc.toNat % 4 ≠ 0 then .error .misaligned
  else if !inRegion (codeRegion s p) pc.toNat then .error .fetchBound
  else if !canonicalVa pc then .error .spadRange
  else
    match s.vm.leaf p.place.asid (vaIndex pc) with
    | none => .error .pageFault
    | some l =>
      match l.space with
      | .qm => .error .qmLoad
      | .host => .error .spadRange
      | .peer => .error .spadRange
      | .spad =>
        if l.wtag ≠ p.place.wid then .error .worldViolation
        else if !l.x then .error .fetchBound
        else if s.mem.badHit (l.phys pc) 4 then .error .dataError
        else .ok (s.mem.spad.read (l.phys pc) 4)

/-! ### Asynchronous faults (R12, R13, R297) -/

/-- Enters a record in a player's asynchronous fault queue; a seventeenth is dropped and the overflow bit set (R12). -/
def Player.enterFault (p : Player) (r : FaultRec) : Player :=
  if p.afq.length < 16 then { p with afq := p.afq ++ [r] } else { p with afqOvf := true }

/-- Sets the fault bit of an item in its player's pip owners (R13). -/
def Player.faultItem (p : Player) (item : Nat) : Player :=
  { p with owners := p.owners.map (fun o => if o.item = item then { o with fault := true } else o) }

/-- An accepted instruction becomes the owner of its pip tile's chunks (R13). -/
def Player.own (p : Player) (tile chunks item : Nat) : Player :=
  { p with owners := ⟨tile, chunks, item, false⟩ :: p.owners }

/-- Can a chunk no longer arrive, given the bits of its pip tile (R13)? Its bit is clear and the latest owner has its fault
bit set. -/
def Player.lostAt (p : Player) (tile : TReg) (bits c : Nat) : Bool :=
  !bits.testBit c &&
    match p.owners.find? (fun o => o.tile = tile.val ∧ c < o.chunks) with
    | some o => o.fault
    | none => false

/-- The same with the pip tile as it stands. -/
def Player.lostChunk (p : Player) (tile : TReg) (c : Nat) : Bool := p.lostAt tile p.tregs[tile] c

/-- The registers an engine writes: those from `ALLOT` up keep their zeros (R83; notes/assumptions/95.md). -/
def Player.putRegs (p : Player) (t : Vector Nat 64) : Player :=
  { p with tregs := Vector.ofFn (fun i => if i.val < p.shape.allot then t[i] else p.tregs[i]) }

/-- Sets a pip bit (R10); an index of 2048·L or more is discarded (R292), and so is one of a register from `ALLOT` up (R83). -/
def Player.setPip (p : Player) (tile : Nat) (c : Nat) : Player :=
  if h : tile < 64 then
    if c < 2048 * p.lanes ∧ tile < p.shape.allot then { p with tregs := p.tregs.set tile ((p.tregs[tile]) ||| 2 ^ c) } else p
  else p

/-! ### Errors and messages (R428, R444 to R448) -/

/-- Sends an MSI-X message (R448). -/
def State.msi (s : State) (v : Nat) : State := { s with dev := { s.dev with msix := s.dev.msix ++ [v] } }

/-- A record of a protected world is stripped when it is made (R429): of an address in query memory it keeps the offset within
the region, rounded down to 4 KiB; the memory place is none of what it keeps (notes/assumptions/101.md). -/
def ErrRec.strip (r : ErrRec) (off : Option Nat) : ErrRec :=
  if r.world = 0 then r
  else
    { r with
      flags := r.flags ||| 1
      place := r.place % 2 ^ 12
      memPlace := 0xFFFF
      addr := match off with
        | some o => o / 4096 * 4096
        | none => getBits r.addr 12 9 * 4096
      pc := 0
      word := 0 }

/-- Enters a record in the error log: the newest 4096 are kept (R445); a fatal record sends vector 64 (R448). `off` is the
region offset of an address in query memory. -/
def State.report (s : State) (r : ErrRec) (off : Option Nat) : State :=
  let seq := s.dev.seq + 1
  let r' := ({ r with seq := seq, time := s.dev.clock } : ErrRec).strip off
  let s' := { s with dev := { s.dev with seq := seq, log := (s.dev.log ++ [r']).drop (s.dev.log.length + 1 - 4096) } }
  if r.flags.testBit 1 then s'.msi 64 else s'

/-- A record about no player, with everything else blank: cause, engine, flags, memory place. -/
def plainRec (cause engine flags memPlace : Nat) : ErrRec :=
  { seq := 0, cause := cause, engine := engine, world := 0, flags := flags, asid := 0, place := 0, memPlace := memPlace
    sub := 0, eidx := 0, addr := 0, region := 0xFFFF, pc := 0, word := 0, time := 0 }

/-- A record about a player with everything else blank. -/
def blankRec (cause engine flags : Nat) (p : Player) : ErrRec :=
  { plainRec cause engine flags 0xFFFF with
    world := p.place.wid, asid := p.place.asid, place := p.place.cluster % 64 + p.place.core % 4 * 64, pc := p.pc.toNat }

/-- The word at an address of a player's code, 0 where nothing is mapped (R429). -/
def State.wordAt (s : State) (p : Player) (pc : Word) : Nat :=
  match s.vm.leaf p.place.asid (vaIndex pc) with
  | some l => s.mem.spad.read (l.phys pc) 4
  | none => 0

/-- The same with the faulting instruction: its PC and its word (R429). -/
def State.recAt (s : State) (cause engine flags : Nat) (p : Player) (pc : Word) : ErrRec :=
  { blankRec cause engine flags p with pc := pc.toNat, word := s.wordAt p pc }

/-- A seat and a lane in a record's place (R428). -/
def seatPlace (spot : Nat × Nat) : Nat := spot.1 % 16 * 2 ^ 8 + spot.2 % 16 * 2 ^ 12

/-- A contained error of the current player (R444): a data-error, a page-fault or a world-violation of one element of the
word at `pc` enters the log with the seat and lane `spot`; a data-error of scratchpad is counted (R447). Any other cause leaves
no record. -/
def State.contained (s : State) (c : Cause) (eng : Nat) (pc eidx addr : Word) (spot : Nat × Nat := (0, 0)) : State :=
  if c = .dataError ∨ c = .pageFault ∨ c = .worldViolation then
    let r := s.recAt c.code.toNat eng 0 s.me pc
    (if c = .dataError ∧ eng = 1 then s.bump 3 else s).report
      { r with eidx := eidx.toNat, addr := addr.toNat, place := r.place + seatPlace spot } none
  else s

/-- The trap of a scratchpad access that is no convoy member's (R193, R253), with its record. -/
def trapAccess (c : Cause) (va : Word) (s : State) : Out := trapHere c 0 va (s.contained c 1 s.me.pc 0 va)

/-! ### Free values -/

/-- A free value of 64 bits and the state that has used it up (notes/assumptions/5.md). -/
def State.free (s : State) : Nat × State := (Config.freeValue s.fresh, { s with fresh := s.fresh + 1 })

/-! ### Cores -/

/-- The number of a core in the package (R454). -/
def Place.coreIx (p : Place) : Nat := p.cluster * 4 + p.core

/-- The retired seats of a core (R440). -/
def State.retiredSeats (s : State) (core : Nat) : Nat := (lookupNat core s.dev.retired).getD 0

/-- The seats of a core that its live players hold. -/
def State.heldSeats (s : State) (core : Nat) : Nat :=
  (s.players.filter (fun p => p.live && decide (p.place.coreIx = core))).foldl (fun m p => m ||| p.shape.seat.toNat) 0

/-- The free pool of a core (R79, R82). -/
def State.freeSeats (s : State) (core : Nat) : Nat :=
  0xFFFF - ((s.retiredSeats core ||| s.heldSeats core) % 2 ^ 16)

/-- Zeroes every tile register below ALLOT (R80, R82); the zeros carry fresh check bits. -/
def Player.zeroTiles (p : Player) : Player := { p with tregs := Vector.replicate 64 0, tbad := [], tsoft := [] }

/-- VLMAX of a type register value and a lane count (R86). -/
def vlmaxOf (tty : BitVec 13) (lanes : Nat) : Nat :=
  let g := 2 ^ getBits tty.toNat 6 2
  let rc := 2 ^ getBits tty.toNat 8 3
  match ElemTy.ofCode (getBits tty.toNat 0 6) with
  | none => 0
  | some t =>
    if t.isSlice then 64 * (2048 * lanes * g / (64 * t.width * rc)) else 2048 * lanes * g / (t.width * rc)

def Player.fixVlmax (p : Player) : Player :=
  { p with shape := { p.shape with vlmax := vlmaxOf p.shape.tty p.lanes } }

/-- Is the accumulator one whose `mxdetach` has been accepted? -/
def Accum.detached (a : Accum) : Bool :=
  a.work.any (fun w => match w with
    | .back det _ _ _ _ => det
    | _ => false)

/-- The grant is discarded and its accumulator forgotten (R281). -/
def Player.dropGrant (p : Player) : Player := { p with grant := Grant.none, accum := p.accum.filter Accum.detached }

/-- Retires the seat of the lane that holds bit `bit` of a tile register of the current player (R82, R255, R281): its
SEAT bit clears at once, the health log takes it, tile instructions wait for a configuration instruction. The record names
element `f` of the word at `pc`. -/
def State.retireSeat (s : State) (bit f : Nat) (pc : Word) : State :=
  let lane := bit / 64 % s.me.lanes
  let seats := setBitsBelow s.me.shape.seat.toNat 16
  match seats[lane / 16]? with
  | none => s
  | some seat =>
    let core := s.me.place.coreIx
    let p := { s.me with shape := { s.me.shape with
        seat := BitVec.ofNat 16 (s.me.shape.seat.toNat - 2 ^ seat), await := true } }
    let s' := { s with
      me := p.dropGrant
      dev := { s.dev with retired := setNat core (s.retiredSeats core ||| 2 ^ seat) s.dev.retired } }
    let r := s.recAt 0x0D 0 2 s.me pc
    (s'.bump 1).report { r with eidx := f, place := r.place + seatPlace (seat, lane) } none

end Sys2Proof.Machine
end

