-- ==== Sys2Proof/Machine/Operands.lean ====
section
/-! DEFINITION. The operand forms of tile instructions: shape (spec/04_tile_programs.md R86 to R91), groups of
registers and their element slots, masks (spec/02_instruction_word.md R35, R36), and the tail and mask policies. -/

set_option Elab.async false

namespace Sys2Proof.Machine

/-! ### Shape -/

/-- The shape and modes an instruction captured at issue (R136, R254), with the player's lanes. -/
structure Env where
  lanes : Nat
  code : Nat
  ty : ElemTy
  /-- registers of a group, 2^TTY.G -/
  g : Nat
  /-- rows, 2^TTY.RC -/
  rc : Nat
  ta : Bool
  ma : Bool
  vl : Nat
  flim : Nat
  vlmax : Nat
  frm : Rm
  xrm : Xrm
  deriving DecidableEq, Repr

/-- `fp32` stands in for a code that no `settype` lets into TTY (R96). -/
def Env.of (lanes : Nat) (tty : BitVec 13) (vl flim : Nat) (frm : BitVec 3) (xrm : BitVec 2) : Env :=
  let t := tty.toNat
  { lanes := lanes
    code := getBits t 0 6
    ty := (ElemTy.ofCode (getBits t 0 6)).getD (.flt .fp32)
    g := 2 ^ getBits t 6 2
    rc := 2 ^ getBits t 8 3
    ta := t.testBit 11
    ma := t.testBit 12
    vl := vl
    flim := flim
    vlmax := vlmaxOf tty lanes
    frm := Rm.ofCode frm.toNat
    xrm := Xrm.ofCode xrm.toNat }

/-- The shape a player would issue under now. -/
def Player.env (p : Player) : Env := Env.of p.lanes p.shape.tty p.shape.vl p.shape.flim p.frm p.xrm

/-- The shape of a convoy in flight. -/
def Convoy.env (c : Convoy) (p : Player) : Env := Env.of p.lanes c.tty c.vl c.flim c.frm c.xrm

/-- The element width in bits. -/
def Env.w (e : Env) : Nat := e.ty.width

/-- Bits of one tile register (R87). -/
def Env.regBits (e : Env) : Nat := 2048 * e.lanes

/-! ### Groups -/

/-- A group of registers read as elements (R87, R88). -/
structure View where
  /-- first register -/
  reg : Nat
  /-- registers in the group -/
  regs : Nat
  /-- element width -/
  w : Nat
  sliced : Bool
  deriving DecidableEq, Repr

/-- An ordinary operand: G registers of the current type. -/
def Env.view (e : Env) (r : TReg) : View := ⟨r.val, e.g, e.w, e.ty.isSlice⟩

/-- A widened operand: 2G registers, twice as wide (R160). -/
def Env.wide (e : Env) (r : TReg) : View := ⟨r.val, 2 * e.g, 2 * e.w, e.ty.isSlice⟩

/-- A narrowed operand: G/2 registers, half as wide (R161). -/
def Env.narrow (e : Env) (r : TReg) : View := ⟨r.val, e.g / 2, e.w / 2, e.ty.isSlice⟩

/-- A group of registers as one number, the first register lowest (R87). -/
def groupOf (t : Vector Nat 64) (bits reg : Nat) : Nat → Nat
  | 0 => 0
  | n + 1 => (if h : reg < 64 then t[reg] else 0) + groupOf t bits (reg + 1) n * 2 ^ bits

/-- Writes a group back register by register. -/
def setGroup (t : Vector Nat 64) (bits reg : Nat) : Nat → Nat → Vector Nat 64
  | 0, _ => t
  | n + 1, v =>
    setGroup (if h : reg < 64 then t.set reg (v % 2 ^ bits) else t) bits (reg + 1) n (v / 2 ^ bits)

def Env.read (e : Env) (t : Vector Nat 64) (v : View) : Nat := groupOf t e.regBits v.reg v.regs

def Env.write (e : Env) (t : Vector Nat 64) (v : View) (x : Nat) : Vector Nat 64 := setGroup t e.regBits v.reg v.regs x

/-- The bit span of a row (R88). -/
def Env.rowSpan (e : Env) (v : View) : Nat := v.regs * 2048 * e.lanes / e.rc

/-- The bit positions of slot (r, c), least significant first (R88). -/
def Env.slotBits (e : Env) (v : View) (r c : Nat) : List Nat :=
  if v.sliced then (List.range v.w).map (fun p => r * e.rowSpan v + p * e.vlmax + c)
  else (List.range v.w).map (fun p => r * e.rowSpan v + c * v.w + p)

/-- The bits of a number at the listed positions. -/
def gatherBits (x : Nat) : List Nat → Nat
  | [] => 0
  | p :: rest => (if x.testBit p then 1 else 0) + 2 * gatherBits x rest

/-- Writes the bits of `v` to the listed positions. -/
def scatterBits (x v : Nat) : List Nat → Nat
  | [] => x
  | p :: rest => scatterBits (setBits x p 1 v) (v / 2) rest

/-- The value of slot (r, c) of a group value. -/
def Env.getSlot (e : Env) (v : View) (x r c : Nat) : Nat :=
  if v.sliced then gatherBits x (e.slotBits v r c) else getBits x (r * e.rowSpan v + c * v.w) v.w

/-- A group value with slot (r, c) replaced. -/
def Env.setSlot (e : Env) (v : View) (x r c y : Nat) : Nat :=
  if v.sliced then scatterBits x y (e.slotBits v r c) else setBits x (r * e.rowSpan v + c * v.w) v.w y

/-- Row and column of a logical index (R89). -/
def Env.rowOf (e : Env) (f : Nat) : Nat := f / e.vl
def Env.colOf (e : Env) (f : Nat) : Nat := f % e.vl

/-- Element `f` of a group value. -/
def Env.elem (e : Env) (v : View) (x f : Nat) : Nat := e.getSlot v x (e.rowOf f) (e.colOf f)

def Env.setElem (e : Env) (v : View) (x f y : Nat) : Nat := e.setSlot v x (e.rowOf f) (e.colOf f) y

/-- Position `f` of a group read with one row (R330, R343). -/
def flatElem (x w f : Nat) : Nat := getBits x (f * w) w

/-- Row and element of position `k` (R168). -/
def Env.pos (e : Env) (k : Nat) : Nat × Nat :=
  if k < e.rc * e.vl then (e.rowOf k, e.colOf k) else (e.rc - 1, k - (e.rc - 1) * e.vl)

/-- Position `k` of a group value. -/
def Env.posGet (e : Env) (v : View) (x k : Nat) : Nat := e.getSlot v x (e.pos k).1 (e.pos k).2

def Env.posSet (e : Env) (v : View) (x k y : Nat) : Nat := e.setSlot v x (e.pos k).1 (e.pos k).2 y

/-! ### Operands and the policies of R91 -/

/-- What an instruction reads or writes at element `f`. -/
inductive Opnd where
  /-- element `f` of a group -/
  | group (v : View)
  /-- bit `f` of one register (R156) -/
  | mask (reg : Nat)
  /-- byte `off + ⌊f/32⌋` of t1, an E8M0 scale (R90) -/
  | scale (off : Nat)
  /-- position 0 of a group, read once (R175) -/
  | first (v : View)
  /-- bit ⌊f/64⌋ of one register, the chunk that selects `f` (R35) -/
  | chunk (reg : Nat)
  /-- another element of a group, or none: chosen from the scalars, t0, the values of the sources, and `f` -/
  | pick (v : View) (idx : List Word → Nat → List Nat → Nat → Option Nat)

def Opnd.view : Opnd → View
  | .group v => v
  | .mask r => ⟨r, 1, 1, false⟩
  | .scale _ => ⟨1, 1, 8, false⟩
  | .first v => v
  | .chunk r => ⟨r, 1, 1, false⟩
  | .pick v _ => v

/-- A destination with element `f` replaced; only a group, a mask or scales are destinations. -/
def Opnd.put (e : Env) (d : Opnd) (x f y : Nat) : Nat :=
  match d with
  | .group v => e.setElem v x f y
  | .mask _ => setBits x f 1 y
  | .scale off => setBits x (8 * (off + f / 32)) 8 y
  | .first v => e.posSet v x 0 y
  | .chunk _ => x
  | .pick _ _ => x

/-- The bits of the operand's group that element `f` reads. -/
def Opnd.bits (e : Env) (ws : List Word) (t0 : Nat) (vals : List Nat) (d : Opnd) (f : Nat) : List Nat :=
  match d with
  | .group v => e.slotBits v (e.rowOf f) (e.colOf f)
  | .mask _ => [f]
  | .scale off => (List.range 8).map (fun i => 8 * (off + f / 32) + i)
  | .chunk _ => [f / 64]
  | .first v => if f = 0 then e.slotBits v (e.pos 0).1 (e.pos 0).2 else []
  | .pick v idx =>
    match idx ws t0 vals f with
    | some j => e.slotBits v (e.rowOf j) (e.colOf j)
    | none => []

/-- All ones in element `f`. -/
def Opnd.fill (e : Env) (d : Opnd) (x f : Nat) : Nat := d.put e x f (ones d.view.w)

/-- The columns of row `r` that hold no logical index below FLIM (R89). -/
def Env.tailCols (e : Env) (r : Nat) : List Nat :=
  (List.range e.vlmax).filter (fun c => decide (e.vl ≤ c) || decide (e.flim ≤ r * e.vl + c))

/-- The tail written all-ones (R89, R91). -/
def Opnd.fillTail (e : Env) (d : Opnd) (x : Nat) : Nat :=
  match d with
  | .group v =>
    (List.range e.rc).foldl (fun y r => (e.tailCols r).foldl (fun z c => e.setSlot v z r c (ones v.w)) y) x
  | .mask _ => setBits x e.flim (e.regBits - e.flim) (ones (e.regBits - e.flim))
  | _ => x

/-! ### Masks (R35, R36) -/

/-- Is element `f` selected under a mask mode and the value of t0? -/
def selected (m : MaskMode) (t0 f : Nat) : Bool :=
  match m with
  | .unmasked => true
  | .masked => t0.testBit f
  | .inverse => !t0.testBit f
  | .pip => t0.testBit (f / 64)

/-- The element groups of the shape: 64 elements each (R15). -/
def Env.groups (e : Env) : Nat := (e.flim + 63) / 64

/-- The elements of group `g`. -/
def Env.span (e : Env) (g : Nat) : List Nat := (List.range (min 64 (e.flim - 64 * g))).map (fun i => 64 * g + i)

/-- The element groups complete once every group that `shut` names may close; in order, a group closes only behind all
lower ones. -/
def newGroups (n : Nat) (ordered : Bool) (shut : Nat → Bool) (old : Nat) : Nat :=
  (List.range n).foldl (fun a g => if shut g && (!ordered || a % 2 ^ g == ones g) then a ||| 2 ^ g else a) old

/-- Are the first `n` groups complete? -/
def allGroups (n gs : Nat) : Bool := (List.range n).all gs.testBit

/-- Under MA, the elements that the mask leaves inactive in the groups of `new` that are not in `old` (R91). -/
def Opnd.fillGroups (e : Env) (d : Opnd) (m : MaskMode) (t0 old new x : Nat) : Nat :=
  if e.ma then
    (List.range e.flim).foldl
      (fun z f => if selected m t0 f || old.testBit (f / 64) || !new.testBit (f / 64) then z else d.fill e z f) x
  else x

/-- The policies of R91 applied once the active elements have been written: tail elements under TA, elements below
FLIM that the mask leaves inactive under MA. -/
def Opnd.finish (e : Env) (d : Opnd) (m : MaskMode) (t0 x : Nat) : Nat :=
  let y := if e.ma then
      (List.range e.flim).foldl (fun z f => if selected m t0 f then z else d.fill e z f) x
    else x
  if e.ta then d.fillTail e y else y

end Sys2Proof.Machine
end

