-- ==== Sys2Proof/Machine/Convoy.lean ====
section
/-! DEFINITION. Convoys and their members (spec/02_instruction_word.md R39 to R49, spec/10_tile_ordering_and_faults.md
R247 to R254): what a tile instruction is made of, the checks at issue, and how a member performs its elements. -/

set_option Elab.async false

namespace Sys2Proof.Machine

/-- The convoy classes (R45). A store counts as SPAD too. -/
inductive TileClass where
  | alu | mulfp | spad | spadStore | perm | async
  deriving DecidableEq, Repr

/-- What element `f` of a member would meet if it performed now: whether a check stops it, and the scratchpad bytes it
would touch, as first address and number. -/
structure Look where
  fails : Bool
  bytes : List (Nat × Nat)
  deriving DecidableEq, Repr

def Look.clear : Look := ⟨false, []⟩

/-- How a member acts. -/
inductive TileKind where
  /-- element-wise (R134): destination, sources, and the result of element `f` from the scalar operands, t0 as captured
  and the source groups -/
  | elem (dst : Env → Opnd) (srcs : Env → List Opnd) (comp : Env → List Word → Nat → List Nat → Nat → Res)
  /-- anything else: how member `k` runs to its end, how it performs its element `f` when the element groups of the first
  argument may be performed, and what it would meet there -/
  | run (whole : Nat → State → Out) (one : (Nat → Bool) → Nat → Nat → State → Out) (look : Nat → Nat → State → Look)

/-- Which part of a register group a member touches when it performs an element (R247). -/
inductive Reach where
  /-- any of it, at any time -/
  | whole
  /-- element `f` only -/
  | element
  /-- byte ⌊f/32⌋, the scale of the element's block (R172) -/
  | block
  deriving DecidableEq, Repr

/-- One register group of a member. -/
structure Access where
  view : View
  write : Bool
  reach : Reach
  deriving DecidableEq, Repr

/-- A group touched as a whole. -/
def wholeAccess (write : Bool) (g : Nat × Nat) : Access := ⟨⟨g.1, g.2, 1, false⟩, write, .whole⟩

/-- How an operand is reached. -/
def Opnd.access (write : Bool) (d : Opnd) : Access :=
  ⟨d.view, write, match d with
    | .group _ => .element
    | .mask _ => .element
    | .scale 0 => .block
    | _ => .whole⟩

/-- What the issue stage and the element engines need of a tile instruction. -/
structure TileDesc where
  cls : TileClass
  priv : Bool
  mode : MaskMode
  /-- is the operation defined under this type (R38)? -/
  typeOk : Env → Bool
  /-- destination and source groups: first register and size (R39, R40) -/
  dsts : Env → List (Nat × Nat)
  srcs : Env → List (Nat × Nat)
  /-- scalar registers read at issue, or at acceptance by an ASYNC member (R333) -/
  regs : List SReg
  /-- pip tiles: sources for R40, destinations for R268 -/
  pips : List Nat
  /-- column masks among the sources: neither data nor index groups (R329) -/
  masks : Env → List (Nat × Nat) := fun _ => []
  /-- a matrix instruction makes its own grant checks (R268, R270) -/
  matrix : Bool
  /-- traps determinism under MODE.DET (R331) -/
  noDet : Env → Bool
  /-- a condition checked after those of R47 (R331) -/
  post : Env → Bool
  /-- the register groups as the elements touch them; every one as a whole where nothing else is said -/
  acc : Env → List Access := fun e => (dsts e).map (wholeAccess true) ++ (srcs e).map (wholeAccess false)
  /-- waits for every element group of what it depends on, not for its own group alone (R247) -/
  every : Bool := false
  /-- a gather or a scatter: DONE may be set out of logical order (R14) -/
  free : Bool := false
  /-- index groups, which an element's address needs -/
  idx : Env → List (Nat × Nat) := fun _ => []
  /-- a load that checks every element before it writes one (R205) -/
  trims : Player → Bool := fun _ => false
  /-- scalar registers it writes -/
  outs : List SReg := []
  kind : TileKind

/-! ### Checks at issue (R47) -/

/-- The groups the mask adds to the sources (R40). -/
def maskGroups (m : MaskMode) : List (Nat × Nat) := if m = .unmasked then [] else [(0, 1)]

def TileDesc.allSrcs (d : TileDesc) (e : Env) : List (Nat × Nat) :=
  d.srcs e ++ maskGroups d.mode ++ d.pips.map (fun t => (t, 1))

def groupsMeet (a b : Nat × Nat) : Bool := decide (a.1 < b.1 + b.2) && decide (b.1 < a.1 + a.2)

/-- Group sizes and alignment (R38, R39). -/
def groupOk (g : Nat × Nat) : Bool := decide (1 ≤ g.2) && decide (g.2 ≤ 8) && decide (g.1 % g.2 = 0)

/-- An overlap is exact (R40). -/
def overlapOk (d s : Nat × Nat) : Bool := !groupsMeet d s || decide (d = s)

/-- No reply, data or index group of a stream or query instruction contains its own pip tile, be the overlap exact
(R40, R330); a column mask is none of them (DEDUCED, notes/assumptions/94.md). -/
def TileDesc.pipApart (d : TileDesc) (e : Env) : Bool :=
  d.matrix || (d.dsts e ++ (d.srcs e).filter (fun g => !(d.masks e).contains g)).all (fun g => d.pips.all (fun t => !groupsMeet g (t, 1)))

/-- Check 4 of R47. -/
def TileDesc.shapeOk (d : TileDesc) (e : Env) : Bool :=
  d.typeOk e && (d.dsts e ++ d.allSrcs e).all groupOk &&
    (d.dsts e).all (fun a => (d.allSrcs e).all (fun b => overlapOk a b)) && d.pipApart e

/-- Check 5 of R47; no allotment exceeds the 64 registers there are (R83). -/
def TileDesc.allotOk (d : TileDesc) (e : Env) (allot : Nat) : Bool :=
  (d.dsts e ++ d.allSrcs e).all (fun g => decide (g.1 + g.2 ≤ min allot 64))

/-- Members counted so far (R45). -/
structure Counts where
  total : Nat
  alu : Nat
  mulfp : Nat
  spad : Nat
  stores : Nat
  perm : Nat
  async : Nat
  deriving DecidableEq, Repr

def Counts.zero : Counts := ⟨0, 0, 0, 0, 0, 0, 0⟩

def Counts.add (c : Counts) (k : TileClass) : Counts :=
  let c := { c with total := c.total + 1 }
  match k with
  | .alu => { c with alu := c.alu + 1 }
  | .mulfp => { c with mulfp := c.mulfp + 1 }
  | .spad => { c with spad := c.spad + 1 }
  | .spadStore => { c with spad := c.spad + 1, stores := c.stores + 1 }
  | .perm => { c with perm := c.perm + 1 }
  | .async => { c with async := c.async + 1 }

/-- The limits of R45. -/
def Counts.ok (c : Counts) : Bool :=
  decide (c.total ≤ 8) && decide (c.alu ≤ 3) && decide (c.mulfp ≤ 2) && decide (c.spad ≤ 2) &&
    decide (c.stores ≤ 1) && decide (c.perm ≤ 1) && decide (c.async ≤ 2)

/-- Does a group meet the accumulator group of an attached grant (R268)? -/
def Grant.meets (g : Grant) (r : Nat × Nat) : Bool := g.att && groupsMeet r (g.acc.toNat, g.asize.toNat)

/-- Check 7 of R47, with the check R331 makes after it. -/
def checkSeven (p : Player) (d : TileDesc) (e : Env) : Option Cause :=
  if p.shape.await then some .dataError
  else if !d.matrix && (d.dsts e ++ d.pips.map (fun t => (t, 1))).any p.grant.meets then some .matrixGrant
  else if p.det && d.noDet e then some .determinism
  else if !d.post e then some .illegalType
  else none

/-- Checks 3 to 7 of R47 for one member, given the counts of the members before it. -/
def checkMember (p : Player) (d : TileDesc) (c : Counts) : Except Cause Counts :=
  let e := p.env
  if d.priv && !p.trap.priv then .error .privileged
  else if !d.shapeOk e then .error .illegalType
  else if !d.allotOk e p.shape.allot then .error .registerAllotment
  else if !(c.add d.cls).ok then .error .convoyConflict
  else
    match checkSeven p d e with
    | some cause => .error cause
    | none => .ok (c.add d.cls)

/-- Checks every member in program order; the first failure with the address of its word (R47, R48). -/
def checkConvoy (p : Player) (descOf : Instr → Option TileDesc) : Counts → List Fetched → Option (Cause × Word)
  | _, [] => none
  | c, w :: rest =>
    match w.instr with
    | none => some (.illegalOpcode, w.addr)
    | some i =>
      match descOf i with
      | none => some (.illegalOpcode, w.addr)
      | some d =>
        match checkMember p d c with
        | .error cause => some (cause, w.addr)
        | .ok c' => checkConvoy p descOf c' rest

/-! ### Members in flight -/

def freshMember (i : Instr) (addr : Word) (scal : List Word) : Member := ⟨i, addr, scal, false, 0, 0, none, none, none, none, none⟩

/-- The members the words of the issue queue become. One that reads a scalar register an earlier member writes, of those
named by `outs`, reads its scalar operands behind that member (R247), every other one at issue (R135). -/
def membersOf (p : Player) (descOf : Instr → Option TileDesc) : List SReg → List Fetched → List Member
  | _, [] => []
  | outs, w :: rest =>
    match w.instr with
    | none => membersOf p descOf outs rest
    | some i =>
      match descOf i with
      | none => membersOf p descOf outs rest
      | some d => freshMember i w.addr (if d.regs.any outs.contains then [] else d.regs.map p.rd) ::
          membersOf p descOf (outs ++ d.outs) rest

/-- A convoy leaves the issue queue: what R136 and R254 name is captured. -/
def State.startConvoy (s : State) (start : Word) (ms : List Member) : State :=
  { s with me := { s.me with
      conv := some ⟨start, ms, s.me.shape.tty, s.me.frm, s.me.xrm, s.me.shape.vl, s.me.shape.flim,
        start + 4 * BitVec.ofNat 64 ms.length⟩
      queue := []
      hold := false
      started := true } }

/-- Issues the words of the issue queue as one convoy, or takes the trap of the first failing member (R48). -/
def issueWords (descOf : Instr → Option TileDesc) (ws : List Fetched) (s : State) : Out :=
  match ws with
  | [] => .next s
  | w :: _ =>
    match checkConvoy s.me descOf Counts.zero ws with
    | some (c, a) => .next { s with me := s.me.takeTrap c w.addr 0 a false 0 }
    | none => .next (s.startConvoy w.addr (membersOf s.me descOf [] ws))

/-- The position of the first member not complete. -/
def firstOpen : List Member → Nat
  | [] => 0
  | m :: rest => if m.fin then firstOpen rest + 1 else 0

def Convoy.setMember (c : Convoy) (k : Nat) (m : Member) : Convoy := { c with members := c.members.set k m }

def State.member? (s : State) (k : Nat) : Option (Convoy × Member) :=
  match s.me.conv with
  | none => none
  | some cv =>
    match cv.members[k]? with
    | none => none
    | some m => some (cv, m)

def State.setMember (s : State) (k : Nat) (f : Member → Member) : State :=
  match s.me.conv with
  | none => s
  | some cv =>
    match cv.members[k]? with
    | none => s
    | some m => { s with me := { s.me with conv := some (cv.setMember k (f m)) } }

/-- A convoy whose every member is complete ends: the PC goes behind its last word (R17), or behind the scalar instructions
that have issued beside it (R463). -/
def State.closeConvoy (s : State) : State :=
  match s.me.conv with
  | none => s
  | some cv =>
    if cv.members.all (fun m => m.fin) then
      { s with me := { s.me with conv := none, pc := cv.next } }
    else s

/-- Member `k` is complete. -/
def State.finishMember (s : State) (k : Nat) : State :=
  (s.setMember k (fun m => { m with fin := true, marker := none })).closeConvoy

/-- The place of lane `lane` in the player's seats (R79): its seat and its number there. -/
def Player.laneAt (p : Player) (lane : Nat) : Nat × Nat :=
  (((setBitsBelow p.shape.seat.toNat 16)[lane / 16]?).getD 0, lane % 16)

/-- The address of member `k` of the convoy in flight. -/
def State.memberPc (s : State) (k : Nat) : Word :=
  match s.me.conv with
  | some cv => cv.start + 4 * BitVec.ofNat 64 k
  | none => s.me.pc

/-- A run-time trap of member `k` at element `f` (R251 to R253); a data-error of scratchpad names the lane that holds the
element, `lane` (R253). -/
def trapMember (k : Nat) (c : Cause) (f etval : Word) (eng : Nat) (s : State) (lane : Nat := 0) : Out :=
  let spot := if c = .dataError then s.me.laneAt lane else (0, 0)
  trapConvoy c f etval (etinfo k eng spot.1 spot.2 0) (s.contained c eng (s.memberPc k) f etval spot)

/-- A tile-register data error at element `f` of member `k` (R82, R252, R255): the seat is retired, `ETINFO` names the
lane and the register. -/
def trapTileError (k f : Nat) (word : Word) (reg bit : Nat) (s : State) : Out :=
  let l := s.me.laneAt (bit / 64 % s.me.lanes)
  trapConvoy .dataError (BitVec.ofNat 64 f) word (etinfo k 0 l.1 l.2 reg) (s.retireSeat bit f (s.memberPc k))

/-! ### Element-wise members (R134 to R139) -/

/-- The entry of the lowest position (R250). -/
def lowestStop : List (Nat × (Nat × Nat)) → Option (Nat × (Nat × Nat))
  | [] => none
  | a :: rest =>
    match lowestStop rest with
    | none => some a
    | some b => some (if b.1 < a.1 then b else a)

/-- Does element `f` read a bit of a register through these operands? -/
def readsBit (e : Env) (ws : List Word) (t0 : Nat) (vals : List Nat) (ds : List Opnd) (f : Nat) (b : Nat × Nat) : Bool :=
  ds.any (fun d =>
    let v := d.view
    decide (v.reg ≤ b.1) && decide (b.1 < v.reg + v.regs) && (d.bits e ws t0 vals f).contains ((b.1 - v.reg) * e.regBits + b.2))

/-- The first uncorrectable bit that element `f` of the operands reads (R138, R255). -/
def badBit (e : Env) (p : Player) (ws : List Word) (t0 : Nat) (vals : List Nat) (ds : List Opnd) (f : Nat) : Option (Nat × Nat) :=
  p.tbad.find? (readsBit e ws t0 vals ds f)

/-- The mask as an operand that may hold an error. -/
def maskOperand (m : MaskMode) : List Opnd :=
  match m with
  | .unmasked => []
  | .masked => [.mask 0]
  | .inverse => [.mask 0]
  | .pip => [.chunk 0]

/-- The uncorrectable bit of t0 that decides about element `f`: the element cannot be skipped on its word (R36, R255). -/
def maskFault (e : Env) (p : Player) (mode : MaskMode) (f : Nat) : Option (Nat × Nat) :=
  badBit e p [] 0 [] (maskOperand mode) f

/-- Why an element stops its instruction. -/
inductive Stop where
  /-- its chunk can no longer arrive (R12) -/
  | partner (f : Nat)
  /-- it reads an uncorrectable bit (R255) -/
  | tile (f reg bit : Nat)
  deriving DecidableEq, Repr

/-- What element `f` of a member may do before it performs (R12, R138). -/
def stopAt (e : Env) (p : Player) (mode : MaskMode) (ws : List Word) (t0 : Nat) (vals : List Nat) (srcs : List Opnd)
    (f : Nat) : Option Stop :=
  if mode = .pip && p.lostAt 0 t0 (f / 64) then some (.partner f)
  else
    match badBit e p ws t0 vals (srcs ++ maskOperand mode) f with
    | some b => some (.tile f b.1 b.2)
    | none => none

/-- Must the member still meet element `f`: not done, and selected, lost (R12) or under a mask bit that cannot be read? -/
def isOpen (e : Env) (p : Player) (mode : MaskMode) (t0 dn f : Nat) : Bool :=
  !dn.testBit f && (selected mode t0 f || (mode = .pip && p.lostAt 0 t0 (f / 64)) || (maskFault e p mode f).isSome)

/-- Has element group `g` no element left to meet? -/
def groupShut (e : Env) (p : Player) (mode : MaskMode) (t0 dn g : Nat) : Bool :=
  (e.span g).all (fun f => !isOpen e p mode t0 dn f)

/-- What a run of elements has produced. -/
structure Loop where
  x : Nat
  flags : Flags
  done : Nat
  stop : Option Stop
  deriving DecidableEq, Repr

/-- Element `f`: skipped when inactive or after a stop. -/
def elemStep (e : Env) (p : Player) (mode : MaskMode) (ws : List Word) (t0 : Nat) (vals : List Nat) (dst : Opnd)
    (srcs : List Opnd) (comp : Nat → Res) (l : Loop) (f : Nat) : Loop :=
  if l.stop.isSome || !isOpen e p mode t0 l.done f then l
  else
    match stopAt e p mode ws t0 vals srcs f with
    | some st => { l with stop := some st }
    | none =>
      let r := comp f
      ⟨dst.put e l.x f r.val, l.flags ||| r.flags, l.done ||| 2 ^ f, none⟩

/-- Takes the trap of a stop of member `k`. -/
def trapStop (k : Nat) (word : Word) (st : Stop) (s : State) : Out :=
  match st with
  | .partner f => trapMember k .partnerFault (BitVec.ofNat 64 f) word 0 s
  | .tile f reg bit => trapTileError k f word reg bit s

/-- t0 as the instruction reads it: once, before any element performs, and once more when it has been interrupted, but for
what its own convoy has written over it (R36, R254). -/
def Member.t0 (m : Member) (p : Player) : Nat :=
  match m.mask with
  | some x => x
  | none =>
    match m.ownT0 with
    | some o => mixBits p.tregs[0] o.2 o.1
    | none => p.tregs[0]

/-- Do a source and the destination share their registers in different layouts: another view, or another place in it for
element `f`? -/
def twoLayouts (d o : Opnd) : Bool :=
  decide (d.view.reg = o.view.reg) && (decide (d.view ≠ o.view) || decide ((d.access true).reach ≠ (o.access false).reach))

/-- The destination's value to keep while the member runs: needed where a source sees its registers in another layout. -/
def Member.keeps (m : Member) (d : Opnd) (ds : List Opnd) (x : Nat) : Option Nat :=
  match m.under with
  | some y => some y
  | none => if ds.any (twoLayouts d) then some x else none

/-- The bits of the destination that the member has written: its elements in DONE and what R91 filled in its complete
groups. -/
def Member.written (m : Member) (e : Env) (d : Opnd) : Nat :=
  ((List.range e.flim).filter (fun f => m.done.testBit f || (e.ma && m.groups.testBit (f / 64)))).foldl
    (fun x f => (d.bits e [] 0 [] f).foldl (fun y b => setBits y b 1 1) x) 0

/-- A source as the member reads it: no element sees what another one of the member wrote (R134). -/
def Member.source (m : Member) (e : Env) (p : Player) (d o : Opnd) : Nat :=
  let x := e.read p.tregs o.view
  match m.under with
  | some y => if twoLayouts d o then mixBits x y (m.written e d) else x
  | none => x

/-- Element-wise execution of member `k` over a list of elements; `ready` says which element groups may be completed. -/
def runElems (k : Nat) (mode : MaskMode) (dst : Env → Opnd) (srcs : Env → List Opnd)
    (comp : Env → List Word → Nat → List Nat → Nat → Res) (fs : Env → List Nat) (ready : Nat → Bool) (s : State) : Out :=
  match s.member? k with
  | none => .next s
  | some (cv, m) =>
    let p := s.me
    let e := cv.env p
    if e.flim = 0 then .next (s.finishMember k)
    else
      let d := dst e
      let ds := srcs e
      let t0 := m.t0 p
      let vals := ds.map (m.source e p d)
      let x0 := e.read p.tregs d.view
      let l := (fs e).foldl (elemStep e p mode m.scal t0 vals d ds (comp e m.scal t0 vals)) ⟨x0, 0, m.done, none⟩
      let gs := newGroups e.groups true (fun g => ready g && groupShut e p mode t0 l.done g) m.groups
      let whole := l.stop.isNone && allGroups e.groups gs
      let x1 := d.fillGroups e mode t0 m.groups gs l.x
      let x := if whole && e.ta then d.fillTail e x1 else x1
      let soft := p.tsoft.filter (fun b => (fs e).any (fun f => l.done.testBit f && !m.done.testBit f &&
        readsBit e m.scal t0 vals (ds ++ maskOperand mode) f b))
      let s' := (({ s with me := { p with tregs := e.write p.tregs d.view x, flags := p.flags ||| l.flags } }).setMember k
        (fun n => { n with done := l.done, groups := gs, mask := some t0, under := m.keeps d ds x0 })).correctTile soft
      match l.stop with
      | some st => trapStop k m.addr st s'
      | none => .next (if whole then s'.finishMember k else s')

/-- What element `f` of member `k` would meet. -/
def lookElem (k : Nat) (mode : MaskMode) (dst : Env → Opnd) (srcs : Env → List Opnd) (f : Nat) (s : State) : Look :=
  match s.member? k with
  | none => Look.clear
  | some (cv, m) =>
    let e := cv.env s.me
    let ds := srcs e
    ⟨(stopAt e s.me mode m.scal (m.t0 s.me) (ds.map (m.source e s.me (dst e))) ds f).isSome, []⟩

/-! ### One member as an instruction -/

/-- An ASYNC member reads its scalar operands when its engine accepts it (R8, R333), any other one that still has to read
them now (R247, R254). -/
def TileDesc.readScalars (d : TileDesc) (k : Nat) (s : State) : State :=
  s.setMember k (fun m =>
    if d.cls = .async || m.scal.length != d.regs.length then { m with scal := d.regs.map s.me.rd } else m)

/-- Member `k` runs to its end, its trap or its wait. -/
def TileDesc.runWhole (d : TileDesc) (k : Nat) (s : State) : Out :=
  match d.kind with
  | .elem dst srcs comp => runElems k d.mode dst srcs comp (fun e => List.range e.flim) (fun _ => true) (d.readScalars k s)
  | .run whole _ _ => whole k (d.readScalars k s)

/-- Member `k` performs its element `f` (R18); `ready` says which element groups may be completed. -/
def TileDesc.runOne (d : TileDesc) (ready : Nat → Bool) (k f : Nat) (s : State) : Out :=
  match d.kind with
  | .elem dst srcs comp => runElems k d.mode dst srcs comp (fun e => if f < e.flim then [f] else []) ready (d.readScalars k s)
  | .run _ one _ => one ready k f (d.readScalars k s)

/-- What element `f` of member `k` would meet. -/
def TileDesc.look (d : TileDesc) (k f : Nat) (s : State) : Look :=
  match d.kind with
  | .elem dst srcs _ => lookElem k d.mode dst srcs f (d.readScalars k s)
  | .run _ _ look => look k f (d.readScalars k s)

/-- The register groups of a member, its mask included: t0 is read once, in full (R36). -/
def TileDesc.accesses (d : TileDesc) (e : Env) : List Access :=
  d.acc e ++ (if d.mode = .unmasked then [] else [wholeAccess false (0, 1)]) ++ d.pips.map (fun t => wholeAccess true (t, 1))

/-- A member of a convoy in flight goes on; one whose registers a handler has given up since it issued traps register-allotment
(R39, R83; notes/assumptions/95.md). -/
def TileDesc.goOn (d : TileDesc) (k : Nat) (run : State → Out) (s : State) : Out :=
  match s.member? k with
  | none => run s
  | some (cv, m) =>
    if d.allotOk (cv.env s.me) s.me.shape.allot then run s else trapMember k .registerAllotment 0 m.addr 0 s

/-- A tile instruction: the next member of the convoy in flight, or a convoy of its own, which is checked first. -/
def runTile (i : Instr) (d : TileDesc) (s : State) : Out :=
  match s.me.conv with
  | some cv =>
    let k := firstOpen cv.members
    match cv.members[k]? with
    | some m => if m.instr = i then d.goOn k (d.runWhole k) s else .next s
    | none => .next s
  | none =>
    match checkMember s.me d Counts.zero with
    | .error c => trapHere c 0 s.me.pc s
    | .ok _ => d.runWhole 0 (s.startConvoy s.me.pc [freshMember i s.me.pc (d.regs.map s.me.rd)])

end Sys2Proof.Machine
end

