-- ==== Sys2Proof/Machine/Qmem.lean ====
section
/-! DEFINITION. Query memory (spec/16_query_memory.md R306 to R328): units and stripes, the placement of regions,
translation of QM addresses, reads that reconstruct, and writes that keep the parity. -/

set_option Elab.async false

namespace Sys2Proof.Machine

/-! ### Units and stripes (R306, R308) -/

/-- Rows of a PC. -/
def rowsPerPc : Nat := 1310720

/-- The number of unit (s, p, u). -/
def unitNo (s p u : Nat) : Nat := (s * 64 + p) * rowsPerPc + u

def unitStack (n : Nat) : Nat := n / rowsPerPc / 64
def unitPc (n : Nat) : Nat := n / rowsPerPc % 64
def unitRow (n : Nat) : Nat := n % rowsPerPc

/-- The stack of the parity unit of stripe (p, u) (R308). -/
def parityStack (p u : Nat) : Nat := (u + p) % 12

/-- The twelve units of the stripe of a unit. -/
def stripeUnits (n : Nat) : List Nat := (List.range 12).map (fun s => unitNo s (unitPc n) (unitRow n))

/-- The parity unit of the stripe of a unit. -/
def parityUnit (n : Nat) : Nat := unitNo (parityStack (unitPc n) (unitRow n)) (unitPc n) (unitRow n)

/-- The stored 8192 bits of a unit. -/
def Qm.raw (q : Qm) (n : Nat) : Nat := q.cells.read (n * 1024) 1024

def xorAll : List Nat → Nat
  | [] => 0
  | x :: rest => x ^^^ xorAll rest

/-- The value of a unit rebuilt from the other eleven of its stripe (R308, R317). -/
def Qm.rebuild (q : Qm) (n : Nat) : Nat :=
  xorAll ((stripeUnits n).map (fun m => if m = n then 0 else q.raw m))

/-! ### Regions (R309 to R311) -/

/-- Unit `k` of a region (R311). -/
def Region.unit (r : Region) (k : Nat) : Nat :=
  if r.slab then
    let z := 11 * r.rows / 12
    let h := k / z
    let i := k % z
    let s := h % 12
    let p := h / 12
    let x := (s + 12 * (r.ubase + p + 1) - (r.ubase + p)) % 12
    let j := i % 11
    unitNo s p (r.ubase + 12 * (i / 11) + (if j < x then j else j + 1))
  else
    let pcs := if r.home = 15 then 64 else 16
    let p0 := if r.home = 15 then 0 else 16 * r.home
    let j := k / 11
    let p := p0 + j % pcs
    let u := r.ubase + j / pcs
    unitNo ((u + p + 1 + k % 11) % 12) p u

/-- The row count of a band (R310). -/
def bandRows (slab : Bool) (home units : Nat) : Nat :=
  if slab then 12 * ((units + 8447) / 8448)
  else if home = 15 then (units + 703) / 704
  else (units + 175) / 176

/-- Row size of a collection, and the offsets of its side list and tombstone map at allocation (R362). -/
def rowBytesOf (cls width : Nat) : Nat := if cls = 1 then width / 8 else width
def sideOffOf (b body : Nat) : Nat := 1024 + 1024 * ((body * b + 1023) / 1024)
def tombOffOf (b body side : Nat) : Nat := sideOffOf b body + 1024 * ((side * b + 1023) / 1024)
def Region.rowBytes (r : Region) : Nat := rowBytesOf r.cls r.width
def Region.isCollection (r : Region) : Bool := r.cls == 1 || r.cls == 2

/-- The region offset of a row (R362). -/
def Region.rowOff (r : Region) (i : Nat) : Nat :=
  if i < r.body then 1024 + i * r.rowBytes else r.sideOff + (i - r.body) * r.rowBytes

/-- Which unit of the region a unit of query memory is, the inverse of `Region.unit`; none for one that holds parity, or lies
outside. -/
def Region.indexOf (r : Region) (n : Nat) : Option Nat :=
  let s := unitStack n
  let p := unitPc n
  let u := unitRow n
  let k :=
    if r.slab then
      let x := (s + 12 * (r.ubase + p + 1) - (r.ubase + p)) % 12
      let j := (u - r.ubase) % 12
      (12 * p + s) * (11 * r.rows / 12) + 11 * ((u - r.ubase) / 12) + (if j < x then j else j - 1)
    else
      let pcs := if r.home = 15 then 64 else 16
      let p0 := if r.home = 15 then 0 else 16 * r.home
      11 * ((u - r.ubase) * pcs + (p - p0)) + (s + 12 - (u + p + 1) % 12) % 12
  if r.unit k = n ∧ k < r.units then some k else none

def Qm.region? (q : Qm) (id : Nat) : Option Region := q.regions.find? (fun r => r.id = id)

def Qm.setRegion (q : Qm) (r : Region) : Qm :=
  { q with regions := q.regions.map (fun x => if x.id = r.id then r else x) }

/-! ### The clean-row map (R319) -/

def inRun (r : Nat × Nat) (n : Nat) : Bool := decide (r.1 ≤ n) && decide (n < r.1 + r.2)

/-- Is the row of a unit clean? -/
def Qm.isClean (q : Qm) (n : Nat) : Bool := q.clean.any (fun r => inRun r n)

/-- A row rewritten or certified is clean (R319). -/
def Qm.markClean (q : Qm) (n : Nat) : Qm := if q.isClean n then q else { q with clean := (n, 1) :: q.clean }

/-- A run without one of its rows. -/
def splitRun (n : Nat) (r : Nat × Nat) : List (Nat × Nat) :=
  if inRun r n then [(r.1, n - r.1), (n + 1, r.1 + r.2 - (n + 1))].filter (fun x => x.2 ≠ 0) else [r]

/-- The row leaves the map. -/
def Qm.dropClean (q : Qm) (n : Nat) : Qm := { q with clean := (q.clean.map (splitRun n)).flatten }

/-! ### Reading units (R317, R320, R324) -/

/-- A parity unit takes one delta; its row is then clean (R314, R319). -/
def Qm.absorb (q : Qm) (d : Delta) : Qm :=
  let n := unitNo d.stack d.pc d.row
  let a := n * 1024 + d.off
  ({ q with cells := q.cells.write a d.len (q.cells.read a d.len ^^^ d.val) }).markClean n

/-- Every delta of a stripe reaches its parity unit (R315). -/
def Qm.drainStripe (q : Qm) (n : Nat) : Qm :=
  let mine := fun (d : Delta) => decide (d.pc = unitPc n) && decide (d.row = unitRow n)
  let r := (q.deltas.filter mine).foldl Qm.absorb q
  { r with deltas := q.deltas.filter (fun d => !mine d) }

/-- Can a unit of the stripe other than `n` be read: none uncorrectable, none in the lost stack (R320)? -/
def Qm.othersOk (q : Qm) (n : Nat) : Bool :=
  (stripeUnits n).all (fun m => decide (m = n) || (!q.bad.contains m && decide (q.lost ≠ some (unitStack m))))

/-- Adds to a count kept by key. -/
def addNat (k n : Nat) (l : List (Nat × Nat)) : List (Nat × Nat) := setNat k ((lookupNat k l).getD 0 + n) l

/-- A unit with a wrong symbol is read: a clean row leaves the map and goes to the decoder, which is counted (R319, R447). -/
def State.syndrome (s : State) (n : Nat) : State :=
  if s.qm.isClean n then ({ s with qm := s.qm.dropClean n }).bump 6 else s

/-- A record about a unit (R428): its stack and PC, and of a region's unit the region, its world and the offset
(notes/assumptions/101.md). -/
def State.reportUnit (s : State) (flags n : Nat) : State :=
  let r := plainRec 0x0D 6 flags (unitStack n + unitPc n * 2 ^ 4)
  match s.qm.regions.findSome? (fun g => (g.indexOf n).map (fun k => (g, k))) with
  | none => s.report r none
  | some x => s.report { r with region := x.1.id, world := x.1.world } (some (1024 * x.2))

/-- The decoder corrects what it finds in a unit: the symbols are counted, the unit is rewritten (R319, R320), and a corrected
error enters the log (R444). -/
def State.correctUnit (s : State) (n : Nat) : State :=
  match lookupNat n s.qm.soft with
  | none => s
  | some k =>
    let t := s.syndrome n
    ({ t with qm := { t.qm with soft := eraseNat n t.qm.soft, corrected := addNat (unitStack n) k t.qm.corrected } }).reportUnit 4 n

/-- One unit in one state, with its error handling. A data-error gives the state it leaves: what the syndrome of a clean row
did stays done (R319, R320, R324, R325). -/
def State.readUnit (s : State) (n : Nat) : Except State (Nat × State) :=
  let q := s.qm
  if q.unav then .error s
  else if q.lost = some (unitStack n) then
    if (stripeUnits n).all (fun m => decide (m = n) || !q.bad.contains m) then
      let t := (stripeUnits n).foldl State.correctUnit s
      let q' := t.qm.drainStripe n
      .ok (q'.rebuild n, { t with qm := q' })
    else .error s
  else if q.bad.contains n then
    if q.othersOk n then
      let t := (stripeUnits n).foldl State.correctUnit (s.syndrome n)
      let q' := t.qm.drainStripe n
      let v := q'.rebuild n
      .ok (v, ({ t with qm := { q' with
        cells := q'.cells.write (n * 1024) 1024 v
        bad := q'.bad.filter (fun m => m ≠ n)
        recon := addNat (unitStack n) 1 q'.recon } }).bump 7 |>.reportUnit 4 n)
    else .error (s.syndrome n)
  else .ok (q.raw n, s.correctUnit n)

/-- The value of a unit without its side effects; 0 for one that cannot be read. -/
def State.unitValue (s : State) (n : Nat) : Nat :=
  match s.readUnit n with
  | .ok r => r.1
  | .error _ => 0

/-- Can a unit be read? -/
def State.readable (s : State) (n : Nat) : Bool :=
  match s.readUnit n with
  | .ok _ => true
  | .error _ => false

/-- The state that a data-error of a unit leaves. -/
def State.misread (s : State) (n : Nat) : State :=
  match s.readUnit n with
  | .ok _ => s
  | .error t => t

/-! ### Writing units (R314, R316, R324) -/

/-- The delta of new bytes in a unit. -/
def deltaOf (n off len old new item elem : Nat) : Delta :=
  ⟨parityStack (unitPc n) (unitRow n), unitPc n, unitRow n, off, len, old ^^^ new, item, elem⟩

/-- Does the parity queue of a stack have room (R315)? -/
def Qm.room (q : Qm) (st : Nat) : Bool := decide ((q.deltas.filter (fun d => d.stack = st)).length < 4096)

/-- The data PC of a unit waits while one of its writes waits for its parity queue (R315). -/
def Qm.pcBlocked (q : Qm) (n : Nat) : Bool :=
  q.held.any (fun w => decide (unitStack w.unit = unitStack n) && decide (unitPc w.unit = unitPc n))

/-- Could a partial write of a unit be accepted now: no write waits at its data PC, and its parity queue has room, where it
needs one (R315, R324)? -/
def Qm.accepts (q : Qm) (n : Nat) : Bool :=
  !q.pcBlocked n && (decide (q.lost = some (unitStack n)) || decide (q.lost = some (unitStack (parityUnit n))) ||
    q.room (unitStack (parityUnit n)))

/-- Steps 1 to 4 of R314, or the degraded forms of R324, for `len` bytes at `off` of unit `n`. The delta goes into its
parity queue, or waits at the data PC while the queue is full (R315). A data-error gives the state it leaves. -/
def State.writeUnit (s : State) (n off len new item elem : Nat) : Except State State :=
  match s.readUnit n with
  | .error t => .error t
  | .ok (v, s1) =>
    let old := getBits v (8 * off) (8 * len)
    let new := new % 2 ^ (8 * len)
    let a := n * 1024 + off
    let q := s1.qm
    if q.lost = some (unitStack n) then
      -- folded into parity, inside one closed interval of the stripe
      let pa := parityUnit n * 1024 + off
      .ok { s1 with qm := ({ q with cells := q.cells.write pa len (q.cells.read pa len ^^^ old ^^^ new) }).markClean (parityUnit n) }
    else if q.lost = some (unitStack (parityUnit n)) then
      .ok { s1 with qm := ({ q with cells := q.cells.write a len new }).markClean n }
    else
      let d := deltaOf n off len old new item elem
      if q.room d.stack then
        .ok { s1 with qm := ({ q with cells := q.cells.write a len new, deltas := q.deltas ++ [d] }).markClean n }
      else .ok { s1 with qm := { q with held := q.held ++ [⟨d, n, new⟩] } }

/-- A partial write that is performed in one step, parity included (R23, R314): its delta is accepted and absorbed at once.
The step that makes it waits until the parity queue can accept the delta (`Qm.accepts`). -/
def State.writeUnitNow (s : State) (n off len new : Nat) : Except State State :=
  match s.writeUnit n off len new 0 0 with
  | .error t => .error t
  | .ok t => .ok { t with qm := t.qm.drainStripe n }

/-- A full-stripe write: the pending deltas first, then twelve units without a delta (R316); a unit of a lost stack is
dropped (R324). `val` gives the new contents of the data units. -/
def Qm.fullStripe (q : Qm) (n : Nat) (val : Nat → Nat) : Qm :=
  let us := stripeUnits n
  let data := us.filter (fun m => m ≠ parityUnit n)
  let q2 := q.drainStripe n
  let keep := us.filter (fun m => decide (q.lost ≠ some (unitStack m)))
  let new := fun (m : Nat) => if m = parityUnit n then xorAll (data.map val) else val m
  let cells := keep.foldl (fun (c : Memory) m => c.write (m * 1024) 1024 (new m)) q2.cells
  let q3 := { q2 with
    cells := cells
    bad := q2.bad.filter (fun m => !us.contains m)
    soft := q2.soft.filter (fun m => !us.contains m.1) }
  keep.foldl Qm.markClean q3

/-- A write of one item to a unit: unit, first byte, bytes, new value. -/
structure UnitWrite where
  unit : Nat
  off : Nat
  len : Nat
  val : Nat
  deriving DecidableEq, Repr

/-- The bits of a unit that some writes cover, and the value they leave there, the later one on top. -/
def coverMask (ws : List UnitWrite) (n : Nat) : Nat :=
  (ws.filter (fun w => w.unit = n)).foldl (fun x w => x ||| ones (8 * w.len) * 2 ^ (8 * w.off)) 0
def coverValue (ws : List UnitWrite) (n : Nat) : Nat :=
  (ws.filter (fun w => w.unit = n)).foldl (fun x w => setBits x (8 * w.off) (8 * w.len) w.val) 0

/-- Do the writes cover all eleven data units of the stripe of a unit entirely (R316)? -/
def coversStripe (ws : List UnitWrite) (n : Nat) : Bool :=
  (stripeUnits n).all (fun m => decide (m = parityUnit n) || decide (coverMask ws m = ones 8192))

/-- May the writes of one item be performed now (R315, R316)? A full-stripe write too waits for the writes that wait at its
data PCs. -/
def State.acceptsAll (s : State) (ws : List UnitWrite) : Bool :=
  ws.all (fun w => if coversStripe ws w.unit then !(stripeUnits w.unit).any s.qm.pcBlocked else s.qm.accepts w.unit)

/-- The writes of one item: full-stripe writes where a stripe is wholly covered, partial writes elsewhere, each performed at
once (R316, R361). A data-error gives its write; while query memory is unavailable a full-stripe write meets one too (R325). -/
def State.putWrites (s : State) (all : List UnitWrite) : List UnitWrite → Except UnitWrite State
  | [] => .ok s
  | w :: rest =>
    if coversStripe all w.unit then
      if s.qm.unav then .error w
      -- once for the stripe, at its first write in the list
      else if (all.find? (fun x => (stripeUnits w.unit).contains x.unit)) = some w then
        ({ s with qm := s.qm.fullStripe w.unit (coverValue all) }).putWrites all rest
      else s.putWrites all rest
    else
      match s.writeUnitNow w.unit w.off w.len w.val with
      | .error _ => .error w
      | .ok t => t.putWrites all rest

def State.writeAll (s : State) (ws : List UnitWrite) : Except UnitWrite State := s.putWrites ws ws

/-- The pieces of the bytes [o, o + n) of a region, unit by unit: offset and length. -/
def unitPieces (o n : Nat) : List (Nat × Nat) :=
  if n = 0 then []
  else (List.range ((o + n - 1) / 1024 - o / 1024 + 1)).map (fun i =>
    let lo := max o (1024 * (o / 1024 + i))
    (lo, min (o + n) (1024 * (o / 1024 + i + 1)) - lo))

/-- The writes of `n` bytes of a region from offset `o`, with value `v`. -/
def Region.writes (r : Region) (o n v : Nat) : List UnitWrite :=
  (unitPieces o n).map (fun p => ⟨r.unit (p.1 / 1024), p.1 % 1024, p.2, getBits v (8 * (p.1 - o)) (8 * p.2)⟩)

/-- Full-stripe zeroing of a whole band, whose rows are then clean (R316, R319, R415, R417). -/
def Qm.zeroBand (q : Qm) (r : Region) : Qm :=
  let inBand := fun (n : Nat) => decide (r.ubase ≤ unitRow n) && decide (unitRow n < r.ubase + r.rows)
  { q with
    cells := q.cells.filter (fun c => !inBand (c.1 / 1024))
    deltas := q.deltas.filter (fun d => !(decide (r.ubase ≤ d.row) && decide (d.row < r.ubase + r.rows)))
    held := q.held.filter (fun w => !inBand w.unit)
    bad := q.bad.filter (fun n => !inBand n)
    soft := q.soft.filter (fun n => !inBand n.1)
    clean := (List.range 768).map (fun k => (k * rowsPerPc + r.ubase, r.rows)) ++ q.clean }

/-! ### Allocation (R309, R310, R327, R362, R363) -/

def bandsMeet (a n b m : Nat) : Bool := decide (a < b + m) && decide (b < a + n)

/-- The lowest free band of `n` rows. -/
def Qm.freeBand (q : Qm) (n : Nat) : Option Nat :=
  let free := fun (u : Nat) => decide (u + n ≤ rowsPerPc) && q.regions.all (fun r => !bandsMeet u n r.ubase r.rows)
  (sortBy id ((0 :: q.regions.map (fun r => r.ubase + r.rows)).filter free)).head?

/-- The lowest free region number. -/
def Qm.freeRegion (q : Qm) : Option Nat :=
  (List.range (q.regions.length + 1)).find? (fun i => decide (i < 65536) && !q.regions.any (fun r => r.id = i))

/-- Are the fields of a collection in range, and is its size that of its parts (R70, R362)? -/
def shapeFits (cls size width body side : Nat) : Bool :=
  let b := rowBytesOf cls width
  decide (size % 1024 = 0) && decide (1024 ≤ size) &&
    match cls with
    | 0 => decide (width = 0) && decide (body = 0) && decide (side = 0)
    | 1 => decide (width % 64 = 0) && decide (64 ≤ width) && decide (width ≤ 4096) && sized b
    | 2 => decide (width % 4 = 0) && decide (4 ≤ width) && decide (width ≤ 256) && sized b
    | _ => false
where
  sized (b : Nat) : Bool :=
    decide (body + side ≤ 2 ^ 40) && decide (size = tombOffOf b body side + 1024 * ((body + side + 8191) / 8192))

/-- The 64 bytes of a collection's header as the command processor writes them at allocation (R363). -/
def headerBytes (r : Region) : List Byte :=
  le 4 0x4C4C4F43 ++ le 1 r.cls ++ zeros 3 ++ le 4 r.width ++ le 4 r.rowBytes ++ le 8 r.body ++ le 8 r.side ++ le 8 0 ++
    le 8 0 ++ le 8 r.sideOff ++ le 8 r.tombOff

/-- The world tag of a CONTEXT region: no world's (R313). -/
def noWorld : Nat := 127

/-- Allocates a region, its band zero, and writes a collection's header. -/
def State.allocRegion (s : State) (w cls : Nat) (slab : Bool) (home size ety width body side : Nat) : Option (Nat × State) :=
  let units := size / 1024
  let rows := bandRows slab home units
  match s.qm.freeBand rows, s.qm.freeRegion with
  | some u, some id =>
    if s.qm.unav then none
    else
      let b := rowBytesOf cls width
      let coll : Bool := decide (cls = 1) || decide (cls = 2)
      let r : Region := ⟨id, cls, slab, home, u, rows, units, w, ety, width, body, side,
        if coll then sideOffOf b body else 0, if coll then tombOffOf b body side else 0, false, false⟩
      let q := s.qm.zeroBand r
      let t : Qm := { q with regions := q.regions ++ [r] }
      let head := fun (m : Nat) => if m = r.unit 0 then bytesToNat (headerBytes r) else 0
      some (id, { s with qm := if coll then t.fullStripe (r.unit 0) head else t })
  | _, _ => none

/-- A region goes: full-stripe zeroing of its band, and its number is free. -/
def State.freeRegion (s : State) (id : Nat) : State :=
  match s.qm.region? id with
  | none => s
  | some r =>
    let q := s.qm.zeroBand r
    { s with qm := { q with regions := q.regions.filter (fun x => x.id ≠ id) } }

/-- A CONTEXT region for `n` bytes: SPREAD, home 0xF (R327). -/
def State.allocContext (s : State) (n : Nat) : Option (Nat × State) :=
  s.allocRegion noWorld 3 false 15 ((n + 1023) / 1024 * 1024) 0 0 0 0

/-! ### The table store (R412) -/

/-- Tables of 4 KiB that one CONTEXT region of the table store holds: a whole band row. -/
def tablesPerRegion : Nat := 176

/-- The table store takes CONTEXT regions until it holds every table; without room for one it stays as it is. -/
def State.growTables (s : State) : Option State :=
  (List.range ((s.vm.nextTable + tablesPerRegion - 1) / tablesPerRegion - s.vm.store.length)).foldl (fun a _ =>
    match a with
    | none => none
    | some t => (t.allocContext (tablesPerRegion * 4096)).map (fun x =>
        { x.2 with vm := { x.2.vm with store := x.2.vm.store ++ [x.1] } })) (some s)

/-- The same where a command cannot be refused for want of room. -/
def State.keepTables (s : State) : State := s.growTables.getD s

/-! ### The leaves of a table (R409) -/

/-- The listed entries of a table. -/
def Vm.tableEntries (v : Vm) (slot : Nat) : List (Nat × BitVec 64) :=
  (v.tables.filter (fun e => e.1 / 512 = slot)).map (fun e => (e.1 % 512, e.2))

/-- Every valid leaf below a table, with its address. -/
def Vm.leavesBelow (v : Vm) : (level slot va : Nat) → List (Nat × Leaf)
  | 0, slot, va => (v.tableEntries slot).filterMap (fun e =>
      if entryOk e.2 && e.2.getLsbD 1 && (Leaf.ofEntry 0 e.2).valid then some (va + e.1 * leafSize 0, Leaf.ofEntry 0 e.2) else none)
  | level + 1, slot, va => ((v.tableEntries slot).map (fun e =>
      if !entryOk e.2 then []
      else if e.2.getLsbD 1 then
        (if (Leaf.ofEntry (level + 1) e.2).valid then [(va + e.1 * leafSize (level + 1), Leaf.ofEntry (level + 1) e.2)] else [])
      else v.leavesBelow level (getBits e.2.toNat 12 45) (va + e.1 * leafSize (level + 1)))).flatten

/-! ### Translation (R312, R313, R328, R382) -/

/-- A QM location: region, offset in the region. -/
structure QLoc where
  region : Region
  off : Nat
  deriving DecidableEq, Repr

/-- Why a chunk cannot translate: cause and subcode (R297). -/
structure QFault where
  cause : Cause
  sub : Nat
  deriving DecidableEq, Repr

/-- Is the page of an address closed to translation (R380, R382)? -/
def State.isClosed (s : State) (asid : Nat) (va : Word) : Bool :=
  match s.vm.leaf asid (vaIndex va) with
  | none => false
  | some l => s.vm.closed.any (fun c => decide (c.asid = asid) && decide (c.page = vaIndex va / leafSize l.level))

/-- The region offset under a QM leaf (R410). -/
def Leaf.regionOff (l : Leaf) (va : Word) : Nat :=
  getBits l.frame 0 20 * leafSize l.level + vaIndex va % leafSize l.level

/-! ### Peer pages (R410) -/

/-- The port of a PEER leaf, and whether its target is QM. -/
def Leaf.port (l : Leaf) : Nat := getBits l.frame 41 4
def Leaf.peerQm (l : Leaf) : Bool := l.frame.testBit 40

/-- The key of a byte behind a PEER leaf. -/
def Leaf.peerKey (l : Leaf) (va : Word) : Nat :=
  (if l.peerQm then l.frame * 2 ^ 21 else l.frame * 4096) + vaIndex va % leafSize l.level

/-! ### QM addresses (R312, R313, R328, R382) -/

/-- Translation of one QM byte of an item (R312, R313). `sealing` is the access of `xseal` or `xunseal`, which an exported
page allows (R328). -/
def State.locate (s : State) (asid wid : Nat) (va : Word) (write sealing : Bool) : Except QFault QLoc :=
  if !canonicalVa va then .error ⟨.pageFault, 0⟩
  else
    match s.vm.leaf asid (vaIndex va) with
    | none => .error ⟨.pageFault, 0⟩
    | some l =>
      if l.space ≠ .qm then .error ⟨.pageFault, 0⟩
      else
        match s.qm.region? (getBits l.frame 20 16) with
        | none => .error ⟨.pageFault, 0⟩
        | some r =>
          if r.units * 1024 ≤ l.regionOff va then .error ⟨.pageFault, 0⟩
          else if r.retired then .error ⟨.pageFault, 0⟩
          else if r.world ≠ wid then .error ⟨.worldViolation, 0⟩
          else if l.exp && !sealing then .error ⟨.pageFault, 0x0C⟩
          else if write && !l.w then .error ⟨.pageFault, 0⟩
          else .ok ⟨r, l.regionOff va⟩

def QLoc.unit (l : QLoc) : Nat := l.region.unit (l.off / 1024)
def QLoc.inUnit (l : QLoc) : Nat := l.off % 1024

/-- A program's write may not touch a collection's header, nor a collection that is merging (R363, R368). -/
def QLoc.writeFault (l : QLoc) : Option QFault :=
  if l.region.isCollection && decide (l.off < 1024) then some ⟨.pageFault, 0x0A⟩
  else if l.region.merging then some ⟨.pageFault, 0x0B⟩
  else none

/-- Does the unit exist (R306)? -/
def unitExists (st pc row : Nat) : Bool := decide (st < 12) && decide (pc < 64) && decide (row < rowsPerPc)

end Sys2Proof.Machine
end

