-- ==== Sys2Proof/Machine/Async.lean ====
section
/-! DEFINITION. What the asynchronous engines share (spec/01 R7 to R13; spec/14 R291; spec/17 R333; spec/19 R370 to
R377): slots and the order of arrival, acceptance, fault records, and the instructions those records hold. -/

set_option Elab.async false

namespace Sys2Proof.Machine

/-! ### Slots and arrival order (R291, R333) -/

/-- The core a player runs on. -/
def State.coreOf (s : State) (id : Nat) : Nat :=
  match s.player? id with
  | some p => p.place.coreIx
  | none => 0

/-- Is a slot of the engine free for the player: 3 stream (256 a core, 64 a player), 4 query (512 a core, 128 a
player)? -/
def State.slotFree (s : State) (eng id : Nat) : Bool :=
  let core := s.coreOf id
  if eng = 3 then
    decide ((s.eng.xfers.filter (fun x => !x.stopped && decide (s.coreOf x.owner = core))).length < 256) &&
      decide ((s.eng.xfers.filter (fun x => !x.stopped && decide (x.owner = id))).length < 64)
  else
    decide ((s.eng.queries.filter (fun q => !q.stopped && decide (s.coreOf q.owner = core))).length < 512) &&
      decide ((s.eng.queries.filter (fun q => !q.stopped && decide (q.owner = id))).length < 128)

/-- Does an instruction that reached the engine of the same core earlier still wait? -/
def waitsAhead (s : State) (eng core id : Nat) : List (Nat × Nat) → Bool
  | [] => false
  | (q, e) :: rest =>
    if q = id && e = eng then false
    else (decide (e = eng) && decide (s.coreOf q = core)) || waitsAhead s eng core id rest

/-- May the player's instruction take a slot now? A query engine accepts nothing while query memory is unavailable
(R325). -/
def State.mayTake (s : State) (eng id : Nat) : Bool :=
  (decide (eng ≠ 4) || !s.qm.unav) && s.slotFree eng id && !waitsAhead s eng (s.coreOf id) id s.eng.arrivals

/-- The instruction waits unaccepted, in arrival order (R291). -/
def State.waitForSlot (s : State) (eng : Nat) (i : Instr) : State :=
  let a := if s.eng.arrivals.any (fun e => e.1 = s.me.id ∧ e.2 = eng) then s.eng.arrivals
    else s.eng.arrivals ++ [(s.me.id, eng)]
  { s with me := { s.me with waiting := some i }, eng := { s.eng with arrivals := a } }

/-- The current player no longer waits at the engine. -/
def State.leaveQueue (s : State) (eng : Nat) : State :=
  { s with
    me := { s.me with waiting := none }
    eng := { s.eng with arrivals := s.eng.arrivals.filter (fun e => !(e.1 == s.me.id && e.2 == eng)) } }

/-- The next item number. -/
def State.takeId (s : State) : Nat × State :=
  (s.eng.nextItem, { s with eng := { s.eng with nextItem := s.eng.nextItem + 1 } })

/-! ### Items -/

def State.xfer? (s : State) (id : Nat) : Option Xfer := s.eng.xfers.find? (fun x => x.id = id)
def State.query? (s : State) (id : Nat) : Option Query := s.eng.queries.find? (fun q => q.id = id)

def State.setXfer (s : State) (x : Xfer) : State :=
  { s with eng := { s.eng with xfers := s.eng.xfers.map (fun y => if y.id = x.id then x else y) } }
def State.setQuery (s : State) (q : Query) : State :=
  { s with eng := { s.eng with queries := s.eng.queries.map (fun y => if y.id = q.id then q else y) } }
def State.dropXfer (s : State) (id : Nat) : State :=
  { s with eng := { s.eng with xfers := s.eng.xfers.filter (fun x => x.id ≠ id) } }
def State.dropQuery (s : State) (id : Nat) : State :=
  { s with eng := { s.eng with queries := s.eng.queries.filter (fun q => q.id ≠ id) } }

/-! ### Kinds (R25, R370) -/

/-- Chunk `c` has performed: its DONE bit, then its pip bit (R292). -/
def State.chunkDone (s : State) (x : Xfer) (c : Nat) : State × Xfer :=
  let x' := { x with
    done := x.done ||| 2 ^ c
    reading := x.reading.filter (fun k => k ≠ c)
    flushing := x.flushing.filter (fun k => k ≠ c)
    acking := x.acking.filter (fun k => k ≠ c) }
  (if x.np then s else s.updPlayer x.owner (fun p => p.setPip x.pip c), x')

def Xfer.allDone (x : Xfer) : Bool := (List.range x.chunks).all (fun c => x.done.testBit c)

/-- A `qcas` whose every element has performed: as a QM write it is complete, as a query its reply is still owed (R370). -/
def Query.settledCas (q : Query) : Bool := q.op == .cas && (List.range q.flim).all (fun f => q.done.testBit f)


/-- Does an instruction count as a QM write? -/
def QOp.isWrite : QOp → Bool
  | .st => true
  | .stx => true
  | .raddAdd => true
  | .raddMax => true
  | .raddMin => true
  | .raddOr => true
  | .raddAnd => true
  | .append => true
  | .cas => true
  | .eval => true
  | .copy => true
  | .merge => true
  | _ => false

/-- Does an instruction count as a query? -/
def QOp.isQuery (o : QOp) : Bool := !o.isWrite || o == .cas

/-- Bits of the kind list of `fence` (R211). -/
def kindSpad : Nat := 1
def kindQmw : Nat := 2
def kindQry : Nat := 4
def kindStrm : Nat := 8

/-- Does a held instruction belong to one of the kinds? -/
def Held.inKinds (h : Held) (kinds : Nat) : Bool :=
  match h with
  | .xfer _ => kinds.testBit 3
  | .query q => (q.op.isWrite && kinds.testBit 1) || (q.op.isQuery && kinds.testBit 2)

/-- The oldest record of the player that holds an instruction of the kinds (R377). -/
def Player.heldOf (p : Player) (kinds : Nat) : Option FaultRec :=
  p.afq.find? (fun r => match r.held with
    | some h => h.inKinds kinds
    | none => false)

/-- Every earlier access of the player of the kinds has performed or faulted at scope `sc` (R25): at HART a store has
performed once it stands in the player's own write buffer, at any other scope once its home has applied it (R19, R24). -/
def State.quietAt (s : State) (sc : Fin 4) (p : Player) (kinds : Nat) : Bool :=
  (!kinds.testBit 0 || sc = 0 || (s.ownStores p).isEmpty) &&
  (!kinds.testBit 3 || !s.eng.xfers.any (fun x => x.owner = p.id)) &&
  (!kinds.testBit 1 || !s.eng.queries.any (fun q => q.owner = p.id && q.op.isWrite && !q.settledCas)) &&
  (!kinds.testBit 2 || !s.eng.queries.any (fun q => q.owner = p.id && q.op.isQuery)) &&
  !(s.eng.resumed.any (fun r => r.1 = p.id && r.2.inKinds kinds))

/-- The same at DEVICE. -/
def State.quiet (s : State) (p : Player) (kinds : Nat) : Bool := s.quietAt 2 p kinds

/-- The trap of R377: `EIDX` = 64 times the record's chunk. -/
def trapHeld (r : FaultRec) (s : State) : Out :=
  trapHere .partnerFault (BitVec.ofNat 64 (64 * r.chunk.toNat)) s.me.pc s

/-! ### Fault records -/

/-- Does a record of this cause hold its instruction (R374)? -/
def holds (c : Cause) (sub : Nat) : Bool :=
  match c with
  | .pageFault => true
  | .worldViolation => true
  | .dataError => true
  | .streamFault => decide (sub = 0x08)
  | _ => false

/-- Changes the record of an item's issuer, saved image included. -/
def State.updOwner (s : State) (id : Nat) (f : Player → Player) : State :=
  let t := s.updPlayer id f
  { t with cp := { t.cp with images := t.cp.images.map (fun (m : Image) =>
      if m.player.id = id then { m with player := f m.player } else m) } }

/-- An item's issuer, live or saved. -/
def State.owner? (s : State) (id : Nat) : Option Player :=
  match s.player? id with
  | some p => some p
  | none => (s.cp.images.find? (fun m => m.player.id = id)).map (fun m => m.player)

/-- Are the replies of an item's issuer discarded: has the removal of its launch reached the query engine (R426 step 3)? -/
def State.discards (s : State) (id : Nat) : Bool :=
  (s.owner? id).any (fun p => s.cp.launches.any (fun l => decide (l.id = p.place.launch) && l.removing.any (fun r => 3 ≤ r.1)))

/-- A record about an address of an item's issuer (R428, R429): the word that issued it, the region and the unit or the port
that the address leads to. -/
def State.reportAt (s : State) (r : ErrRec) (va : Word) : State :=
  let r := { r with addr := va.toNat }
  match s.vm.leaf r.asid (vaIndex va) with
  | none => s.report r none
  | some l =>
    match l.space with
    | .qm =>
      match s.qm.region? (getBits l.frame 20 16) with
      | none => s.report r none
      | some g =>
        let n := g.unit (l.regionOff va / 1024)
        s.report { r with region := g.id, memPlace := unitStack n + unitPc n * 2 ^ 4 } (some (l.regionOff va))
    | .peer => s.report { r with memPlace := l.port * 2 ^ 10 } none
    | _ => s.report r none

/-- A transfer faults (R297): one record, its fault bit, and the transfer goes into the record or is gone. -/
def State.faultXfer (s : State) (x : Xfer) (c : Cause) (sub chunk : Nat) (addr : Word) : State :=
  let h : Option Held := if holds c sub then
      some (.xfer { x with fault := true, ending := none, reading := [], flushing := [], acking := [] })
    else none
  let r : FaultRec := ⟨c.code, 3, BitVec.ofNat 6 x.pip, BitVec.ofNat 6 sub, BitVec.ofNat 20 chunk, addr, h⟩
  let s' := (s.dropXfer x.id).updOwner x.owner (fun p => (p.enterFault r).faultItem x.id)
  match s.owner? x.owner with
  | some p => s'.reportAt { s.recAt c.code.toNat 3 0 p x.pc with sub := sub, eidx := 64 * chunk } addr
  | none => s'

/-- A query-engine item faults (R348). The flags of the elements it has performed go to the issuer now (R119). -/
def State.faultQuery (s : State) (q : Query) (c : Cause) (sub chunk : Nat) (addr : Word) : State :=
  let keep := holds c sub && q.op != .merge
  let h : Option Held := if keep then some (.query { q with fault := true, sent := false, touched := [], flags := 0, acking := [], ending := none })
    else none
  let r : FaultRec := ⟨c.code, 4, BitVec.ofNat 6 q.pip, BitVec.ofNat 6 sub, BitVec.ofNat 20 chunk, addr, h⟩
  let s' := (s.dropQuery q.id).updOwner q.owner (fun p =>
    ({ p with flags := p.flags ||| q.flags }.enterFault r).faultItem q.id)
  let s'' := if c = .dataError then s'.bump 8 else s'
  match s.owner? q.owner with
  | some p => s''.reportAt { s.recAt c.code.toNat 4 0 p q.pc with sub := sub, eidx := 64 * chunk } addr
  | none => s''

/-! ### The fault queue's registers (R297, R375, R376) -/

/-- `EAFQ` as it reads: the oldest record. -/
def Player.eafq (p : Player) : Word :=
  let ovf : Nat := if p.afqOvf then 2 ^ 25 else 0
  match p.afq with
  | [] => BitVec.ofNat 64 ovf
  | r :: _ =>
    BitVec.ofNat 64 (r.cause.toNat + r.eng.toNat * 2 ^ 8 + r.ptile.toNat * 2 ^ 12 + r.sub.toNat * 2 ^ 18 + 2 ^ 24 + ovf
      + r.chunk.toNat * 2 ^ 32)

/-- `EAFQA` as it reads. -/
def Player.eafqa (p : Player) : Word :=
  match p.afq with
  | [] => 0
  | r :: _ => r.addr

/-- What the oldest record holds. -/
def Player.oldestHeld (p : Player) : Option Held :=
  match p.afq with
  | [] => none
  | r :: _ => r.held

/-- Removes the oldest record. The fault bit of an instruction that does not resume stays set, since its chunks never arrive
(notes/assumptions/97.md). -/
def Player.popFault (p : Player) : Player := { p with afq := p.afq.drop 1 }

def Held.eng : Held → Nat
  | .xfer _ => 3
  | .query _ => 4

def Held.item : Held → Nat
  | .xfer x => x.id
  | .query q => q.id

/-- A held instruction takes a slot again and goes on from its DONE; its fault bit clears (R376). -/
def State.reaccept (s : State) (h : Held) : State :=
  let clear := fun (p : Player) =>
    { p with owners := p.owners.map (fun o => if o.item = h.item then { o with fault := false } else o) }
  match h with
  | .xfer x =>
    -- an `xseal` or `xunseal` whose chunk has not performed starts again from its first byte
    let x' := { x with fault := false, ending := none }
    ({ s with eng := { s.eng with xfers := s.eng.xfers ++ [x'] } }).updPlayer x.owner clear
  | .query q =>
    ({ s with eng := { s.eng with queries := s.eng.queries ++ [{ q with fault := false, sent := false }] } }).updPlayer
      q.owner clear

end Sys2Proof.Machine
end

