-- ==== Sys2Proof/Machine/Cp.lean ====
section
/-! DEFINITION. The command processor's shared operations (spec/22_launch_and_scheduling.md R389 to R404,
spec/23_worlds_and_contexts.md R409 to R426): queues and completion entries, page tables, placement and the start of
parties, the end of players, parties and launches, and context removal. -/

set_option Elab.async false

namespace Sys2Proof.Machine

/-! ### Host memory and queues -/

def State.hostWrite (s : State) (a : Nat) (bs : List Byte) : State :=
  { s with mem := { s.mem with host := s.mem.host.writeBytes a bs } }

def State.queueAt (s : State) (q : Nat) : HostQueue := if h : q < 64 then s.cp.queues[q] else HostQueue.reset

def State.updQueue (s : State) (q : Nat) (f : HostQueue → HostQueue) : State :=
  if h : q < 64 then { s with cp := { s.cp with queues := s.cp.queues.set q (f s.cp.queues[q]) } } else s

def State.worldAt (s : State) (w : Nat) : World := if h : w < 65 then s.cp.worlds[w] else World.reset

def State.updWorld (s : State) (w : Nat) (f : World → World) : State :=
  if h : w < 65 then { s with cp := { s.cp with worlds := s.cp.worlds.set w (f s.cp.worlds[w]) } } else s

/-- The device serves its queues: ready, not in the safe state, no warm start running (R439, R441, R443). -/
def State.serving (s : State) : Bool := s.dev.ready && !s.dev.failed && !s.dev.warming

/-- May the command processor fetch from a queue (R389, R414, R458)? -/
def State.mayFetch (s : State) (q : Nat) : Bool :=
  s.serving && s.dev.linkUp && (s.queueAt q).enable && decide ((s.worldAt (s.queueAt q).world).st = .live)

/-! ### Completion entries (R390, R392, R458) -/

/-- The phase bit: 1 on the first pass of the ring (R392). -/
def HostQueue.phase (h : HostQueue) : Nat := 1 - h.compTail.toNat / h.compEntries % 2

def Entry.bytes (e : Entry) (phase : Nat) : List Byte :=
  le 4 e.tag.toNat ++ le 2 e.status ++ le 1 e.queue ++ le 1 phase ++ le 1 e.cause ++ zeros 7

/-- The first packet of a kind leaves the pending list: where it was the head, the wait of the next one starts anew (R397). -/
def HostQueue.drop (h : HostQueue) (gone : Packet → Bool) : HostQueue :=
  { h with pending := h.pending.eraseP gone, aged := if h.pending.head?.any gone then 0 else h.aged }

/-- Packets in the pending list; a paired MODE counts (R390). -/
def HostQueue.filled (h : HostQueue) : Nat := h.pending.length + (h.pending.filter (fun p => p.mode.isSome)).length

/-- Has the completion ring room for one more entry, reservations and waiting entries counted? -/
def HostQueue.room (h : HostQueue) : Bool :=
  decide ((h.compTail - h.compHead).toNat + h.reserved + h.entries.length < h.compEntries)

/-- Writes the oldest waiting entry when the link is up and the ring has a slot, and sends vector q (R448). -/
def State.writeEntry (s : State) (q : Nat) : State :=
  let h := s.queueAt q
  match h.entries with
  | [] => s
  | e :: rest =>
    if s.dev.linkUp && decide ((h.compTail - h.compHead).toNat < h.compEntries) then
      ((s.hostWrite (h.compBase + h.compTail.toNat % h.compEntries * 16) (e.bytes h.phase)).updQueue q
        (fun h => { h with entries := rest, compTail := h.compTail + 1 })).msi q
    else s

/-- Writes every waiting entry that can be written, in order. -/
def State.writeEntries (s : State) (q : Nat) : State :=
  (s.queueAt q).entries.foldl (fun t _ => t.writeEntry q) s

/-- An entry of a queue is due. -/
def State.complete (s : State) (q : Nat) (tag : BitVec 32) (status cause : Nat) : State :=
  (s.updQueue q (fun h => { h with entries := h.entries ++ [⟨tag, status, q, cause⟩] })).writeEntries q

/-! ### Page tables (R409 to R413) -/

/-- Writes a table entry; an entry of 0 is not listed. -/
def Vm.setEntry (v : Vm) (slot ix : Nat) (e : BitVec 64) : Vm :=
  { v with tables := if e = 0 then eraseNat (slot * 512 + ix) v.tables else setNat (slot * 512 + ix) e v.tables }

/-- Writes an entry at level `lvl` below a table of the given level, making the tables on the way. -/
def Vm.mapAt (v : Vm) (va lvl : Nat) (e : BitVec 64) : (level slot : Nat) → Vm
  | 0, slot => v.setEntry slot (levelIndex va 0) e
  | level + 1, slot =>
    if lvl = level + 1 then v.setEntry slot (levelIndex va (level + 1)) e
    else
      let cur := v.entry slot (levelIndex va (level + 1))
      if cur.getLsbD 0 && !cur.getLsbD 1 then v.mapAt va lvl e level (getBits cur.toNat 12 45)
      else
        let t := v.nextTable
        ({ v.setEntry slot (levelIndex va (level + 1)) (BitVec.ofNat 64 (1 + t * 2 ^ 12)) with
          nextTable := t + 1 }).mapAt va lvl e level t

/-- Clears the leaf of an address. -/
def Vm.clearAt (v : Vm) (va : Nat) : (level slot : Nat) → Vm
  | 0, slot => v.setEntry slot (levelIndex va 0) 0
  | level + 1, slot =>
    let cur := v.entry slot (levelIndex va (level + 1))
    if cur.getLsbD 0 && !cur.getLsbD 1 then v.clearAt va level (getBits cur.toNat 12 45)
    else v.setEntry slot (levelIndex va (level + 1)) 0

/-- Drops the cached copies of every leaf that maps one of the bytes [lo, lo + n) (R413). -/
def Vm.flush (v : Vm) (asid lo n : Nat) : Vm :=
  { v with cache := v.cache.filter (fun c =>
      !(decide (c.1 = asid) && decide (c.2.1 < lo + n) && decide (lo < c.2.1 + leafSize c.2.2.1))) }

/-- Writes a leaf; no cached copy of an old entry of its range stays. -/
def Vm.map (v : Vm) (asid va lvl : Nat) (e : BitVec 64) : Vm :=
  match lookupNat asid v.roots with
  | none => v
  | some r => (v.mapAt va lvl e 4 r.2).flush asid (va / leafSize lvl * leafSize lvl) (leafSize lvl)

/-- Clears the leaf of an address; no cached copy of it stays. -/
def Vm.unmap (v : Vm) (asid va : Nat) : Vm :=
  match lookupNat asid v.roots with
  | none => v
  | some r => (v.clearAt va 4 r.2).flush asid va 1

/-- A SPAD leaf of level 0 (R410). -/
def spadEntry (frame wtag : Nat) (w x : Bool) : BitVec 64 :=
  BitVec.ofNat 64 (3 + w.toNat * 2 ^ 4 + x.toNat * 2 ^ 5 + frame * 2 ^ 12 + wtag * 2 ^ 57)

/-- The scratchpad dword at an address, for the checks of status 0x06 and the watermarks (R392, R401, R402). -/
def State.dwordAt (s : State) (asid wid : Nat) (va : Word) : Option Nat :=
  if canonicalVa va && decide (va.toNat % 8 = 0) then
    match s.vm.leaf asid (vaIndex va) with
    | none => none
    | some l => if l.space = .spad ∧ l.wtag = wid then some (l.phys va) else none
  else none

/-! ### Scratchpad of a cluster (R399, R400) -/

/-- Bytes of a cluster's scratchpad that windows, barrier dwords and loaded sections leave. -/
def State.modulePages (s : State) (c : Nat) : List Nat :=
  ((s.cp.modules.map (fun m => m.pages)).flatten.filter (fun e => e.1 = c)).map Prod.snd

def State.spadFree (s : State) (c : Nat) : Nat :=
  2 ^ 24 - ((s.cp.used.filter (fun e => e.1 = c)).map (fun e => e.2.2)).sum - 4096 * (s.modulePages c).length

def State.pageFree (s : State) (c p : Nat) : Bool :=
  !(s.modulePages c).contains p &&
    s.cp.used.all (fun e => decide (e.1 ≠ c) || decide (e.2.1 + e.2.2 ≤ p * 4096) || decide (p * 4096 + 4096 ≤ e.2.1))

/-- The free pages of a cluster, ascending. -/
def State.freePages (s : State) (c : Nat) : List Nat := (List.range 4096).filter (fun p => s.pageFree c p)

/-- A free dword for a barrier: in a page that already holds barrier dwords of the same world, else in a free page. -/
def State.freeDword (s : State) (c w : Nat) : Option Nat :=
  let mine := s.cp.parties.filter (fun p => decide (p.cluster = c) &&
    s.cp.launches.any (fun l => decide (l.id = p.launch) && decide (l.world = w)))
  let pages := mine.map (fun p => p.bar % 2 ^ 24 / 4096) ++ (s.freePages c).take 1
  let isFree := fun (a : Nat) =>
    s.cp.used.all (fun e => decide (e.1 ≠ c) || decide (e.2.1 + e.2.2 ≤ a) || decide (a + 8 ≤ e.2.1))
  (pages.map (fun p => (List.range 512).map (fun k => p * 4096 + 8 * k))).flatten.find? isFree

/-- The address of a window (notes/assumptions/5.md). -/
def windowVa (order rank : Nat) : Word := word (Config.windowTop.toNat * 2 ^ 48 + (order % 2 ^ 17 * 64 + rank) * 2 ^ 22)

/-- The address of a barrier dword (notes/assumptions/5.md). -/
def barrierVa (pa : Nat) : Word := word (Config.windowTop.toNat * 2 ^ 48 + 2 ^ 47 + pa)

/-! ### Seating (R399) -/

/-- The lowest `n` set bits of a mask. -/
def lowestBits (m n : Nat) : Nat := ((setBitsBelow m 16).take n).foldl (fun a b => a + 2 ^ b) 0

/-- One core as placement sees it: free seats and free player slots as masks. -/
abbrev CoreRoom := Nat × Nat

/-- Seats one player: the lowest-numbered core with room, its lowest free seats and its lowest free slot. -/
def seatOne (seats : Nat) : Nat → List CoreRoom → Option ((Nat × Nat × Nat) × List CoreRoom)
  | _, [] => none
  | k, r :: rest =>
    if seats ≤ popCount r.1 16 ∧ r.2 % 2 ^ 16 ≠ 0 then
      let m := lowestBits r.1 seats
      let sl := (lowestBit r.2 16).getD 0
      some ((k, m, sl), (r.1 - m, r.2 - 2 ^ sl) :: rest)
    else
      match seatOne seats (k + 1) rest with
      | none => none
      | some x => some (x.1, r :: x.2)

/-- Seats `n` players in ascending rank; the result lists core, seats and slot, and the room that is left. -/
def seatAll (seats : Nat) : Nat → List CoreRoom → Option (List (Nat × Nat × Nat) × List CoreRoom)
  | 0, rs => some ([], rs)
  | n + 1, rs =>
    match seatOne seats 0 rs with
    | none => none
    | some x =>
      match seatAll seats n x.2 with
      | none => none
      | some y => some (x.1 :: y.1, y.2)

/-- The slots of a core that live players hold. -/
def State.freeSlots (s : State) (core : Nat) : Nat :=
  let ps := s.players.filter (fun p => p.live && decide (p.place.coreIx = core))
  0xFFFF - (ps.foldl (fun m p => m ||| 2 ^ (p.place.slot % 16)) 0) % 2 ^ 16

def State.clusterRoom (s : State) (c : Nat) : List CoreRoom :=
  (List.range 4).map (fun k => (s.freeSeats (c * 4 + k), s.freeSlots (c * 4 + k)))

/-- A cluster with every seat that is not retired and every slot free. -/
def State.emptyRoom (s : State) (c : Nat) : List CoreRoom :=
  (List.range 4).map (fun k => (0xFFFF - s.retiredSeats (c * 4 + k) % 2 ^ 16, 0xFFFF))

def roomSeats (rs : List CoreRoom) : Nat := (rs.map (fun r => popCount r.1 16)).sum

/-- Is a die allowed by a packet (R391)? -/
def dieAllowed (dies c : Nat) : Bool := decide (dies = 0) || dies.testBit (c / 16)

/-- Does an engine or the array of a cluster hold an item of a player of the cluster, saved or not (R423 step 2)? -/
def State.clusterBusy (s : State) (cl : Nat) : Bool :=
  let on := fun (id : Nat) => (s.owner? id).any (fun p => decide (p.place.cluster = cl))
  s.eng.queries.any (fun q => on q.owner) || s.eng.xfers.any (fun x => on x.owner) ||
    s.players.any (fun p => decide (p.place.cluster = cl) && (p.live || !p.accum.isEmpty))

/-- May a world use a cluster (R414)? A cluster whose last player has halted or is saved passes to another world at the
placement, once no engine holds an item of the old one (R423). -/
def State.clusterOpen (s : State) (w c : Nat) : Bool :=
  (match lookupNat c s.cp.owners with
    | none => true
    | some o => decide (o = w) ||
      (!s.cp.parties.any (fun p => decide (p.cluster = c) && decide (p.saved ≠ 2)) && !s.clusterBusy c)) &&
    (lookupNat c s.cp.switching).isNone

/-- Bytes of scratchpad a party needs (R399). -/
def partyBytes (players window : Nat) : Nat := players * window * 4096 + 8

/-- Does a party fit a cluster now, and how many free seats does it leave (R399)? -/
def State.fits (s : State) (w dies window players seats c : Nat) : Option (List (Nat × Nat × Nat) × Nat) :=
  let pages := s.freePages c
  let left := match s.freeDword c w with
    | some d => if pages.contains (d / 4096) then pages.length - 1 else pages.length
    | none => 0
  if dieAllowed dies c && s.clusterOpen w c && decide (partyBytes players window ≤ s.spadFree c) &&
      decide (players * window ≤ left) && (s.freeDword c w).isSome then
    (seatAll seats players (s.clusterRoom c)).map (fun x => (x.1, roomSeats x.2))
  else none

/-- Could some allowed cluster ever hold a party (R392)? -/
def State.couldFit (s : State) (dies window players seats : Nat) : Bool :=
  (List.range 64).any (fun c => dieAllowed dies c &&
    decide (partyBytes players window ≤ 2 ^ 24 - 4096 * (s.modulePages c).length) &&
    (seatAll seats players (s.emptyRoom c)).isSome)

/-- The cluster placement chooses: fewest free seats left, then the lowest number (R399). -/
def State.bestCluster (s : State) (w dies window players seats : Nat) : Option (Nat × List (Nat × Nat × Nat)) :=
  (List.range 64).foldl (fun (b : Option (Nat × Nat × List (Nat × Nat × Nat))) c =>
    match s.fits w dies window players seats c with
    | none => b
    | some x =>
      match b with
      | some (_, left, _) => if x.2 < left then some (c, x.2, x.1) else b
      | none => some (c, x.2, x.1)) none
    |>.map (fun b => (b.1, b.2.2))

/-! ### Starting a party (R245, R400) -/

/-- s1 to s8 hold the arguments, s9 and s10 rank and size, s30 the window (R245). -/
def launchRegs (args : Vector Word 8) (rank size : Nat) (win : Word) : Vector Word 32 :=
  let r := (List.range 8).foldl (fun (v : Vector Word 32) i =>
    if h : i < 8 then v.set (i + 1) args[i] else v) (Vector.replicate 32 0)
  ((r.set 9 (word rank)).set 10 (word size)).set 30 win

/-- The player of one rank at its start (R100, R245, R393, R400). -/
def State.newPlayer (s : State) (l : Launch) (index cluster rank : Nat) (at' : Nat × Nat × Nat) (win bar : Word)
    (hold : Bool) (args : Vector Word 8) : Player :=
  let p : Player := { Player.vacant with
    id := s.cp.nextPlayer + rank
    live := true
    place := ⟨l.id, index, rank, l.desc.players, cluster, at'.1, at'.2.2, l.queue, l.asid, l.world, l.module⟩
    pc := l.desc.entry
    sregs := launchRegs args rank l.desc.players win
    shape := { Shape.reset with seat := BitVec.ofNat 16 at'.2.1, allot := l.desc.allot }
    det := l.det
    barp := bar
    trap := { Trap.reset with evec := (s.worldAt l.world).vector }
    q := { QRegs.reset with qratio := BitVec.ofNat 9 (s.worldAt l.world).qratio }
    window := win
    windowPages := l.window
    hold := hold }
  p.fixVlmax

/-- Zero stores to a scratchpad range, at its homes; the dwords hold fresh check bits (R255). -/
def State.zeroSpad (s : State) (a n : Nat) : State :=
  let dwords := fun (d : Nat) => decide (a / 8 ≤ d) && decide (d < (a + n) / 8)
  let lines := fun (l : Nat) => decide (a / 64 ≤ l) && decide (l < (a + n + 63) / 64)
  let t := { s with mem := { s.mem with
    spad := s.mem.spad.clear a n
    spadBad := s.mem.spadBad.filter (fun d => !dwords d)
    spadSoft := s.mem.spadSoft.filter (fun d => !dwords d)
    tags := s.mem.tags.filter (fun t => !lines t.line) } }
  t.mapPlayers (fun p => if (p.armed.map lines).getD false then { p with wake := true } else p)

/-- Zeroes and maps the pages of windows and the barrier dword (R101, R400). -/
def State.mapParty (s : State) (l : Launch) (order cluster bar : Nat) (frames : List (Nat × Nat)) : State :=
  let base := cluster * 4096
  -- the j-th page of a rank lies at the rank's window base + j pages
  let place := frames.zipIdx.map (fun f => (f.1.1, f.1.2, f.2 - f.1.1 * l.window))
  let s1 := place.foldl (fun (t : State) f =>
    let u := t.zeroSpad ((base + f.2.1) * 4096) 4096
    { u with
      vm := u.vm.map l.asid ((windowVa order f.1).toNat + f.2.2 * 4096) 0 (spadEntry (base + f.2.1) l.world true false) }) s
  let s2 := s1.zeroSpad bar 8
  { s2 with
    vm := s2.vm.map l.asid ((barrierVa bar).toNat / 4096 * 4096) 0 (spadEntry (bar / 4096) l.world true false) }

/-- A cluster goes to a world; where another owned it, the translation caches go (R423 steps 3 and 4). -/
def State.giveCluster (s : State) (c w : Nat) : State :=
  { s with
    vm := if (lookupNat c s.cp.owners).any (fun o => o ≠ w) then { s.vm with cache := [] } else s.vm
    cp := { s.cp with owners := setNat c w s.cp.owners } }

/-- Places party `index` of a launch on a cluster: every player starts in the state of R245 (R400). -/
def State.startParty (s : State) (l : Launch) (index cluster : Nat) (seats : List (Nat × Nat × Nat)) (level : Nat)
    (hold : Bool) (args : Vector Word 8) : State :=
  let order := s.cp.nextOrder
  let n := l.desc.players
  let dw := (s.freeDword cluster l.world).getD 0
  let bar := cluster * 2 ^ 24 + dw
  let s0 := { s with cp := { s.cp with used := s.cp.used ++ [(cluster, dw, 8)] } }
  let pages := (s0.freePages cluster).take (n * l.window)
  let frames := pages.zipIdx.map (fun p => (p.2 / l.window, p.1))
  let s1 := { s0 with cp := { s0.cp with
    used := s0.cp.used ++ pages.map (fun p => (cluster, p * 4096, 4096))
    nextOrder := order + 1
    nextPlayer := s0.cp.nextPlayer + n
    parties := s0.cp.parties ++ [Party.mk l.id index cluster bar level order frames 0 0]
    launches := s0.cp.launches.map (fun (x : Launch) => if x.id = l.id then { x with placed := x.placed + 1 } else x) } }
  let s2 := (s1.giveCluster cluster l.world).mapParty l order cluster bar frames
  let win := fun (r : Nat) => if l.window = 0 then (0 : Word) else windowVa order r
  let ps := seats.zipIdx.map (fun x => s.newPlayer l index cluster x.2 x.1 (win x.2) (barrierVa bar) hold args)
  ({ s2 with others := s2.others ++ ps } : State).keepTables

/-! ### Ends (R213, R242, R402, R404) -/

/-- The live members of a party. -/
def State.members (s : State) (launch index : Nat) : List Player :=
  s.players.filter (fun p => p.live && decide (p.place.launch = launch) && decide (p.place.party = index))

/-- The members that have not halted, saved ones included (R213). -/
def State.liveCount (s : State) (launch index : Nat) : Nat :=
  (s.members launch index).length +
    (s.cp.images.filter (fun m => decide (m.player.place.launch = launch) && decide (m.player.place.party = index) &&
      !(s.members launch index).any (fun p => p.id = m.player.id))).length

/-- A home raises a barrier's generation when its arrivals meet the live count (R213). -/
def State.releaseBarrier (s : State) (dw live : Nat) : State :=
  let v := s.mem.spad.read dw 8
  if 1 ≤ v % 2 ^ 32 ∧ live ≤ v % 2 ^ 32 then s.applyStore 0 (Store.plain dw 8 ((v / 2 ^ 32 + 1) % 2 ^ 32 * 2 ^ 32)) else s

/-- Barriers of a party are compared with its new live count (R213). -/
def State.recheckBarriers (s : State) (launch index : Nat) : State :=
  let live := s.liveCount launch index
  let dword := fun (p : Player) =>
    match p.barGen with
    | none => none
    | some b =>
      match checkAccess s p b.2 8 8 .load with
      | .ok pa => some pa
      | .error _ => none
  let dws := ((s.members launch index).filterMap dword).eraseDups
  dws.foldl (fun t d => t.releaseBarrier d live) s

/-- The page of its window that an entry of a party's frames is: its place among those of its rank. -/
def frameIndex (frames : List (Nat × Nat)) (k : Nat) : Nat :=
  match frames[k]? with
  | some f => ((frames.take k).filter (fun g => g.1 = f.1)).length
  | none => 0

/-- The leaves of a party's windows go. -/
def Vm.unmapWindows (v : Vm) (p : Party) (asid : Nat) : Vm :=
  (List.range p.frames.length).foldl (fun (v : Vm) k =>
    v.unmap asid ((windowVa p.order ((p.frames.getD k (0, 0)).1)).toNat + frameIndex p.frames k * 4096)) v

/-- Frees the windows and the barrier dword of a party: their leaves go, that of a page with barrier dwords with the last of
them (R400). -/
def State.freeParty (s : State) (p : Party) : State :=
  match s.cp.launches.find? (fun l => l.id = p.launch) with
  | none => s
  | some l =>
    let mine := fun (e : Nat × Nat × Nat) => decide (e.1 = p.cluster) &&
      ((decide (e.2.1 = p.bar % 2 ^ 24) && decide (e.2.2 = 8)) ||
        (decide (e.2.2 = 4096) && p.frames.any (fun f => f.2 * 4096 = e.2.1)))
    let rest := s.cp.parties.filter (fun x => !(decide (x.launch = p.launch) && decide (x.index = p.index)))
    let vm1 := s.vm.unmapWindows p l.asid
    let shared := rest.any (fun x => decide (x.bar / 4096 = p.bar / 4096) &&
      s.cp.launches.any (fun y => decide (y.id = x.launch) && decide (y.asid = l.asid)))
    { s with
      vm := if shared then vm1 else vm1.unmap l.asid ((barrierVa p.bar).toNat / 4096 * 4096)
      cp := { s.cp with used := s.cp.used.filter (fun e => !mine e), parties := rest } }

/-- Raises a dword to a value if that is larger, in one step at its home (R216, R402). -/
def State.raiseDword (s : State) (player pa v : Nat) : State :=
  s.applyStore player (Store.plain pa 8 (max (s.mem.spad.read pa 8) v))

/-- The done raise and the completion entry of a launch that has ended (R392, R402). -/
def State.finishLaunch (s : State) (l : Launch) : State :=
  let s1 := if l.doneA = 0 then s
    else match s.dwordAt l.asid l.world l.doneA with
      | some pa => s.raiseDword 0 pa l.doneV.toNat
      | none => s
  let s2 := { s1 with cp := { s1.cp with launches := s1.cp.launches.filter (fun (x : Launch) => x.id ≠ l.id) } }
  if l.cqe then
    (s2.updQueue l.queue (fun h => { h with reserved := h.reserved - 1 })).complete l.queue l.tag 0 0
  else s2

/-- A launch completes when every party has been placed and has ended (R404). -/
def State.checkLaunch (s : State) (id : Nat) : State :=
  match s.cp.launches.find? (fun l => l.id = id) with
  | none => s
  | some l =>
    if l.placed = l.parties ∧ l.removing.isNone ∧ !s.cp.parties.any (fun p => p.launch = id) then s.finishLaunch l else s

/-- The current player ends: its seats return, its tags go, barriers are rechecked, its party and its launch may end
(R242). -/
def State.endPlayer (s : State) : State :=
  let p := s.me
  let s1 := { s with
    me := { p.dropGrant with live := false, waiting := none, conv := none, queue := [], armed := none, wake := false }
    mem := { s.mem with tags := s.mem.tags.filter (fun t => t.player ≠ p.id) } }
  let s2 := s1.recheckBarriers p.place.launch p.place.party
  match s2.cp.parties.find? (fun x => decide (x.launch = p.place.launch) && decide (x.index = p.place.party)) with
  | none => s2
  | some q => if s2.liveCount q.launch q.index = 0 then (s2.freeParty q).checkLaunch q.launch else s2

/-! ### Context removal (R426) -/

/-- The players of a launch. -/
def State.ofLaunch (s : State) (id : Nat) : List Player :=
  s.players.filter (fun p => p.live && decide (p.place.launch = id))

/-- Is a player number one of the launch's, saved ones included? -/
def State.inLaunch (s : State) (id player : Nat) : Bool :=
  (s.ofLaunch id).any (fun p => p.id = player) ||
    s.cp.images.any (fun m => decide (m.player.place.launch = id) && decide (m.player.id = player))

def Xfer.busy (x : Xfer) : Bool := !(x.reading.isEmpty && x.flushing.isEmpty && x.acking.isEmpty)

/-- Every buffered store of a player drains and is applied. -/
def State.drainPlayer (s : State) (id : Nat) : State :=
  match s.player? id with
  | none => s
  | some p =>
    let own := s.ownStores p
    let s' := (s.updPlayer id (fun p => { p with wbuf := [] }))
    own.foldl (fun t st => t.applyStore id st)
      { s' with mem := { s'.mem with arrivals := s'.mem.arrivals.filter (fun a => a.1 ≠ id) } }

/-- Does a waiting instruction complete although its player issues nothing more (R256, R426)? The waits that R256 abandons do
not. -/
def completes (i : Instr) : Bool :=
  match i with
  | .fence _ _ => true
  | .wmpub _ _ => true
  | .launch _ _ _ => true
  | .halt => true
  | .setvl _ _ _ => true
  | .allot _ _ => true
  | .putsrQrmv _ => true
  | .putsrEafqrResume _ => true
  | .putsrEafqrDiscard _ => true
  | _ => false

/-- What each step of R426 does when it begins. -/
def State.removalAction (s : State) (l : Launch) : Nat → State
  | 1 =>
    -- issue stops, scalar instructions complete, write buffers drain to their homes
    let ids := (s.ofLaunch l.id).map (fun p => p.id)
    let t := ids.foldl State.drainPlayer s
    ids.foldl (fun u id => u.updPlayer id (fun p =>
      { p with conv := none, waiting := p.waiting.filter completes, queue := [] })) t
  | 2 =>
    -- cancel without records or flags; chunks in progress complete
    { s with eng := { s.eng with xfers := s.eng.xfers.filterMap (fun x =>
        if s.inLaunch l.id x.owner then (if x.busy then some { x with fault := true, flagOwed := false } else none)
        else some x) } }
  | 3 =>
    -- items still in the query queue are cancelled; issued queries go on, their replies are discarded
    { s with eng := { s.eng with
        queries := s.eng.queries.filter (fun q => !s.inLaunch l.id q.owner || q.sent || q.op == .merge)
        resumed := s.eng.resumed.filter (fun r => !s.inLaunch l.id r.1)
        arrivals := s.eng.arrivals.filter (fun r => !s.inLaunch l.id r.1) } }
  | 4 => (s.ofLaunch l.id).foldl (fun t p => t.updPlayer p.id (fun q => { q with grant := Grant.none, accum := [] })) s
  | 5 => s
  | 6 =>
    if s.players.any (fun p => p.live && decide (p.place.launch ≠ l.id) && decide (p.place.asid = l.asid)) then s
    else { s with vm := { s.vm with cache := s.vm.cache.filter (fun c => c.1 ≠ l.asid) } }
  | 7 =>
    -- monitors, tags, barrier dwords, windows, seats
    let ids := (s.ofLaunch l.id).map (fun p => p.id)
    let s1 := { s with mem := { s.mem with tags := s.mem.tags.filter (fun t => !ids.contains t.player) } }
    let ps := s1.cp.parties.filter (fun p => p.launch = l.id)
    let s2 := ps.foldl (fun (t : State) p =>
      (p.frames.foldl (fun (u : State) f => u.zeroSpad ((p.cluster * 4096 + f.2) * 4096) 4096) (t.zeroSpad p.bar 8)).freeParty p) s1
    { s2 with
      me := if ids.contains s2.me.id then
          { s2.me.dropGrant with live := false, armed := none, wake := false, waiting := none, conv := none }
        else s2.me
      others := s2.others.filter (fun p => !ids.contains p.id) }
  | _ => s

/-- The count of a step, which must be zero before the next step begins. -/
def State.removalCount (s : State) (l : Launch) : Nat → Nat
  | 1 => (s.mem.arrivals.filter (fun a => s.inLaunch l.id a.1)).length +
      ((s.ofLaunch l.id).filter (fun p => p.waiting.isSome)).length
  | 2 => (s.eng.xfers.filter (fun x => s.inLaunch l.id x.owner && x.busy)).length
  | 3 => (s.eng.queries.filter (fun q => s.inLaunch l.id q.owner && !q.op.isWrite)).length
  | 4 => ((s.ofLaunch l.id).filter (fun p => !p.accum.isEmpty)).length
  | 5 => (s.eng.queries.filter (fun q => s.inLaunch l.id q.owner)).length
  | _ => 0

/-- Removal of a launch is due (R404, R426): its players issue no more, its parties not yet placed are dropped. A removal by a
fault is counted (R447); during a warm start the entry has status 0x08 and cause 0 whatever the reason (R441). -/
def State.startRemoval (s : State) (id status cause : Nat) : State :=
  match s.cp.launches.find? (fun l => l.id = id) with
  | none => s
  | some l =>
    if l.removing.isSome then s
    else
      let last := if s.dev.warming then (8, 0) else (status, cause)
      let s0 := if status = 4 then s.bump 16 else s
      let s1 := { s0 with cp := { s0.cp with launches := s0.cp.launches.map (fun (x : Launch) =>
          if x.id = id then { x with removing := some (0, last), parties := x.placed } else x) } }
      s1.updQueue l.queue (fun h => h.drop (fun p => p.started = some id))

/-- Removal of a launch that is due starts with step 1 (R426). -/
def State.beginRemoval (s : State) (id : Nat) : State :=
  match s.cp.launches.find? (fun l => l.id = id) with
  | none => s
  | some l =>
    match l.removing with
    | some (0, status, cause) =>
      ({ s with cp := { s.cp with launches := s.cp.launches.map (fun (x : Launch) =>
        if x.id = id then { x with removing := some (1, status, cause) } else x) } }).removalAction l 1
    | _ => s

/-- A fatal fault of the current player (R228, R404, R444): a fatal record, the last fatal cause, and removal. -/
def State.fatal (s : State) (c : Cause) (sub : Nat) : State :=
  let s1 := s.report { s.recAt c.code.toNat 0 2 s.me s.me.pc with sub := sub, addr := s.me.pc.toNat } none
  ({ s1 with dev := { s1.dev with fatalCause := c.code.toNat } }).startRemoval s.me.place.launch 4 c.code.toNat

/-- A step's count has reached zero: the next step begins, or after step 7 the images are destroyed and the entry is
written (R392, R426). -/
def State.advanceRemoval (s : State) (id : Nat) : State :=
  match s.cp.launches.find? (fun l => l.id = id) with
  | none => s
  | some l =>
    match l.removing with
    | none => s
    | some (k, status, cause) =>
      if k = 0 ∨ s.removalCount l k ≠ 0 then s
      else if k < 7 then
        let s1 := { s with cp := { s.cp with launches := s.cp.launches.map (fun (x : Launch) =>
            if x.id = id then { x with removing := some (k + 1, status, cause) } else x) } }
        s1.removalAction l (k + 1)
      else
        let gone := fun (m : Image) => decide (m.player.place.launch = id)
        let s0 := (s.cp.images.filter gone).foldl (fun (t : State) m => t.freeRegion m.region) s
        let s1 := { s0 with cp := { s0.cp with
            launches := s0.cp.launches.filter (fun (x : Launch) => x.id ≠ id)
            resets := s0.cp.resets.filter (fun r => r.1 ≠ id)
            images := s0.cp.images.filter (fun (m : Image) => !gone m) } }
        if l.device then s1
        else
          let s2 := (s1.updQueue l.queue (fun h => { h with reserved := h.reserved - l.cqe.toNat })).complete l.queue l.tag status cause
          l.cancels.foldl (fun t c => t.complete l.queue c 0 0) s2

end Sys2Proof.Machine
end

