-- ==== Sys2Proof/Machine/Flags.lean ====
section
/-! DEFINITION. The status register `FLAGS`, the rounding registers, and the flag and rounding side of scalar arithmetic
(spec/05_number_formats.md R112, R117; spec/09_control_scalar_system.md R234, R236, R237). The flags that single
operations raise are computed with their results in Machine/Numbers.lean. -/

set_option Elab.async false

namespace Sys2Proof.Machine

/-- `FLAGS` as a register: bits [6:0], the others zero (R117). -/
def Player.flagsWord (p : Player) : Word := p.flags.setWidth 64

/-- A `putsr` replaces bits [6:0] (R117). -/
def Player.putFlags (p : Player) (v : Word) : Player := { p with flags := v.setWidth 7 }

/-- May `FRM` take this value (R112)? -/
def frmOk (v : Word) : Bool := decide (v.toNat ≤ 5)

/-- May `XRM` take this value (R112)? -/
def xrmOk (v : Word) : Bool := decide (v.toNat ≤ 3)

/-- The rounding mode of a scalar floating-point word: 0 is `FRM`, 1 to 6 are the six modes (R237). -/
def State.rmOf (s : State) (r : RmField) : Rm :=
  if r = 0 then Rm.ofCode s.me.frm.toNat else Rm.ofCode (r.val - 1)

/-- The format of a scalar floating-point word: F = 0 is `fp64`, F = 1 is `fp32` (R237). -/
def scalarFmt (f : Bool) : FFmt := if f then FName.fp32.fmt else FName.fp64.fmt

/-- An operand in the format's width; the upper bits of an `fp32` operand are ignored (R237). -/
def State.rdF (s : State) (r : SReg) (f : Bool) : Nat := (s.rd r).toNat % 2 ^ (scalarFmt f).width

/-- Writes a scalar floating-point result zero-extended and ORs its flags in (R237). -/
def State.finishF (s : State) (d : SReg) (r : Res) : Out := (s.raise r.flags).finishWr d (word r.val)

/-- An identity or clock read in deterministic mode: the value is 0 and CLK is raised (R102, R236). -/
def State.detRead (s : State) (v : Word) : Word × State :=
  if s.me.det then (0, s.raise flagCLK) else (v, s)

end Sys2Proof.Machine
end

