-- ==== Sys2Proof/Machine/Scalar.lean ====
section
/-! DEFINITION. The scalar instructions: integer arithmetic (spec/09_control_scalar_system.md R219 to R223), branches and
jumps (R224 to R226) and floating point (R237). -/

set_option Elab.async false

namespace Sys2Proof.Machine

/-! ### Helpers -/

/-- The high 64 bits of an exact product. -/
def mulHigh (x y : Int) : Word := BitVec.ofInt 64 (Int.fdiv (x * y) ((2 : Int) ^ 64))

/-- A truth value as a register. -/
def boolWord (b : Bool) : Word := if b then 1 else 0

/-- The shift amount of a register operand: its value mod 64 (R219). -/
def shamt (v : Word) : Nat := v.toNat % 64

/-- The number of leading zero bits among the low `n` bits. -/
def leadingZeros (v : Word) : Nat → Nat
  | 0 => 0
  | n + 1 => if v.getLsbD n then 0 else 1 + leadingZeros v n

/-- The number of trailing zero bits from bit `k`, `n` bits being left. -/
def trailingZeros (v : Word) : Nat → Nat → Nat
  | _, 0 => 0
  | k, n + 1 => if v.getLsbD k then 0 else 1 + trailingZeros v (k + 1) n

/-- A sign-extended 15-bit immediate (R32). -/
def imm15 (i : BitVec 15) : Word := i.signExtend 64
def imm20 (i : BitVec 20) : Word := i.signExtend 64

/-! ### Register forms (R220) -/

def execSadd (d a b : SReg) (s : State) : Out := s.finishWr d (s.rd a + s.rd b)
def execSsub (d a b : SReg) (s : State) : Out := s.finishWr d (s.rd a - s.rd b)
def execSand (d a b : SReg) (s : State) : Out := s.finishWr d (s.rd a &&& s.rd b)
def execSor (d a b : SReg) (s : State) : Out := s.finishWr d (s.rd a ||| s.rd b)
def execSxor (d a b : SReg) (s : State) : Out := s.finishWr d (s.rd a ^^^ s.rd b)
def execSandn (d a b : SReg) (s : State) : Out := s.finishWr d (s.rd a &&& ~~~(s.rd b))
def execSsll (d a b : SReg) (s : State) : Out := s.finishWr d (s.rd a <<< shamt (s.rd b))
def execSsrl (d a b : SReg) (s : State) : Out := s.finishWr d (s.rd a >>> shamt (s.rd b))
def execSsra (d a b : SReg) (s : State) : Out := s.finishWr d ((s.rd a).sshiftRight (shamt (s.rd b)))
def execSslt (d a b : SReg) (s : State) : Out := s.finishWr d (boolWord ((s.rd a).slt (s.rd b)))
def execSsltn (d a b : SReg) (s : State) : Out := s.finishWr d (boolWord ((s.rd a).ult (s.rd b)))
def execSmin (d a b : SReg) (s : State) : Out := s.finishWr d (if (s.rd b).slt (s.rd a) then s.rd b else s.rd a)
def execSmax (d a b : SReg) (s : State) : Out := s.finishWr d (if (s.rd a).slt (s.rd b) then s.rd b else s.rd a)
def execSminn (d a b : SReg) (s : State) : Out := s.finishWr d (if (s.rd b).ult (s.rd a) then s.rd b else s.rd a)
def execSmaxn (d a b : SReg) (s : State) : Out := s.finishWr d (if (s.rd a).ult (s.rd b) then s.rd b else s.rd a)
def execSmul (d a b : SReg) (s : State) : Out := s.finishWr d (s.rd a * s.rd b)
def execSmulh (d a b : SReg) (s : State) : Out := s.finishWr d (mulHigh (s.rd a).toInt (s.rd b).toInt)
def execSmulhn (d a b : SReg) (s : State) : Out := s.finishWr d (mulHigh (s.rd a).toNat (s.rd b).toNat)
def execSmulhsu (d a b : SReg) (s : State) : Out := s.finishWr d (mulHigh (s.rd a).toInt (s.rd b).toNat)
def execSdiv (d a b : SReg) (s : State) : Out := s.finishWr d (word (divTrunc true 64 (s.rd a).toNat (s.rd b).toNat))
def execSdivn (d a b : SReg) (s : State) : Out := s.finishWr d (word (divTrunc false 64 (s.rd a).toNat (s.rd b).toNat))
def execSrem (d a b : SReg) (s : State) : Out := s.finishWr d (word (remTrunc true 64 (s.rd a).toNat (s.rd b).toNat))
def execSremn (d a b : SReg) (s : State) : Out := s.finishWr d (word (remTrunc false 64 (s.rd a).toNat (s.rd b).toNat))
def execSpopc (d a : SReg) (s : State) : Out := s.finishWr d (word (popCount (s.rd a).toNat 64))
def execSclz (d a : SReg) (s : State) : Out := s.finishWr d (word (leadingZeros (s.rd a) 64))
def execSctz (d a : SReg) (s : State) : Out := s.finishWr d (word (trailingZeros (s.rd a) 0 64))

/-! ### Immediate forms (R221 to R223) -/

def execSaddi (d a : SReg) (i : BitVec 15) (s : State) : Out := s.finishWr d (s.rd a + imm15 i)
def execSandi (d a : SReg) (i : BitVec 15) (s : State) : Out := s.finishWr d (s.rd a &&& imm15 i)
def execSori (d a : SReg) (i : BitVec 15) (s : State) : Out := s.finishWr d (s.rd a ||| imm15 i)
def execSxori (d a : SReg) (i : BitVec 15) (s : State) : Out := s.finishWr d (s.rd a ^^^ imm15 i)
def execSlti (d a : SReg) (i : BitVec 15) (s : State) : Out := s.finishWr d (boolWord ((s.rd a).slt (imm15 i)))
def execSltin (d a : SReg) (i : BitVec 15) (s : State) : Out := s.finishWr d (boolWord ((s.rd a).ult (imm15 i)))
def execSslli (d a : SReg) (n : BitVec 6) (s : State) : Out := s.finishWr d (s.rd a <<< n.toNat)
def execSsrli (d a : SReg) (n : BitVec 6) (s : State) : Out := s.finishWr d (s.rd a >>> n.toNat)
def execSsrai (d a : SReg) (n : BitVec 6) (s : State) : Out := s.finishWr d ((s.rd a).sshiftRight n.toNat)
def execSlui (d : SReg) (i : BitVec 20) (s : State) : Out := s.finishWr d (imm20 i <<< 15)
def execSpcrel (d : SReg) (i : BitVec 20) (s : State) : Out := s.finishWr d (s.me.pc + imm20 i <<< 15)

/-! ### Branches and jumps (R224, R225) -/

/-- The target of a PC-relative offset counted in words. -/
def State.target (s : State) (off : Word) : Word := s.me.pc + off <<< 2

/-- A compare and branch. -/
def branchIf (c : Bool) (o : BitVec 15) (s : State) : Out :=
  .next (if c then s.setPc (s.target (imm15 o)) else s.advance)

def execSbeq (a b : SReg) (o : BitVec 15) (s : State) : Out := branchIf (s.rd a == s.rd b) o s
def execSbne (a b : SReg) (o : BitVec 15) (s : State) : Out := branchIf (s.rd a != s.rd b) o s
def execSblt (a b : SReg) (o : BitVec 15) (s : State) : Out := branchIf ((s.rd a).slt (s.rd b)) o s
def execSbge (a b : SReg) (o : BitVec 15) (s : State) : Out := branchIf (!(s.rd a).slt (s.rd b)) o s
def execSbltn (a b : SReg) (o : BitVec 15) (s : State) : Out := branchIf ((s.rd a).ult (s.rd b)) o s
def execSbgen (a b : SReg) (o : BitVec 15) (s : State) : Out := branchIf (!(s.rd a).ult (s.rd b)) o s

def execSjal (d : SReg) (o : BitVec 20) (s : State) : Out :=
  .next ((s.wr d (s.me.pc + 4)).setPc (s.target (imm20 o)))

/-- The target is computed before the link register is written (R225). -/
def execSjalr (d a : SReg) (i : BitVec 15) (s : State) : Out :=
  .next ((s.wr d (s.me.pc + 4)).setPc (s.rd a + imm15 i))

/-! ### Floating point (R237) -/

def execSfadd (d a b : SReg) (r : RmField) (f : Bool) (s : State) : Out :=
  s.finishF d (fadd (scalarFmt f) (s.rmOf r) (s.rdF a f) (s.rdF b f))
def execSfsub (d a b : SReg) (r : RmField) (f : Bool) (s : State) : Out :=
  s.finishF d (fsub (scalarFmt f) (s.rmOf r) (s.rdF a f) (s.rdF b f))
def execSfmul (d a b : SReg) (r : RmField) (f : Bool) (s : State) : Out :=
  s.finishF d (fmul (scalarFmt f) (s.rmOf r) (s.rdF a f) (s.rdF b f))
def execSfdiv (d a b : SReg) (r : RmField) (f : Bool) (s : State) : Out :=
  s.finishF d (fdiv (scalarFmt f) (s.rmOf r) (s.rdF a f) (s.rdF b f))
def execSfsqrt (d a : SReg) (r : RmField) (f : Bool) (s : State) : Out :=
  s.finishF d (fsqrt (scalarFmt f) (s.rmOf r) (s.rdF a f))
def execSfmin (d a b : SReg) (f : Bool) (s : State) : Out :=
  s.finishF d (fminmax (scalarFmt f) false (s.rdF a f) (s.rdF b f))
def execSfmax (d a b : SReg) (f : Bool) (s : State) : Out :=
  s.finishF d (fminmax (scalarFmt f) true (s.rdF a f) (s.rdF b f))
def execSfma (d a b : SReg) (r : RmField) (f : Bool) (s : State) : Out :=
  s.finishF d (ffma (scalarFmt f) (s.rmOf r) false false (s.rdF a f) (s.rdF b f) (s.rdF d f))
def execSfsignc (d a b : SReg) (f : Bool) (s : State) : Out :=
  s.finishF d ⟨fsignc (scalarFmt f) (s.rdF a f) (s.rdF b f), 0⟩
def execSfsignn (d a b : SReg) (f : Bool) (s : State) : Out :=
  s.finishF d ⟨fsignn (scalarFmt f) (s.rdF a f) (s.rdF b f), 0⟩
def execSfsignx (d a b : SReg) (f : Bool) (s : State) : Out :=
  s.finishF d ⟨fsignx (scalarFmt f) (s.rdF a f) (s.rdF b f), 0⟩

/-- A compare leaves 1 or 0 (R156, R237). -/
def scalarCompare (c : Cmp) (d a b : SReg) (f : Bool) (s : State) : Out :=
  let r := fcmp (scalarFmt f) c (s.rdF a f) (s.rdF b f)
  s.finishF d ⟨r.1.toNat, r.2⟩

def execSfeq (d a b : SReg) (f : Bool) (s : State) : Out := scalarCompare .eq d a b f s
def execSflt (d a b : SReg) (f : Bool) (s : State) : Out := scalarCompare .lt d a b f s
def execSfle (d a b : SReg) (f : Bool) (s : State) : Out := scalarCompare .le d a b f s

/-- The scalar format as an element type. -/
def scalarTy (f : Bool) : ElemTy := .flt (if f then .fp32 else .fp64)

def execSfcvti (d a : SReg) (r : RmField) (f : Bool) (s : State) : Out :=
  s.finishF d (convert (.int true 64) (scalarTy f) (s.rmOf r) (s.rdF a f))
def execSfcvtn (d a : SReg) (r : RmField) (f : Bool) (s : State) : Out :=
  s.finishF d (convert (.int false 64) (scalarTy f) (s.rmOf r) (s.rdF a f))
def execSicvtf (d a : SReg) (r : RmField) (f : Bool) (s : State) : Out :=
  s.finishF d (convert (scalarTy f) (.int true 64) (s.rmOf r) (s.rd a).toNat)
def execSncvtf (d a : SReg) (r : RmField) (f : Bool) (s : State) : Out :=
  s.finishF d (convert (scalarTy f) (.int false 64) (s.rmOf r) (s.rd a).toNat)
def execSfcvtx (d a : SReg) (r : RmField) (f : Bool) (s : State) : Out :=
  s.finishF d (convert (scalarTy f) (scalarTy (!f)) (s.rmOf r) (s.rdF a (!f)))

end Sys2Proof.Machine
end

