-- ==== Sys2Proof/Machine/Strip.lean ====
section
/-! DEFINITION. The configuration instructions of major 0x23 (spec/04_tile_programs.md R80 to R98). -/

set_option Elab.async false

namespace Sys2Proof.Machine

/-! ### In flight -/

/-- No tile instruction of the player is in flight, asynchronous ones counted until their chunks have performed or
their fault is recorded (R80). -/
def State.tileQuiet (s : State) (p : Player) : Bool :=
  p.conv.isNone && !s.eng.xfers.any (fun x => x.owner = p.id && !x.allDone) && !s.eng.queries.any (fun q => q.owner = p.id) &&
    !s.eng.resumed.any (fun r => r.1 = p.id) && p.accum.all (fun a => a.work.isEmpty)

/-! ### Pending reseats (R80, R82) -/

/-- The mask a request is granted (R80 step 3). -/
def State.grantedSeats (s : State) (p : Player) (req : BitVec 16) : BitVec 16 :=
  let core := p.place.coreIx
  BitVec.ofNat 16 (req.toNat &&& (p.shape.seat.toNat ||| s.freeSeats core) &&& (0xFFFF - s.retiredSeats core % 2 ^ 16))

/-- Steps 3 to 5 of R80 for the current player. -/
def State.applyReseat (s : State) : State :=
  match s.me.shape.pending with
  | none => s
  | some req =>
    let m := s.grantedSeats s.me req
    let p := { s.me with shape := { s.me.shape with pending := none } }
    if m ≠ 0 ∧ m ≠ s.me.shape.seat then
      { s with me := ({ p with shape := { p.shape with seat := m } }).zeroTiles.fixVlmax }
    else { s with me := p }

/-- What a configuration instruction finds before its own work. -/
inductive Prep where
  | go (s : State)
  | wait
  | trap (c : Cause) (s : State)

/-- The first configuration instruction after a seat retirement starts the registers afresh (R82). -/
def State.settleSeats (s : State) : Prep :=
  if s.me.shape.await then
    if s.me.shape.seat = 0 then .trap .dataError s
    else .go { s with me := ({ s.me with shape := { s.me.shape with await := false } }).zeroTiles.fixVlmax }
  else .go s

/-- Applies a pending reseat of the current player, or says why it cannot (R80, R82). -/
def State.prepare (s : State) : Prep :=
  match s.me.shape.pending with
  | none => s.settleSeats
  | some _ =>
    if !s.tileQuiet s.me then .wait
    else if s.me.grant.att then .trap .matrixGrant s
    else s.applyReseat.settleSeats

/-! ### Strips -/

def ceilDiv (a b : Nat) : Nat := (a + b - 1) / b

/-- `TTY.RC` as a count. -/
def Player.rc (p : Player) : Nat := 2 ^ getBits p.shape.tty.toNat 8 3

/-- `VL`, `FLIM` and the strip limit of a count (R93, R96). -/
def Player.setStrip (p : Player) (lim : Nat) : Player :=
  let vl := min p.shape.vlmax (ceilDiv lim p.rc)
  { p with shape := { p.shape with limit := lim, vl := vl, flim := min lim (p.rc * vl) } }

/-- The strip of `setvl` and `setvlw`: `GBASE` 0, `GSTEP` := `FLIM` (R93). -/
def Player.ownStrip (p : Player) (lim : Nat) : Player :=
  let q := p.setStrip lim
  { q with shape := { q.shape with gbase := 0, gstep := q.shape.flim } }

/-- The limit of `setvl` (R93). -/
def setvlLimit (det : Bool) (a b : Nat) : Nat :=
  if b ≠ 0 ∧ b < a then
    let cap := if det then max 64 (64 * (b / 64)) else b
    min a cap
  else a

def execSetvl (d a b : SReg) (s : State) : Out :=
  match s.prepare with
  | .wait => .next { s with me := { s.me with waiting := some (.setvl d a b) } }
  | .trap c t => trapHere c 0 s.me.pc t
  | .go t =>
    let u := t.withMe (t.me.ownStrip (setvlLimit t.me.det (t.rd a).toNat (t.rd b).toNat))
    u.finishWr d (word u.me.shape.flim)

/-- `setvlw`: the strip, then the wait on the watermark (R95). The check of `WMK` stands before the traps of a pending
reseat and of a retired seat; their order is the model's choice (notes/assumptions/83.md). -/
def execSetvlw (d a b : SReg) (s : State) : Out :=
  match checkAccess s s.me s.me.wmk 8 8 .load with
  | .error c => trapAccess c s.me.wmk s
  | .ok pa =>
    match s.prepare with
    | .wait => .next { s with me := { s.me with waiting := some (.setvlw d a b) } }
    | .trap c t => trapHere c 0 s.me.pc t
    | .go t =>
      let u := t.withMe (t.me.ownStrip (t.rd a).toNat)
      let w := u.correctSpad pa 8
      if (u.rd b).toNat + u.me.shape.flim ≤ u.spadRead u.me pa 8 then
        ({ w with me := { u.me with armed := none, wake := false } }).finishWr d (word u.me.shape.flim)
      else
        .next { w with me := { u.me with waiting := some (.setvlw d a b), armed := some (lineOf pa), wake := false } }

/-! ### The party collective (R94) -/

/-- Does a player wait in a `setvl.g`? Its destination and count registers. -/
def Player.inSetvlG (p : Player) : Option (SReg × SReg) :=
  match p.waiting with
  | some (.setvlG d a) => some (d, a)
  | _ => none

/-- Members in the order of R81: core, then slot. -/
def orderedIds (ps : List Player) : List Nat :=
  (sortBy (fun (x : Player) => x.place.core * 16 + x.place.slot) ps).map (fun p => p.id)

/-- Prepares the members one after another; a member whose preparation traps takes the trap and holds up the others. -/
def prepareAll : List Nat → State → Bool × State
  | [], s => (true, s)
  | id :: rest, s =>
    let f := s.focus id
    match f.prepare with
    | .go t => prepareAll rest t
    | .wait => (false, s)
    | .trap c t => (false, { t with me := t.me.takeTrap c t.me.pc 0 t.me.pc false 0 })

/-- Cuts the strips in rank order (R94): player, base, length. -/
def cutStrips (n : Nat) : Nat → List Player → List (Nat × Nat × Nat) × Nat
  | off, [] => ([], off)
  | off, p :: rest =>
    let len := min (p.rc * p.shape.vlmax) (n - off)
    let r := cutStrips n (off + len) rest
    ((p.id, off, len) :: r.1, r.2)

/-- A member receives its strip and goes on. -/
def Player.takeStrip (p : Player) (base len total : Nat) : Player :=
  match p.inSetvlG with
  | none => p
  | some (d, _) =>
    let q := p.setStrip len
    let q := { q with
      shape := { q.shape with flim := len, gbase := base, gstep := total }
      waiting := none
      pc := q.pc + 4 }
    q.wr d (word len)

/-- When every live member of the party waits in `setvl.g`, the strips are cut (R94). -/
def State.tryCollective (s : State) (launch index : Nat) : State :=
  let ms := s.members launch index
  if ms.isEmpty || !(ms.all (fun p => p.inSetvlG.isSome)) || decide (s.liveCount launch index ≠ ms.length) then s
  else
    let home := s.me.id
    let r := prepareAll (orderedIds ms) s
    let t := r.2.focus home
    if r.1 then
      let ranked := sortBy (fun (x : Player) => x.place.rank) (t.members launch index)
      let n := match ranked with
        | [] => 0
        | p :: _ => match p.inSetvlG with
          | some (_, a) => (p.rd a).toNat
          | none => 0
      let cuts := cutStrips n 0 ranked
      cuts.1.foldl (fun u c => u.updPlayer c.1 (fun p => p.takeStrip c.2.1 c.2.2 cuts.2)) t
    else t

def execSetvlG (d a : SReg) (s : State) : Out :=
  let t := { s with me := { s.me with waiting := some (.setvlG d a) } }
  .next (t.tryCollective s.me.place.launch s.me.place.party)

/-! ### settype, reseat, allot (R96 to R98) -/

/-- Is a value one that `settype` takes (R96)? -/
def ttyOk (v : Nat) : Bool :=
  decide (v < 2 ^ 13) && decide (getBits v 8 3 < 6) &&
    match ElemTy.ofCode (getBits v 0 6) with
    | none => false
    | some t => decide (2 ^ getBits v 6 2 ≤ t.width)

def execSettype (d a : SReg) (s : State) : Out :=
  let v := (s.rd a).toNat
  if ttyOk v then
    let p := ({ s.me with shape := { s.me.shape with tty := BitVec.ofNat 13 v } }).fixVlmax
    let q := p.setStrip p.shape.limit
    (s.withMe q).finishWr d (word q.shape.vlmax)
  else trapHere .illegalType 0 s.me.pc s

def execReseat (d a : SReg) (s : State) : Out :=
  let v := (s.rd a).toNat
  if v = 0 ∨ 2 ^ 16 ≤ v then s.finishWr d 0
  else (s.withMe { s.me with shape := { s.me.shape with pending := some (BitVec.ofNat 16 v) } }).finishWr d 1

/-- The values of R83. -/
def allotOk (v : Nat) : Bool := decide (v % 8 = 0) && decide (8 ≤ v) && decide (v ≤ 64)

/-- Does an in-flight instruction of the player name a register at or above `n` (R98)? An accepted one counts through
its pending destinations and its pip tile, a transfer until its chunks have performed (R80). -/
def State.namesFrom (s : State) (p : Player) (n : Nat) : Bool :=
  s.eng.xfers.any (fun x => x.owner = p.id && !x.allDone && decide (n ≤ x.pip)) ||
  s.eng.queries.any (fun q => q.owner = p.id && (decide (n ≤ q.pip) || (q.dregs != 0 && decide (n < q.tv + q.dregs)))) ||
  p.accum.any (fun a => a.work.any (fun w => match w with
    | .back _ pip _ _ _ => decide (n ≤ pip) || decide (n < a.grant.acc.toNat + a.grant.asize.toNat)
    | _ => false))

/-- Zeroes the registers from `n` up. -/
def zeroFrom (t : Vector Nat 64) (n : Nat) : Vector Nat 64 := Vector.ofFn (fun i => if i.val < n then t[i] else 0)

/-- The registers from `n` up read zero, with fresh check bits (R98). -/
def Player.zeroAbove (p : Player) (n : Nat) : Player :=
  { p with
    tregs := zeroFrom p.tregs n
    tbad := p.tbad.filter (fun b => b.1 < n)
    tsoft := p.tsoft.filter (fun b => b.1 < n) }

def execAllot (d a : SReg) (s : State) : Out :=
  let v := (s.rd a).toNat
  let g := s.me.grant
  if !allotOk v || (decide (v < s.me.shape.allot) && g.att && decide (v < g.acc.toNat + g.asize.toNat)) then
    trapHere .registerAllotment 0 s.me.pc s
  else if v < s.me.shape.allot ∧ s.namesFrom s.me v then
    .next { s with me := { s.me with waiting := some (.allot d a) } }
  else
    let p := if v < s.me.shape.allot then s.me.zeroAbove v else s.me
    (s.withMe { p with shape := { p.shape with allot := v } }).finishWr d (word v)

/-! ### Waits that end (R80, R98) -/

/-- `ALLOT_COMPLETE`: the waiting `allot` runs again. -/
def execAllotComplete (p : Nat) (s : State) : Out :=
  onPlayer p (fun t =>
    match t.me.waiting with
    | some (.allot d a) => execAllot d a { t with me := { t.me with waiting := none } }
    | _ => .next t) s

/-- `RESEAT_APPLY`: the configuration instruction that waited for the drain runs again. -/
def execReseatApply (p : Nat) (s : State) : Out :=
  onPlayer p (fun t =>
    let u := { t with me := { t.me with waiting := none } }
    match t.me.waiting with
    | some (.setvl d a b) => execSetvl d a b u
    | some (.setvlw d a b) => if t.me.armed.isSome then .next t else execSetvlw d a b u
    | some (.setvlG _ _) => .next (t.tryCollective t.me.place.launch t.me.place.party)
    | _ => .next t) s

end Sys2Proof.Machine
end

