-- ==== Sys2Proof/Machine/Sync.lean ====
section
/-! DEFINITION. The synchronisation instructions of major 0x22 and the steps that end their waits
(spec/08_scratchpad_access_and_sync.md R211 to R216; spec/01_engines_and_their_ties.md R16, R19, R20, R25, R27). -/

set_option Elab.async false

namespace Sys2Proof.Machine

/-! ### Write buffers and homes (R16, R19, R20) -/

/-- `WRITE_BUFFER_DRAIN`: entry `k` of a player's buffer leaves for its home, unless an older entry holds bytes of it. -/
def execWriteBufferDrain (p k : Nat) (s : State) : Out :=
  match s.player? p with
  | none => .next s
  | some q =>
    match q.wbuf[k]? with
    | none => .next s
    | some st =>
      if (q.wbuf.take k).any (fun o => o.overlaps st.addr st.len) then .next s
      else .next { s.updPlayer p (fun q => { q with wbuf := q.wbuf.eraseIdx k }) with
        mem := { s.mem with arrivals := s.mem.arrivals ++ [(p, st)] } }

/-- `SPAD_HOME_APPLY`: a home applies arriving access `k`, unless an earlier one of its player meets the same bytes. -/
def execSpadHomeApply (k : Nat) (s : State) : Out :=
  match s.mem.arrivals[k]? with
  | none => .next s
  | some a =>
    if (s.mem.arrivals.take k).any (fun o => decide (o.1 = a.1) && o.2.overlaps a.2.addr a.2.len) then .next s
    else .next (({ s with mem := { s.mem with arrivals := s.mem.arrivals.eraseIdx k } }).applyStore a.1 a.2)

/-! ### fence (R25, R212) -/

def execFence (sc : Fin 4) (k : BitVec 4) (s : State) : Out :=
  match s.me.heldOf k.toNat with
  | some r => trapHeld r s
  | none =>
    if s.quietAt sc s.me k.toNat then .next s.advance
    else .next { s with me := { s.me with waiting := some (.fence sc k) } }

/-- `FENCE_COMPLETE` -/
def execFenceComplete (p : Nat) (s : State) : Out :=
  onPlayer p (fun t =>
    match t.me.waiting with
    | some (.fence sc k) => execFence sc k { t with me := { t.me with waiting := none } }
    | _ => .next t) s

/-! ### bar (R101, R213) -/

/-- A waiting member looks at the generation again, at the dword's address as it is mapped now; the monitor stays armed
while the address leads nowhere. -/
def State.barWait (s : State) (gen : Nat) (va : Word) : State :=
  match checkAccess s s.me va 8 8 .load with
  | .error _ => { s with me := { s.me with waiting := some .bar, wake := false } }
  | .ok pa =>
    if s.spadRead s.me pa 8 / 2 ^ 32 ≠ gen then
      ({ s.correctSpad pa 8 with me := { s.me with barGen := none, armed := none, wake := false, waiting := none } }).advance
    else { s.correctSpad pa 8 with me := { s.me with waiting := some .bar, armed := some (lineOf pa), wake := false } }

def execBar (s : State) : Out :=
  match s.me.barGen with
  | some (gen, va) => .next (s.barWait gen va)
  | none =>
    match checkAccess s s.me s.me.barp 8 8 .atomic with
    | .error c => trapAccess c s.me.barp s
    | .ok pa =>
      let t := s.drainOwn.correctSpad pa 8
      let v := t.mem.spad.read pa 8
      let gen := v / 2 ^ 32
      let cnt := v % 2 ^ 32 + 1
      let live := t.liveCount t.me.place.launch t.me.place.party
      let new := if live ≤ cnt then (gen + 1) % 2 ^ 32 * 2 ^ 32 else gen * 2 ^ 32 + cnt % 2 ^ 32
      let u := t.applyStore t.me.id (Store.plain pa 8 new)
      .next (({ u with me := { u.me with barGen := some (gen, s.me.barp) } }).barWait gen s.me.barp)

/-! ### wait (R27, R214) -/

/-- Arms the monitor, reads, compares; completes or sleeps. -/
def waitOn (cond : Word → Word → Bool) (self : Instr) (d a b : SReg) (s : State) : Out :=
  match checkAccess s s.me (s.rd a) 8 8 .load with
  | .error c => trapAccess c (s.rd a) s
  | .ok pa =>
    let v := word (s.spadRead s.me pa 8)
    let t := s.correctSpad pa 8
    if cond v (s.rd b) then ({ t with me := { s.me with armed := none, wake := false } }).finishWr d v
    else .next { t with me := { s.me with waiting := some self, armed := some (lineOf pa), wake := false } }

def execWaitEq (d a b : SReg) (s : State) : Out := waitOn (fun v x => v == x) (.waitEq d a b) d a b s
def execWaitNe (d a b : SReg) (s : State) : Out := waitOn (fun v x => v != x) (.waitNe d a b) d a b s
def execWaitGeu (d a b : SReg) (s : State) : Out := waitOn (fun v x => !v.ult x) (.waitGeu d a b) d a b s
def execWaitAny (d a b : SReg) (s : State) : Out := waitOn (fun v x => v &&& x != 0) (.waitAny d a b) d a b s

/-- `MONITOR_WAKE`: a sleeping player whose wake flag is set reads and compares again. -/
def execMonitorWake (p : Nat) (s : State) : Out :=
  onPlayer p (fun t =>
    if !t.me.wake then .next t
    else
      let u := { t with me := { t.me with waiting := none, armed := none, wake := false } }
      match t.me.waiting with
      | some .bar => execBar { t with me := { t.me with waiting := none, wake := false } }
      | some (.waitEq d a b) => execWaitEq d a b u
      | some (.waitNe d a b) => execWaitNe d a b u
      | some (.waitGeu d a b) => execWaitGeu d a b u
      | some (.waitAny d a b) => execWaitAny d a b u
      | some (.setvlw d a b) => execSetvlw d a b u
      | _ => .next t) s

/-! ### pwait (R11, R12, R215) -/

/-- The chunks a `pwait` names. -/
def namedChunks (c0 mask : Nat) : List Nat := (setBitsBelow mask 64).map (fun i => c0 + i)

def execPwait (a b : SReg) (p : TReg) (s : State) : Out :=
  let c0 := (s.rd a).toNat
  let cs := namedChunks c0 (s.rd b).toNat
  if s.me.shape.allot ≤ p.val then trapHere .registerAllotment 0 s.me.pc s
  else if c0 % 64 ≠ 0 ∨ 2048 * s.me.lanes ≤ c0 then trapHere .illegalType 0 s.me.pc s
  else
    let s := s.correctBits p cs.contains
    match cs.find? (fun c => s.me.lostChunk p c) with
    | some c => trapHere .partnerFault (word (64 * c)) s.me.pc s
    | none =>
      if cs.all (fun c => (s.me.tregs[p]).testBit c) then .next s.advance
      else .next { s with me := { s.me with waiting := some (.pwait a b p) } }

/-- `PWAIT_COMPLETE` -/
def execPwaitComplete (p : Nat) (s : State) : Out :=
  onPlayer p (fun t =>
    match t.me.waiting with
    | some (.pwait a b r) => execPwait a b r { t with me := { t.me with waiting := none } }
    | _ => .next t) s

/-! ### wmpub (R216) -/

def execWmpub (d a : SReg) (s : State) : Out :=
  match checkAccess s s.me s.me.wmk 8 8 .atomic with
  | .error c => trapAccess c s.me.wmk s
  | .ok pa =>
    match s.me.heldOf kindQmw with
    | some r => trapHeld r s
    | none =>
      if s.quiet s.me (kindSpad + kindQmw) then
        let old := s.mem.spad.read pa 8
        ((s.correctSpad pa 8).raiseDword s.me.id pa (s.rd a).toNat).finishWr d (word old)
      else .next { s with me := { s.me with waiting := some (.wmpub d a) } }

/-- `WMPUB_APPLY` -/
def execWmpubApply (p : Nat) (s : State) : Out :=
  onPlayer p (fun t =>
    match t.me.waiting with
    | some (.wmpub d a) => execWmpub d a { t with me := { t.me with waiting := none } }
    | _ => .next t) s

end Sys2Proof.Machine
end

