-- ==== Sys2Proof/Machine/Control.lean ====
section
/-! DEFINITION. The system instructions `trap`, `halt`, `eret`, `yield` and `launch` (spec/09_control_scalar_system.md
R240 to R244), and the traps of a fetch (R30, R42, R227, R228). -/

set_option Elab.async false

namespace Sys2Proof.Machine

/-! ### trap, eret, yield (R241, R243) -/

/-- `trap n`: `EPC` is the address of the word after the `trap`. -/
def execTrap (n : BitVec 6) (s : State) : Out :=
  .next { s with me := s.me.takeTrap .trapInstruction (s.me.pc + 4) 0 (n.setWidth 64) false 0 }

def execEret (s : State) : Out :=
  if !s.super then trapHere .privileged 0 s.me.pc s
  else .next { s with me := s.me.returnFromTrap }

/-- The arbiter moves the current player behind every other ready player. -/
def State.rotate (s : State) : State :=
  match s.others.find? (fun p => s.runnable p) with
  | none => s
  | some p => { s with me := p, others := s.others.filter (fun q => q.id ≠ p.id) ++ [s.me] }

def execYield (s : State) : Out := .next s.advance.rotate

/-! ### halt (R242) -/

/-- Every in-flight instruction of the current player has completed or faulted, and its write buffers have drained. -/
def State.haltReady (s : State) : Bool :=
  s.tileQuiet s.me && (s.ownStores s.me).isEmpty && !s.eng.xfers.any (fun x => x.owner = s.me.id)

def execHalt (s : State) : Out :=
  if s.me.grant.att then trapHere .matrixGrant 0 s.me.pc s
  else
    match s.me.heldOf 15 with
    | some r => trapHeld r s
    | none =>
      if s.haltReady then .next (s.endPlayer.tryCollective s.me.place.launch s.me.place.party)
      else .next { s with me := { s.me with waiting := some .halt } }

/-- `HALT_COMPLETE` -/
def execHaltComplete (p : Nat) (s : State) : Out :=
  onPlayer p (fun t =>
    match t.me.waiting with
    | some .halt => execHalt { t with me := { t.me with waiting := none } }
    | _ => .next t) s

/-! ### launch (R244, R396) -/

/-- The first failing check of R193 over the ten dwords of the record, or their physical addresses. -/
def recordDwords (s : State) (a : Word) : Nat → Except (Cause × Word) (List Nat)
  | 0 => .ok []
  | n + 1 =>
    let va := a + word (8 * (9 - n))
    match checkAccess s s.me va 8 8 .load with
    | .error c => .error (c, va)
    | .ok pa =>
      match recordDwords s a n with
      | .error e => .error e
      | .ok rest => .ok (pa :: rest)

/-- A launch record's fields and whether they are in range (R69, R244). -/
def descOfRecord (ds : List Nat) : Desc × Bool :=
  let d := fun i => ds.getD i 0
  let w1 := d 1
  let parties := getBits w1 0 16
  let players := getBits w1 16 8
  let seats := getBits w1 24 8
  let allot := getBits w1 32 8
  let mode := getBits w1 40 8
  (⟨word (d 0), parties, players, seats, allot, mode.testBit 0, Vector.ofFn (fun i => word (d (i.val + 2)))⟩,
    decide (1 ≤ parties) && decide (1 ≤ players) && decide (players ≤ 64) && decide (1 ≤ seats) && decide (seats ≤ 16) &&
      allotOk allot && decide (mode ≤ 1) && decide (getBits w1 48 16 = 0) && decide (players * seats ≤ 64))

/-- The status `launch` writes: the first that applies in the order 4, 2, 3, 1 (R244). -/
def State.launchStatus (s : State) (q : Nat) (d : Desc) (ok : Bool) : Nat :=
  let h := s.queueAt q
  if h.world ≠ s.me.place.wid then 4
  else if !ok then 2
  else if d.entry.toNat % 4 ≠ 0 || !inRegion (codeRegion s s.me) d.entry.toNat then 3
  else if !h.enable || decide (256 ≤ h.filled) then 1
  else 0

/-- The pending entry of a device-side launch (R396). -/
def devicePacket (p : Player) (d : Desc) : Packet :=
  { kind := .launch, cqe := false, order := false, tag := 0, operand := 0, descIx := 0, dies := 0, window := 0
    waitA := 0, waitV := 0, doneA := 0, doneV := 0, argMask := 0, args := d.args, mode := none
    device := some (p.place.module, p.place.asid, d), malformed := false, started := none, checked := false }

def execLaunch (d a b : SReg) (s : State) : Out :=
  match s.me.heldOf kindQmw with
  | some r => trapHeld r s
  | none =>
    if !s.quiet s.me (kindSpad + kindQmw) then .next { s with me := { s.me with waiting := some (.launch d a b) } }
    else
      match recordDwords s (s.rd a) 10 with
      | .error e => trapAccess e.1 e.2 s
      | .ok pas =>
        let r := descOfRecord (pas.map (fun pa => s.spadRead s.me pa 8))
        let q := (s.rd b).toNat % 64
        let st := s.launchStatus q r.1 r.2
        let u := pas.foldl (fun (u : State) pa => u.correctSpad pa 8) s
        let t := if st = 0 then u.updQueue q (fun h => { h with pending := h.pending ++ [devicePacket s.me r.1] }) else u
        t.finishWr d (word st)

/-- `LAUNCH_HANDOFF` -/
def execLaunchHandoff (p : Nat) (s : State) : Out :=
  onPlayer p (fun t =>
    match t.me.waiting with
    | some (.launch d a b) => execLaunch d a b { t with me := { t.me with waiting := none } }
    | _ => .next t) s

/-! ### Traps of a fetch (R30, R42, R227, R228) -/

/-- A fetch at the current PC traps; at `EVEC`, between a trap and the fetch of the handler's first word, it is fatal
and the player is removed (R228). -/
def fetchTrap (c : Cause) (s : State) : Out :=
  if s.me.trap.entering then .next (s.fatal c 0)
  else trapAccess c s.me.pc s

/-- `MISALIGNED_FETCH` at an address. -/
def execMisalignedFetch (pc : Nat) (s : State) : Out :=
  if s.me.pc.toNat = pc ∧ pc % 4 ≠ 0 then fetchTrap .misaligned s else .next s

/-- `FETCH_BOUND`: the fetch at an address fails with the cause that R227 gives. -/
def execFetchBound (pc : Nat) (s : State) : Out :=
  if s.me.pc.toNat = pc ∧ pc % 4 = 0 then
    match fetchWord s s.me s.me.pc with
    | .error c => fetchTrap c s
    | .ok _ => .next s
  else .next s

/-- `ILLEGAL_OPCODE`: the fetched word `w` stands for no instruction. `EPC` and `ETVAL` are its address (R48). -/
def execIllegalOpcode (w : Nat) (s : State) : Out :=
  match fetchWord s s.me s.me.pc with
  | .error _ => .next s
  | .ok x => if x = w then trapHere .illegalOpcode 0 s.me.pc s else .next s

end Sys2Proof.Machine
end

