-- ==== Sys2Proof/Machine/TileArith.lean ====
section
/-! DEFINITION. Element-wise tile arithmetic: integer and move instructions (spec/06_tile_arithmetic.md R141 to R147),
floating point (R148 to R154), compares (R155, R156), fixed point and widening (R157 to R161) and the sliced-only
instructions (R163 to R165). -/

set_option Elab.async false

namespace Sys2Proof.Machine

/-! ### Type sets -/

def tyIN (e : Env) : Bool := e.ty.inIN
def tyINK (e : Env) : Bool := e.ty.inIN || e.ty.isSlice
def tyI (e : Env) : Bool := e.ty.inI
def tyF (e : Env) : Bool := e.ty.inF
def tyK (e : Env) : Bool := e.ty.isSlice
def tyAny (_ : Env) : Bool := true
def tyCmp (e : Env) : Bool := tyINK e || tyF e

/-! ### Descriptions -/

/-- A group as the issue checks see it. -/
def Opnd.group? (d : Opnd) : Nat × Nat := (d.view.reg, d.view.regs)

/-- An element-wise instruction (R134). -/
def elemDesc (cls : TileClass) (types : Env → Bool) (m : MaskMode) (regs : List SReg) (dst : Env → Opnd)
    (srcs : Env → List Opnd) (comp : Env → List Word → Nat → List Nat → Nat → Res) : TileDesc where
  cls := cls
  priv := false
  mode := m
  typeOk := types
  dsts := fun e => [(dst e).group?]
  srcs := fun e => (srcs e).map Opnd.group?
  regs := regs
  pips := []
  matrix := false
  noDet := fun _ => false
  post := fun _ => true
  acc := fun e => (dst e).access true :: (srcs e).map (Opnd.access false)
  kind := .elem dst srcs comp

/-- An operation on two elements. -/
abbrev Op2 := Env → Nat → Nat → Res

/-- Element `f` of the ordinary group that starts at register `r`, `x` being the group's value. -/
def Env.at (e : Env) (r : TReg) (x f : Nat) : Nat := e.elem (e.view r) x f

/-- Format T3 with two tile sources (R135). -/
def binT (cls : TileClass) (types : Env → Bool) (op : Op2) (d a b : TReg) (m : MaskMode) : TileDesc :=
  elemDesc cls types m [] (fun e => .group (e.view d)) (fun e => [.group (e.view a), .group (e.view b)])
    (fun e _ _ vs f => op e (e.at a (vs.getD 0 0) f) (e.at b (vs.getD 1 0) f))

/-- A scalar operand cut to the element width (R135). -/
def Env.cut (e : Env) (ws : List Word) : Nat := (ws.getD 0 0).toNat % 2 ^ e.w

/-- Format TS. -/
def binS (cls : TileClass) (types : Env → Bool) (op : Op2) (d a : TReg) (b : SReg) (m : MaskMode) : TileDesc :=
  elemDesc cls types m [b] (fun e => .group (e.view d)) (fun e => [.group (e.view a)])
    (fun e ws _ vs f => op e (e.at a (vs.getD 0 0) f) (e.cut ws))

/-- Format TI: `imm` gives the operand's bits. -/
def binI (cls : TileClass) (types : Env → Bool) (op : Op2) (imm : Env → Nat) (d a : TReg) (m : MaskMode) : TileDesc :=
  elemDesc cls types m [] (fun e => .group (e.view d)) (fun e => [.group (e.view a)])
    (fun e _ _ vs f => op e (e.at a (vs.getD 0 0) f) (imm e))

/-- A signed immediate cut to the element width (R135, R146). -/
def immS (i : BitVec 6) (e : Env) : Nat := wrap e.w i.toInt
/-- A shift amount is unsigned (R135). -/
def immU (i : BitVec 6) (_ : Env) : Nat := i.toNat

/-- One tile source. -/
def unT (cls : TileClass) (types : Env → Bool) (op : Env → Nat → Res) (d a : TReg) (m : MaskMode) : TileDesc :=
  elemDesc cls types m [] (fun e => .group (e.view d)) (fun e => [.group (e.view a)])
    (fun e _ _ vs f => op e (e.at a (vs.getD 0 0) f))

/-- A result without flags, cut to the element width. -/
def plain (e : Env) (v : Nat) : Res := ⟨v % 2 ^ e.w, 0⟩

/-! ### Integer operations (R141 to R143) -/

/-- An element as the integer its type reads (R141). -/
def Env.val (e : Env) (a : Nat) : Int := intVal e.ty.signed e.w a

def opAdd : Op2 := fun e a b => plain e (a + b)
def opSub : Op2 := fun e a b => plain e (wrap e.w ((a : Int) - b))
def opRsub : Op2 := fun e a b => opSub e b a
def opAnd : Op2 := fun e a b => plain e (a &&& b)
def opOr : Op2 := fun e a b => plain e (a ||| b)
def opXor : Op2 := fun e a b => plain e (a ^^^ b)
def opAndn : Op2 := fun e a b => plain e (a &&& (ones e.w ^^^ (b % 2 ^ e.w)))
def opMin : Op2 := fun e a b => plain e (if e.val b < e.val a then b else a)
def opMax : Op2 := fun e a b => plain e (if e.val a < e.val b then b else a)
def opSll : Op2 := fun e a b => plain e (a * 2 ^ (b % e.w))
def opSrl : Op2 := fun e a b => plain e (a / 2 ^ (b % e.w))
def opSra : Op2 := fun e a b => plain e (wrap e.w (Int.fdiv (toSigned e.w a) ((2 : Int) ^ (b % e.w))))
def opMul : Op2 := fun e a b => plain e (a * b)
def opMulh : Op2 := fun e a b => plain e (wrap e.w (Int.fdiv (e.val a * e.val b) ((2 : Int) ^ e.w)))
def opMulhsu : Op2 := fun e a b => plain e (wrap e.w (Int.fdiv (toSigned e.w a * (b : Int)) ((2 : Int) ^ e.w)))
def opDiv : Op2 := fun e a b => plain e (divTrunc e.ty.signed e.w a b)
def opRem : Op2 := fun e a b => plain e (remTrunc e.ty.signed e.w a b)

/-! ### Floating operations (R148 to R153) -/

/-- The format of the current type; `fp32` stands in where the type is none of F. -/
def Env.fmt (e : Env) : FFmt :=
  match e.ty with
  | .flt n => n.fmt
  | _ => FName.fp32.fmt

def opFadd : Op2 := fun e a b => fadd e.fmt e.frm a b
def opFsub : Op2 := fun e a b => fsub e.fmt e.frm a b
def opFrsub : Op2 := fun e a b => frsub e.fmt e.frm a b
def opFmul : Op2 := fun e a b => fmul e.fmt e.frm a b
def opFdiv : Op2 := fun e a b => fdiv e.fmt e.frm a b
def opFrdiv : Op2 := fun e a b => frdiv e.fmt e.frm a b
def opFmin : Op2 := fun e a b => fminmax e.fmt false a b
def opFmax : Op2 := fun e a b => fminmax e.fmt true a b
def opFsignc : Op2 := fun e a b => ⟨fsignc e.fmt a b, 0⟩
def opFsignn : Op2 := fun e a b => ⟨fsignn e.fmt a b, 0⟩
def opFsignx : Op2 := fun e a b => ⟨fsignx e.fmt a b, 0⟩

/-- The four FMA forms; d is the destination's element before the instruction (R150). -/
def fmaT (negP negD : Bool) (d a b : TReg) (m : MaskMode) : TileDesc :=
  elemDesc .mulfp tyF m [] (fun e => .group (e.view d))
    (fun e => [.group (e.view a), .group (e.view b), .group (e.view d)])
    (fun e _ _ vs f => ffma e.fmt e.frm negP negD (e.at a (vs.getD 0 0) f) (e.at b (vs.getD 1 0) f) (e.at d (vs.getD 2 0) f))

def fmaS (negP negD : Bool) (d a : TReg) (b : SReg) (m : MaskMode) : TileDesc :=
  elemDesc .mulfp tyF m [b] (fun e => .group (e.view d)) (fun e => [.group (e.view a), .group (e.view d)])
    (fun e ws _ vs f => ffma e.fmt e.frm negP negD (e.at a (vs.getD 0 0) f) (e.cut ws) (e.at d (vs.getD 1 0) f))

/-! ### Compares (R156) -/

/-- A compare of two elements as a bit and its flag. -/
def opCmp (c : Cmp) : Op2 := fun e a b =>
  match e.ty with
  | .flt n =>
    let r := fcmp n.fmt c a b
    ⟨r.1.toNat, r.2⟩
  | _ => ⟨(c.onInt (e.val a) (e.val b)).toNat, 0⟩

def cmpT (types : Env → Bool) (c : Cmp) (d a b : TReg) (m : MaskMode) : TileDesc :=
  elemDesc .alu types m [] (fun _ => .mask d.val) (fun e => [.group (e.view a), .group (e.view b)])
    (fun e _ _ vs f => opCmp c e (e.at a (vs.getD 0 0) f) (e.at b (vs.getD 1 0) f))

def cmpS (types : Env → Bool) (c : Cmp) (d a : TReg) (b : SReg) (m : MaskMode) : TileDesc :=
  elemDesc .alu types m [b] (fun _ => .mask d.val) (fun e => [.group (e.view a)])
    (fun e ws _ vs f => opCmp c e (e.at a (vs.getD 0 0) f) (e.cut ws))

/-! ### Fixed point and widening (R158 to R161) -/

def opSadd : Op2 := fun e a b => sat e.ty.signed e.w (e.val a + e.val b)
def opSsub : Op2 := fun e a b => sat e.ty.signed e.w (e.val a - e.val b)
def opAvg : Op2 := fun e a b => plain e (wrap e.w (xround (e.val a + e.val b) 1 e.xrm))
/-- The halved difference is clamped too (R106, R116): under hup and hev the difference of the extremes rounds past the
largest value. -/
def opAvgsub : Op2 := fun e a b => sat e.ty.signed e.w (xround (e.val a - e.val b) 1 e.xrm)
def opSmul : Op2 := fun e a b => sat true e.w (xround (toSigned e.w a * toSigned e.w b) (e.w - 1) e.xrm)

/-- Types that widen: integers up to 32 bits, slices up to 8 (R157). -/
def tyWide (e : Env) : Bool :=
  match e.ty with
  | .int _ w => decide (w ≤ 32)
  | .slice _ w => decide (w ≤ 8)
  | _ => false

/-- A widening form (R160). -/
def wideT (cls : TileClass) (op : Int → Int → Int) (d a b : TReg) (m : MaskMode) : TileDesc :=
  elemDesc cls tyWide m [] (fun e => .group (e.wide d)) (fun e => [.group (e.view a), .group (e.view b)])
    (fun e _ _ vs f => ⟨wrap (2 * e.w) (op (e.val (e.at a (vs.getD 0 0) f)) (e.val (e.at b (vs.getD 1 0) f))), 0⟩)

/-- Types that `tnshr` narrows: 16 to 64 bits (R157). -/
def tyNarrow (e : Env) : Bool :=
  match e.ty with
  | .int _ w => decide (16 ≤ w)
  | _ => false

/-! ### Instructions -/

def descTadd (d a b : TReg) (m : MaskMode) : TileDesc := binT .alu tyINK opAdd d a b m
def execTadd (c : Bool) (d a b : TReg) (m : MaskMode) (s : State) : Out := runTile (.tadd c d a b m) (descTadd d a b m) s

def descTsub (d a b : TReg) (m : MaskMode) : TileDesc := binT .alu tyINK opSub d a b m
def execTsub (c : Bool) (d a b : TReg) (m : MaskMode) (s : State) : Out := runTile (.tsub c d a b m) (descTsub d a b m) s

def descTand (d a b : TReg) (m : MaskMode) : TileDesc := binT .alu tyINK opAnd d a b m
def execTand (c : Bool) (d a b : TReg) (m : MaskMode) (s : State) : Out := runTile (.tand c d a b m) (descTand d a b m) s

def descTor (d a b : TReg) (m : MaskMode) : TileDesc := binT .alu tyINK opOr d a b m
def execTor (c : Bool) (d a b : TReg) (m : MaskMode) (s : State) : Out := runTile (.tor c d a b m) (descTor d a b m) s

def descTxor (d a b : TReg) (m : MaskMode) : TileDesc := binT .alu tyINK opXor d a b m
def execTxor (c : Bool) (d a b : TReg) (m : MaskMode) (s : State) : Out := runTile (.txor c d a b m) (descTxor d a b m) s

def descTandn (d a b : TReg) (m : MaskMode) : TileDesc := binT .alu tyINK opAndn d a b m
def execTandn (c : Bool) (d a b : TReg) (m : MaskMode) (s : State) : Out := runTile (.tandn c d a b m) (descTandn d a b m) s

def descTmin (d a b : TReg) (m : MaskMode) : TileDesc := binT .alu tyINK opMin d a b m
def execTmin (c : Bool) (d a b : TReg) (m : MaskMode) (s : State) : Out := runTile (.tmin c d a b m) (descTmin d a b m) s

def descTmax (d a b : TReg) (m : MaskMode) : TileDesc := binT .alu tyINK opMax d a b m
def execTmax (c : Bool) (d a b : TReg) (m : MaskMode) (s : State) : Out := runTile (.tmax c d a b m) (descTmax d a b m) s

def descTsll (d a b : TReg) (m : MaskMode) : TileDesc := binT .alu tyINK opSll d a b m
def execTsll (c : Bool) (d a b : TReg) (m : MaskMode) (s : State) : Out := runTile (.tsll c d a b m) (descTsll d a b m) s

def descTsrl (d a b : TReg) (m : MaskMode) : TileDesc := binT .alu tyINK opSrl d a b m
def execTsrl (c : Bool) (d a b : TReg) (m : MaskMode) (s : State) : Out := runTile (.tsrl c d a b m) (descTsrl d a b m) s

def descTsra (d a b : TReg) (m : MaskMode) : TileDesc := binT .alu tyINK opSra d a b m
def execTsra (c : Bool) (d a b : TReg) (m : MaskMode) (s : State) : Out := runTile (.tsra c d a b m) (descTsra d a b m) s

def descTmul (d a b : TReg) (m : MaskMode) : TileDesc := binT .mulfp tyIN opMul d a b m
def execTmul (c : Bool) (d a b : TReg) (m : MaskMode) (s : State) : Out := runTile (.tmul c d a b m) (descTmul d a b m) s

def descTmulh (d a b : TReg) (m : MaskMode) : TileDesc := binT .mulfp tyIN opMulh d a b m
def execTmulh (c : Bool) (d a b : TReg) (m : MaskMode) (s : State) : Out := runTile (.tmulh c d a b m) (descTmulh d a b m) s

def descTmulhsu (d a b : TReg) (m : MaskMode) : TileDesc := binT .mulfp tyI opMulhsu d a b m
def execTmulhsu (c : Bool) (d a b : TReg) (m : MaskMode) (s : State) : Out := runTile (.tmulhsu c d a b m) (descTmulhsu d a b m) s

def descTdiv (d a b : TReg) (m : MaskMode) : TileDesc := binT .mulfp tyIN opDiv d a b m
def execTdiv (c : Bool) (d a b : TReg) (m : MaskMode) (s : State) : Out := runTile (.tdiv c d a b m) (descTdiv d a b m) s

def descTrem (d a b : TReg) (m : MaskMode) : TileDesc := binT .mulfp tyIN opRem d a b m
def execTrem (c : Bool) (d a b : TReg) (m : MaskMode) (s : State) : Out := runTile (.trem c d a b m) (descTrem d a b m) s

def descTaddS (d a : TReg) (b : SReg) (m : MaskMode) : TileDesc := binS .alu tyINK opAdd d a b m
def execTaddS (c : Bool) (d a : TReg) (b : SReg) (m : MaskMode) (s : State) : Out := runTile (.taddS c d a b m) (descTaddS d a b m) s

def descTsubS (d a : TReg) (b : SReg) (m : MaskMode) : TileDesc := binS .alu tyINK opSub d a b m
def execTsubS (c : Bool) (d a : TReg) (b : SReg) (m : MaskMode) (s : State) : Out := runTile (.tsubS c d a b m) (descTsubS d a b m) s

def descTandS (d a : TReg) (b : SReg) (m : MaskMode) : TileDesc := binS .alu tyINK opAnd d a b m
def execTandS (c : Bool) (d a : TReg) (b : SReg) (m : MaskMode) (s : State) : Out := runTile (.tandS c d a b m) (descTandS d a b m) s

def descTorS (d a : TReg) (b : SReg) (m : MaskMode) : TileDesc := binS .alu tyINK opOr d a b m
def execTorS (c : Bool) (d a : TReg) (b : SReg) (m : MaskMode) (s : State) : Out := runTile (.torS c d a b m) (descTorS d a b m) s

def descTxorS (d a : TReg) (b : SReg) (m : MaskMode) : TileDesc := binS .alu tyINK opXor d a b m
def execTxorS (c : Bool) (d a : TReg) (b : SReg) (m : MaskMode) (s : State) : Out := runTile (.txorS c d a b m) (descTxorS d a b m) s

def descTandnS (d a : TReg) (b : SReg) (m : MaskMode) : TileDesc := binS .alu tyINK opAndn d a b m
def execTandnS (c : Bool) (d a : TReg) (b : SReg) (m : MaskMode) (s : State) : Out := runTile (.tandnS c d a b m) (descTandnS d a b m) s

def descTminS (d a : TReg) (b : SReg) (m : MaskMode) : TileDesc := binS .alu tyINK opMin d a b m
def execTminS (c : Bool) (d a : TReg) (b : SReg) (m : MaskMode) (s : State) : Out := runTile (.tminS c d a b m) (descTminS d a b m) s

def descTmaxS (d a : TReg) (b : SReg) (m : MaskMode) : TileDesc := binS .alu tyINK opMax d a b m
def execTmaxS (c : Bool) (d a : TReg) (b : SReg) (m : MaskMode) (s : State) : Out := runTile (.tmaxS c d a b m) (descTmaxS d a b m) s

def descTsllS (d a : TReg) (b : SReg) (m : MaskMode) : TileDesc := binS .alu tyINK opSll d a b m
def execTsllS (c : Bool) (d a : TReg) (b : SReg) (m : MaskMode) (s : State) : Out := runTile (.tsllS c d a b m) (descTsllS d a b m) s

def descTsrlS (d a : TReg) (b : SReg) (m : MaskMode) : TileDesc := binS .alu tyINK opSrl d a b m
def execTsrlS (c : Bool) (d a : TReg) (b : SReg) (m : MaskMode) (s : State) : Out := runTile (.tsrlS c d a b m) (descTsrlS d a b m) s

def descTsraS (d a : TReg) (b : SReg) (m : MaskMode) : TileDesc := binS .alu tyINK opSra d a b m
def execTsraS (c : Bool) (d a : TReg) (b : SReg) (m : MaskMode) (s : State) : Out := runTile (.tsraS c d a b m) (descTsraS d a b m) s

def descTmulS (d a : TReg) (b : SReg) (m : MaskMode) : TileDesc := binS .mulfp tyIN opMul d a b m
def execTmulS (c : Bool) (d a : TReg) (b : SReg) (m : MaskMode) (s : State) : Out := runTile (.tmulS c d a b m) (descTmulS d a b m) s

def descTmulhS (d a : TReg) (b : SReg) (m : MaskMode) : TileDesc := binS .mulfp tyIN opMulh d a b m
def execTmulhS (c : Bool) (d a : TReg) (b : SReg) (m : MaskMode) (s : State) : Out := runTile (.tmulhS c d a b m) (descTmulhS d a b m) s

def descTmulhsuS (d a : TReg) (b : SReg) (m : MaskMode) : TileDesc := binS .mulfp tyI opMulhsu d a b m
def execTmulhsuS (c : Bool) (d a : TReg) (b : SReg) (m : MaskMode) (s : State) : Out := runTile (.tmulhsuS c d a b m) (descTmulhsuS d a b m) s

def descTdivS (d a : TReg) (b : SReg) (m : MaskMode) : TileDesc := binS .mulfp tyIN opDiv d a b m
def execTdivS (c : Bool) (d a : TReg) (b : SReg) (m : MaskMode) (s : State) : Out := runTile (.tdivS c d a b m) (descTdivS d a b m) s

def descTremS (d a : TReg) (b : SReg) (m : MaskMode) : TileDesc := binS .mulfp tyIN opRem d a b m
def execTremS (c : Bool) (d a : TReg) (b : SReg) (m : MaskMode) (s : State) : Out := runTile (.tremS c d a b m) (descTremS d a b m) s

def descTrsubS (d a : TReg) (b : SReg) (m : MaskMode) : TileDesc := binS .alu tyINK opRsub d a b m
def execTrsubS (c : Bool) (d a : TReg) (b : SReg) (m : MaskMode) (s : State) : Out := runTile (.trsubS c d a b m) (descTrsubS d a b m) s

def descTaddI (d a : TReg) (i : BitVec 6) (m : MaskMode) : TileDesc := binI .alu tyINK opAdd (immS i) d a m
def execTaddI (c : Bool) (d a : TReg) (i : BitVec 6) (m : MaskMode) (s : State) : Out := runTile (.taddI c d a i m) (descTaddI d a i m) s

def descTandI (d a : TReg) (i : BitVec 6) (m : MaskMode) : TileDesc := binI .alu tyINK opAnd (immS i) d a m
def execTandI (c : Bool) (d a : TReg) (i : BitVec 6) (m : MaskMode) (s : State) : Out := runTile (.tandI c d a i m) (descTandI d a i m) s

def descTorI (d a : TReg) (i : BitVec 6) (m : MaskMode) : TileDesc := binI .alu tyINK opOr (immS i) d a m
def execTorI (c : Bool) (d a : TReg) (i : BitVec 6) (m : MaskMode) (s : State) : Out := runTile (.torI c d a i m) (descTorI d a i m) s

def descTxorI (d a : TReg) (i : BitVec 6) (m : MaskMode) : TileDesc := binI .alu tyINK opXor (immS i) d a m
def execTxorI (c : Bool) (d a : TReg) (i : BitVec 6) (m : MaskMode) (s : State) : Out := runTile (.txorI c d a i m) (descTxorI d a i m) s

def descTminI (d a : TReg) (i : BitVec 6) (m : MaskMode) : TileDesc := binI .alu tyINK opMin (immS i) d a m
def execTminI (c : Bool) (d a : TReg) (i : BitVec 6) (m : MaskMode) (s : State) : Out := runTile (.tminI c d a i m) (descTminI d a i m) s

def descTmaxI (d a : TReg) (i : BitVec 6) (m : MaskMode) : TileDesc := binI .alu tyINK opMax (immS i) d a m
def execTmaxI (c : Bool) (d a : TReg) (i : BitVec 6) (m : MaskMode) (s : State) : Out := runTile (.tmaxI c d a i m) (descTmaxI d a i m) s

def descTsllI (d a : TReg) (i : BitVec 6) (m : MaskMode) : TileDesc := binI .alu tyINK opSll (immU i) d a m
def execTsllI (c : Bool) (d a : TReg) (i : BitVec 6) (m : MaskMode) (s : State) : Out := runTile (.tsllI c d a i m) (descTsllI d a i m) s

def descTsrlI (d a : TReg) (i : BitVec 6) (m : MaskMode) : TileDesc := binI .alu tyINK opSrl (immU i) d a m
def execTsrlI (c : Bool) (d a : TReg) (i : BitVec 6) (m : MaskMode) (s : State) : Out := runTile (.tsrlI c d a i m) (descTsrlI d a i m) s

def descTsraI (d a : TReg) (i : BitVec 6) (m : MaskMode) : TileDesc := binI .alu tyINK opSra (immU i) d a m
def execTsraI (c : Bool) (d a : TReg) (i : BitVec 6) (m : MaskMode) (s : State) : Out := runTile (.tsraI c d a i m) (descTsraI d a i m) s

def descTrsubI (d a : TReg) (i : BitVec 6) (m : MaskMode) : TileDesc := binI .alu tyINK opRsub (immS i) d a m
def execTrsubI (c : Bool) (d a : TReg) (i : BitVec 6) (m : MaskMode) (s : State) : Out := runTile (.trsubI c d a i m) (descTrsubI d a i m) s

/-- `tsel` reads bit f of t0 as the selector (R144). -/
def descTsel (d a b : TReg) : TileDesc :=
  elemDesc .alu tyAny .unmasked [] (fun e => .group (e.view d)) (fun e => [.group (e.view a), .group (e.view b), .mask 0])
    (fun e _ t0 vs f => ⟨if t0.testBit f then e.at a (vs.getD 0 0) f else e.at b (vs.getD 1 0) f, 0⟩)
def execTsel (c : Bool) (d a b : TReg) (s : State) : Out := runTile (.tsel c d a b) (descTsel d a b) s

def descTselS (d a : TReg) (b : SReg) : TileDesc :=
  elemDesc .alu tyAny .unmasked [b] (fun e => .group (e.view d)) (fun e => [.group (e.view a), .mask 0])
    (fun e ws t0 vs f => ⟨if t0.testBit f then e.at a (vs.getD 0 0) f else e.cut ws, 0⟩)
def execTselS (c : Bool) (d a : TReg) (b : SReg) (s : State) : Out := runTile (.tselS c d a b) (descTselS d a b) s

def descTmov (d a : TReg) (m : MaskMode) : TileDesc := unT .alu tyAny (fun _ x => ⟨x, 0⟩) d a m
def execTmov (c : Bool) (d a : TReg) (m : MaskMode) (s : State) : Out := runTile (.tmov c d a m) (descTmov d a m) s

/-- `tiota` writes the logical index (R144). -/
def descTiota (d : TReg) (m : MaskMode) : TileDesc :=
  elemDesc .alu tyINK m [] (fun e => .group (e.view d)) (fun _ => []) (fun e _ _ _ f => plain e f)
def execTiota (c : Bool) (d : TReg) (m : MaskMode) (s : State) : Out := runTile (.tiota c d m) (descTiota d m) s

def descTsplat (d : TReg) (b : SReg) (m : MaskMode) : TileDesc :=
  elemDesc .alu tyAny m [b] (fun e => .group (e.view d)) (fun _ => []) (fun e ws _ _ _ => ⟨e.cut ws, 0⟩)
def execTsplat (c : Bool) (d : TReg) (b : SReg) (m : MaskMode) (s : State) : Out := runTile (.tsplat c d b m) (descTsplat d b m) s

def descTsplatI (d : TReg) (i : BitVec 6) (m : MaskMode) : TileDesc :=
  elemDesc .alu tyINK m [] (fun e => .group (e.view d)) (fun _ => []) (fun e _ _ _ _ => ⟨immS i e, 0⟩)
def execTsplatI (c : Bool) (d : TReg) (i : BitVec 6) (m : MaskMode) (s : State) : Out :=
  runTile (.tsplatI c d i m) (descTsplatI d i m) s

def descTfadd (d a b : TReg) (m : MaskMode) : TileDesc := binT .mulfp tyF opFadd d a b m
def execTfadd (c : Bool) (d a b : TReg) (m : MaskMode) (s : State) : Out := runTile (.tfadd c d a b m) (descTfadd d a b m) s

def descTfsub (d a b : TReg) (m : MaskMode) : TileDesc := binT .mulfp tyF opFsub d a b m
def execTfsub (c : Bool) (d a b : TReg) (m : MaskMode) (s : State) : Out := runTile (.tfsub c d a b m) (descTfsub d a b m) s

def descTfmul (d a b : TReg) (m : MaskMode) : TileDesc := binT .mulfp tyF opFmul d a b m
def execTfmul (c : Bool) (d a b : TReg) (m : MaskMode) (s : State) : Out := runTile (.tfmul c d a b m) (descTfmul d a b m) s

def descTfdiv (d a b : TReg) (m : MaskMode) : TileDesc := binT .mulfp tyF opFdiv d a b m
def execTfdiv (c : Bool) (d a b : TReg) (m : MaskMode) (s : State) : Out := runTile (.tfdiv c d a b m) (descTfdiv d a b m) s

def descTfmin (d a b : TReg) (m : MaskMode) : TileDesc := binT .mulfp tyF opFmin d a b m
def execTfmin (c : Bool) (d a b : TReg) (m : MaskMode) (s : State) : Out := runTile (.tfmin c d a b m) (descTfmin d a b m) s

def descTfmax (d a b : TReg) (m : MaskMode) : TileDesc := binT .mulfp tyF opFmax d a b m
def execTfmax (c : Bool) (d a b : TReg) (m : MaskMode) (s : State) : Out := runTile (.tfmax c d a b m) (descTfmax d a b m) s

def descTfsignc (d a b : TReg) (m : MaskMode) : TileDesc := binT .mulfp tyF opFsignc d a b m
def execTfsignc (c : Bool) (d a b : TReg) (m : MaskMode) (s : State) : Out := runTile (.tfsignc c d a b m) (descTfsignc d a b m) s

def descTfsignn (d a b : TReg) (m : MaskMode) : TileDesc := binT .mulfp tyF opFsignn d a b m
def execTfsignn (c : Bool) (d a b : TReg) (m : MaskMode) (s : State) : Out := runTile (.tfsignn c d a b m) (descTfsignn d a b m) s

def descTfsignx (d a b : TReg) (m : MaskMode) : TileDesc := binT .mulfp tyF opFsignx d a b m
def execTfsignx (c : Bool) (d a b : TReg) (m : MaskMode) (s : State) : Out := runTile (.tfsignx c d a b m) (descTfsignx d a b m) s

def descTfaddS (d a : TReg) (b : SReg) (m : MaskMode) : TileDesc := binS .mulfp tyF opFadd d a b m
def execTfaddS (c : Bool) (d a : TReg) (b : SReg) (m : MaskMode) (s : State) : Out := runTile (.tfaddS c d a b m) (descTfaddS d a b m) s

def descTfsubS (d a : TReg) (b : SReg) (m : MaskMode) : TileDesc := binS .mulfp tyF opFsub d a b m
def execTfsubS (c : Bool) (d a : TReg) (b : SReg) (m : MaskMode) (s : State) : Out := runTile (.tfsubS c d a b m) (descTfsubS d a b m) s

def descTfmulS (d a : TReg) (b : SReg) (m : MaskMode) : TileDesc := binS .mulfp tyF opFmul d a b m
def execTfmulS (c : Bool) (d a : TReg) (b : SReg) (m : MaskMode) (s : State) : Out := runTile (.tfmulS c d a b m) (descTfmulS d a b m) s

def descTfdivS (d a : TReg) (b : SReg) (m : MaskMode) : TileDesc := binS .mulfp tyF opFdiv d a b m
def execTfdivS (c : Bool) (d a : TReg) (b : SReg) (m : MaskMode) (s : State) : Out := runTile (.tfdivS c d a b m) (descTfdivS d a b m) s

def descTfminS (d a : TReg) (b : SReg) (m : MaskMode) : TileDesc := binS .mulfp tyF opFmin d a b m
def execTfminS (c : Bool) (d a : TReg) (b : SReg) (m : MaskMode) (s : State) : Out := runTile (.tfminS c d a b m) (descTfminS d a b m) s

def descTfmaxS (d a : TReg) (b : SReg) (m : MaskMode) : TileDesc := binS .mulfp tyF opFmax d a b m
def execTfmaxS (c : Bool) (d a : TReg) (b : SReg) (m : MaskMode) (s : State) : Out := runTile (.tfmaxS c d a b m) (descTfmaxS d a b m) s

def descTfsigncS (d a : TReg) (b : SReg) (m : MaskMode) : TileDesc := binS .mulfp tyF opFsignc d a b m
def execTfsigncS (c : Bool) (d a : TReg) (b : SReg) (m : MaskMode) (s : State) : Out := runTile (.tfsigncS c d a b m) (descTfsigncS d a b m) s

def descTfsignnS (d a : TReg) (b : SReg) (m : MaskMode) : TileDesc := binS .mulfp tyF opFsignn d a b m
def execTfsignnS (c : Bool) (d a : TReg) (b : SReg) (m : MaskMode) (s : State) : Out := runTile (.tfsignnS c d a b m) (descTfsignnS d a b m) s

def descTfsignxS (d a : TReg) (b : SReg) (m : MaskMode) : TileDesc := binS .mulfp tyF opFsignx d a b m
def execTfsignxS (c : Bool) (d a : TReg) (b : SReg) (m : MaskMode) (s : State) : Out := runTile (.tfsignxS c d a b m) (descTfsignxS d a b m) s

def descTfrsubS (d a : TReg) (b : SReg) (m : MaskMode) : TileDesc := binS .mulfp tyF opFrsub d a b m
def execTfrsubS (c : Bool) (d a : TReg) (b : SReg) (m : MaskMode) (s : State) : Out := runTile (.tfrsubS c d a b m) (descTfrsubS d a b m) s

def descTfrdivS (d a : TReg) (b : SReg) (m : MaskMode) : TileDesc := binS .mulfp tyF opFrdiv d a b m
def execTfrdivS (c : Bool) (d a : TReg) (b : SReg) (m : MaskMode) (s : State) : Out := runTile (.tfrdivS c d a b m) (descTfrdivS d a b m) s

def descTfsqrt (d a : TReg) (m : MaskMode) : TileDesc := unT .mulfp tyF (fun e x => fsqrt e.fmt e.frm x) d a m
def execTfsqrt (c : Bool) (d a : TReg) (m : MaskMode) (s : State) : Out := runTile (.tfsqrt c d a m) (descTfsqrt d a m) s

def descTfrsqe (d a : TReg) (m : MaskMode) : TileDesc := unT .mulfp tyF (fun e x => frsqe e.fmt x) d a m
def execTfrsqe (c : Bool) (d a : TReg) (m : MaskMode) (s : State) : Out := runTile (.tfrsqe c d a m) (descTfrsqe d a m) s

def descTfrece (d a : TReg) (m : MaskMode) : TileDesc := unT .mulfp tyF (fun e x => frece e.fmt x) d a m
def execTfrece (c : Bool) (d a : TReg) (m : MaskMode) (s : State) : Out := runTile (.tfrece c d a m) (descTfrece d a m) s

def descTfma (d a b : TReg) (m : MaskMode) : TileDesc := fmaT false false d a b m
def execTfma (c : Bool) (d a b : TReg) (m : MaskMode) (s : State) : Out := runTile (.tfma c d a b m) (descTfma d a b m) s

def descTfmaS (d a : TReg) (b : SReg) (m : MaskMode) : TileDesc := fmaS false false d a b m
def execTfmaS (c : Bool) (d a : TReg) (b : SReg) (m : MaskMode) (s : State) : Out := runTile (.tfmaS c d a b m) (descTfmaS d a b m) s

def descTfms (d a b : TReg) (m : MaskMode) : TileDesc := fmaT false true d a b m
def execTfms (c : Bool) (d a b : TReg) (m : MaskMode) (s : State) : Out := runTile (.tfms c d a b m) (descTfms d a b m) s

def descTfmsS (d a : TReg) (b : SReg) (m : MaskMode) : TileDesc := fmaS false true d a b m
def execTfmsS (c : Bool) (d a : TReg) (b : SReg) (m : MaskMode) (s : State) : Out := runTile (.tfmsS c d a b m) (descTfmsS d a b m) s

def descTfnma (d a b : TReg) (m : MaskMode) : TileDesc := fmaT true false d a b m
def execTfnma (c : Bool) (d a b : TReg) (m : MaskMode) (s : State) : Out := runTile (.tfnma c d a b m) (descTfnma d a b m) s

def descTfnmaS (d a : TReg) (b : SReg) (m : MaskMode) : TileDesc := fmaS true false d a b m
def execTfnmaS (c : Bool) (d a : TReg) (b : SReg) (m : MaskMode) (s : State) : Out := runTile (.tfnmaS c d a b m) (descTfnmaS d a b m) s

def descTfnms (d a b : TReg) (m : MaskMode) : TileDesc := fmaT true true d a b m
def execTfnms (c : Bool) (d a b : TReg) (m : MaskMode) (s : State) : Out := runTile (.tfnms c d a b m) (descTfnms d a b m) s

def descTfnmsS (d a : TReg) (b : SReg) (m : MaskMode) : TileDesc := fmaS true true d a b m
def execTfnmsS (c : Bool) (d a : TReg) (b : SReg) (m : MaskMode) (s : State) : Out := runTile (.tfnmsS c d a b m) (descTfnmsS d a b m) s

def descTceq (d a b : TReg) (m : MaskMode) : TileDesc := cmpT tyCmp .eq d a b m
def execTceq (c : Bool) (d a b : TReg) (m : MaskMode) (s : State) : Out := runTile (.tceq c d a b m) (descTceq d a b m) s

def descTceqS (d a : TReg) (b : SReg) (m : MaskMode) : TileDesc := cmpS tyCmp .eq d a b m
def execTceqS (c : Bool) (d a : TReg) (b : SReg) (m : MaskMode) (s : State) : Out := runTile (.tceqS c d a b m) (descTceqS d a b m) s

def descTcne (d a b : TReg) (m : MaskMode) : TileDesc := cmpT tyCmp .ne d a b m
def execTcne (c : Bool) (d a b : TReg) (m : MaskMode) (s : State) : Out := runTile (.tcne c d a b m) (descTcne d a b m) s

def descTcneS (d a : TReg) (b : SReg) (m : MaskMode) : TileDesc := cmpS tyCmp .ne d a b m
def execTcneS (c : Bool) (d a : TReg) (b : SReg) (m : MaskMode) (s : State) : Out := runTile (.tcneS c d a b m) (descTcneS d a b m) s

def descTclt (d a b : TReg) (m : MaskMode) : TileDesc := cmpT tyCmp .lt d a b m
def execTclt (c : Bool) (d a b : TReg) (m : MaskMode) (s : State) : Out := runTile (.tclt c d a b m) (descTclt d a b m) s

def descTcltS (d a : TReg) (b : SReg) (m : MaskMode) : TileDesc := cmpS tyCmp .lt d a b m
def execTcltS (c : Bool) (d a : TReg) (b : SReg) (m : MaskMode) (s : State) : Out := runTile (.tcltS c d a b m) (descTcltS d a b m) s

def descTcle (d a b : TReg) (m : MaskMode) : TileDesc := cmpT tyCmp .le d a b m
def execTcle (c : Bool) (d a b : TReg) (m : MaskMode) (s : State) : Out := runTile (.tcle c d a b m) (descTcle d a b m) s

def descTcleS (d a : TReg) (b : SReg) (m : MaskMode) : TileDesc := cmpS tyCmp .le d a b m
def execTcleS (c : Bool) (d a : TReg) (b : SReg) (m : MaskMode) (s : State) : Out := runTile (.tcleS c d a b m) (descTcleS d a b m) s

def descTcgt (d a b : TReg) (m : MaskMode) : TileDesc := cmpT tyCmp .gt d a b m
def execTcgt (c : Bool) (d a b : TReg) (m : MaskMode) (s : State) : Out := runTile (.tcgt c d a b m) (descTcgt d a b m) s

def descTcgtS (d a : TReg) (b : SReg) (m : MaskMode) : TileDesc := cmpS tyCmp .gt d a b m
def execTcgtS (c : Bool) (d a : TReg) (b : SReg) (m : MaskMode) (s : State) : Out := runTile (.tcgtS c d a b m) (descTcgtS d a b m) s

def descTcge (d a b : TReg) (m : MaskMode) : TileDesc := cmpT tyCmp .ge d a b m
def execTcge (c : Bool) (d a b : TReg) (m : MaskMode) (s : State) : Out := runTile (.tcge c d a b m) (descTcge d a b m) s

def descTcgeS (d a : TReg) (b : SReg) (m : MaskMode) : TileDesc := cmpS tyCmp .ge d a b m
def execTcgeS (c : Bool) (d a : TReg) (b : SReg) (m : MaskMode) (s : State) : Out := runTile (.tcgeS c d a b m) (descTcgeS d a b m) s

def descTcun (d a b : TReg) (m : MaskMode) : TileDesc := cmpT tyF .un d a b m
def execTcun (c : Bool) (d a b : TReg) (m : MaskMode) (s : State) : Out := runTile (.tcun c d a b m) (descTcun d a b m) s

def descTcunS (d a : TReg) (b : SReg) (m : MaskMode) : TileDesc := cmpS tyF .un d a b m
def execTcunS (c : Bool) (d a : TReg) (b : SReg) (m : MaskMode) (s : State) : Out := runTile (.tcunS c d a b m) (descTcunS d a b m) s

def descTsadd (d a b : TReg) (m : MaskMode) : TileDesc := binT .alu tyINK opSadd d a b m
def execTsadd (c : Bool) (d a b : TReg) (m : MaskMode) (s : State) : Out := runTile (.tsadd c d a b m) (descTsadd d a b m) s

def descTssub (d a b : TReg) (m : MaskMode) : TileDesc := binT .alu tyINK opSsub d a b m
def execTssub (c : Bool) (d a b : TReg) (m : MaskMode) (s : State) : Out := runTile (.tssub c d a b m) (descTssub d a b m) s

def descTavg (d a b : TReg) (m : MaskMode) : TileDesc := binT .alu tyINK opAvg d a b m
def execTavg (c : Bool) (d a b : TReg) (m : MaskMode) (s : State) : Out := runTile (.tavg c d a b m) (descTavg d a b m) s

def descTavgsub (d a b : TReg) (m : MaskMode) : TileDesc := binT .alu (fun e => tyINK e && e.ty.signed) opAvgsub d a b m
def execTavgsub (c : Bool) (d a b : TReg) (m : MaskMode) (s : State) : Out := runTile (.tavgsub c d a b m) (descTavgsub d a b m) s

def descTsmul (d a b : TReg) (m : MaskMode) : TileDesc := binT .mulfp tyI opSmul d a b m
def execTsmul (c : Bool) (d a b : TReg) (m : MaskMode) (s : State) : Out := runTile (.tsmul c d a b m) (descTsmul d a b m) s

def descTwadd (d a b : TReg) (m : MaskMode) : TileDesc := wideT .alu (fun x y => x + y) d a b m
def execTwadd (c : Bool) (d a b : TReg) (m : MaskMode) (s : State) : Out := runTile (.twadd c d a b m) (descTwadd d a b m) s

def descTwsub (d a b : TReg) (m : MaskMode) : TileDesc := wideT .alu (fun x y => x - y) d a b m
def execTwsub (c : Bool) (d a b : TReg) (m : MaskMode) (s : State) : Out := runTile (.twsub c d a b m) (descTwsub d a b m) s

def descTwmul (d a b : TReg) (m : MaskMode) : TileDesc := wideT .mulfp (fun x y => x * y) d a b m
def execTwmul (c : Bool) (d a b : TReg) (m : MaskMode) (s : State) : Out := runTile (.twmul c d a b m) (descTwmul d a b m) s

/-- `twmacc` reads its accumulator from td, a wide group (R160). -/
def descTwmacc (d a b : TReg) (m : MaskMode) : TileDesc :=
  elemDesc .mulfp tyWide m [] (fun e => .group (e.wide d))
    (fun e => [.group (e.view a), .group (e.view b), .group (e.wide d)])
    (fun e _ _ vs f =>
      ⟨wrap (2 * e.w) ((e.elem (e.wide d) (vs.getD 2 0) f : Int) +
        e.val (e.at a (vs.getD 0 0) f) * e.val (e.at b (vs.getD 1 0) f)), 0⟩)
def execTwmacc (c : Bool) (d a b : TReg) (m : MaskMode) (s : State) : Out := runTile (.twmacc c d a b m) (descTwmacc d a b m) s

/-- `tnshr` shifts, rounds and clamps to half the width (R161). -/
def descTnshr (d a b : TReg) (m : MaskMode) : TileDesc :=
  elemDesc .alu tyNarrow m [] (fun e => .group (e.narrow d)) (fun e => [.group (e.view a), .group (e.view b)])
    (fun e _ _ vs f =>
      sat e.ty.signed (e.w / 2) (xround (e.val (e.at a (vs.getD 0 0) f)) (e.at b (vs.getD 1 0) f % e.w) e.xrm))
def execTnshr (c : Bool) (d a b : TReg) (m : MaskMode) (s : State) : Out := runTile (.tnshr c d a b m) (descTnshr d a b m) s

/-! ### Sliced only (R163 to R165) -/

/-- `txnorpop` counts agreeing bits onto the accumulating element (R164). -/
def descTxnorpop (d a b : TReg) (m : MaskMode) : TileDesc :=
  elemDesc .alu (fun e => tyK e && !e.ty.signed) m [] (fun e => .group (e.view d))
    (fun e => [.group (e.view a), .group (e.view b), .group (e.view d)])
    (fun e _ _ vs f =>
      sat false e.w ((e.at d (vs.getD 2 0) f : Int) +
        popCount (ones e.w ^^^ (e.at a (vs.getD 0 0) f ^^^ e.at b (vs.getD 1 0) f)) e.w))
def execTxnorpop (c : Bool) (d a b : TReg) (m : MaskMode) (s : State) : Out :=
  runTile (.txnorpop c d a b m) (descTxnorpop d a b m) s

def descTpext (d a b : TReg) (m : MaskMode) : TileDesc := binT .alu tyK (fun e x y => ⟨getBits x (y % e.w) 1, 0⟩) d a b m
def execTpext (c : Bool) (d a b : TReg) (m : MaskMode) (s : State) : Out := runTile (.tpext c d a b m) (descTpext d a b m) s

def descTpins (d a b : TReg) (m : MaskMode) : TileDesc :=
  elemDesc .alu tyK m [] (fun e => .group (e.view d))
    (fun e => [.group (e.view a), .group (e.view b), .group (e.view d)])
    (fun e _ _ vs f => ⟨setBits (e.at d (vs.getD 2 0) f) (e.at b (vs.getD 1 0) f % e.w) 1 (e.at a (vs.getD 0 0) f), 0⟩)
def execTpins (c : Bool) (d a b : TReg) (m : MaskMode) (s : State) : Out := runTile (.tpins c d a b m) (descTpins d a b m) s

end Sys2Proof.Machine
end

