-- ==== Sys2Proof/Machine/Fold.lean ====
section
/-! DEFINITION. Members that run element group by element group in ascending order and keep a marker between groups
(spec/01_engines_and_their_ties.md R15; spec/07_conversions_reductions_permutes.md R189): scale derivation, reductions,
scans, packing permutes and mask searches. -/

set_option Elab.async false

namespace Sys2Proof.Machine

/-- Destination value, marker and flags raised at once. -/
structure FoldAcc where
  x : Nat
  mark : Marker
  flags : Flags
  deriving DecidableEq, Repr

/-- What a member leaves at its end: its destination value, flags, and a scalar result. -/
structure FoldEnd where
  x : Nat
  flags : Flags
  sd : Option (SReg × Word)
  deriving DecidableEq, Repr

/-- A grouped instruction. The functions see the shape, the source groups, and the selection. -/
structure Fold where
  mode : MaskMode
  dst : Env → Option Opnd
  srcs : Env → List Opnd
  /-- the marker before group 0 -/
  init : Env → List Nat → Marker
  /-- group `g` whose elements are `fs` -/
  step : Env → List Nat → (Nat → Bool) → (g : Nat) → (fs : List Nat) → FoldAcc → FoldAcc
  /-- after the last group -/
  last : Env → List Nat → (Nat → Bool) → Marker → Nat → FoldEnd
  /-- `FLIM` = 0 (R137, R179, R188) -/
  zero : Env → List Nat → Nat → FoldEnd
  /-- does the member read the carry with `FLIM` = 0 (R179)? -/
  zeroReads : Bool := true
  /-- what the elements `fs` of group `g` leave when the element behind them stops the member (R251): of an instruction that
  takes a group as a whole, destination value and flags alone, the group being gathered anew on resumption; `none` where the
  group goes on element by element -/
  part : Option (Env → List Nat → (Nat → Bool) → (g : Nat) → (fs : List Nat) → FoldAcc → Nat × Flags) := none
  /-- elements of the destination are written by their own groups, and R91 applies to them -/
  fills : Bool := false
  /-- how the destination is reached: as a whole when it is written out of place or at the end -/
  out : Reach := .whole
  /-- the destination bits that the groups below the marker have written, where a source sees them in another layout -/
  wrote : Env → (Nat → Bool) → (groups : Nat) → List Nat := fun _ _ _ => []
  outs : List SReg := []
  every : Bool := false

def Marker.start : Marker := ⟨0, ⟨none, 0⟩, Sel.empty, 0⟩

/-- The first element of a group that stops the member (R12, R138). -/
def groupStop (e : Env) (p : Player) (mode : MaskMode) (ws : List Word) (t0 : Nat) (vals : List Nat) (srcs : List Opnd) :
    List Nat → Option Stop
  | [] => none
  | f :: rest =>
    if isOpen e p mode t0 0 f then
      match stopAt e p mode ws t0 vals srcs f with
      | some st => some st
      | none => groupStop e p mode ws t0 vals srcs rest
    else groupStop e p mode ws t0 vals srcs rest

/-- The element a stop names. -/
def Stop.elem : Stop → Nat
  | .partner f => f
  | .tile f _ _ => f

/-- The elements of group `g` that a grouped member still takes: those not in DONE, or all of a group taken as a whole. -/
def Fold.todo (F : Fold) (e : Env) (dn g : Nat) : List Nat :=
  if F.part.isSome then e.span g else (e.span g).filter (fun f => !dn.testBit f)

/-- The DONE bits of the selected ones among these elements. -/
def doneBits (act : Nat → Bool) (fs : List Nat) : Nat := (fs.filter act).foldl (fun m f => m ||| 2 ^ f) 0

/-- The elements of a group below the one that stops the member perform (R251). -/
def Fold.stopped (F : Fold) (e : Env) (vals : List Nat) (act : Nat → Bool) (g : Nat) (fs : List Nat) (a : FoldAcc) : FoldAcc :=
  match F.part with
  | none => F.step e vals act g fs a
  | some part =>
    let r := part e vals act g fs a
    { a with x := r.1, flags := a.flags ||| r.2 }

/-- The carry is read before the first group, whatever element 0 is; an uncorrectable bit of it is reported as element 0,
the model's choice (R175, R255; notes/assumptions/83.md). -/
def carryStop (e : Env) (p : Player) (srcs : List Opnd) : Option Stop :=
  (badBit e p [] 0 [] (srcs.filter (fun o => match o with
    | .first _ => true
    | _ => false)) 0).map (fun b => .tile 0 b.1 b.2)

/-- Runs up to `n` groups from the marker, as long as they are ready. -/
def foldGroups (F : Fold) (e : Env) (p : Player) (ws : List Word) (t0 : Nat) (vals : List Nat) (ready : Nat → Bool) :
    Nat → FoldAcc → Nat → FoldAcc × Nat × Option Stop
  | 0, a, dn => (a, dn, none)
  | n + 1, a, dn =>
    let g := a.mark.next / 64
    if e.flim ≤ a.mark.next || !ready g then (a, dn, none)
    else
      let act := selected F.mode t0
      let fs := F.todo e dn g
      match groupStop e p F.mode ws t0 vals (F.srcs e) fs with
      | some st =>
        let below := fs.filter (fun f => f < st.elem)
        (F.stopped e vals act g below a, dn ||| doneBits act below, some st)
      | none =>
        let b := F.step e vals act g fs a
        foldGroups F e p ws t0 vals ready n { b with mark := { b.mark with next := a.mark.next + 64 } } (dn ||| doneBits act fs)

/-- Writes what the member leaves and completes it. -/
def State.foldEnd (s : State) (k : Nat) (e : Env) (d : Option Opnd) (r : FoldEnd) : State :=
  let t := match d with
    | some o => { s with me := { s.me with tregs := e.write s.me.tregs o.view r.x } }
    | none => s
  let u := t.raise r.flags
  let w := match r.sd with
    | some x => u.wr x.1 x.2
    | none => u
  w.finishMember k

/-- A source as the member reads it: what its own groups wrote over it is not seen (R134). -/
def Fold.source (F : Fold) (m : Member) (e : Env) (p : Player) (o : Opnd) : Nat :=
  let x := e.read p.tregs o.view
  let next := (m.marker.getD Marker.start).next
  match m.under, F.dst e with
  | some y, some d =>
    if twoLayouts d o then
      mixBits x y ((F.wrote e (selected F.mode (m.t0 p)) (next / 64)).foldl (fun z b => setBits z b 1 1) 0)
    else if F.part.isSome && decide (d.view.reg = o.view.reg) then
      mixBits x y (((List.range e.flim).filter (fun f => decide (next ≤ f) && m.done.testBit f)).foldl
        (fun z f => (d.bits e [] 0 [] f).foldl (fun w b => setBits w b 1 1) z) 0)
    else x
  | _, _ => x

/-- The destination's value to keep while the member runs: where a source sees its registers in another layout, or where a
group taken as a whole has begun to write over its own source. -/
def Fold.keeps (F : Fold) (m : Member) (e : Env) (p : Player) (d : Opnd) (x0 : Nat) (stopped : Bool) : Option Nat :=
  match (F.srcs e).find? (fun o => F.part.isSome && F.fills && decide (d.view.reg = o.view.reg) && !twoLayouts d o) with
  | some o => if stopped then some (F.source m e p o) else none
  | none => m.keeps d (F.srcs e) x0

/-- Runs member `k` for up to `n` groups; `only` restricts a single step to the group of one element. -/
def runFold (F : Fold) (k : Nat) (only : Option Nat) (ready : Nat → Bool) (s : State) : Out :=
  match s.member? k with
  | none => .next s
  | some (cv, m) =>
    let p := s.me
    let e := cv.env p
    let d := F.dst e
    let ds := F.srcs e
    let vals := ds.map (F.source m e p)
    let x0 := match d with
      | some o => e.read p.tregs o.view
      | none => 0
    match if m.marker.isNone && (decide (e.flim ≠ 0) || F.zeroReads) then carryStop e p ds else none with
    | some st => trapStop k m.addr st s
    | none =>
      if e.flim = 0 then .next (s.foldEnd k e d (F.zero e vals x0))
      else
        let t0 := m.t0 p
        let mk := m.marker.getD (F.init e vals)
        let skip : Bool := match only with
          | some f => decide (f / 64 * 64 ≠ mk.next)
          | none => false
        if skip then .next s
        else
          let n := match only with
            | some _ => 1
            | none => e.groups
          let r := foldGroups F e p m.scal t0 vals ready n ⟨x0, mk, 0⟩ m.done
          let gs := ones (min e.groups (r.1.mark.next / 64))
          let x1 := match d with
            | some o => if F.fills then o.fillGroups e F.mode t0 m.groups gs r.1.x else r.1.x
            | none => r.1.x
          let whole : Bool := decide (e.flim ≤ r.1.mark.next)
          let x2 := match d with
            | some o => if F.fills && whole && e.ta then o.fillTail e x1 else x1
            | none => x1
          let soft := p.tsoft.filter (fun b => (List.range e.flim).any (fun f =>
            r.2.1.testBit f && !m.done.testBit f && readsBit e m.scal t0 vals (ds ++ maskOperand F.mode) f b))
          let t := (({ s with me := { p with
              tregs := (match d with
                | some o => e.write p.tregs o.view x2
                | none => p.tregs)
              flags := p.flags ||| r.1.flags } }).setMember k (fun (n : Member) =>
                { n with
                  done := r.2.1, groups := gs, mask := some t0, marker := some r.1.mark
                  under := match d with
                    | some o => F.keeps m e p o x0 r.2.2.isSome
                    | none => none })).correctTile soft
          match r.2.2 with
          | some st => trapStop k m.addr st t
          | none => .next (if whole then t.foldEnd k e d (F.last e vals (selected F.mode t0) r.1.mark x2) else t)

/-- What element `f` of member `k` would meet: what stops its group. -/
def lookFold (F : Fold) (k f : Nat) (s : State) : Look :=
  match s.member? k with
  | none => Look.clear
  | some (cv, m) =>
    let e := cv.env s.me
    let ds := F.srcs e
    ⟨(if m.marker.isNone && (decide (e.flim ≠ 0) || F.zeroReads) then carryStop e s.me ds else none).isSome ||
      (groupStop e s.me F.mode m.scal (m.t0 s.me) (ds.map (F.source m e s.me)) ds (F.todo e m.done (f / 64))).isSome, []⟩

/-- A grouped instruction as a member. -/
def foldDesc (cls : TileClass) (types : Env → Bool) (F : Fold) : TileDesc where
  cls := cls
  priv := false
  mode := F.mode
  typeOk := types
  dsts := fun e => match F.dst e with
    | some o => [o.group?]
    | none => []
  srcs := fun e => (F.srcs e).map Opnd.group?
  regs := []
  pips := []
  matrix := false
  noDet := fun _ => false
  post := fun _ => true
  acc := fun e => (match F.dst e with
    | some o => [{ o.access true with reach := F.out }]
    | none => []) ++ (F.srcs e).map (Opnd.access false)
  every := F.every
  outs := F.outs
  kind := .run (fun k => runFold F k none (fun _ => true)) (fun ready k f => runFold F k (some f) ready) (lookFold F)

/-- The end of a member that writes no more. -/
def FoldEnd.keep (x : Nat) : FoldEnd := ⟨x, 0, none⟩

end Sys2Proof.Machine
end

