-- ==== Sys2Proof/Machine/Convert.lean ====
section
/-! DEFINITION. Conversions and block scales of major 0x2C (spec/07_conversions_reductions_permutes.md R169 to R173). -/

set_option Elab.async false

namespace Sys2Proof.Machine

/-! ### Types (R170) -/

/-- The type a dt field names. -/
def dtOf (t : TypeCode) : ElemTy := (ElemTy.ofCode t.val).getD .e8m0

/-- Is dt a destination: a code of R85, neither sliced nor `e8m0`? -/
def dtOk (t : TypeCode) : Bool :=
  match ElemTy.ofCode t.val with
  | some (.int _ _) => true
  | some (.flt _) => true
  | _ => false

/-- A source that is neither sliced nor `e8m0`. -/
def cvtSrc (e : Env) : Bool := e.ty.inIN || e.ty.isFloat

/-- `tcvtw` from `e8m0` reaches `fp16` and `bf16` only. -/
def widenOk (e : Env) (t : TypeCode) : Bool :=
  dtOk t && decide ((dtOf t).width = 2 * e.w) &&
    (cvtSrc e || (e.ty == .e8m0 && (dtOf t == .flt .fp16 || dtOf t == .flt .bf16)))

/-- The pairs of `tcvtns`. -/
def scaledPair (src dst : ElemTy) : Bool :=
  match src, dst with
  | .flt .fp64, .flt .fp32 => true
  | .flt .fp32, .flt .fp16 => true
  | .flt .fp32, .flt .bf16 => true
  | .flt .fp16, .flt .e4m3 => true
  | .flt .fp16, .flt .e5m2 => true
  | .flt .bf16, .flt .e4m3 => true
  | .flt .bf16, .flt .e5m2 => true
  | _, _ => false

/-! ### Plain conversions (R171) -/

/-- The group of a destination type. -/
def dtView (r : TReg) (regs : Nat) (t : ElemTy) : View := ⟨r.val, regs, t.width, false⟩

def cvtDesc (types : Env → Bool) (regs : Env → Nat) (dt : Env → ElemTy) (d a : TReg) (m : MaskMode) : TileDesc :=
  elemDesc .mulfp types m [] (fun e => .group (dtView d (regs e) (dt e))) (fun e => [.group (e.view a)])
    (fun e _ _ vs f => convert (dt e) e.ty e.frm (e.at a (vs.getD 0 0) f))

def descTcvt (d a : TReg) (t : TypeCode) (m : MaskMode) : TileDesc :=
  cvtDesc (fun e => cvtSrc e && dtOk t && decide ((dtOf t).width = e.w)) (fun e => e.g) (fun _ => dtOf t) d a m
def execTcvt (c : Bool) (d a : TReg) (t : TypeCode) (m : MaskMode) (s : State) : Out :=
  runTile (.tcvt c d a t m) (descTcvt d a t m) s

def descTcvtn (d a : TReg) (t : TypeCode) (m : MaskMode) : TileDesc :=
  cvtDesc (fun e => cvtSrc e && dtOk t && decide (2 * (dtOf t).width = e.w)) (fun e => e.g / 2) (fun _ => dtOf t) d a m
def execTcvtn (c : Bool) (d a : TReg) (t : TypeCode) (m : MaskMode) (s : State) : Out :=
  runTile (.tcvtn c d a t m) (descTcvtn d a t m) s

def descTcvtw (d a : TReg) (t : TypeCode) (m : MaskMode) : TileDesc :=
  cvtDesc (fun e => widenOk e t) (fun e => 2 * e.g) (fun _ => dtOf t) d a m
def execTcvtw (c : Bool) (d a : TReg) (t : TypeCode) (m : MaskMode) (s : State) : Out :=
  runTile (.tcvtw c d a t m) (descTcvtw d a t m) s

/-- FN 0x03 and 0x06 take `fp32` with G = 8. -/
def tyFused (e : Env) : Bool := e.ty == .flt .fp32 && decide (e.g = 8)

def descTcvte (d a : TReg) (m : MaskMode) : TileDesc :=
  cvtDesc tyFused (fun e => e.g / 8) (fun _ => .flt .e2m1) d a m
def execTcvte (c : Bool) (d a : TReg) (m : MaskMode) (s : State) : Out := runTile (.tcvte c d a m) (descTcvte d a m) s

/-! ### Scaled conversions (R171, R172) -/

/-- The scale code of element `f` in a value of t1. -/
def scaleCode (t1 f : Nat) : Nat := getBits t1 (8 * (f / 32)) 8

/-- `a` times 2^k rounded once, or what code 0xFF gives. -/
def scaled (dst : FFmt) (e : Env) (code : Nat) (k : Int) (a : Nat) : Res :=
  if code = 0xFF then ⟨qnan dst, flagNV⟩ else scaleConvert dst e.frm (elemVal e.ty a) k

def scaledDesc (types : Env → Bool) (regs : Env → Nat) (dst : Env → FName) (power : Nat → Int) (d a : TReg) (m : MaskMode) :
    TileDesc :=
  elemDesc .mulfp types m [] (fun e => .group (dtView d (regs e) (.flt (dst e))))
    (fun e => [.group (e.view a), .scale 0])
    (fun e _ _ vs f =>
      let s := scaleCode (vs.getD 1 0) f
      scaled (dst e).fmt e s (power s) (e.at a (vs.getD 0 0) f))

/-- The floating type of the shape. -/
def Env.fname (e : Env) : FName :=
  match e.ty with
  | .flt n => n
  | _ => .fp32

/-- The float a dt field names. -/
def fnameOf (t : TypeCode) : FName :=
  match dtOf t with
  | .flt n => n
  | _ => .fp32

def descTscale (d a : TReg) (m : MaskMode) : TileDesc :=
  scaledDesc tyF (fun e => e.g) Env.fname (fun s => (s : Int) - 127) d a m
def execTscale (c : Bool) (d a : TReg) (m : MaskMode) (s : State) : Out := runTile (.tscale c d a m) (descTscale d a m) s

def descTcvtns (d a : TReg) (t : TypeCode) (m : MaskMode) : TileDesc :=
  scaledDesc (fun e => tyF e && scaledPair e.ty (dtOf t)) (fun e => e.g / 2) (fun _ => fnameOf t) (fun s => 127 - (s : Int)) d a m
def execTcvtns (c : Bool) (d a : TReg) (t : TypeCode) (m : MaskMode) (s : State) : Out :=
  runTile (.tcvtns c d a t m) (descTcvtns d a t m) s

def descTcvtes (d a : TReg) (m : MaskMode) : TileDesc :=
  scaledDesc tyFused (fun e => e.g / 8) (fun _ => .e2m1) (fun s => 127 - (s : Int)) d a m
def execTcvtes (c : Bool) (d a : TReg) (m : MaskMode) (s : State) : Out := runTile (.tcvtes c d a m) (descTcvtes d a m) s

/-! ### Block scales (R173) -/

/-- The exponent of the largest finite value. -/
def emaxOf (t : ElemTy) : Int :=
  match t with
  | .flt .e4m3 => 8
  | .flt .e5m2 => 15
  | _ => 2

/-- ⌊log2 |v|⌋ of a finite non-zero value. -/
def FVal.log2? : FVal → Option Int
  | .fin _ m e => some (e + Nat.log2 m)
  | _ => none

/-- The code of a block from its active elements. -/
def blockCode (dt : ElemTy) (vs : List FVal) : Nat :=
  if vs.any (fun v => v.isNan || v.isInf) then 0xFF
  else
    match (vs.filterMap FVal.log2?).max? with
    | none => 0
    | some l => (min 254 (max 0 (l - emaxOf dt + 127))).toNat

/-- `tmxscale` and `tmxscale.b`: bytes of one register from byte `off`. -/
def mxscaleFold (off : Env → Nat) (t : TypeCode) (d a : TReg) (m : MaskMode) : Fold where
  mode := m
  dst := fun _ => some (.mask d.val)
  srcs := fun e => [.group (e.view a)]
  init := fun _ _ => Marker.start
  step := fun e vs act g fs acc =>
    [2 * g, 2 * g + 1].foldl (fun (r : FoldAcc) k =>
      let xs := (fs.filter (fun f => decide (f / 32 = k) && act f)).map (fun f => elemVal e.ty (e.at a (vs.getD 0 0) f))
      if xs.isEmpty then r
      else { r with
        x := setBits r.x (8 * (off e + k)) 8 (blockCode (dtOf t) xs)
        flags := r.flags ||| snanFlag xs }) acc
  last := fun _ _ _ _ x => FoldEnd.keep x
  zero := fun _ _ x => FoldEnd.keep x
  part := some (fun _ _ _ _ _ acc => (acc.x, 0))
  wrote := fun e act n =>
    ((List.range (2 * n)).filter (fun k => (List.range 32).any (fun i => decide (32 * k + i < e.flim) && act (32 * k + i)))).flatMap
      (fun k => (List.range 8).map (fun i => 8 * (off e + k) + i))

def tyMx (t : TypeCode) (e : Env) : Bool :=
  tyF e && (dtOf t == .flt .e4m3 || dtOf t == .flt .e5m2 || dtOf t == .flt .e2m1)

/-- A derivation of scales: those of `tmxscale` are the bytes a scaled form reads, block by block (R172). -/
def mxscaleDesc (reach : Reach) (off : Env → Nat) (t : TypeCode) (d a : TReg) (m : MaskMode) : TileDesc :=
  { foldDesc .mulfp (tyMx t) (mxscaleFold off t d a m) with
    acc := fun e => [⟨⟨d.val, 1, 8, false⟩, true, reach⟩, Opnd.access false (.group (e.view a))] }

def descTmxscale (d a : TReg) (t : TypeCode) (m : MaskMode) : TileDesc :=
  mxscaleDesc .block (fun _ => 0) t d a m
def execTmxscale (c : Bool) (d a : TReg) (t : TypeCode) (m : MaskMode) (s : State) : Out :=
  runTile (.tmxscale c d a t m) (descTmxscale d a t m) s

def descTmxscaleB (d a : TReg) (t : TypeCode) (m : MaskMode) : TileDesc :=
  mxscaleDesc .whole (fun e => 128 * e.lanes) t d a m
def execTmxscaleB (c : Bool) (d a : TReg) (t : TypeCode) (m : MaskMode) (s : State) : Out :=
  runTile (.tmxscaleB c d a t m) (descTmxscaleB d a t m) s

end Sys2Proof.Machine
end

