-- ==== Sys2Proof/Machine/Query.lean ====
section
/-! DEFINITION. Queries and query-memory writes of majors 0x37 to 0x3A (spec/17_query_instructions.md R329 to R349;
spec/19_query_ordering_and_faults.md R370 to R376): acceptance, the query queue, touches, replies, element writes. -/

set_option Elab.async false

namespace Sys2Proof.Machine

/-! ### Captured parameters (R332, R333) -/

def Query.env (q : Query) : Env := Env.of q.lanes q.tty q.vl q.flim q.frm 0

/-- `QLEN.N` -/
def Query.n (q : Query) : Nat := q.qlen.toNat % 2 ^ 48
/-- `QLEN.W` -/
def Query.wide (q : Query) : Bool := q.qlen.getLsbD 48
/-- `QK.K`, `QK.DIR`, `QK.RF` -/
def Query.k (q : Query) : Nat := q.qk.toNat % 2 ^ 32
def Query.smallest (q : Query) : Bool := q.qk.getLsbD 32
def Query.filters (q : Query) : Bool := q.qk.getLsbD 33

/-- The widened reply type (R336). -/
def widenTy : ElemTy → Option ElemTy
  | .flt .fp16 => some (.flt .fp32)
  | .flt .bf16 => some (.flt .fp32)
  | .flt .fp32 => some (.flt .fp64)
  | .int s 8 => some (.int s 32)
  | .int s 16 => some (.int s 32)
  | .int s 32 => some (.int s 64)
  | _ => none

/-- Does `QLEN.W` widen this operation's reply, and is it forbidden on it (R335 check 3)? -/
def QOp.widens : QOp → Bool
  | .dot => true
  | .dotm => true
  | .dotx => true
  | .gsum => true
  | .sum => true
  | .count => true
  | _ => false

def QOp.noWide : QOp → Bool
  | .max => true
  | .min => true
  | .best => true
  | .narrow => true
  | _ => false

/-- The reply type. -/
def Query.rty (q : Query) : ElemTy :=
  if q.wide && q.op.widens then (widenTy q.env.ty).getD q.env.ty else q.env.ty

/-- Registers of the reply group: ω·G (R336). -/
def Query.rregs (q : Query) : Nat := q.env.g * (q.rty.width / q.env.w)

/-- Registers of an index or offset group (R330). -/
def Env.ig (e : Env) : Nat := max 1 (64 * e.g / e.w)

/-- Does the operation reply with an index group first? -/
def QOp.indexed : QOp → Bool
  | .max => true
  | .min => true
  | .best => true
  | .hamm => true
  | .code => true
  | _ => false

/-- First register of the value group. -/
def Query.valueReg (q : Query) : Nat := if q.op.indexed then q.tv + q.env.ig else q.tv

def Query.rview (q : Query) : View := ⟨q.valueReg, q.rregs, q.rty.width, false⟩

/-- Reply positions, or elements of a write. -/
def Query.count (q : Query) : Nat :=
  match q.op with
  | .best => min q.k q.flim
  | .hamm => min q.k q.flim
  | .code => min q.k q.flim
  | .append => if q.flim = 0 then 0 else q.n
  | .eval => q.n
  | .copy => ceilDivNat q.n 65536
  | .merge => 1
  | _ => q.flim
where
  /-- division rounded up -/
  ceilDivNat (a b : Nat) : Nat := (a + b - 1) / b

/-- Chunks the pip tile reports (R343, R347, R361, R368). -/
def Query.nchunks (q : Query) : Nat :=
  match q.op with
  | .append => if q.count = 0 then 0 else 1
  | .copy => q.count
  | .merge => 1
  | _ => (q.count + 63) / 64

/-- The stored element's type: st for `qnarrow`, whose code stands in the tq field. -/
def Query.sty (q : Query) : ElemTy :=
  match q.op with
  | .narrow => (ElemTy.ofCode q.tq).getD .e8m0
  | _ => q.env.ty

/-- Stored element size in bytes. -/
def Query.ew (q : Query) : Nat := max 1 (q.sty.width / 8)

/-- Element `k` of the captured data, vector or weights (R168). -/
def Query.vecAt (q : Query) (k : Nat) : Nat := q.env.posGet ⟨0, q.env.g, q.env.w, false⟩ q.vec k
def Query.expAt (q : Query) (k : Nat) : Nat := q.env.posGet ⟨0, q.env.g, q.env.w, false⟩ q.exp k
/-- Index or offset `k` (R330). -/
def Query.idxAt (q : Query) (k : Nat) : Nat := flatElem q.idx 64 k

/-! ### Addresses (R337, R340, R341, R345) -/

def Query.row (q : Query) (i : Nat) : Word := q.sa + word i * q.qstride

/-- Does the write use an offset group? -/
def Query.offsets (q : Query) : Bool :=
  match q.op with
  | .stx => true
  | .cas => true
  | .st => false
  | _ => decide (q.tq ≠ 0)

/-- The element that position `f` of a write or of `qnarrow` names. -/
def Query.elemVa (q : Query) (f : Nat) : Word :=
  match q.op with
  | .narrow => q.row (q.env.rowOf f) + word (q.env.colOf f * q.ew)
  | _ => if q.offsets then q.sa + word (q.idxAt f) else q.sa + word (f * q.ew)

/-- The addresses that reply position `f` reads, in order. -/
def Query.reads (q : Query) (f : Nat) : List Word :=
  let step := fun (a : Word) => (List.range q.n).map (fun k => a + word (k * q.ew))
  match q.op with
  | .dot => step (q.row f)
  | .sum => step (q.row f)
  | .count => step (q.row f)
  | .max => step (q.row f)
  | .min => step (q.row f)
  | .dotx => step (q.row (q.idxAt f))
  | .dotm => (List.range q.n).map (fun i => q.row i + word (f * q.ew))
  | .gsum => (List.range q.n).map (fun i => q.row (q.idxAt i) + word (f * q.ew))
  | .best => step q.sa
  | .narrow => [q.elemVa f]
  | _ => []

/-! ### Regions of an item, and every item -/

/-- The region at an address of an address space. -/
def State.regionAt (s : State) (asid : Nat) (va : Word) : Option Region :=
  if !canonicalVa va then none
  else
    match s.vm.leaf asid (vaIndex va) with
    | none => none
    | some l => if l.space = .qm then s.qm.region? (getBits l.frame 20 16) else none

/-- The address of a region's byte 0, seen from an address in the region. -/
def State.regionBase (s : State) (asid : Nat) (va : Word) : Word :=
  match s.vm.leaf asid (vaIndex va) with
  | none => va
  | some l => va - word (l.regionOff va)

def Held.query? : Held → Option Query
  | .query q => some q
  | .xfer _ => none

/-- The items that a player's fault records hold (R374). -/
def Player.heldQueries (p : Player) : List Query := p.afq.filterMap (fun r => r.held.bind Held.query?)

/-- Every query-engine item not yet performed or discarded: in the engine, in a fault record, resumed, or in a saved image
(R359, R374, R376). -/
def State.allQueries (s : State) : List Query :=
  s.eng.queries ++ (s.players.map Player.heldQueries).flatten ++ s.eng.resumed.filterMap (fun r => r.2.query?) ++
    (s.cp.images.map (fun m => m.queries ++ m.player.heldQueries)).flatten

/-- Those of one player. -/
def State.itemsOf (s : State) (owner : Nat) : List Query := s.allQueries.filter (fun q => q.owner = owner)

/-! ### The bound (R334) -/

def Query.touched? (q : Query) : Nat :=
  match q.op with
  | .best => q.n * q.ew
  | .narrow => q.flim * q.ew
  | .cas => 64 * q.flim
  | _ => q.flim * q.n * q.ew

def Query.replySize (q : Query) : Nat :=
  match q.op with
  | .best => q.count * (8 + q.ew)
  | .max => q.flim * (8 + q.ew)
  | .min => q.flim * (8 + q.ew)
  | .narrow => (q.flim * q.env.w + 7) / 8
  | .cas => (q.flim + 7) / 8
  | _ => q.flim * (q.rty.width / 8)

/-- Has the operation a reply bound? -/
def QOp.bounded : QOp → Bool
  | .cas => true
  | o => !o.isWrite

/-! ### Checks before acceptance (R335) -/

/-- A failure: cause, `EIDX`, and `ETVAL` where the manual states it. -/
structure QTrap where
  cause : Cause
  eidx : Nat
  etval : Option Nat
  deriving DecidableEq, Repr

/-- Instructions whose rows are stepped by `QSTRIDE`. -/
def QOp.strided : QOp → Bool
  | .dot => true
  | .dotm => true
  | .dotx => true
  | .gsum => true
  | .sum => true
  | .count => true
  | .max => true
  | .min => true
  | .narrow => true
  | _ => false

/-- Elements a group holds. -/
def Env.cap (e : Env) : Nat := e.rc * e.vlmax

/-- Check 3 of R335. -/
def Query.tooBig (q : Query) : Bool :=
  let e := q.env
  let vecs : Bool := match q.op with
    | .dot => true
    | .dotm => true
    | .dotx => true
    | .gsum => true
    | _ => false
  let cols : Bool := match q.op with
    | .sum => true
    | .count => true
    | .max => true
    | .min => true
    | _ => false
  (vecs && decide (e.cap < q.n)) || (cols && decide (2048 * q.lanes < q.n)) ||
    (!q.op.isWrite && decide (e.rc * (q.rregs * 2048 * q.lanes / (q.rty.width * e.rc)) < q.count)) ||
    (q.wide && ((q.op.widens && (widenTy e.ty).isNone) || q.op.noWide))

/-- The group of a widened reply: its size, its alignment, its overlaps, `ALLOT` and the grant (R39, R40, R268, R336). -/
def Query.wideTrap (q : Query) (p : Player) (srcs : List (Nat × Nat)) : Option Cause :=
  if !(q.wide && q.op.widens) then none
  else
    let d := (q.tv, q.rregs)
    if !groupOk d || !srcs.all (overlapOk d) then some .illegalType
    else if p.shape.allot < d.1 + d.2 then some .registerAllotment
    else if p.grant.meets d then some .matrixGrant
    else none

def Query.offsetTrap (q : Query) : Option Nat :=
  if q.offsets && (q.op.isWrite) then (List.range q.flim).find? (fun f => q.idxAt f % q.ew ≠ 0) else none

/-- Checks 1 to 4. `srcs` are the source groups of the word, pip tile included. -/
def Query.check (q : Query) (p : Player) (srcs : List (Nat × Nat)) (addr : Word) : Option QTrap :=
  if q.sa.toNat % q.ew ≠ 0 || (q.op.strided && decide (q.qstride.toNat % q.ew ≠ 0)) then some ⟨.misaligned, 0, none⟩
  else
    match q.offsetTrap with
    | some f => some ⟨.misaligned, f, none⟩
    | none =>
      if q.tooBig then some ⟨.illegalType, 0, none⟩
      else
        match q.wideTrap p srcs with
        | some c => some ⟨c, 0, some addr.toNat⟩
        | none =>
          if q.op.bounded && decide (q.touched? < q.replySize * q.qratio) then some ⟨.replyBound, 0, some q.touched?⟩
          else none

/-- A trap before acceptance; an `ETVAL` the manual does not state is free (notes/assumptions/5.md). -/
def trapQuery (k : Nat) (t : QTrap) (s : State) : Out :=
  match t.etval with
  | some v => trapMember k t.cause (BitVec.ofNat 64 t.eidx) (word v) 4 s
  | none =>
    let r := s.free
    trapMember k t.cause (BitVec.ofNat 64 t.eidx) (word r.1) 4 r.2

/-! ### Acceptance (R333) -/

/-- The values of the source groups as read at acceptance. -/
structure QIn where
  op : QOp
  tv : Nat
  tq : Nat
  /-- registers of the destination group, 0 for none -/
  dregs : Nat
  pip : Nat
  vec : Nat
  idx : Nat
  exp : Nat

/-- The item an instruction becomes. -/
def newQuery (p : Player) (cv : Convoy) (m : Member) (i : QIn) : Query where
  id := 0
  owner := p.id
  op := i.op
  sa := m.scal.getD 0 0
  sd := m.scal.getD 1 0
  tty := cv.tty
  flim := cv.flim
  vl := cv.vl
  frm := cv.frm
  lanes := p.lanes
  qratio := p.q.qratio.toNat
  qlen := p.q.qlen
  qstride := p.q.qstride
  qk := p.q.qk
  qlo := p.q.qlo
  qhi := p.q.qhi
  vec := i.vec
  idx := i.idx
  exp := i.exp
  tv := i.tv
  tq := i.tq
  dregs := i.dregs
  pip := i.pip
  wid := p.place.wid
  asid := p.place.asid
  pc := m.addr
  prog := []
  sent := false
  item := none
  touched := []
  chunks := 0
  done := 0
  ok := 0
  applied := 0
  flags := 0
  fault := false
  stopped := false
  acking := []
  ending := none

/-- A source group: view, positions read, flat positions or slots. -/
structure QSrc where
  view : View
  count : Nat
  flat : Bool
  deriving DecidableEq, Repr

/-- The lowest position at which a source group reads a register bit, if it does. -/
def QSrc.reads (e : Env) (r : QSrc) (b : Nat × Nat) : Option Nat :=
  if r.view.reg ≤ b.1 ∧ b.1 < r.view.reg + r.view.regs then
    let pos := (b.1 - r.view.reg) * e.regBits + b.2
    (List.range (min r.count (e.regBits * r.view.regs / r.view.w))).find? (fun k =>
      if r.flat then decide (k * r.view.w ≤ pos) && decide (pos < (k + 1) * r.view.w)
      else (e.slotBits r.view (e.pos k).1 (e.pos k).2).contains pos)
  else none

/-- The lowest position at which any source group reads the bit. -/
def srcReads (e : Env) (srcs : List QSrc) (b : Nat × Nat) : Option Nat := (srcs.filterMap (fun r => r.reads e b)).min?

/-- The uncorrectable bit of the lowest position read at acceptance (R250, R255). -/
def srcBad (e : Env) (p : Player) (srcs : List QSrc) : Option Stop :=
  (lowestStop (p.tbad.filterMap (fun b => (srcReads e srcs b).map (fun f => (f, b))))).map (fun x => Stop.tile x.1 x.2.1 x.2.2)

/-- The correctable bits that acceptance reads are corrected and counted (R255). -/
def State.correctSrcs (s : State) (e : Env) (srcs : List QSrc) : State :=
  s.correctTile (s.me.tsoft.filter (fun b => (srcReads e srcs b).isSome))

/-- The item is accepted, its source groups read, or waits for a slot in arrival order (R333); an item without elements is
complete at once (R349). `piped` says that the instruction names a pip tile. -/
def State.acceptQuery (s : State) (k : Nat) (i : Instr) (e : Env) (srcs : List QSrc) (q : Query) (piped : Bool) : Out :=
  if s.mayTake 4 s.me.id then
    let t := (s.correctSrcs e srcs).takeId
    let q := { q with id := t.1 }
    let u := t.2.leaveQueue 4
    if q.count = 0 then .next (u.finishMember k)
    else
      let v := if piped then u.withMe (u.me.own q.pip q.nchunks q.id) else u
      .next (({ v with eng := { v.eng with queries := v.eng.queries ++ [q] } }).finishMember k)
  else .next (s.waitForSlot 4 i)

/-- A query member: reads its operands, makes the checks of R335, and is accepted. -/
def runQuery (i : Instr) (mk : Player → Env → QIn) (srcs : Env → Query → List QSrc) (groups : Env → List (Nat × Nat))
    (piped : Bool) (k : Nat) (s : State) : Out :=
  match s.member? k with
  | none => .next s
  | some (cv, m) =>
    let e := cv.env s.me
    let q := newQuery s.me cv m (mk s.me e)
    match srcBad e s.me (srcs e q) with
    | some st => trapStop k m.addr st s
    | none =>
      match q.check s.me (groups e) m.addr with
      | some t => trapQuery k t s
      | none => s.acceptQuery k i e (srcs e q) q piped

/-! ### The word as a member (R329 to R331) -/

/-- A group read whole. -/
def grp (p : Player) (e : Env) (r n : Nat) : Nat := groupOf p.tregs e.regBits r n

/-- The types of R331, and IG where an index or offset group is named. -/
def queryPost (types : Env → Bool) (named : Bool) (e : Env) : Bool :=
  types e && !e.ty.isSlice && (!named || decide (e.ig ≤ 8))

def queryDesc (dsts srcs : Env → List (Nat × Nat)) (pips : List Nat) (sa : List SReg) (post : Env → Bool)
    (noDet : Env → Bool) (run : Nat → State → Out) : TileDesc where
  cls := .async
  priv := false
  mode := .unmasked
  typeOk := tyAny
  dsts := dsts
  srcs := srcs
  regs := sa
  pips := pips
  matrix := false
  noDet := noDet
  post := post
  kind := .run run (fun _ k _ => run k) (fun _ _ _ => Look.clear)

def tyFIN (e : Env) : Bool := e.ty.inIN || e.ty.inF
/-- Types of plain writes: every non-sliced code except `e2m1`. -/
def tyWrite (e : Env) : Bool := !e.ty.isSlice && decide (8 ≤ e.w)

/-- A query with a vector, weights or a column mask in tq. -/
def vecQuery (i : Instr) (op : QOp) (mask : Bool) (v t p : TReg) (a : SReg) : TileDesc :=
  let n := fun (e : Env) => if mask then 1 else e.g
  let dst := fun (e : Env) => if op.indexed then [(v.val, e.ig), (v.val + e.ig, e.g)] else [(v.val, e.g)]
  let d := queryDesc dst (fun e => [(t.val, n e)]) [p.val] [a] (queryPost tyFIN op.indexed) (fun _ => false)
    (runQuery i (fun pl e => ⟨op, v.val, t.val, if op.indexed then e.ig + e.g else e.g, p.val, grp pl e t.val (n e), 0, 0⟩)
      (fun e q => [⟨⟨t.val, n e, if mask then 1 else e.w, false⟩, q.n, mask⟩])
      (fun e => [(t.val, n e), (p.val, 1)]) true)
  { d with masks := fun _ => if mask then [(t.val, 1)] else [] }

def descQdot (c : Bool) (v t p : TReg) (a : SReg) : TileDesc := vecQuery (.qdot c v t p a) .dot false v t p a
def execQdot (c : Bool) (v t p : TReg) (a : SReg) (s : State) : Out := runTile (.qdot c v t p a) (descQdot c v t p a) s
def descQdotm (c : Bool) (v t p : TReg) (a : SReg) : TileDesc := vecQuery (.qdotm c v t p a) .dotm false v t p a
def execQdotm (c : Bool) (v t p : TReg) (a : SReg) (s : State) : Out := runTile (.qdotm c v t p a) (descQdotm c v t p a) s
def descQsum (c : Bool) (v t p : TReg) (a : SReg) : TileDesc := vecQuery (.qsum c v t p a) .sum true v t p a
def execQsum (c : Bool) (v t p : TReg) (a : SReg) (s : State) : Out := runTile (.qsum c v t p a) (descQsum c v t p a) s
def descQcount (c : Bool) (v t p : TReg) (a : SReg) : TileDesc := vecQuery (.qcount c v t p a) .count true v t p a
def execQcount (c : Bool) (v t p : TReg) (a : SReg) (s : State) : Out := runTile (.qcount c v t p a) (descQcount c v t p a) s
def descQmax (c : Bool) (v t p : TReg) (a : SReg) : TileDesc := vecQuery (.qmax c v t p a) .max true v t p a
def execQmax (c : Bool) (v t p : TReg) (a : SReg) (s : State) : Out := runTile (.qmax c v t p a) (descQmax c v t p a) s
def descQmin (c : Bool) (v t p : TReg) (a : SReg) : TileDesc := vecQuery (.qmin c v t p a) .min true v t p a
def execQmin (c : Bool) (v t p : TReg) (a : SReg) (s : State) : Out := runTile (.qmin c v t p a) (descQmin c v t p a) s

/-- `qdotx`: the index group, then the query vector. -/
def descQdotx (c : Bool) (v t p : TReg) (a : SReg) : TileDesc :=
  queryDesc (fun e => [(v.val, e.g)]) (fun e => [(t.val, e.ig), (t.val + e.ig, e.g)]) [p.val] [a] (queryPost tyFIN true)
    (fun _ => false)
    (runQuery (.qdotx c v t p a)
      (fun pl e => ⟨.dotx, v.val, t.val, e.g, p.val, grp pl e (t.val + e.ig) e.g, grp pl e t.val e.ig, 0⟩)
      (fun e q => [⟨⟨t.val, e.ig, 64, false⟩, q.flim, true⟩, ⟨⟨t.val + e.ig, e.g, e.w, false⟩, q.n, false⟩])
      (fun e => [(t.val, e.ig), (t.val + e.ig, e.g), (p.val, 1)]) true)
def execQdotx (c : Bool) (v t p : TReg) (a : SReg) (s : State) : Out := runTile (.qdotx c v t p a) (descQdotx c v t p a) s

def descQgsum (c : Bool) (v t p : TReg) (a : SReg) : TileDesc :=
  queryDesc (fun e => [(v.val, e.g)]) (fun e => [(t.val, e.ig)]) [p.val] [a] (queryPost tyFIN true) (fun _ => false)
    (runQuery (.qgsum c v t p a) (fun pl e => ⟨.gsum, v.val, t.val, e.g, p.val, 0, grp pl e t.val e.ig, 0⟩)
      (fun e q => [⟨⟨t.val, e.ig, 64, false⟩, q.n, true⟩]) (fun e => [(t.val, e.ig), (p.val, 1)]) true)
def execQgsum (c : Bool) (v t p : TReg) (a : SReg) (s : State) : Out := runTile (.qgsum c v t p a) (descQgsum c v t p a) s

def descQbest (c : Bool) (v p : TReg) (a : SReg) : TileDesc :=
  queryDesc (fun e => [(v.val, e.ig), (v.val + e.ig, e.g)]) (fun _ => []) [p.val] [a] (queryPost tyFIN true) (fun _ => false)
    (runQuery (.qbest c v p a) (fun _ e => ⟨.best, v.val, 0, e.ig + e.g, p.val, 0, 0, 0⟩) (fun _ _ => [])
      (fun _ => [(p.val, 1)]) true)
def execQbest (c : Bool) (v p : TReg) (a : SReg) (s : State) : Out := runTile (.qbest c v p a) (descQbest c v p a) s

/-- The narrow floats of R341. -/
def isNarrowFloat (t : ElemTy) : Bool := t == .flt .e4m3 || t == .flt .e5m2 || t == .flt .e2m1

/-- Types of `qnarrow` (R331, R341). -/
def narrowTypes (t : TypeCode) (e : Env) : Bool :=
  match ElemTy.ofCode t.val with
  | none => false
  | some st => (st.inIN || st.inF) && (tyFIN e || (isNarrowFloat e.ty && st.inF))

def descQnarrow (c : Bool) (v : TReg) (t : TypeCode) (p : TReg) (a : SReg) : TileDesc :=
  queryDesc (fun e => (v.val, e.g) :: (if isNarrowFloat e.ty then [(1, 1)] else [])) (fun _ => []) [p.val] [a]
    (queryPost (narrowTypes t) false) (fun _ => false)
    (runQuery (.qnarrow c v t p a) (fun _ e => ⟨.narrow, v.val, t.val, e.g, p.val, 0, 0, 0⟩) (fun _ _ => [])
      (fun _ => [(p.val, 1)]) true)
def execQnarrow (c : Bool) (v : TReg) (t : TypeCode) (p : TReg) (a : SReg) (s : State) : Out :=
  runTile (.qnarrow c v t p a) (descQnarrow c v t p a) s

/-- `qst`, `qstx` and `qradd`: a data group, and an offset group where tq ≠ 0. -/
def storeQuery (i : Instr) (op : QOp) (types : Env → Bool) (noDet : Env → Bool) (v : TReg) (t : Nat) (a : SReg) : TileDesc :=
  let named := decide (t ≠ 0)
  let srcs := fun (e : Env) => (v.val, e.g) :: (if named then [(t, e.ig)] else [])
  queryDesc (fun _ => []) srcs [] [a] (queryPost types named) noDet
    (runQuery i (fun pl e => ⟨op, v.val, t, 0, 0, grp pl e v.val e.g, if named then grp pl e t e.ig else 0, 0⟩)
      (fun e q => ⟨⟨v.val, e.g, e.w, false⟩, q.flim, false⟩ ::
        (if named then [⟨⟨t, e.ig, 64, false⟩, q.flim, true⟩] else [])) srcs false)

def never (_ : Env) : Bool := false

def descQst (c : Bool) (v : TReg) (a : SReg) : TileDesc := storeQuery (.qst c v a) .st tyWrite never v 0 a
def execQst (c : Bool) (v : TReg) (a : SReg) (s : State) : Out := runTile (.qst c v a) (descQst c v a) s
def descQstx (c : Bool) (v t : TReg) (a : SReg) : TileDesc := storeQuery (.qstx c v t a) .stx tyWrite never v t.val a
def execQstx (c : Bool) (v t : TReg) (a : SReg) (s : State) : Out := runTile (.qstx c v t a) (descQstx c v t a) s
def descQraddAdd (c : Bool) (v t : TReg) (a : SReg) : TileDesc :=
  storeQuery (.qraddAdd c v t a) .raddAdd tyFIN (fun e => e.ty.inF) v t.val a
def execQraddAdd (c : Bool) (v t : TReg) (a : SReg) (s : State) : Out := runTile (.qraddAdd c v t a) (descQraddAdd c v t a) s
def descQraddMax (c : Bool) (v t : TReg) (a : SReg) : TileDesc := storeQuery (.qraddMax c v t a) .raddMax tyFIN never v t.val a
def execQraddMax (c : Bool) (v t : TReg) (a : SReg) (s : State) : Out := runTile (.qraddMax c v t a) (descQraddMax c v t a) s
def descQraddMin (c : Bool) (v t : TReg) (a : SReg) : TileDesc := storeQuery (.qraddMin c v t a) .raddMin tyFIN never v t.val a
def execQraddMin (c : Bool) (v t : TReg) (a : SReg) (s : State) : Out := runTile (.qraddMin c v t a) (descQraddMin c v t a) s
def descQraddOr (c : Bool) (v t : TReg) (a : SReg) : TileDesc := storeQuery (.qraddOr c v t a) .raddOr tyIN never v t.val a
def execQraddOr (c : Bool) (v t : TReg) (a : SReg) (s : State) : Out := runTile (.qraddOr c v t a) (descQraddOr c v t a) s
def descQraddAnd (c : Bool) (v t : TReg) (a : SReg) : TileDesc := storeQuery (.qraddAnd c v t a) .raddAnd tyIN never v t.val a
def execQraddAnd (c : Bool) (v t : TReg) (a : SReg) (s : State) : Out := runTile (.qraddAnd c v t a) (descQraddAnd c v t a) s

/-- `qcas`: offsets, expected and new values (R330, R342). -/
def descQcas (c : Bool) (v t p : TReg) (a : SReg) : TileDesc :=
  let srcs := fun (e : Env) => [(t.val, e.ig), (t.val + e.ig, e.g), (t.val + e.ig + e.g, e.g)]
  queryDesc (fun _ => [(v.val, 1)]) srcs [p.val] [a] (queryPost tyWrite true) never
    (runQuery (.qcas c v t p a)
      (fun pl e => ⟨.cas, v.val, t.val, 1, p.val, grp pl e (t.val + e.ig + e.g) e.g, grp pl e t.val e.ig,
        grp pl e (t.val + e.ig) e.g⟩)
      (fun e q => [⟨⟨t.val, e.ig, 64, false⟩, q.flim, true⟩, ⟨⟨t.val + e.ig, e.g, e.w, false⟩, q.flim, false⟩,
        ⟨⟨t.val + e.ig + e.g, e.g, e.w, false⟩, q.flim, false⟩])
      (fun e => srcs e ++ [(p.val, 1)]) true)
def execQcas (c : Bool) (v t p : TReg) (a : SReg) (s : State) : Out := runTile (.qcas c v t p a) (descQcas c v t p a) s

/-! ### Exact sums (R128, R337) -/

/-- A partial sum of exact values: `none` is padding. -/
abbrev XPart := Option FVal × Flags

/-- The addition of the reply type: rounded for floats, modulo 2^w for integers. -/
def xAdd (t : ElemTy) (mode : Rm) (a b : XPart) : XPart :=
  match a.1, b.1 with
  | none, _ => (b.1, a.2 ||| b.2)
  | _, none => (a.1, a.2 ||| b.2)
  | some x, some y =>
    match t with
    | .flt n =>
      let r := (addVal mode x y).round n.fmt mode
      (some (unpack n.fmt r.val), r.flags ||| a.2 ||| b.2)
    | _ => (some (addNum mode x y).v, a.2 ||| b.2)

def xLevel (t : ElemTy) (mode : Rm) : List XPart → List XPart
  | a :: b :: rest => xAdd t mode a b :: xLevel t mode rest
  | [a] => [a]
  | [] => []

/-- The six levels over one group. -/
def xTree (t : ElemTy) (mode : Rm) (xs : List XPart) : XPart :=
  let l := xLevel t mode
  match l (l (l (l (l (l (xs ++ List.replicate (64 - xs.length) (none, 0))))))) with
  | v :: _ => v
  | [] => (none, 0)

/-- The value of an exact integer. -/
def FVal.toInt : FVal → Int
  | .fin s m e => let v : Int := (m * 2 ^ e.toNat : Nat); if s then -v else v
  | _ => 0

/-- An exact value in the reply type's bits; what it holds is representable but for an integer's wrap. -/
def xResult (t : ElemTy) (mode : Rm) (v : FVal) : Nat :=
  match t with
  | .flt n => (pack n.fmt mode v).val
  | t => wrap t.width v.toInt

/-- canon_sum from c0: −0 under F, 0 under I and N (R337). -/
def xSum (t : ElemTy) (mode : Rm) (xs : List XPart) : Res :=
  let c0 : XPart := (some (match t with
    | .flt _ => .zero true
    | _ => .zero false), 0)
  let r := (groups64 (xs.length / 64 + 1) xs).foldl (fun acc g => xAdd t mode acc (xTree t mode g)) c0
  ⟨xResult t mode (r.1.getD (.zero false)), r.2⟩

/-! ### Replies (R337 to R341) -/

/-- Does a query element take part: not ±0 under F? -/
def takesPart (t : ElemTy) (v : FVal) : Bool := !t.isFloat || !v.isZero

/-- A product term. -/
def Query.term (q : Query) (w x : Nat) : XPart :=
  let t := q.env.ty
  let v := elemVal t w
  if takesPart t v then
    let r := mulVal v (elemVal t x)
    (some r.v, r.flags)
  else (none, 0)

/-- The range filter of R338: a NaN element or bound passes nothing. -/
def Query.passes (q : Query) (x : Nat) : Bool :=
  let t := q.env.ty
  let lo := q.qlo.toNat % 2 ^ q.env.w
  let hi := q.qhi.toNat % 2 ^ q.env.w
  !elemIsNan t x && !elemIsNan t lo && !elemIsNan t hi && decide (orderKey t lo ≤ orderKey t x) &&
    decide (orderKey t x ≤ orderKey t hi)

/-- The columns of a row that the mask and the filter select, with their values. -/
def Query.selected (q : Query) (filter : Bool) (xs : List Nat) : List (Nat × Nat) :=
  (xs.zipIdx.map (fun x => (x.2, x.1))).filter (fun x => q.vec.testBit x.1 && (!filter || q.passes x.2))

/-- The value of a row without a selected column (R339). -/
def emptyExtreme (t : ElemTy) (wantMax : Bool) : Nat :=
  match t with
  | .flt n => qnan n.fmt
  | .int s w => wrap w (if wantMax then intMin s w else intMax s w)
  | _ => 0

/-- Candidates of a ranking in order: best first, equal keys in ascending index (R340, R366). -/
def rankBy (smallest : Bool) (key : Nat → Int) (xs : List (Nat × Nat)) : List (Nat × Nat) :=
  let top := xs.foldl (fun (m : Int) x => max m (key x.2)) 0
  let bot := xs.foldl (fun (m : Int) x => min m (key x.2)) 0
  sortBy (fun (x : Nat × Nat) => (if smallest then key x.2 - bot else top - key x.2).toNat) xs

/-- What a reply position receives: index, value, flags. -/
structure Slot where
  idx : Nat
  val : Nat
  flags : Flags
  deriving DecidableEq, Repr

def allOnes64 : Nat := 2 ^ 64 - 1

/-- Reply position `f` from the elements it reads, in the order of `Query.reads`. -/
def Query.slot (q : Query) (f : Nat) (xs : List Nat) : Slot :=
  let e := q.env
  let t := e.ty
  match q.op with
  | .dot => let r := xSum q.rty e.frm (xs.zipIdx.map (fun x => q.term (q.vecAt x.2) x.1)); ⟨0, r.val, r.flags⟩
  | .dotx => let r := xSum q.rty e.frm (xs.zipIdx.map (fun x => q.term (q.vecAt x.2) x.1)); ⟨0, r.val, r.flags⟩
  | .dotm => let r := xSum q.rty e.frm (xs.zipIdx.map (fun x => q.term (q.vecAt x.2) x.1)); ⟨0, r.val, r.flags⟩
  | .gsum => let r := xSum q.rty e.frm (xs.map (fun x => (some (elemVal t x), 0))); ⟨0, r.val, r.flags⟩
  | .sum =>
    let keep := q.selected q.filters xs
    let r := xSum q.rty e.frm (xs.zipIdx.map (fun x =>
      if keep.any (fun k => k.1 = x.2) then (some (elemVal t x.1), 0) else (none, 0)))
    ⟨0, r.val, r.flags⟩
  | .count =>
    let n := (q.selected q.filters xs).length
    let top := 2 ^ q.rty.width - 1
    if top < n then ⟨0, top, flagSAT⟩ else ⟨0, n, 0⟩
  | .max => extreme true
  | .min => extreme false
  | .best =>
    let cands := (xs.zipIdx.map (fun x => (x.2, x.1))).filter (fun x => !elemIsNan t x.2 && (!q.filters || q.passes x.2))
    match (rankBy q.smallest (orderKey t) cands)[f]? with
    | some b => ⟨b.1, b.2, 0⟩
    | none => ⟨allOnes64, 2 ^ e.w - 1, 0⟩
  | .narrow => let r := convert t q.sty e.frm (xs.getD 0 0); ⟨0, r.val, r.flags⟩
  | _ => ⟨0, 0, 0⟩
where
  /-- R339 over the selected columns -/
  extreme (wantMax : Bool) : Slot :=
    let t := q.env.ty
    let keep := q.selected false xs
    if keep.isEmpty then ⟨allOnes64, emptyExtreme t wantMax, 0⟩
    else
      let r := keep.foldl (fun (s : Sel) k => s.offer t wantMax k.2 k.1) Sel.empty
      let b := r.result t
      ⟨b.2.toNat, b.1, r.flags⟩

/-- The blocks of a chunk of a scaled `qnarrow`: block, scale, and the converted elements (R173, R341). -/
def Query.scaledBlock (q : Query) (b : Nat) (fs : List Nat) (xs : List Nat) : Nat × Nat × List Slot :=
  let e := q.env
  let vs := ((fs.zip xs).filter (fun x => x.1 / 32 = b)).map (fun x => elemVal q.sty x.2)
  let code := blockCode e.ty vs
  let dst := e.fname.fmt
  (b, code, vs.map (fun v =>
    let r : Res := if code = 0xFF then ⟨qnan dst, flagNV⟩ else scaleConvert dst e.frm v (127 - (code : Int))
    ⟨0, r.val, r.flags ||| snanFlag vs⟩))

/-! ### Touching (R23, R348) -/

/-- One unit for a query: its state as touched before, or as it is now; a data-error gives the state it leaves (R23, R320). -/
def State.touch (s : State) (q : Query) (n : Nat) : Except State (Nat × State × Query) :=
  match lookupNat n q.touched with
  | some v => .ok (v, s, q)
  | none =>
    match s.readUnit n with
    | .error t => .error t
    | .ok r => .ok (r.1, r.2, { q with touched := (n, r.1) :: q.touched })

/-- The first address of a list that does not translate (R312, R348). -/
def State.firstFault (s : State) (q : Query) (write : Bool) : List Word → Option (QFault × Word)
  | [] => none
  | a :: rest =>
    match s.locate q.asid q.wid a write false with
    | .error f => some (f, a)
    | .ok _ => s.firstFault q write rest

/-- Reads elements one after another; an address that ends in a data-error stops it, in the state the error leaves. -/
def readElems (n : Nat) : List Word → State → Query → Except (Word × State) (List Nat × State × Query)
  | [], s, q => .ok ([], s, q)
  | a :: rest, s, q =>
    match s.locate q.asid q.wid a false false with
    | .error _ => .error (a, s)
    | .ok l =>
      match s.touch q l.unit with
      | .error t => .error (a, t)
      | .ok r =>
        match readElems n rest r.2.1 r.2.2 with
        | .error e => .error e
        | .ok x => .ok (getBits r.1 (8 * l.inUnit) (8 * n) :: x.1, x.2.1, x.2.2)

/-- Rows of elements, one row for each position. -/
def readRows (n : Nat) : List (List Word) → State → Query → Except (Word × State) (List (List Nat) × State × Query)
  | [], s, q => .ok ([], s, q)
  | r :: rest, s, q =>
    match readElems n r s q with
    | .error e => .error e
    | .ok x =>
      match readRows n rest x.2.1 x.2.2 with
      | .error e => .error e
      | .ok y => .ok (x.1 :: y.1, y.2.1, y.2.2)

/-! ### Ends -/

/-- The item is complete: it leaves its slot. -/
def State.finishQuery (s : State) (q : Query) : State :=
  (s.dropQuery q.id).updOwner q.owner (fun p => { p with flags := p.flags ||| q.flags })

/-- The lowest chunk not written. -/
def Query.lowestOpen (q : Query) : Nat := ((List.range q.nchunks).find? (fun c => !q.chunks.testBit c)).getD 0

/-- The lowest element not performed. -/
def Query.lowestElem (q : Query) : Nat := ((List.range q.count).find? (fun f => !q.done.testBit f)).getD 0

/-- The positions of chunk `c`. -/
def Query.positions (q : Query) (c : Nat) : List Nat :=
  (List.range (min 64 (q.count - 64 * c))).map (fun i => 64 * c + i)

/-- Chunk `c` is written: registers, flags, then the pip bit (R119, R343); a reply that is discarded leaves no trace (R426). -/
def State.writeReply (s : State) (q : Query) (c : Nat) (flags : Flags) (f : Env → Vector Nat 64 → Vector Nat 64) : State :=
  let q' := { q with chunks := q.chunks ||| 2 ^ c }
  let t := if s.discards q.owner then s
    else s.updPlayer q.owner (fun p => ({ p.putRegs (f q.env p.tregs) with flags := p.flags ||| flags }).setPip q.pip c)
  let done : Bool := (List.range q.nchunks).all (fun i => q'.chunks.testBit i)
  if done then t.finishQuery q' else t.setQuery q'

/-- Writes slots at their positions: the index group flat, the value group by slot (R168, R330). -/
def Query.putSlots (q : Query) (fs : List Nat) (sl : List Slot) (e : Env) (t : Vector Nat 64) : Vector Nat 64 :=
  let v := q.rview
  let x := (fs.zip sl).foldl (fun (g : Nat) a => e.posSet v g a.1 a.2.val) (e.read t v)
  let t1 := e.write t v x
  if q.op.indexed then
    let iv : View := ⟨q.tv, e.ig, 64, false⟩
    e.write t1 iv ((fs.zip sl).foldl (fun (g : Nat) a => setBits g (64 * a.1) 64 a.2.idx) (e.read t1 iv))
  else t1

/-- An item meets a fault: it begins no further chunk, and ends with its record once its chunks in progress have completed
(R348); the first fault is the one recorded. -/
def State.endQuery (s : State) (q : Query) (c : Cause) (sub : Nat) (va : Word) : State :=
  s.setQuery { q with ending := some (q.ending.getD (c, sub, va)) }

/-- A faulting address with its cause, for a reply. -/
def State.faultReply (s : State) (q : Query) (f : QFault) (va : Word) : State := s.endQuery q f.cause f.sub va

/-- `QUERY_REPLY_CHUNK` for the queries of majors 0x37 to 0x39 that name plain rows. -/
def State.replyChunk (s : State) (q : Query) (c : Nat) : State :=
  let fs := q.positions c
  let rows := match q.op with
    | .best => [q.reads 0]
    | _ => fs.map q.reads
  match s.firstFault q false rows.flatten with
  | some x => s.faultReply q x.1 x.2
  | none =>
    match readRows q.ew rows s q with
    | .error e => e.2.faultReply q ⟨.dataError, 0⟩ e.1
    | .ok r =>
      let q1 := r.2.2
      if q.op = .narrow ∧ isNarrowFloat q.env.ty then
        let bs := (fs.map (fun f => f / 32)).eraseDups.map (fun b => q.scaledBlock b fs (r.1.map (fun x => x.getD 0 0)))
        let sl := (bs.map (fun b => b.2.2)).flatten
        let fl := sl.foldl (fun (m : Flags) x => m ||| x.flags) 0
        r.2.1.writeReply q1 c fl (fun e t =>
          let u := q.putSlots fs sl e t
          u.set 1 (bs.foldl (fun (x : Nat) b => setBits x (8 * b.1) 8 b.2.1) u[1]))
      else
        let sl := match q.op with
          | .best => fs.map (fun f => q.slot f (r.1.getD 0 []))
          | _ => (fs.zip r.1).map (fun x => q.slot x.1 x.2)
        let fl := sl.foldl (fun (m : Flags) x => m ||| x.flags) 0
        r.2.1.writeReply q1 c fl (q.putSlots fs sl)

/-! ### Element writes (R314, R342, R345, R346) -/

/-- The new value of an element, its flags, and whether it is written: old and the item's element `f`. -/
def Query.newValue (q : Query) (f old : Nat) : Option Res :=
  let e := q.env
  let v := q.vecAt f
  let pick := fun (wantMax : Bool) =>
    match e.ty with
    | .flt n => some (fminmax n.fmt wantMax old v)
    | t => some ⟨if wantMax then (if orderKey t old < orderKey t v then v else old)
        else (if orderKey t v < orderKey t old then v else old), 0⟩
  match q.op with
  | .st => some ⟨v, 0⟩
  | .stx => some ⟨v, 0⟩
  | .raddAdd =>
    match e.ty with
    | .flt n => some (fadd n.fmt e.frm old v)
    | _ => some ⟨(old + v) % 2 ^ e.w, 0⟩
  | .raddMax => pick true
  | .raddMin => pick false
  | .raddOr => some ⟨old ||| v, 0⟩
  | .raddAnd => some ⟨old &&& v, 0⟩
  | .cas => if old = q.expAt f then some ⟨v, 0⟩ else none
  | _ => none

/-- The location of element `f`, or why it may not be written (R312, R313, R363, R368). -/
def State.locateElem (s : State) (q : Query) (f : Nat) : Except QFault QLoc :=
  match s.locate q.asid q.wid (q.elemVa f) true false with
  | .error e => .error e
  | .ok l =>
    if l.region.isCollection && decide (l.off < 1024) then .error ⟨.pageFault, 0x0A⟩
    else if l.region.merging && q.item.isNone then .error ⟨.pageFault, 0x0B⟩
    else .ok l

/-- Has every lower element of the item on the same bytes been applied (R342, R345, R346)? -/
def State.lowerApplied (s : State) (q : Query) (f : Nat) (l : QLoc) : Bool :=
  (List.range f).all (fun g => q.applied.testBit g || q.done.testBit g ||
    (match s.locateElem q g with
      | .ok k => decide (k.region.id ≠ l.region.id) || decide (k.off ≠ l.off)
      | .error _ => true))

/-- Marks element `f` of an item performed, wherever the item is: in its engine, in a fault record, or resumed. -/
def Query.perform (q : Query) (f : Nat) : Query := { q with done := q.done ||| 2 ^ f, applied := q.applied ||| 2 ^ f }

def Held.performElem (h : Held) (item f : Nat) : Held :=
  match h with
  | .query q => if q.id = item then .query (q.perform f) else h
  | .xfer _ => h

/-- Every element performed, and for `qcas` every chunk written: the item ends, its flags first (R119). -/
def State.settleWrite (s : State) (item : Nat) : State :=
  match s.query? item with
  | none => s
  | some q =>
    if q.op ≠ .cas && q.op ≠ .append && q.op ≠ .copy && q.op ≠ .merge &&
        (List.range q.count).all (fun f => q.done.testBit f) then s.finishQuery q
    else s

def State.performElem (s : State) (item f : Nat) : State :=
  let t := { s with eng := { s.eng with
      queries := s.eng.queries.map (fun (q : Query) => if q.id = item then q.perform f else q)
      resumed := s.eng.resumed.map (fun (r : Nat × Held) => (r.1, r.2.performElem item f)) } }
  (t.mapPlayers (fun p => { p with
    afq := p.afq.map (fun (r : FaultRec) => { r with held := r.held.map (fun h => h.performElem item f) }) })).settleWrite item

/-- Does element `g` need the page, or after a data-error the unit, at a faulting address (R348)? -/
def State.needsPlace (s : State) (q : Query) (c : Cause) (va : Word) (g : Nat) : Bool :=
  if c = .dataError then
    match s.locateElem q g, s.locate q.asid q.wid va true false with
    | .ok a, .ok b => decide (a.unit = b.unit)
    | _, _ => false
  else
    let size := match s.vm.leaf q.asid (vaIndex va) with
      | some l => leafSize l.level
      | none => 2 ^ 21
    decide (vaIndex (q.elemVa g) / size = vaIndex va / size)

/-- The lowest element not performed that needs a faulting place. -/
def State.lowestFaulting (s : State) (q : Query) (c : Cause) (va : Word) : Nat :=
  ((List.range q.count).find? (fun g => !q.done.testBit g && !q.applied.testBit g && s.needsPlace q c va g)).getD q.lowestElem

def State.faultWrite (s : State) (q : Query) (f : Nat) (e : QFault) : State := s.endQuery q e.cause e.sub (q.elemVa f)

/-- Has a chunk of an element write been begun: is one of its elements applied? -/
def Query.begun (q : Query) (c : Nat) : Bool := (q.positions c).any q.applied.testBit

/-- May element `g` of an item that ends still be applied: its chunk is in progress, the element does not need the place of the
fault and meets none of its own, and no lower element on its bytes is left behind (R342, R345, R348)? -/
def State.finishable (s : State) (q : Query) (g : Nat) : Bool :=
  match q.ending, s.locateElem q g with
  | some e, .ok l =>
    q.begun (g / 64) && decide (g < q.count) && !q.applied.testBit g && !q.done.testBit g && !s.needsPlace q e.1 e.2.2 g &&
      s.readable l.unit &&
      (List.range g).all (fun h => q.begun (h / 64) || (match s.locateElem q h with
        | .ok k => decide (k.region.id ≠ l.region.id) || decide (k.off ≠ l.off)
        | .error _ => true))
  | _, _ => false

/-- The lowest element of chunk `c` still to be performed that may not be written: a chunk translates every page it needs
before it touches a unit (R313, R348). -/
def State.chunkFault (s : State) (q : Query) (c : Nat) : Option (Nat × QFault) :=
  (q.positions c).findSome? (fun f =>
    if q.done.testBit f || q.applied.testBit f then none
    else match s.locateElem q f with
      | .error e => some (f, e)
      | .ok _ => none)

/-- The writes of the elements of a `qst` or `qstx` in the stripe of a unit. -/
def State.stripeWrites (s : State) (q : Query) (n : Nat) : List (Nat × UnitWrite) :=
  (List.range q.count).filterMap (fun g => match s.locateElem q g with
    | .ok l => if (stripeUnits n).contains l.unit then some (g, ⟨l.unit, l.inUnit, q.ew, q.vecAt g⟩) else none
    | .error _ => none)

/-- Does the item, a `qst` or a `qstx`, cover the stripe of a unit entirely, none of its elements there being applied (R316)? -/
def State.wholeStripe (s : State) (q : Query) (n : Nat) : Bool :=
  (q.op == .st || q.op == .stx) && q.ending.isNone &&
    (let es := s.stripeWrites q n
    coversStripe (es.map Prod.snd) n && es.all (fun e => !q.applied.testBit e.1 && !q.done.testBit e.1))

/-- `STACK_UNIT_WRITE_APPLY` for the element writes: the data unit applies element `f` in one step. An element of a stripe
that its item covers whole is written by `FULL_STRIPE_WRITE`. -/
def State.applyElem (s : State) (q : Query) (f : Nat) : State :=
  if q.done.testBit f || q.applied.testBit f || decide (q.count ≤ f) || (q.ending.isSome && !s.finishable q f) then s
  else
    match if q.ending.isSome then none else s.chunkFault q (f / 64) with
    | some e => s.faultWrite q e.1 e.2
    | none =>
      match s.locateElem q f with
      | .error e => s.faultWrite q f e
      | .ok l =>
        if !s.lowerApplied q f l || s.qm.pcBlocked l.unit || s.wholeStripe q l.unit then s
        else
          match s.readUnit l.unit with
          | .error t => t.faultWrite q f ⟨.dataError, 0⟩
          | .ok (u, s1) =>
            let old := getBits u (8 * l.inUnit) (8 * q.ew)
            match q.newValue f old with
            | none => s1.performElem q.id f
            | some r =>
              match s1.writeUnit l.unit l.inUnit q.ew r.val q.id f with
              | .error t => t.faultWrite q f ⟨.dataError, 0⟩
              | .ok s2 =>
                let q' := { q with
                  applied := q.applied ||| 2 ^ f
                  flags := q.flags ||| r.flags
                  ok := if q.op = .cas then q.ok ||| 2 ^ f else q.ok }
                let s3 := s2.setQuery q'
                -- with no delta on its way the element is performed at once (R324)
                let out : Bool := s3.qm.deltas.any (fun d => decide (d.item = q.id) && decide (d.elem = f)) ||
                  s3.qm.held.any (fun w => decide (w.delta.item = q.id) && decide (w.delta.elem = f))
                if out then s3 else s3.performElem q.id f

/-- A `qcas` chunk: its elements have performed, its success bits are written (R342). -/
def State.casChunk (s : State) (q : Query) (c : Nat) : State :=
  let fs := q.positions c
  if fs.all (fun f => q.done.testBit f) then
    s.writeReply q c 0 (fun _ t =>
      match h : decide (q.tv < 64) with
      | true => t.set q.tv (fs.foldl (fun (x : Nat) f => setBits x f 1 (getBits q.ok f 1))
          (t[q.tv]'(by simpa using h))) (by simpa using h)
      | false => t)
  else s

end Sys2Proof.Machine
end

