-- ==== Sys2Proof/Machine/Eval.lean ====
section
/-! DEFINITION. `qeval` (spec/18_row_evaluator_and_search.md R351 to R359): row programs, their static check, and the
evaluation of one element. -/

set_option Elab.async false

namespace Sys2Proof.Machine

/-! ### Row programs (R352 to R354) -/

def progByte (prog : List Byte) (i : Nat) : Nat := (prog.getD i 0).toNat

def evalTy (prog : List Byte) : Option ElemTy :=
  match progByte prog 0 with
  | 0x0B => some (.flt .fp64)
  | 0x0A => some (.flt .fp32)
  | 0x09 => some (.flt .bf16)
  | 0x02 => some (.int true 32)
  | 0x03 => some (.int true 64)
  | _ => none

/-- Element size in bytes. -/
def evalSw (prog : List Byte) : Nat := ((evalTy prog).getD (.int true 64)).width / 8

/-- The operator bytes. -/
def evalOps (prog : List Byte) : List Nat := (List.range 24).map (fun i => progByte prog (8 + i))

/-- Constant `i`. -/
def evalConst (prog : List Byte) (i : Nat) : Nat := bytesToNat ((prog.drop (0x20 + 8 * i)).take (evalSw prog))

/-- OFFk·W in elements. -/
def evalOff (prog : List Byte) (k : Nat) : Int :=
  toSigned 16 (bytesToNat ((prog.drop (2 + 2 * k)).take 2)) * (2 ^ progByte prog 1 : Nat)

/-- The operators of R353: END, the numbered arithmetic and stack operators, and the three with operands. -/
inductive EvalOp where
  | stop
  | plain (code : Nat)
  | push (k : Nat) (shift : Int)
  | pushc (i : Nat)
  | sto (k : Nat)
  deriving DecidableEq, Repr

def EvalOp.ofByte (c : Nat) : Option EvalOp :=
  if c = 0 then some .stop
  else if c ≤ 0x14 then some (.plain c)
  else if 0x40 ≤ c ∧ c < 0x70 ∧ c % 16 ≤ 8 then some (.push ((c - 0x40) / 16) ((c % 16 : Nat) - 4))
  else if 0x70 ≤ c ∧ c ≤ 0x77 then some (.pushc (c - 0x70))
  else if 0x80 ≤ c ∧ c ≤ 0x82 then some (.sto (c - 0x80))
  else none

/-- Entries popped and pushed (R353). -/
def EvalOp.effect : EvalOp → Nat × Nat
  | .stop => (0, 0)
  | .push _ _ => (0, 1)
  | .pushc _ => (0, 1)
  | .sto _ => (1, 0)
  | .plain c =>
    if c ≤ 4 then (2, 1)
    else if c ≤ 6 then (3, 1)
    else if c ≤ 8 then (2, 1)
    else if c ≤ 11 then (1, 1)
    else if c ≤ 14 then (2, 1)
    else if c = 15 then (3, 1)
    else if c = 16 then (1, 2)
    else if c = 17 then (2, 2)
    else if c = 18 then (1, 0)
    else if c = 19 then (2, 3)
    else (3, 3)

/-- The offset of the first refused operator from operator `i` on (R354). -/
def refusedOp (isInt : Bool) : (i : Nat) → List Nat → (depth stos : Nat) → Option Nat
  | _, [], _, stos => if stos = 0 then some 0x1F else none
  | i, c :: rest, depth, stos =>
    match EvalOp.ofByte c with
    | none => some (8 + i)
    | some .stop => if stos = 0 then some (8 + i) else none
    | some op =>
      let e := op.effect
      let stos' := match op with
        | .sto _ => stos + 1
        | _ => stos
      if depth < e.1 || decide (4 < depth - e.1 + e.2) || decide (2 < stos') || (isInt && decide (c = 0x0B)) then
        some (8 + i)
      else refusedOp isInt (i + 1) rest (depth - e.1 + e.2) stos'

/-- The offset of the first refused byte of a program (R354). -/
def refusedByte (prog : List Byte) : Option Nat :=
  match evalTy prog with
  | none => some 0
  | some t => if 20 < progByte prog 1 then some 1 else refusedOp (!t.isFloat) 0 (evalOps prog) 0 0

/-! ### Arithmetic of one operator (R353) -/

def evalArith (t : ElemTy) (mode : Rm) (c a b x : Nat) : Res :=
  let w := t.width
  match t with
  | .flt n =>
    let F := n.fmt
    let truth := fun (r : Bool × Flags) => (⟨if r.1 then (packFin F mode false 1 0).val else 0, r.2⟩ : Res)
    match c with
    | 1 => fadd F mode a b
    | 2 => fsub F mode a b
    | 3 => fmul F mode a b
    | 4 => fdiv F mode a b
    | 5 => ffma F mode false false a b x
    | 6 => ffma F mode true false a b x
    | 7 => fminmax F false a b
    | 8 => fminmax F true a b
    | 0x0C => truth (fcmp F .lt a b)
    | 0x0D => truth (fcmp F .le a b)
    | _ => truth (fcmp F .eq a b)
  | _ =>
    let sa := toSigned w a
    let sb := toSigned w b
    let v : Int := match c with
      | 1 => sa + sb
      | 2 => sa - sb
      | 3 => sa * sb
      | 4 => divTrunc true w a b
      | 5 => sa * sb + toSigned w x
      | 6 => toSigned w x - sa * sb
      | 7 => min sa sb
      | 8 => max sa sb
      | 0x0C => if sa < sb then 1 else 0
      | 0x0D => if sa ≤ sb then 1 else 0
      | _ => if sa = sb then 1 else 0
    ⟨wrap w v, 0⟩

def evalUnary (t : ElemTy) (mode : Rm) (c a : Nat) : Res :=
  let w := t.width
  match t with
  | .flt n =>
    match c with
    | 9 => ⟨withSign n.fmt (!fsignBit n.fmt a) (fmag n.fmt a), 0⟩
    | 10 => ⟨fmag n.fmt a, 0⟩
    | _ => fsqrt n.fmt mode a
  | _ =>
    match c with
    | 9 => ⟨wrap w (-toSigned w a), 0⟩
    | _ => ⟨wrap w (toSigned w a).natAbs, 0⟩

/-- Is the selector of SEL neither +0 nor −0? -/
def evalNonZero (t : ElemTy) (x : Nat) : Bool :=
  match t with
  | .flt n => decide (fmag n.fmt x ≠ 0)
  | _ => decide (x ≠ 0)

/-- A numbered operator on the stack, its top first. -/
def evalPlain (t : ElemTy) (mode : Rm) (c : Nat) (st : List Nat) : List Nat × Flags :=
  if c ≤ 4 || c = 7 || c = 8 || (12 ≤ c && c ≤ 14) then
    match st with
    | b :: a :: rest => let r := evalArith t mode c a b 0; (r.val :: rest, r.flags)
    | _ => (st, 0)
  else if c ≤ 6 then
    match st with
    | b :: a :: x :: rest => let r := evalArith t mode c a b x; (r.val :: rest, r.flags)
    | _ => (st, 0)
  else if c ≤ 11 then
    match st with
    | a :: rest => let r := evalUnary t mode c a; (r.val :: rest, r.flags)
    | _ => (st, 0)
  else
    match c, st with
    | 15, sel :: b :: a :: rest => ((if evalNonZero t sel then a else b) :: rest, 0)
    | 16, x :: rest => (x :: x :: rest, 0)
    | 17, x :: y :: rest => (y :: x :: rest, 0)
    | 18, _ :: rest => (rest, 0)
    | 19, x :: y :: rest => (y :: x :: y :: rest, 0)
    | 20, x :: y :: z :: rest => (z :: x :: y :: rest, 0)
    | _, _ => (st, 0)

/-! ### Slabs (R355) -/

/-- Data units of a slab. -/
def Region.slabUnits (r : Region) : Nat := 11 * r.rows / 12

/-- Where element `f` lies: its slab, its slab index, and the elements of the slab. -/
structure EvalAt where
  slab : Nat
  g : Nat
  ne : Nat
  deriving DecidableEq, Repr

def evalAt (r : Region) (off sw f : Nat) : EvalAt :=
  let o := off + f * sw
  let z := r.slabUnits
  let k := o / 1024
  ⟨k / z, (k % z * 1024 + o % 1024) / sw, min z (r.units - k / z * z) * 1024 / sw⟩

/-- The stack, the flags and the machine while an element is evaluated. -/
structure EvalRun where
  s : State
  st : List Nat
  flags : Flags

/-- One access of the evaluator: its location, or why it faults (R312, R363). -/
def State.evalLoc (s : State) (q : Query) (base : Word) (off : Nat) (store : Bool) : Except (QFault × Word) QLoc :=
  let va := base + word off
  match s.locate q.asid q.wid va true false with
  | .error e => .error (e, va)
  | .ok l =>
    if store && l.region.isCollection && decide (l.off < 1024) then .error (⟨.pageFault, 0x0A⟩, va)
    else if store && l.region.merging && q.item.isNone then .error (⟨.pageFault, 0x0B⟩, va)
    else .ok l

/-- Why an element of a `qeval` does not end: a fault, or a store that its parity queue cannot accept yet (R315). -/
abbrev EvalStop := Option (QFault × Word)

/-- One operator of an element (R355). -/
def evalOp (q : Query) (r : Region) (base : Word) (x : EvalAt) (op : EvalOp) (e : EvalRun) : Except EvalStop EvalRun :=
  let t := (evalTy q.prog).getD (.int true 64)
  let sw := evalSw q.prog
  let place := fun (i : Int) => x.slab * r.slabUnits * 1024 + i.toNat * sw
  match op with
  | .stop => .ok e
  | .plain c => let p := evalPlain t q.env.frm c e.st; .ok { e with st := p.1, flags := e.flags ||| p.2 }
  | .pushc i => .ok { e with st := evalConst q.prog i :: e.st }
  | .push k shift =>
    let i := (x.g : Int) + evalOff q.prog k + shift
    if i < 0 ∨ (x.ne : Int) ≤ i then .ok { e with st := evalConst q.prog 7 :: e.st }
    else
      match e.s.evalLoc q base (place i) false with
      | .error f => .error (some f)
      | .ok l =>
        match e.s.readUnit l.unit with
        | .error _ => .error (some (⟨.dataError, 0⟩, base + word (place i)))
        | .ok u => .ok { e with s := u.2, st := getBits u.1 (8 * l.inUnit) (8 * sw) :: e.st }
  | .sto k =>
    match e.st with
    | [] => .ok e
    | v :: rest =>
      let i := (x.g : Int) + evalOff q.prog k
      if i < 0 ∨ (x.ne : Int) ≤ i then .ok { e with st := rest }
      else
        match e.s.evalLoc q base (place i) true with
        | .error f => .error (some f)
        | .ok l =>
          if !e.s.qm.accepts l.unit then .error none
          else
            match e.s.writeUnitNow l.unit l.inUnit sw v with
            | .error _ => .error (some (⟨.dataError, 0⟩, base + word (place i)))
            | .ok u => .ok { e with s := u, st := rest }

/-- The operators of an element in order, up to END. -/
def evalRun (q : Query) (r : Region) (base : Word) (x : EvalAt) : List Nat → EvalRun → Except EvalStop EvalRun
  | [], e => .ok e
  | c :: rest, e =>
    match EvalOp.ofByte c with
    | none => .ok e
    | some .stop => .ok e
    | some op =>
      match evalOp q r base x op e with
      | .error f => .error f
      | .ok e' => evalRun q r base x rest e'

/-- The place of element `f` of a `qeval`. -/
def State.evalPlace (s : State) (q : Query) (r : Region) (f : Nat) : EvalAt :=
  evalAt r (q.sa - s.regionBase q.asid q.sa).toNat (evalSw q.prog) f

/-- Is element `f` the next of its slab (R357)? -/
def State.evalNext (s : State) (q : Query) (r : Region) (f : Nat) : Bool :=
  !q.done.testBit f && decide (f < q.count) &&
    (decide (f = 0) || q.done.testBit (f - 1) || decide ((s.evalPlace q r (f - 1)).slab ≠ (s.evalPlace q r f).slab))

/-- May element `f` of a `qeval` that ends still be evaluated: its chunk is in progress, its slab has met no fault, nor does the
element meet one (R348, R358)? -/
def State.evalFinishable (s : State) (q : Query) (r : Region) (f : Nat) : Bool :=
  match q.ending with
  | none => false
  | some e =>
    let base := s.regionBase q.asid q.sa
    let x := s.evalPlace q r f
    s.evalNext q r f && q.begun (f / 64) && decide (x.slab ≠ (e.2.2 - base).toNat / 1024 / r.slabUnits) &&
      (match evalRun q r base x (evalOps q.prog) ⟨s, [], 0⟩ with
        | .error (some _) => false
        | _ => true)

/-- `QEVAL_ELEMENT`: element `f`, the lowest of its slab not evaluated (R357). An element that meets a fault stores
nothing (R358). -/
def State.evalElem (s : State) (q : Query) (f : Nat) : State :=
  match s.regionAt q.asid q.sa with
  | none => s.endQuery q .pageFault 0 q.sa
  | some r =>
    let base := s.regionBase q.asid q.sa
    let x := s.evalPlace q r f
    if !s.evalNext q r f || (q.ending.isSome && !s.evalFinishable q r f) then s
    else
      match evalRun q r base x (evalOps q.prog) ⟨s, [], 0⟩ with
      | .error none => s
      | .error (some e) =>
        -- only the unit's row may have left the clean-row map (R319)
        let t := match e.1.cause, s.locate q.asid q.wid e.2 true false with
          | .dataError, .ok l => s.misread l.unit
          | _, _ => s
        t.endQuery q e.1.cause e.1.sub e.2
      | .ok e =>
        let q' := { q with done := q.done ||| 2 ^ f, applied := q.applied ||| 2 ^ f, flags := q.flags ||| e.flags }
        (e.s.setQuery q').settleWrite q.id

/-! ### Acceptance (R358) -/

/-- The 96 bytes of the program through the checks of R193, dword by dword; the failing dword's address. -/
def State.readProgram (s : State) (p : Player) (sp : Word) : Nat → Except (Cause × Word) (List Byte × State)
  | 0 => .ok ([], s)
  | n + 1 =>
    let va := sp + word (8 * (11 - n))
    match checkAccess s p va 8 8 .load with
    | .error c => .error (c, va)
    | .ok pa =>
      match s.readProgram p sp n with
      | .error e => .error e
      | .ok rest => .ok (natToBytes (s.spadRead p pa 8) 8 ++ rest.1, rest.2.correctSpad pa 8)

/-- Check 5: the region at sa is the loaded window, SLAB, and holds every element (R356). -/
def State.windowOk (s : State) (p : Player) (q : Query) (sw : Nat) : Bool :=
  match s.regionAt q.asid q.sa, s.regionAt q.asid p.q.qewin with
  | some r, some w =>
    let off := (q.sa - s.regionBase q.asid q.sa).toNat
    decide (p.q.qewin ≠ 0) && decide (r.id = w.id) && r.slab && decide (off + q.n * sw ≤ r.units * 1024) &&
      (p.q.loading || decide (p.q.window = some r.id))
  | _, _ => false

def runEval (i : Instr) (k : Nat) (s : State) : Out :=
  match s.member? k with
  | none => .next s
  | some (cv, m) =>
    let sp := m.scal.getD 1 0
    let q := newQuery s.me cv m ⟨.eval, 0, 0, 0, 0, 0, 0, 0⟩
    if sp.toNat % 32 ≠ 0 then trapQuery k ⟨.misaligned, 0, some sp.toNat⟩ s
    else
      match s.readProgram s.me sp 12 with
      | .error e => trapQuery k ⟨e.1, 0, some e.2.toNat⟩ s
      | .ok (prog, s) =>
        match refusedByte prog with
        | some b => trapQuery k ⟨.illegalType, 0, some b⟩ s
        | none =>
          let sw := evalSw prog
          if q.sa.toNat % sw ≠ 0 then trapQuery k ⟨.misaligned, 0, some q.sa.toNat⟩ s
          else if q.n ≠ 0 && !s.windowOk s.me q sw then trapQuery k ⟨.pageFault, 0, some q.sa.toNat⟩ s
          else if s.me.q.loading then .next { s with me := { s.me with waiting := some i } }
          else s.acceptQuery k i (cv.env s.me) [] { q with prog := prog } false

def descQeval (c : Bool) (p a : SReg) : TileDesc :=
  queryDesc (fun _ => []) (fun _ => []) [] [a, p] (fun _ => true) never (runEval (.qeval c p a))
def execQeval (c : Bool) (p a : SReg) (s : State) : Out := runTile (.qeval c p a) (descQeval c p a) s

end Sys2Proof.Machine
end

