-- ==== Sys2Proof/Machine/Sha.lean ====
section
/-! DEFINITION. The digest SHA-256 that module headers, sections and measurements carry (spec/03_assembly_and_objects.md
R64, R65, R72; spec/23_worlds_and_contexts.md R430), and the key derivation HKDF over it (R418). The spec names the
functions; their definitions are those of FIPS 180-4, RFC 2104 and RFC 5869 (notes/assumptions/80.md). -/

set_option Elab.async false

namespace Sys2Proof.Machine

/-- The first 32 bits of the fractions of the cube roots of the first 64 primes, in two halves. -/
def shaRoundsLow : List Nat :=
  [ 0x428A2F98, 0x71374491, 0xB5C0FBCF, 0xE9B5DBA5, 0x3956C25B, 0x59F111F1, 0x923F82A4, 0xAB1C5ED5,
    0xD807AA98, 0x12835B01, 0x243185BE, 0x550C7DC3, 0x72BE5D74, 0x80DEB1FE, 0x9BDC06A7, 0xC19BF174,
    0xE49B69C1, 0xEFBE4786, 0x0FC19DC6, 0x240CA1CC, 0x2DE92C6F, 0x4A7484AA, 0x5CB0A9DC, 0x76F988DA,
    0x983E5152, 0xA831C66D, 0xB00327C8, 0xBF597FC7, 0xC6E00BF3, 0xD5A79147, 0x06CA6351, 0x14292967 ]

def shaRoundsHigh : List Nat :=
  [ 0x27B70A85, 0x2E1B2138, 0x4D2C6DFC, 0x53380D13, 0x650A7354, 0x766A0ABB, 0x81C2C92E, 0x92722C85,
    0xA2BFE8A1, 0xA81A664B, 0xC24B8B70, 0xC76C51A3, 0xD192E819, 0xD6990624, 0xF40E3585, 0x106AA070,
    0x19A4C116, 0x1E376C08, 0x2748774C, 0x34B0BCB5, 0x391C0CB3, 0x4ED8AA4A, 0x5B9CCA4F, 0x682E6FF3,
    0x748F82EE, 0x78A5636F, 0x84C87814, 0x8CC70208, 0x90BEFFFA, 0xA4506CEB, 0xBEF9A3F7, 0xC67178F2 ]

/-- The first 32 bits of the fractions of the square roots of the first eight primes. -/
def shaStart : List Nat :=
  [ 0x6A09E667, 0xBB67AE85, 0x3C6EF372, 0xA54FF53A, 0x510E527F, 0x9B05688C, 0x1F83D9AB, 0x5BE0CD19 ]

/-- A 32-bit word turned right by `n`. -/
def turnRight (n x : Nat) : Nat := (x / 2 ^ n + x * 2 ^ (32 - n)) % 2 ^ 32

/-- Three words combined by exclusive or. -/
def xor3 (x y z : Nat) : Nat := (x ^^^ y) ^^^ z

/-- The 64 words of a block's schedule, the newest first; `n` words are still to come. -/
def shaSchedule : (n : Nat) → (w : List Nat) → List Nat
  | 0, w => w
  | n + 1, w =>
    let x := w.getD 1 0
    let y := w.getD 14 0
    let s1 := xor3 (turnRight 17 x) (turnRight 19 x) (x / 2 ^ 10)
    let s0 := xor3 (turnRight 7 y) (turnRight 18 y) (y / 2 ^ 3)
    shaSchedule n ((s1 + w.getD 6 0 + s0 + w.getD 15 0) % 2 ^ 32 :: w)

/-- One round on the eight working words. -/
def shaRound (v : List Nat) (k w : Nat) : List Nat :=
  match v with
  | [a, b, c, d, e, f, g, h] =>
    let t := h + xor3 (turnRight 6 e) (turnRight 11 e) (turnRight 25 e) + ((e &&& f) ^^^ ((2 ^ 32 - 1 - e) &&& g)) + k + w
    let u := xor3 (turnRight 2 a) (turnRight 13 a) (turnRight 22 a) + xor3 (a &&& b) (a &&& c) (b &&& c)
    [(t + u) % 2 ^ 32, a, b, c, (d + t) % 2 ^ 32, e, f, g]
  | _ => v

/-- A big-endian word of a message. -/
def bigEndian (b : List Byte) : Nat := b.foldl (fun x y => x * 256 + y.toNat) 0

/-- The message with its padding: a one bit, zeros, the length in bits. -/
def shaPadded (b : List Byte) : List Byte :=
  b ++ [0x80] ++ List.replicate ((119 - b.length % 64) % 64) 0 ++ (natToBytes (8 * b.length) 8).reverse

/-- The hash after the blocks of `b`, `n` in number. -/
def shaBlocks : (n : Nat) → (v : List Nat) → (b : List Byte) → List Nat
  | 0, v, _ => v
  | n + 1, v, b =>
    let first := (List.range 16).map (fun i => bigEndian ((b.drop (4 * i)).take 4))
    let w := (shaSchedule 48 first.reverse).reverse
    let last := ((shaRoundsLow ++ shaRoundsHigh).zip w).foldl (fun v x => shaRound v x.1 x.2) v
    shaBlocks n (List.zipWith (fun x y => (x + y) % 2 ^ 32) v last) (b.drop 64)

/-- The 32 bytes of the digest. -/
def sha (b : List Byte) : List Byte :=
  let p := shaPadded b
  ((shaBlocks (p.length / 64) shaStart p).map (fun x => (natToBytes x 4).reverse)).flatten

/-- HMAC-SHA-256 (RFC 2104), for a key of at most 64 bytes. -/
def hmac (key msg : List Byte) : List Byte :=
  let k := key ++ zeros (64 - key.length)
  sha (k.map (fun b => b ^^^ 0x5C) ++ sha (k.map (fun b => b ^^^ 0x36) ++ msg))

/-- HKDF-SHA-256 (RFC 5869) for an output of 32 bytes: extract, then one block of expand. -/
def hkdf (salt ikm info : List Byte) : List Byte := hmac (hmac salt ikm) (info ++ [1])

end Sys2Proof.Machine
end

