-- ==== Sys2Proof/Machine/Matrix.lean ====
section
/-! DEFINITION. The matrix array (spec/13_matrix_array.md R264 to R282): families and grants, acceptance of the six
instructions of major 0x35, the arbiter's cycles and the landing of write-back chunks. -/

set_option Elab.async false

namespace Sys2Proof.Machine

/-! ### Families (R264) -/

/-- One row of the table of R264. -/
structure Family where
  /-- accumulator type -/
  acc : ElemTy
  n : Nat
  asize : Nat
  /-- geometry rows -/
  rows : Nat
  /-- accumulator store slots for a row of the grant -/
  slots : Nat
  scaled : Bool
  /-- family group of R277 -/
  group : Nat
  deriving DecidableEq, Repr

def famFp4 : Family := ⟨.flt .fp32, 512, 8, 256, 2, true, 0⟩
def famFp8 : Family := ⟨.flt .fp32, 256, 4, 256, 1, true, 1⟩
def famInt8 : Family := ⟨.int true 32, 256, 4, 256, 1, false, 1⟩
def famBf16 : Family := ⟨.flt .fp32, 256, 4, 128, 1, false, 2⟩
def famFp32 : Family := ⟨.flt .fp32, 64, 1, 32, 1, false, 3⟩
def famFp64 : Family := ⟨.flt .fp64, 64, 2, 32, 1, false, 3⟩

def isFp8 (t : ElemTy) : Bool := t == .flt .e4m3 || t == .flt .e5m2

/-- The family of a pair of types. -/
def Family.of (a b : ElemTy) : Option Family :=
  match a, b with
  | .flt .e2m1, .flt .e2m1 => some famFp4
  | .int _ 8, .int _ 8 => some famInt8
  | .flt .bf16, .flt .bf16 => some famBf16
  | .flt .fp16, .flt .fp16 => some famBf16
  | .flt .fp32, .flt .fp32 => some famFp32
  | .flt .fp64, .flt .fp64 => some famFp64
  | a, b => if isFp8 a && isFp8 b then some famFp8 else none

/-- The family of two type codes. -/
def Family.ofCodes (a b : Nat) : Option Family :=
  match ElemTy.ofCode a, ElemTy.ofCode b with
  | some x, some y => Family.of x y
  | _, _ => none

/-- Types that are the A code of some family. -/
def tyMatrix (e : Env) : Bool := (Family.of e.ty e.ty).isSome

def Grant.aTy (g : Grant) : ElemTy := (ElemTy.ofCode g.afmt.toNat).getD .e8m0
def Grant.bTy (g : Grant) : ElemTy := (ElemTy.ofCode g.bfmt.toNat).getD .e8m0
def Grant.family (g : Grant) : Family := (Family.of g.aTy g.bTy).getD famFp32

/-- Accumulator elements M·N. -/
def Grant.size (g : Grant) : Nat := g.rows.toNat * g.cols.toNat

/-! ### Values -/

/-- A list of `w`-bit values as one number, the first lowest. -/
def packVals (w : Nat) (l : List Nat) : Nat := l.foldr (fun v r => v % 2 ^ w + r * 2 ^ w) 0

/-- Value `k` of a packed list. -/
def valAt (x w k : Nat) : Nat := getBits x (k * w) w

/-! ### Open blocks (R272, R282) -/

/-- A term or a sum of terms: a two's-complement sum in units of 2^-32 in bits [95:0], marks NaN, +inf, -inf in bits
[98:96]. Nothing else of a term reaches the close, since a save keeps nothing else of an open block (R282) and no save may
show in the result (R280). -/
def blkTerm (v : FVal) : Nat :=
  match v with
  | .zero _ => 0
  | .nan _ _ _ _ => 2 ^ 96
  | .inf false => 2 ^ 97
  | .inf true => 2 ^ 98
  | .fin s m e =>
    let x : Int := (m * 2 ^ (e + 32).toNat : Nat)
    wrap 96 (if s then -x else x)

/-- The sum of the terms so far and one more. -/
def blkAdd (a b : Nat) : Nat := (a + b) % 2 ^ 96 + (getBits a 96 3 ||| getBits b 96 3) * 2 ^ 96

/-- The exact value of a block, with NV for opposite infinities (R127). A block with a NaN term is the canonical qNaN, and then
two infinities raise nothing; a block whose terms cancel or are all zeros enters the accumulator as +0: these are the model's
choices (notes/assumptions/84.md). -/
def blkValue (b : Nat) : FRes :=
  if b.testBit 96 then ⟨.canonical, 0⟩
  else if b.testBit 97 && b.testBit 98 then ⟨.canonical, flagNV⟩
  else if b.testBit 97 then ⟨.inf false, 0⟩
  else if b.testBit 98 then ⟨.inf true, 0⟩
  else ⟨ofInt (toSigned 96 b) (-32), 0⟩

/-- A scaled block as it enters the accumulator (R126, R127). -/
def blkScaled (sa sb b : Nat) : FRes :=
  if sa = 255 ∨ sb = 255 then ⟨.canonical, flagNV⟩
  else
    let r := blkValue b
    match r.v with
    | .fin s m e => ⟨.fin s m (e + sa + sb - 254), r.flags⟩
    | v => ⟨v, r.flags⟩

/-- `mxop` negates numbers only (R150, R272). -/
def signTerm (neg : Bool) (r : FRes) : FRes := if neg then ⟨r.v.negate, r.flags⟩ else r

/-! ### One step on one accumulator (R272) -/

/-- The parts of an element that a step changes. -/
structure Cell where
  val : Nat
  blk : Nat
  used : Bool
  flags : Flags
  deriving DecidableEq, Repr

/-- The term of an active element. -/
def Family.term (F : Family) (ta tb : ElemTy) (neg : Bool) (frm : Rm) (a b : Nat) (c : Cell) : Cell :=
  if F.scaled then
    let t := signTerm neg (mulVal (elemVal ta a) (elemVal tb b))
    { c with blk := blkAdd c.blk (blkTerm t.v), used := true, flags := c.flags ||| t.flags }
  else
    match F.acc with
    | .flt n =>
      let r := (fmaVal frm neg false (elemVal ta a) (elemVal tb b) (unpack n.fmt c.val)).round n.fmt frm
      { c with val := r.val, flags := c.flags ||| r.flags }
    | _ =>
      let p := intVal ta.signed 8 a * intVal tb.signed 8 b
      { c with val := wrap 32 ((c.val : Int) + (if neg then -p else p)) }

/-- The close of a block (R126). -/
def Family.close (sa sb : Nat) (frm : Rm) (c : Cell) : Cell :=
  if c.used then
    let b := blkScaled sa sb c.blk
    let r := (addVal frm (unpack FName.fp32.fmt c.val) b.v).round FName.fp32.fmt frm
    ⟨r.val, 0, false, c.flags ||| b.flags ||| r.flags⟩
  else c

/-- The element at (i, j) after a step. The scales of row i and column j are bytes i and 128·L + j of t1, as R272 places them
and not one for 32 elements as in R90 (notes/assumptions/98.md). -/
def Accum.cell (a : Accum) (F : Family) (neg e : Bool) (va vb active scales : Nat) (frm : Rm) (k : Nat) : Cell :=
  let n := a.grant.cols.toNat
  let i := k / n
  let j := k % n
  let c : Cell := ⟨valAt a.vals F.acc.width k, valAt a.blk 128 k, a.used.testBit k, 0⟩
  let ta := a.grant.aTy
  let tb := a.grant.bTy
  let c1 := if active.testBit i && active.testBit j then
      F.term ta tb neg frm (valAt va ta.width i) (valAt vb tb.width j) c
    else c
  if F.scaled && e then
    Family.close (getBits scales (8 * i) 8) (getBits scales (8 * (128 * a.grant.rows.toNat + j)) 8) frm c1
  else c1

/-- A rank-1 step. -/
def Accum.step (a : Accum) (neg e : Bool) (va vb active scales : Nat) (frm : Rm) : Accum :=
  let F := a.grant.family
  let cs := (List.range a.grant.size).map (a.cell F neg e va vb active scales frm)
  { a with
    vals := packVals F.acc.width (cs.map Cell.val)
    blk := packVals 128 (cs.map Cell.blk)
    used := packVals 1 (cs.map (fun c => c.used.toNat))
    flags := cs.foldl (fun f c => f ||| c.flags) a.flags }

/-- `mxzero` (R273). -/
def Accum.zero (a : Accum) : Accum := { a with vals := 0, blk := 0, used := 0, poison := 0, soft := 0, hard := 0 }

/-! ### Players and their accumulators -/

/-- The attached accumulator. -/
def Player.attached (p : Player) : Option Accum := p.accum.find? (fun a => !a.detached)

/-- Changes the attached accumulator. -/
def Player.updAttached (p : Player) (f : Accum → Accum) : Player :=
  { p with accum := p.accum.map (fun a => if a.detached then a else f a) }

/-- The accumulator the array works for: the oldest. -/
def Player.serving (p : Player) : Option Accum := p.accum.head?

/-- Changes the oldest accumulator, or drops it. -/
def Player.updServing (p : Player) (f : Accum → Option Accum) : Player :=
  match p.accum with
  | [] => p
  | a :: rest => { p with accum := (match f a with
      | some b => [b]
      | none => []) ++ rest }

def Grant.slots (g : Grant) : Nat := g.rows.toNat * g.family.slots

/-- Is a player's party being restored? Its accumulators then wait for their slots (R282). -/
def State.restoring (s : State) (p : Player) : Bool :=
  s.cp.parties.any (fun x => decide (x.launch = p.place.launch) && decide (x.index = p.place.party) && decide (x.saved = 3))

/-- Slots in use in a cluster's store (R266). -/
def State.slotsUsed (s : State) (cluster : Nat) : Nat :=
  ((s.players.filter (fun p => p.live && decide (p.place.cluster = cluster) && !s.restoring p)).map
    (fun p => (p.accum.map (fun a => a.grant.slots)).sum)).sum

/-- Does an attachment of the cluster that reached the array earlier wait (R266)? -/
def attachAhead (s : State) (cluster id : Nat) : List (Nat × Nat) → Bool
  | [] => false
  | (q, e) :: rest =>
    if q = id && e = 2 then false
    else (decide (e = 2) && decide ((s.coreOf q) / 4 = cluster)) || attachAhead s cluster id rest

/-! ### Checks before acceptance (R270, R275) -/

def trapGrant (k : Nat) (m : Member) (s : State) : Out := trapMember k .matrixGrant 0 m.addr 2 s

/-- An illegal-type before acceptance; the manual states no `ETVAL` (notes/assumptions/5.md). -/
def trapArray (k : Nat) (s : State) : Out :=
  let r := s.free
  trapMember k .illegalType 0 (word r.1) 2 r.2

/-- Is a register in the accumulator group? -/
def Grant.holds (g : Grant) (r : Nat) : Bool := groupsMeet (r, 1) (g.acc.toNat, g.asize.toNat)

/-- Does the instruction act on the player's grant? -/
def grantFor (p : Player) (d : TReg) : Bool := p.grant.att && decide (p.grant.acc.toNat = d.val)

/-! ### mxattach (R271) -/

/-- Runs a matrix member: `body` gets the convoy and the member. -/
def withMember (k : Nat) (s : State) (body : Convoy → Member → Out) : Out :=
  match s.member? k with
  | none => .next s
  | some (cv, m) => body cv m

/-- The position of the accumulator group that a register bit belongs to, if any (R265). -/
def attachReads (d : Nat) (F : Family) (lanes : Nat) (x : Nat × Nat) : Option Nat :=
  if d ≤ x.1 ∧ x.1 < d + F.asize then some (((x.1 - d) * (2048 * lanes) + x.2) / F.acc.width) else none

def runAttach (i : Instr) (d a b : TReg) (k : Nat) (s : State) : Out :=
  withMember k s (fun _ m =>
    if s.me.grant.att then trapGrant k m s
    else
      match Family.ofCodes a.val b.val with
      | none => trapArray k s
      | some F =>
        let l := s.me.lanes
        let c := s.me.place.cluster
        if attachAhead s c s.me.id s.eng.arrivals || decide (1024 < s.slotsUsed c + l * F.slots) then
          .next (s.waitForSlot 2 i)
        else
          let g : Grant := ⟨true, 0, BitVec.ofNat 6 d.val, BitVec.ofNat 4 F.asize, BitVec.ofNat 6 a.val, BitVec.ofNat 6 b.val,
            BitVec.ofNat 10 l, BitVec.ofNat 10 F.n⟩
          let reads := fun (x : Nat × Nat) => attachReads d.val F l x
          match lowestStop (s.me.tbad.filterMap (fun x => (reads x).map (fun f => (f, x)))) with
          | some (f, x) => trapTileError k f m.addr x.1 x.2 (s.leaveQueue 2)
          | none =>
          let acc : Accum := ⟨g, groupOf s.me.tregs (2048 * l) d.val F.asize, 0, 0, 0, 0, 0, 0, [], 0, false⟩
          let t := (s.leaveQueue 2).correctTile (s.me.tsoft.filter (fun x => (reads x).isSome))
          .next (({ t with me := { t.me with grant := g, accum := t.me.accum ++ [acc] } }).finishMember k))

/-! ### mxop and mxopn (R272) -/

/-- The elements whose mask or operands the step reads. -/
def stepSpan (e : Env) (g : Grant) : Nat := min e.flim (max g.rows.toNat g.cols.toNat)

/-- The position at which a step reads a register bit, if it does: positions 0 to M − 1 of ta, 0 to N − 1 of tb, the mask,
the scale bytes; the lowest where it reads the bit twice. -/
def stepReads (lanes : Nat) (g : Grant) (a b : TReg) (mode : MaskMode) (eb : Bool) (n : Nat) (x : Nat × Nat) : Option Nat :=
  let i := x.2 / g.aTy.width
  let j := x.2 / g.bTy.width
  let y := x.2 / 8
  let off := 128 * lanes
  ((if x.1 = a.val ∧ i < g.rows.toNat then [i] else []) ++ (if x.1 = b.val ∧ j < g.cols.toNat then [j] else []) ++
    (if x.1 = 0 ∧ mode ≠ .unmasked then (if mode = .pip then (if 64 * x.2 < n then [64 * x.2] else []) else if x.2 < n then [x.2] else [])
      else []) ++
    (if eb ∧ x.1 = 1 ∧ y < g.rows.toNat then [y] else []) ++
    (if eb ∧ x.1 = 1 ∧ off ≤ y ∧ y < off + g.cols.toNat then [y - off] else [])).min?

/-- What stops a step before acceptance: a lost chunk (R12) or an uncorrectable operand bit (R279), the lowest f (R250). -/
def stepStop (p : Player) (g : Grant) (a b : TReg) (mode : MaskMode) (eb : Bool) (n : Nat) : Option Stop :=
  let bad := lowestStop (p.tbad.filterMap (fun x => (stepReads p.lanes g a b mode eb n x).map (fun f => (f, x))))
  let lost := (List.range n).find? (fun f => mode = .pip && p.lostChunk 0 (f / 64))
  match lost, bad with
  | some f, some (h, x) => if h < f then some (.tile h x.1 x.2) else some (.partner f)
  | some f, none => some (.partner f)
  | none, some (h, x) => some (.tile h x.1 x.2)
  | none, none => none

def runStep (neg : Bool) (d a b : TReg) (mode : MaskMode) (eb : Bool) (k : Nat) (s : State) : Out :=
  withMember k s (fun cv m =>
    let p := s.me
    let g := p.grant
    let used := [a.val, b.val] ++ (if mode = .unmasked then [] else [0]) ++ (if eb then [1] else [])
    if !grantFor p d || used.any g.holds then trapGrant k m s
    else if !g.family.scaled && eb then trapGrant k m s
    else if g.family.scaled && g.bstep = 31 && !eb then trapGrant k m s
    else
      let e := cv.env p
      if e.code ≠ g.afmt.toNat then trapArray k s
      else
        let n := stepSpan e g
        match stepStop p g a b mode eb n with
        | some (.partner f) => trapMember k .partnerFault (BitVec.ofNat 64 f) m.addr 2 s
        | some (.tile f reg bit) => trapTileError k f m.addr reg bit s
        | none =>
          let t0 := p.tregs[0]
          let active := ((List.range n).filter (selected mode t0)).foldl (fun x f => x ||| 2 ^ f) 0
          let w : MxWork := .op neg eb p.tregs[a] p.tregs[b] active (if eb then p.tregs[1] else 0) cv.frm
          let q := p.updAttached (fun x => { x with work := x.work ++ [w] })
          let bs := if g.family.scaled then (if eb then 0 else g.bstep + 1) else g.bstep
          let soft := p.tsoft.filter (fun x => (stepReads p.lanes g a b mode eb n x).isSome)
          .next (((s.withMe { q with grant := { g with bstep := bs } }).correctTile soft).finishMember k))

/-! ### mxzero, mxsync, mxdetach (R273, R274) -/

def runZero (d : TReg) (k : Nat) (s : State) : Out :=
  withMember k s (fun _ m =>
    if !grantFor s.me d then trapGrant k m s
    else
      let q := s.me.updAttached (fun x => { x with work := x.work ++ [.zero] })
      .next ((s.withMe { q with grant := { q.grant with bstep := 0 } }).finishMember k))

def runBack (det : Bool) (d tp : TReg) (k : Nat) (s : State) : Out :=
  withMember k s (fun _ m =>
    let g := s.me.grant
    if !grantFor s.me d || g.bstep ≠ 0 then trapGrant k m s
    else if g.holds tp.val then trapArray k s
    else
      let t := s.takeId
      let q := (s.me.updAttached (fun x => { x with work := x.work ++ [.back det tp.val t.1 0 (s.memberPc k)] })).own tp.val (g.size / 64) t.1
      .next ((t.2.withMe (if det then { q with grant := Grant.none } else q)).finishMember k))

/-! ### Instructions (R269) -/

/-- A matrix instruction as a convoy member (R270). -/
def matrixDesc (mode : MaskMode) (types : Env → Bool) (dst : Nat × Nat) (srcs : List (Nat × Nat)) (pips : List Nat)
    (run : Nat → State → Out) : TileDesc where
  cls := .async
  priv := false
  mode := mode
  typeOk := types
  dsts := fun _ => [dst]
  srcs := fun _ => srcs
  regs := []
  pips := pips
  matrix := true
  noDet := fun _ => false
  post := fun _ => true
  kind := .run run (fun _ k _ => run k) (fun _ _ _ => Look.clear)

def descMxattach (c : Bool) (d a b : TReg) : TileDesc :=
  matrixDesc .unmasked (fun _ => (Family.ofCodes a.val b.val).isSome)
    (d.val, ((Family.ofCodes a.val b.val).map Family.asize).getD 1) [] [] (runAttach (.mxattach c d a b) d a b)
def execMxattach (c : Bool) (d a b : TReg) (s : State) : Out := runTile (.mxattach c d a b) (descMxattach c d a b) s

def descMxdetach (d p : TReg) : TileDesc := matrixDesc .unmasked tyAny (d.val, 1) [] [p.val] (runBack true d p)
def execMxdetach (c : Bool) (d p : TReg) (s : State) : Out := runTile (.mxdetach c d p) (descMxdetach d p) s

def descMxzero (d : TReg) : TileDesc := matrixDesc .unmasked tyAny (d.val, 1) [] [] (runZero d)
def execMxzero (c : Bool) (d : TReg) (s : State) : Out := runTile (.mxzero c d) (descMxzero d) s

def descMxsync (d p : TReg) : TileDesc := matrixDesc .unmasked tyAny (d.val, 1) [] [p.val] (runBack false d p)
def execMxsync (c : Bool) (d p : TReg) (s : State) : Out := runTile (.mxsync c d p) (descMxsync d p) s

/-- A step at issue: `TTY.G` = `TTY.RC` = 0 and an A code (R270). -/
def stepDesc (neg : Bool) (d a b : TReg) (m : MaskMode) (e : Bool) : TileDesc :=
  matrixDesc m (fun v => decide (v.g = 1) && decide (v.rc = 1) && tyMatrix v) (d.val, 1)
    ([(a.val, 1), (b.val, 1)] ++ (if e then [(1, 1)] else [])) [] (runStep neg d a b m e)

def descMxop (d a b : TReg) (m : MaskMode) (e : Bool) : TileDesc := stepDesc false d a b m e
def execMxop (c : Bool) (d a b : TReg) (m : MaskMode) (e : Bool) (s : State) : Out :=
  runTile (.mxop c d a b m e) (descMxop d a b m e) s

def descMxopn (d a b : TReg) (m : MaskMode) (e : Bool) : TileDesc := stepDesc true d a b m e
def execMxopn (c : Bool) (d a b : TReg) (m : MaskMode) (e : Bool) (s : State) : Out :=
  runTile (.mxopn c d a b m e) (descMxopn d a b m e) s

/-! ### The array's own steps (R277, R278) -/

/-- `MXATTACH_LOAD_DONE` -/
def execMxattachLoadDone (p : Nat) (s : State) : Out :=
  .next (s.updPlayer p (fun q => { q with accum := q.accum.map (fun a => { a with loaded := true }) }))

/-- Does the array hold a step or a zeroing of this player that the arbiter may serve? -/
def Accum.waitsStep (a : Accum) : Bool :=
  a.loaded && (match a.work with
    | .op _ _ _ _ _ _ _ :: _ => true
    | .zero :: _ => true
    | _ => false)

/-- The store is read: correctable errors are corrected, uncorrectable ones poison their rows (R279). With the accumulator
come the numbers of both, which are counted (R447). -/
def Accum.scan (a : Accum) : Accum × Nat × Nat :=
  ({ a with soft := 0, hard := 0, poison := a.poison ||| a.hard }, popCount a.soft 256, popCount a.hard 256)

/-- What a scan of a player's accumulator found is counted, and each correction enters the log (R279, R444, R447). -/
def State.scanned (s : State) (p : Player) (x : Accum × Nat × Nat) : State :=
  (List.range x.2.1).foldl (fun (t : State) _ => t.report { blankRec 0x0D 2 4 p with pc := 0 } none)
    ((s.count 4 x.2.1).count 5 x.2.2)

/-- Serves up to `room` rows of the oldest step: the accumulator and the rows taken. -/
def Accum.serve (a : Accum) (room : Nat) : Accum × Nat :=
  match a.work with
  | .op neg e va vb active scales frm :: rest =>
    let need := a.grant.rows.toNat - a.served
    if room < need then ({ a with served := a.served + room }, room)
    else ({ (a.step neg e va vb active scales (Rm.ofCode frm.toNat)) with work := rest, served := 0 }, need)
  | .zero :: rest => ({ a.zero with work := rest }, 0)
  | _ => (a, 0)

/-- The players of a cluster with a waiting step, each with its family group and its core and slot. -/
def State.stepQueue (s : State) (cl : Nat) : List (Nat × Nat × Nat) :=
  (s.players.filter (fun p => p.live && !p.frozen && decide (p.place.cluster = cl))).filterMap (fun p =>
    match p.serving with
    | some a => if a.waitsStep then some (p.id, a.grant.family.group, p.place.core * 16 + p.place.slot) else none
    | none => none)

/-- Visits players in order until the rows are filled; the core and slot behind which the next visits begin. A step that
the geometry cut short goes on first. -/
def serveAll : List (Nat × Nat × Nat) → Nat → Nat → State → State × Nat
  | [], _, last, s => (s, last)
  | v :: rest, room, last, s =>
    if room = 0 then (s, last)
    else
      match s.player? v.1 with
      | none => serveAll rest room last s
      | some p =>
        match p.serving with
        | none => serveAll rest room last s
        | some a =>
          let c := a.scan
          let r := c.1.serve room
          let last := if r.1.served = 0 then v.2.2 else (v.2.2 + 63) % 64
          serveAll rest (room - r.2) last
            ((s.updPlayer v.1 (fun q => q.updServing (fun _ => some r.1))).scanned p c)

/-- Rows of the geometry of a family group. -/
def groupRows (g : Nat) : Nat :=
  match g with
  | 0 => 256
  | 1 => 256
  | 2 => 128
  | _ => 32

/-- `MATRIX_ARBITER_CYCLE`: the next family group in rotation that has steps waiting, its players in rotating order. -/
def execMatrixArbiterCycle (cl : Nat) (s : State) : Out :=
  let ar := (lookupNat cl s.eng.arbiters).getD ⟨3, []⟩
  let q := s.stepQueue cl
  match ([1, 2, 3, 4].map (fun i => (ar.group + i) % 4)).find? (fun g => q.any (fun v => v.2.1 = g)) with
  | none => .next s
  | some g =>
    let seat := (lookupNat g ar.seats).getD 63
    let mine := sortBy (fun (v : Nat × Nat × Nat) => (v.2.2 + 63 - seat) % 64) (q.filter (fun v => v.2.1 = g))
    let r := serveAll mine (groupRows g) seat s
    .next { r.1 with eng := { r.1.eng with arbiters := setNat cl ⟨g, setNat g r.2 ar.seats⟩ r.1.eng.arbiters } }

/-- Does chunk `c` hold a position of a poisoned row (R279)? -/
def Accum.poisoned (a : Accum) (c : Nat) : Bool :=
  let n := a.grant.cols.toNat
  (List.range 64).any (fun i => a.poison.testBit ((64 * c + i) / n))

/-- The registers after chunk `c` has been written (R265, R274). -/
def Accum.land (a : Accum) (t : Vector Nat 64) (c : Nat) : Vector Nat 64 :=
  let w := a.grant.family.acc.width
  let bits := 2048 * a.grant.rows.toNat
  let r := a.grant.acc.toNat
  let n := a.grant.asize.toNat
  setGroup t bits r n (setBits (groupOf t bits r n) (64 * c * w) (64 * w) (getBits a.vals (64 * c * w) (64 * w)))

/-- `MATRIX_CHUNK_LAND`: the next chunk of the oldest write-back of a player. -/
def execMatrixChunkLand (p c : Nat) (s : State) : Out :=
  match s.player? p with
  | none => .next s
  | some q =>
    match q.serving with
    | none => .next s
    | some a0 =>
      match a0.work with
      | .back det tp item landed pc :: rest =>
        if c ≠ landed ∨ !a0.loaded ∨ q.frozen then .next s
        else
          let found := a0.scan
          let a := found.1
          let u := s.scanned q found
          let last : Bool := decide (a.grant.size / 64 ≤ c + 1)
          let a1 : Accum := if last then { a with work := rest, flags := 0 }
            else { a with work := MxWork.back det tp item (landed + 1) pc :: rest, flags := 0 }
          let keep : Option Accum := if last && det then none else some a1
          let q1 := { q.updServing (fun _ => keep) with flags := q.flags ||| a.flags }
          if a.poisoned c then
            let r := u.free
            let rec' : FaultRec := ⟨Cause.dataError.code, 2, BitVec.ofNat 6 tp, 0, BitVec.ofNat 20 c, word r.1, none⟩
            .next ((r.2.updPlayer p (fun _ => (q1.enterFault rec').faultItem item)).report
              { s.recAt 0x0D 2 0 q pc with eidx := 64 * c } none)
          else .next (u.updPlayer p (fun _ => ({ q1 with tregs := a.land q1.tregs c }).setPip tp c))
      | _ => .next s

end Sys2Proof.Machine
end

