-- ==== Sys2Proof/Machine/Permute.lean ====
section
/-! DEFINITION. Permutes of major 0x2E and mask logic of major 0x2F (spec/07_conversions_reductions_permutes.md R180 to
R188). -/

set_option Elab.async false

namespace Sys2Proof.Machine

/-! ### No overlap at all (R181) -/

/-- The destination meets neither ta nor the index group. -/
def apart (d : TReg) (rs : List TReg) (e : Env) : Bool := rs.all (fun r => !groupsMeet (d.val, e.g) (r.val, e.g))

/-- A permute that copies the element `src e ws t0 vals f` of ta, all-zero bits where there is none. -/
def pickDesc (regs : List SReg) (idxs : List TReg) (src : Env → List Word → Nat → List Nat → Nat → Option Nat) (d a : TReg)
    (m : MaskMode) : TileDesc :=
  { elemDesc .perm (apart d (a :: idxs)) m regs (fun e => .group (e.view d))
      (fun e => .pick (e.view a) (fun ws t0 vs f => src e ws t0 vs f) :: idxs.map (fun r => .group (e.view r)))
      (fun e ws t0 vs f =>
        match src e ws t0 vs f with
        | some j => ⟨e.at a (vs.getD 0 0) j, 0⟩
        | none => ⟨0, 0⟩) with
    every := true }

/-! ### Compress and expand (R182) -/

def compressFold (d a : TReg) (m : MaskMode) : Fold where
  mode := m
  dst := fun e => some (.group (e.view d))
  srcs := fun e => [.group (e.view a)]
  init := fun _ _ => Marker.start
  step := fun e vs act _ fs acc =>
    (fs.filter act).foldl (fun (r : FoldAcc) f =>
      { r with
        x := e.setElem (e.view d) r.x r.mark.count (e.at a (vs.getD 0 0) f)
        mark := { r.mark with count := r.mark.count + 1 } }) acc
  last := fun e _ _ mk x =>
    if e.ta then
      let o := Opnd.group (e.view d)
      FoldEnd.keep (o.fillTail e ((List.range e.flim).foldl (fun z k => if k < mk.count then z else o.fill e z k) x))
    else FoldEnd.keep x
  zero := fun _ _ x => FoldEnd.keep x
  every := true

def descTcompress (d a : TReg) (m : MaskMode) : TileDesc := foldDesc .perm (apart d [a]) (compressFold d a m)
def execTcompress (c : Bool) (d a : TReg) (m : MaskMode) (s : State) : Out :=
  runTile (.tcompress c d a m) (descTcompress d a m) s

/-- The active elements before `f`. -/
def activeBefore (m : MaskMode) (t0 f : Nat) : Nat := ((List.range f).filter (selected m t0)).length

def descTexpand (d a : TReg) (m : MaskMode) : TileDesc :=
  pickDesc [] [] (fun _ _ t0 _ f => some (activeBefore m t0 f)) d a m
def execTexpand (c : Bool) (d a : TReg) (m : MaskMode) (s : State) : Out := runTile (.texpand c d a m) (descTexpand d a m) s

/-! ### Slides (R183) -/

/-- `tslideup` leaves td[f] for f < d: the element keeps its bits. -/
def slideUp (amount : List Word → Nat) (regs : List SReg) (d a : TReg) (m : MaskMode) : TileDesc :=
  { elemDesc .perm (apart d [a]) m regs (fun e => .group (e.view d))
      (fun e => [.pick (e.view a) (fun ws _ _ f => if amount ws ≤ f then some (f - amount ws) else none),
        .pick (e.view d) (fun _ _ _ _ => none)])
      (fun e ws _ vs f =>
        if amount ws ≤ f then ⟨e.at a (vs.getD 0 0) (f - amount ws), 0⟩ else ⟨e.at d (vs.getD 1 0) f, 0⟩) with
    every := true }

/-- `tslidedn` writes zero bits where f + d reaches `FLIM`. -/
def slideDown (amount : List Word → Nat) (regs : List SReg) (d a : TReg) (m : MaskMode) : TileDesc :=
  pickDesc regs [] (fun e ws _ _ f => if f + amount ws < e.flim then some (f + amount ws) else none) d a m

/-- The full 64-bit amount of the scalar forms. -/
def slideBy (ws : List Word) : Nat := (ws.getD 0 0).toNat

def descTslideup (d a : TReg) (i : BitVec 6) (m : MaskMode) : TileDesc := slideUp (fun _ => i.toNat) [] d a m
def execTslideup (c : Bool) (d a : TReg) (i : BitVec 6) (m : MaskMode) (s : State) : Out :=
  runTile (.tslideup c d a i m) (descTslideup d a i m) s

def descTslidedn (d a : TReg) (i : BitVec 6) (m : MaskMode) : TileDesc := slideDown (fun _ => i.toNat) [] d a m
def execTslidedn (c : Bool) (d a : TReg) (i : BitVec 6) (m : MaskMode) (s : State) : Out :=
  runTile (.tslidedn c d a i m) (descTslidedn d a i m) s

def descTslideupS (d a : TReg) (b : SReg) (m : MaskMode) : TileDesc := slideUp slideBy [b] d a m
def execTslideupS (c : Bool) (d a : TReg) (b : SReg) (m : MaskMode) (s : State) : Out :=
  runTile (.tslideupS c d a b m) (descTslideupS d a b m) s

def descTslidednS (d a : TReg) (b : SReg) (m : MaskMode) : TileDesc := slideDown slideBy [b] d a m
def execTslidednS (c : Bool) (d a : TReg) (b : SReg) (m : MaskMode) (s : State) : Out :=
  runTile (.tslidednS c d a b m) (descTslidednS d a b m) s

/-! ### Gather, transpose, broadcasts (R184, R185) -/

def descTrgather (d a b : TReg) (m : MaskMode) : TileDesc :=
  pickDesc [] [b] (fun e _ _ vs f =>
    let i := e.at b (vs.getD 1 0) f
    if i < e.flim then some i else none) d a m
def execTrgather (c : Bool) (d a b : TReg) (m : MaskMode) (s : State) : Out :=
  runTile (.trgather c d a b m) (descTrgather d a b m) s

/-- The element that `ttrans` moves to `f`. -/
def transFrom (e : Env) (f : Nat) : Option Nat :=
  let r := e.rowOf f
  let x := e.colOf f
  let es := e.rc * (x / e.rc) + r
  let j := x % e.rc
  if es < e.vl ∧ j * e.vl + es < e.flim then some (j * e.vl + es) else none

def descTtrans (d a : TReg) (m : MaskMode) : TileDesc := pickDesc [] [] (fun e _ _ _ f => transFrom e f) d a m
def execTtrans (c : Bool) (d a : TReg) (m : MaskMode) (s : State) : Out := runTile (.ttrans c d a m) (descTtrans d a m) s

def descTrowbc (d a : TReg) (m : MaskMode) : TileDesc := pickDesc [] [] (fun e _ _ _ f => some (e.colOf f)) d a m
def execTrowbc (c : Bool) (d a : TReg) (m : MaskMode) (s : State) : Out := runTile (.trowbc c d a m) (descTrowbc d a m) s

def descTcolbc (d a : TReg) (m : MaskMode) : TileDesc := pickDesc [] [] (fun e _ _ _ f => some (e.rowOf f * e.vl)) d a m
def execTcolbc (c : Bool) (d a : TReg) (m : MaskMode) (s : State) : Out := runTile (.tcolbc c d a m) (descTcolbc d a m) s

/-! ### textr (R186) -/

/-- Member `k` writes position 0 of ta to sd, whatever `FLIM` holds. -/
def runExtract (sd : SReg) (a : TReg) (k : Nat) (s : State) : Out :=
  match s.member? k with
  | none => .next s
  | some (cv, m) =>
    let e := cv.env s.me
    let v := e.view a
    match badBit e s.me [] 0 [] [.first v] 0 with
    | some b => trapTileError k 0 m.addr b.1 b.2 s
    | none =>
      let x := e.posGet v (e.read s.me.tregs v) 0
      let soft := s.me.tsoft.filter (readsBit e [] 0 [] [.first v] 0)
      .next (((s.wr sd (if e.ty.signed then BitVec.ofInt 64 (toSigned e.w x) else word x)).correctTile soft).finishMember k)

/-- What `textr` would meet. -/
def lookExtract (a : TReg) (k _f : Nat) (s : State) : Look :=
  match s.member? k with
  | none => Look.clear
  | some (cv, _) => ⟨(badBit (cv.env s.me) s.me [] 0 [] [.first ((cv.env s.me).view a)] 0).isSome, []⟩

def descTextr (sd : SReg) (a : TReg) : TileDesc where
  cls := .perm
  priv := false
  mode := .unmasked
  typeOk := tyAny
  dsts := fun _ => []
  srcs := fun e => [(a.val, e.g)]
  regs := []
  pips := []
  matrix := false
  noDet := fun _ => false
  post := fun _ => true
  every := true
  outs := [sd]
  kind := .run (runExtract sd a) (fun _ k _ => runExtract sd a k) (lookExtract a)
def execTextr (c : Bool) (sd : SReg) (a : TReg) (s : State) : Out := runTile (.textr c sd a) (descTextr sd a) s

/-! ### Mask logic (R187, R188) -/

def maskBin (op : Bool → Bool → Bool) (d a b : TReg) (m : MaskMode) : TileDesc :=
  elemDesc .alu tyAny m [] (fun _ => .mask d.val) (fun _ => [.mask a.val, .mask b.val])
    (fun _ _ _ vs f => ⟨(op ((vs.getD 0 0).testBit f) ((vs.getD 1 0).testBit f)).toNat, 0⟩)

def descTmand (d a b : TReg) (m : MaskMode) : TileDesc := maskBin (· && ·) d a b m
def execTmand (c : Bool) (d a b : TReg) (m : MaskMode) (s : State) : Out := runTile (.tmand c d a b m) (descTmand d a b m) s

def descTmor (d a b : TReg) (m : MaskMode) : TileDesc := maskBin (· || ·) d a b m
def execTmor (c : Bool) (d a b : TReg) (m : MaskMode) (s : State) : Out := runTile (.tmor c d a b m) (descTmor d a b m) s

def descTmxor (d a b : TReg) (m : MaskMode) : TileDesc := maskBin (· != ·) d a b m
def execTmxor (c : Bool) (d a b : TReg) (m : MaskMode) (s : State) : Out := runTile (.tmxor c d a b m) (descTmxor d a b m) s

def descTmandn (d a b : TReg) (m : MaskMode) : TileDesc := maskBin (fun x y => x && !y) d a b m
def execTmandn (c : Bool) (d a b : TReg) (m : MaskMode) (s : State) : Out :=
  runTile (.tmandn c d a b m) (descTmandn d a b m) s

def descTmnot (d a : TReg) (m : MaskMode) : TileDesc :=
  elemDesc .alu tyAny m [] (fun _ => .mask d.val) (fun _ => [.mask a.val])
    (fun _ _ _ vs f => ⟨(!(vs.getD 0 0).testBit f).toNat, 0⟩)
def execTmnot (c : Bool) (d a : TReg) (m : MaskMode) (s : State) : Out := runTile (.tmnot c d a m) (descTmnot d a m) s

/-- The searches: the marker's count is k + 1 once the first set active bit k has been found. `bit k f` is the result at
`f` given what is known of k there. -/
def firstFold (bit : Option Nat → Nat → Bool) (d a : TReg) (m : MaskMode) : Fold where
  mode := m
  dst := fun _ => some (.mask d.val)
  srcs := fun _ => [.mask a.val]
  init := fun _ _ => Marker.start
  step := fun _ vs act _ fs acc =>
    let va := vs.getD 0 0
    (fs.filter act).foldl (fun (r : FoldAcc) f =>
      let n := if r.mark.count = 0 ∧ va.testBit f then f + 1 else r.mark.count
      let k := if n = 0 then none else some (n - 1)
      { r with x := setBits r.x f 1 (bit k f).toNat, mark := { r.mark with count := n } }) acc
  last := fun _ _ _ _ x => FoldEnd.keep x
  zero := fun _ _ x => FoldEnd.keep x
  fills := true
  out := .element

/-- f < k: no set bit up to f. -/
def descTmbefore (d a : TReg) (m : MaskMode) : TileDesc := foldDesc .alu tyAny (firstFold (fun k _ => k.isNone) d a m)
def execTmbefore (c : Bool) (d a : TReg) (m : MaskMode) (s : State) : Out :=
  runTile (.tmbefore c d a m) (descTmbefore d a m) s

def descTmthrough (d a : TReg) (m : MaskMode) : TileDesc :=
  foldDesc .alu tyAny (firstFold (fun k f => match k with
    | none => true
    | some j => decide (f ≤ j)) d a m)
def execTmthrough (c : Bool) (d a : TReg) (m : MaskMode) (s : State) : Out :=
  runTile (.tmthrough c d a m) (descTmthrough d a m) s

def descTmonly (d a : TReg) (m : MaskMode) : TileDesc := foldDesc .alu tyAny (firstFold (fun k f => k == some f) d a m)
def execTmonly (c : Bool) (d a : TReg) (m : MaskMode) (s : State) : Out := runTile (.tmonly c d a m) (descTmonly d a m) s

/-- `tmpop` and `tmfirst`: a scalar from the selected set bits. -/
def maskScalar (step : Nat → Nat → Nat) (result : Nat → Word) (sd : SReg) (a : TReg) (m : MaskMode) : Fold where
  mode := m
  dst := fun _ => none
  srcs := fun _ => [.mask a.val]
  init := fun _ _ => Marker.start
  step := fun _ vs act _ fs acc =>
    { acc with mark := { acc.mark with
        count := ((fs.filter (fun f => act f && (vs.getD 0 0).testBit f)).foldl step acc.mark.count) } }
  last := fun _ _ _ mk x => ⟨x, 0, some (sd, result mk.count)⟩
  zero := fun _ _ x => ⟨x, 0, some (sd, result 0)⟩
  outs := [sd]
  every := true

def descTmpop (sd : SReg) (a : TReg) (m : MaskMode) : TileDesc :=
  foldDesc .alu tyAny (maskScalar (fun n _ => n + 1) word sd a m)
def execTmpop (c : Bool) (sd : SReg) (a : TReg) (m : MaskMode) (s : State) : Out :=
  runTile (.tmpop c sd a m) (descTmpop sd a m) s

def descTmfirst (sd : SReg) (a : TReg) (m : MaskMode) : TileDesc :=
  foldDesc .alu tyAny (maskScalar (fun n f => if n = 0 then f + 1 else n) (fun n => word n - 1) sd a m)
def execTmfirst (c : Bool) (sd : SReg) (a : TReg) (m : MaskMode) (s : State) : Out :=
  runTile (.tmfirst c sd a m) (descTmfirst sd a m) s

end Sys2Proof.Machine
end

