-- ==== Sys2Proof/Machine/Ranges.lean ====
section
/-! DEFINITION. What a query-engine item reads and writes, and which bytes of query memory that is: the order of the query
queue (spec/01_engines_and_their_ties.md R22; spec/18 R357; spec/19 R371, R380) and the collections an item names (spec/18
R365). -/

set_option Elab.async false

namespace Sys2Proof.Machine

/-! ### Ranges (R22, R357, R371) -/

/-- What an item reads or writes: bytes by address, everything in the region at an address, the header and some rows of the
collection at an address, or the units that the STOs of a program reach. -/
inductive Range where
  | bytes (va : Word) (n : Nat)
  | region (va : Word)
  | rows (va : Word) (first : Option Nat) (n : Nat)
  | stores (va : Word) (prog : List Byte) (n : Nat)
  deriving DecidableEq, Repr

def Range.va : Range → Word
  | .bytes va _ => va
  | .region va => va
  | .rows va _ _ => va
  | .stores va _ _ => va

def Query.writeRanges (q : Query) : List Range :=
  match q.op with
  | .append => [.rows q.sa q.item q.n]
  | .eval => [.stores q.sa q.prog q.n]
  | .merge => [.region q.sa, .region q.sd]
  | .copy => [.bytes q.sd q.n]
  | o => if o.isWrite then (List.range q.count).map (fun f => .bytes (q.elemVa f) q.ew) else []

def Query.readRanges (q : Query) : List Range :=
  match q.op with
  | .copy => [.bytes q.sa q.n]
  | .best => [.bytes q.sa (q.n * q.ew)]
  | .hamm => [.region q.sa]
  | .code => [.region q.sa]
  | .dotm => (List.range q.n).map (fun i => .bytes (q.row i) (q.count * q.ew))
  | .gsum => (List.range q.n).map (fun i => .bytes (q.row (q.idxAt i)) (q.count * q.ew))
  | .dotx => (List.range q.count).map (fun f => .bytes (q.row (q.idxAt f)) (q.n * q.ew))
  | .narrow => (List.range q.count).map (fun f => .bytes (q.elemVa f) q.ew)
  | o => if o.isWrite then [] else (List.range q.count).map (fun f => .bytes (q.row f) (q.n * q.ew))

def Query.ranges (q : Query) : List Range := q.writeRanges ++ q.readRanges

/-! ### The bytes behind a range -/

/-- A run of bytes of a region, or behind a PEER page that names a QM region of a peer (`peer`). -/
structure Span where
  peer : Bool
  region : Nat
  off : Nat
  len : Nat
  deriving DecidableEq, Repr

def Span.meets (a b : Span) : Bool :=
  decide (a.peer = b.peer) && decide (a.region = b.region) && decide (a.off < b.off + b.len) && decide (b.off < a.off + a.len)

/-- The leaves of an address space, cached copies included: address and leaf. -/
def Vm.leavesOf (v : Vm) (asid : Nat) : List (Nat × Leaf) :=
  (v.cache.filter (fun c => c.1 = asid)).map (fun c => (c.2.1, Leaf.ofEntry c.2.2.1 c.2.2.2)) ++
    (match lookupNat asid v.roots with
      | some r => v.leavesBelow 4 r.2 0
      | none => [])

/-- The part of a range of addresses that a leaf maps. -/
def leafSpan (lo n : Nat) (x : Nat × Leaf) : Option Span :=
  let a := max lo x.1
  let b := min (lo + n) (x.1 + leafSize x.2.level)
  if b ≤ a then none
  else
    match x.2.space with
    | .qm => some ⟨false, getBits x.2.frame 20 16, x.2.regionOff (word a), b - a⟩
    | .peer => if x.2.peerQm then some ⟨true, 0, x.2.peerKey (word a), b - a⟩ else none
    | _ => none

/-- The elements of a slab that a `qeval` of `n` elements from region offset `off` on evaluates, by slab: the slab, its first
and its last slab index, the elements of the slab. -/
def evalSlabs (r : Region) (off sw n : Nat) : List (Nat × Nat × Nat × Nat) :=
  let all := (List.range n).map (evalAt r off sw)
  ((all.map EvalAt.slab).eraseDups).filterMap (fun k =>
    match all.filter (fun x => x.slab = k) with
    | [] => none
    | x :: rest => some (k, x.g, x.g + rest.length, x.ne))

/-- The bytes that STO `k` can reach in the slabs of a `qeval`, in whole units (R357). -/
def storeSpans (r : Region) (off n : Nat) (prog : List Byte) (k : Nat) : List Span :=
  let sw := evalSw prog
  (evalSlabs r off sw n).filterMap (fun x =>
    let lo := ((x.2.1 : Int) + evalOff prog k).toNat
    let hi := min ((x.2.2.1 : Int) + evalOff prog k).toNat (x.2.2.2 - 1)
    if (x.2.2.1 : Int) + evalOff prog k < 0 ∨ x.2.2.2 ≤ lo then none
    else
      let a := x.1 * r.slabUnits * 1024 + lo * sw / 1024 * 1024
      let b := x.1 * r.slabUnits * 1024 + (hi * sw / 1024 + 1) * 1024
      some ⟨false, r.id, a, b - a⟩)

/-- The operators of a program that execute: those before its END (R352). -/
def evalCode (prog : List Byte) : List Nat :=
  (evalOps prog).takeWhile (fun c => match EvalOp.ofByte c with
    | some .stop => false
    | some _ => true
    | none => false)

/-- The places of the STOs of a program. -/
def evalStores (prog : List Byte) : List Nat :=
  ((evalCode prog).filterMap (fun c => match EvalOp.ofByte c with
    | some (.sto k) => some k
    | _ => none)).eraseDups

/-- The bytes of query memory behind a range (R312). -/
def State.spans (s : State) (asid : Nat) (x : Range) : List Span :=
  match x with
  | .bytes va n => (s.vm.leavesOf asid).filterMap (leafSpan (vaIndex va) n)
  | .region va =>
    match s.regionAt asid va with
    | some r => [⟨false, r.id, 0, r.units * 1024⟩]
    | none => []
  | .rows va first n =>
    match s.regionAt asid va with
    | some r => [⟨false, r.id, 0, 1024⟩, match first with
      | some f => ⟨false, r.id, r.rowOff f, n * r.rowBytes⟩
      | none => ⟨false, r.id, r.sideOff, r.side * r.rowBytes⟩]
    | none => []
  | .stores va prog n =>
    match s.regionAt asid va with
    | some r => ((evalStores prog).map (storeSpans r (va - s.regionBase asid va).toNat n prog)).flatten
    | none => []

/-- Do two ranges of one player meet: by address, or at the same bytes reached through two mappings? -/
def State.rangesMeet (s : State) (asid : Nat) (a b : Range) : Bool :=
  (match a, b with
    | .bytes x n, .bytes y m => decide (x.toNat < y.toNat + m) && decide (y.toNat < x.toNat + n)
    | _, _ => false) ||
    (s.spans asid a).any (fun x => (s.spans asid b).any x.meets)

/-- Does an earlier QM write of the same player overlap the ranges (R22)? -/
def State.behindWrite (s : State) (owner id asid : Nat) (rs : List Range) : Bool :=
  (s.itemsOf owner).any (fun o => decide (o.id < id) && o.op.isWrite && !o.settledCas &&
    o.writeRanges.any (fun a => rs.any (fun b => s.rangesMeet asid a b)))

/-! ### Pages under a change of mapping (R380, R382, R413) -/

/-- Does a range touch one of the bytes [lo, lo + n) of an address space? -/
def State.rangeIn (s : State) (asid lo n : Nat) (x : Range) : Bool :=
  match x with
  | .bytes va m => decide (lo < vaIndex va + m) && decide (vaIndex va < lo + n)
  | x => (s.spans asid x).any (fun a => (s.spans asid (.bytes (word lo) n)).any a.meets)

/-- Does an item touch the bytes [lo, lo + n)? -/
def State.itemIn (s : State) (lo n : Nat) (q : Query) : Bool := q.ranges.any (s.rangeIn q.asid lo n)

/-! ### Collections an item names (R365) -/

/-- Operations on the collection at their address. -/
def QOp.onCollection (o : QOp) : Bool := o == .append || o == .merge || o == .hamm || o == .code

/-- The collections that some ranges reach. -/
def State.collectionsIn (s : State) (asid : Nat) (rs : List Range) : List Region :=
  s.qm.regions.filter (fun r => r.isCollection && rs.any (fun x => (s.spans asid x).any (fun a => !a.peer && decide (a.region = r.id))))

/-- The collections an item names: those at its addresses and those its ranges reach. -/
def State.named (s : State) (q : Query) : List Region :=
  s.qm.regions.filter (fun r => r.isCollection &&
    ((s.collectionsIn q.asid q.ranges).any (fun x => x.id = r.id) ||
      (match s.regionAt q.asid q.sa with
        | some x => decide (x.id = r.id)
        | none => false)))

/-- Does the item name a collection (R365)? An operation on the collection at its address does, whatever is mapped there. -/
def State.namesCollection (s : State) (q : Query) : Bool := q.op.onCollection || !(s.named q).isEmpty

/-- Has the item taken the steps that come before its touches and writes (R22, R323, R365), and not met a fault (R348)? -/
def State.mayTouch (s : State) (q : Query) : Bool :=
  q.sent && !q.stopped && q.ending.isNone && s.qm.losing.isNone && (q.item.isSome || !s.namesCollection q)

end Sys2Proof.Machine
end

