-- ==== Sys2Proof/Machine/Search.lean ====
section
/-! DEFINITION. Collections and whole-unit work (spec/17 R347; spec/18 R360 to R368): `qhamm`, `qcode`, `qappend`, `qcopy`,
`qmerge`, and the loss of stacks (spec/16 R322 to R325). -/

set_option Elab.async false

namespace Sys2Proof.Machine

/-! ### Collections (R362 to R365) -/

/-- The byte addresses of a row, and of its tombstone byte. -/
def Region.rowVas (r : Region) (base : Word) (i : Nat) : List Word :=
  (List.range r.rowBytes).map (fun b => base + word (r.rowOff i + b))
def Region.tombVa (r : Region) (base : Word) (i : Nat) : Word := base + word (r.tombOff + i / 8)

/-- A dword of the header unit. -/
def State.readHeader (s : State) (r : Region) (off : Nat) : Except State (Nat × State) :=
  (s.readUnit (r.unit 0)).map (fun x => (getBits x.1 (8 * off) 64, x.2))

/-- Writes a dword of the header unit at its stack unit. -/
def State.writeHeader (s : State) (r : Region) (off v : Nat) : Except State State := s.writeUnitNow (r.unit 0) off 8 v

/-- Could a write of the header unit be accepted now (R315)? -/
def State.headerReady (s : State) (r : Region) : Bool := s.qm.accepts (r.unit 0)

/-- The first page of a collection at an address that an item may not use: every page is translated (R312, R348, R365). The
pages are taken in steps of 2 MiB. -/
def State.pagesFault (s : State) (q : Query) (r : Region) (va : Word) (write : Bool) : Option (QFault × Word) :=
  s.firstFault q write ((List.range ((r.units * 1024 + 2 ^ 21 - 1) / 2 ^ 21)).map (fun k =>
    s.regionBase q.asid va + word (k * 2 ^ 21)))

/-- Puts a value into bits [63:0] of a tile register. -/
def setLow (t : Vector Nat 64) (reg v : Nat) : Vector Nat 64 :=
  if h : reg < 64 then t.set reg (setBits t[reg] 0 64 v) else t

/-- The region behind an address that an item names, when its page translates: what a check before acceptance may go by. A page
that does not is met after acceptance (R312, R348); only the region of another world is known by its number (R313, R368). -/
def State.regionOf (s : State) (q : Query) (va : Word) : Option Region :=
  match s.locate q.asid q.wid va false false with
  | .ok l => some l.region
  | .error e => if e.cause = .worldViolation then s.regionAt q.asid va else none

/-! ### qhamm and qcode (R366, R367) -/

/-- The class a search names. -/
def QOp.searchClass : QOp → Nat
  | .hamm => 1
  | _ => 2

/-- Checks 1, 3 and 4 of R335 as R367 replaces them: the region, the side count read at the item step. The item step comes
before acceptance and finishes translating the pages (R365): a page that does not translate, or a header that cannot be read,
gives no count and no T, and what it means is decided after acceptance (`none`). -/
def State.searchCheck (s : State) (q : Query) : Except QTrap (Option (Nat × State)) :=
  let cap := 2048 * q.lanes
  if q.sa.toNat % q.ew ≠ 0 then .error ⟨.misaligned, 0, none⟩
  else
    match s.regionOf q q.sa with
    | none => .ok none
    | some r =>
      let big : Bool := if q.op = .hamm then decide (cap < r.width) else decide (q.env.g * cap / 16 < 256 * r.width)
      if r.cls ≠ q.op.searchClass || big then .error ⟨.illegalType, 0, none⟩
      else if q.count ≠ 0 && (s.pagesFault q r q.sa false).isSome then .ok none
      else
        match s.readHeader r 0x20 with
        | .error _ => .ok none
        | .ok c =>
          let n := r.body + c.1
          let t := n * r.rowBytes + (n + 7) / 8
          if q.flim ≠ 0 ∧ t < q.count * 12 * q.qratio then .error ⟨.replyBound, 0, some t⟩ else .ok (some c)

/-- Is an earlier QM write of the player to the region still on its way in the engine (R22)? -/
def State.ownWriteAhead (s : State) (owner asid : Nat) (va : Word) : Bool :=
  (s.eng.queries ++ s.eng.resumed.filterMap (fun r => r.2.query?)).any (fun q =>
    decide (q.owner = owner) && q.op.isWrite && q.writeRanges.any (fun a => s.rangesMeet asid a (.region va)))

/-- A search member: its item step comes before acceptance (R367), and behind the player's own earlier writes (R22). -/
def runSearch (i : Instr) (op : QOp) (v t p : TReg) (k : Nat) (s : State) : Out :=
  match s.member? k with
  | none => .next s
  | some (cv, m) =>
    let e := cv.env s.me
    let n := if op = .hamm then 1 else e.g
    let q := newQuery s.me cv m ⟨op, v.val, t.val, e.ig + e.g, p.val, grp s.me e t.val n, 0, 0⟩
    let width := match s.regionAt q.asid q.sa with
      | some r => r.width
      | none => 0
    let src : QSrc := if op = .hamm then ⟨⟨t.val, 1, 1, false⟩, width, true⟩ else ⟨⟨t.val, n, 16, false⟩, 256 * width, true⟩
    match srcBad e s.me [src] with
    | some st => trapStop k m.addr st s
    | none =>
      if s.ownWriteAhead s.me.id q.asid q.sa then .next { s with me := { s.me with waiting := some i } }
      else
        match s.searchCheck q with
        | .error t => trapQuery k t s
        | .ok (some c) => c.2.acceptQuery k i e [src] { q with item := some c.1 } true
        | .ok none => s.acceptQuery k i e [src] q true

/-- The types of R366. -/
def searchTypes (op : QOp) (e : Env) : Bool :=
  decide (e.g ≤ 4) && (if op = .hamm then e.ty == .int false 32 else e.ty == .flt .fp32)

def searchDesc (i : Instr) (op : QOp) (v t p : TReg) (a : SReg) : TileDesc :=
  { queryDesc (fun e => [(v.val, e.ig), (v.val + e.ig, e.g)]) (fun e => [(t.val, if op = .hamm then 1 else e.g)]) [p.val] [a]
      (fun _ => true) never (runSearch i op v t p) with
    typeOk := searchTypes op }

def descQhamm (c : Bool) (v t p : TReg) (a : SReg) : TileDesc := searchDesc (.qhamm c v t p a) .hamm v t p a
def execQhamm (c : Bool) (v t p : TReg) (a : SReg) (s : State) : Out := runTile (.qhamm c v t p a) (descQhamm c v t p a) s
def descQcode (c : Bool) (v t p : TReg) (a : SReg) : TileDesc := searchDesc (.qcode c v t p a) .code v t p a
def execQcode (c : Bool) (v t p : TReg) (a : SReg) (s : State) : Out := runTile (.qcode c v t p a) (descQcode c v t p a) s

/-- The distance of a row (R366). -/
def Query.distance (q : Query) (r : Region) (row : Nat) : Res :=
  if q.op = .hamm then ⟨popCount (row ^^^ getBits q.vec 0 r.width) r.width, 0⟩
  else
    xSum (.flt .fp32) q.env.frm ((List.range r.width).map (fun m =>
      (some (elemVal (.flt .fp16) (getBits q.vec (16 * (256 * m + getBits row (8 * m) 8)) 16)), 0)))

/-- The live rows with their distances, and the flags of the sums. -/
def searchRows (r : Region) (base : Word) : List Nat → State → Query → Except (Word × State) (List (Nat × Nat) × Flags × State × Query)
  | [], s, q => .ok ([], 0, s, q)
  | i :: rest, s, q =>
    match readElems 1 [r.tombVa base i] s q with
    | .error e => .error e
    | .ok x =>
      if (x.1.getD 0 0).testBit (i % 8) then searchRows r base rest x.2.1 x.2.2
      else
        match readElems 1 (r.rowVas base i) x.2.1 x.2.2 with
        | .error e => .error e
        | .ok y =>
          let d := q.distance r (bytesToNat (y.1.map (fun b => BitVec.ofNat 8 b)))
          match searchRows r base rest y.2.1 y.2.2 with
          | .error e => .error e
          | .ok z => .ok ((i, d.val) :: z.1, d.flags ||| z.2.1, z.2.2.1, z.2.2.2)

/-- The rows a search covers: BR + c. -/
def Query.searchCount (q : Query) (r : Region) : Nat := r.body + q.item.getD 0

/-- A reply chunk of `qhamm` or `qcode`. -/
def State.searchChunk (s : State) (q : Query) (c : Nat) : State :=
  match s.regionAt q.asid q.sa with
  | none => s.faultReply q ⟨.pageFault, 0⟩ q.sa
  | some r =>
    let base := s.regionBase q.asid q.sa
    let rows := List.range (q.searchCount r)
    if r.cls ≠ q.op.searchClass then s.faultReply q ⟨.pageFault, 0⟩ q.sa
    else
    match s.firstFault q false ((rows.map (fun i => r.tombVa base i :: r.rowVas base i)).flatten) with
    | some x => s.faultReply q x.1 x.2
    | none =>
      match searchRows r base rows s q with
      | .error e => e.2.faultReply q ⟨.dataError, 0⟩ e.1
      | .ok x =>
        let t := q.env.ty
        let cands := x.1.filter (fun d => !elemIsNan t d.2 && (!q.filters || q.passes d.2))
        let ranked := rankBy q.smallest (orderKey t) cands
        let fs := q.positions c
        let sl := fs.map (fun f => match ranked[f]? with
          | some b => (⟨b.1, b.2, 0⟩ : Slot)
          | none => ⟨allOnes64, 2 ^ q.env.w - 1, 0⟩)
        x.2.2.1.writeReply x.2.2.2 c x.2.1 (q.putSlots fs sl)

/-! ### qappend (R347) -/

def runAppend (i : Instr) (v t p : TReg) (k : Nat) (s : State) : Out :=
  match s.member? k with
  | none => .next s
  | some (cv, m) =>
    let e := cv.env s.me
    let q := newQuery s.me cv m ⟨.append, v.val, t.val, 1, p.val, grp s.me e v.val e.g, 0, 0⟩
    let r := s.regionOf q q.sa
    -- without a row size the group is read whole (notes/assumptions/54.md)
    let src : QSrc := match r with
      | some r => ⟨⟨v.val, e.g, 8 * r.rowBytes, false⟩, q.count, true⟩
      | none => ⟨⟨v.val, e.g, 8, false⟩, if q.count = 0 then 0 else e.g * 256 * e.lanes, true⟩
    let bad : Bool := match r with
      | some r => !r.isCollection || decide (e.g * 2048 * e.lanes < q.n * r.rowBytes * 8)
      | none => false
    match srcBad e s.me [src] with
    | some st => trapStop k m.addr st s
    | none =>
      if q.sa.toNat % 8 ≠ 0 then trapQuery k ⟨.misaligned, 0, none⟩ s
      else if bad then trapQuery k ⟨.illegalType, 0, none⟩ s
      else s.acceptQuery k i e [src] q true

def descQappend (c : Bool) (v t p : TReg) (a : SReg) : TileDesc :=
  queryDesc (fun _ => [(t.val, 1)]) (fun e => [(v.val, e.g)]) [p.val] [a] (queryPost tyWrite false) never
    (runAppend (.qappend c v t p a) v t p)
def execQappend (c : Bool) (v t p : TReg) (a : SReg) (s : State) : Out :=
  runTile (.qappend c v t p a) (descQappend c v t p a) s

/-- The writes of a row's bytes, page by page translated. -/
def State.rowWrites (s : State) (q : Query) (base : Word) (o v : Nat) : List (Nat × Nat) → Except (QFault × Word) (List UnitWrite)
  | [] => .ok []
  | (lo, n) :: rest =>
    let va := base + word lo
    match s.locate q.asid q.wid va true false with
    | .error e => .error (e, va)
    | .ok l =>
      match s.rowWrites q base o v rest with
      | .error e => .error e
      | .ok ws => .ok (⟨l.unit, l.inUnit, n, getBits v (8 * (lo - o)) (8 * n)⟩ :: ws)

/-- The writes of row `f` of a `qappend`. -/
def State.appendWrites (s : State) (q : Query) (r : Region) (first f : Nat) : Except (QFault × Word) (List UnitWrite) :=
  let b := r.rowBytes
  let o := r.rowOff (first + f)
  s.rowWrites q (s.regionBase q.asid q.sa) o (getBits q.vec (8 * b * f) (8 * b)) (unitPieces o b)

/-- The writes of the rows still to be written, every page translated first: they are the item's one chunk (R313, R348). -/
def State.appendRows (s : State) (q : Query) (r : Region) (first : Nat) :
    List Nat → Except (QFault × Word) (List (Nat × List UnitWrite))
  | [] => .ok []
  | g :: rest =>
    match s.appendWrites q r first g with
    | .error e => .error e
    | .ok ws =>
      match s.appendRows q r first rest with
      | .error e => .error e
      | .ok rows => .ok ((g, ws) :: rows)

/-- What is written together with row `f`: the row alone, or, where it reaches a stripe that the item covers whole, every row
that reaches such a stripe (R316). -/
def rowsWith (rows : List (Nat × List UnitWrite)) (f : Nat) : List (Nat × List UnitWrite) :=
  let all := (rows.map Prod.snd).flatten
  let whole := fun (x : Nat × List UnitWrite) => x.2.any (fun w => coversStripe all w.unit)
  rows.filter (fun x => decide (x.1 = f) || (whole x && rows.any (fun y => decide (y.1 = f) && whole y)))

/-- The address of a write of a batch of rows. -/
def State.rowAddrOf (s : State) (q : Query) (r : Region) (first : Nat) (rows : List (Nat × List UnitWrite)) (w : UnitWrite) : Word :=
  let hits := rows.flatMap (fun x =>
    ((unitPieces (r.rowOff (first + x.1)) r.rowBytes).zip x.2).filter (fun y => y.2 = w))
  s.regionBase q.asid q.sa + word ((hits.map (fun y => y.1.1)).headD 0)

/-- Row `f` of a `qappend` is written, with the rows that share a full-stripe write. -/
def State.appendRow (s : State) (q : Query) (f : Nat) : State :=
  match q.item, s.regionAt q.asid q.sa with
  | some first, some r =>
    if q.done.testBit f || decide (q.count ≤ f) then s
    else
      match s.appendRows q r first ((List.range q.count).filter (fun g => !q.done.testBit g)) with
      | .error e => s.faultQuery q e.1.cause e.1.sub 0 e.2
      | .ok rows =>
        let batch := rowsWith rows f
        let ws := (batch.map Prod.snd).flatten
        if !s.acceptsAll ws then s
        else
          match s.writeAll ws with
          | .error w => (s.misread w.unit).faultQuery q .dataError 0 0 (s.rowAddrOf q r first batch w)
          | .ok t =>
            let bits := batch.foldl (fun (m : Nat) x => m ||| 2 ^ x.1) 0
            t.setQuery { q with done := q.done ||| bits, applied := q.applied ||| bits }
  | _, _ => s.faultQuery q .pageFault 0 0 q.sa

/-- The item step of `qappend`: it reserves its rows, or faults (R347, R368). -/
def State.reserveRows (s : State) (q : Query) (r : Region) : State :=
  let base := s.regionBase q.asid q.sa
  match s.locate q.asid q.wid base true false with
  | .error e => s.faultQuery q e.cause e.sub 0 base
  | .ok _ =>
    if r.merging then s.faultQuery q .pageFault 0x0B 0 q.sa
    else if !s.headerReady r then s
    else
      match s.readHeader r 0x28 with
      | .error t => t.faultQuery q .dataError 0 0 base
      | .ok x =>
        if r.side < x.1 + q.n then x.2.faultQuery q .pageFault 0x09 0 q.sa
        else
          match x.2.writeHeader r 0x28 (x.1 + q.n) with
          | .error t => t.faultQuery q .dataError 0 0 base
          | .ok t => t.setQuery { q with item := some (r.body + x.1) }

/-- `SIDE_COUNT_RAISE`: every row has performed, and every earlier reservation still alive has been raised. -/
def State.raiseCount (s : State) (q : Query) : State :=
  match q.item, s.regionAt q.asid q.sa with
  | some first, some r =>
    let whole : Bool := (List.range q.count).all (fun f => q.done.testBit f)
    let before : Bool := s.allQueries.any (fun o => decide (o.id ≠ q.id) && o.op == .append &&
      (match o.item, s.regionAt o.asid o.sa with
        | some g, some w => decide (g < first) && decide (w.id = r.id)
        | _, _ => false))
    let base := s.regionBase q.asid q.sa
    if !whole || before || !s.headerReady r then s
    else
      match s.locate q.asid q.wid base true false with
      | .error e => s.faultQuery q e.cause e.sub 0 base
      | .ok _ =>
        match s.writeHeader r 0x20 (first + q.n - r.body) with
        | .error t => t.faultQuery q .dataError 0 0 base
        | .ok t => t.writeReply q 0 0 (fun _ v => setLow v q.tq first)
  | _, _ => s

/-! ### Peer pages (R410, R436, R451) -/

def State.portAt (s : State) (n : Nat) : Port := if h : n < 12 then s.cp.ports[n] else Port.reset

/-- May a world reach through the port: not lost, keyed, bound to the world (R301, R436)? -/
def State.portFault (s : State) (port wid : Nat) : Option QFault :=
  let p := s.portAt port
  if p.lost then some ⟨.streamFault, 0x08⟩
  else if !p.keyed || decide (p.world ≠ some wid) then some ⟨.worldViolation, 0⟩
  else none

/-! ### qcopy (R360, R361) -/

def runCopy (i : Instr) (p : TReg) (k : Nat) (s : State) : Out :=
  match s.member? k with
  | none => .next s
  | some (cv, m) =>
    let q := newQuery s.me cv m ⟨.copy, 0, 0, 0, p.val, 0, 0, 0⟩
    if q.sa.toNat % 1024 ≠ 0 ∨ q.sd.toNat % 1024 ≠ 0 ∨ q.n % 1024 ≠ 0 then trapQuery k ⟨.misaligned, 0, none⟩ s
    else if 2048 * q.lanes < q.count then trapQuery k ⟨.illegalType, 0, none⟩ s
    else if q.sa.toNat < q.sd.toNat + q.n ∧ q.sd.toNat < q.sa.toNat + q.n ∧ q.n ≠ 0 then
      trapQuery k ⟨.streamFault, 0, some 0x04⟩ s
    else s.acceptQuery k i (cv.env s.me) [] q true

def descQcopy (c : Bool) (d : SReg) (p : TReg) (a : SReg) : TileDesc :=
  queryDesc (fun _ => []) (fun _ => []) [p.val] [a, d] (fun _ => true) never (runCopy (.qcopy c d p a) p)
def execQcopy (c : Bool) (d : SReg) (p : TReg) (a : SReg) (s : State) : Out := runTile (.qcopy c d p a) (descQcopy c d p a) s

/-- Where a unit of a `qcopy` goes: a unit of this device, or a byte behind a PEER page that names a QM region, with its
port. -/
inductive CopyDst where
  | here (unit : Nat)
  | peer (port key : Nat)
  deriving DecidableEq, Repr

def State.copyDst (s : State) (q : Query) (va : Word) : Except QFault CopyDst :=
  match s.vm.leaf q.asid (vaIndex va) with
  | none => .error ⟨.pageFault, 0⟩
  | some l =>
    if canonicalVa va && decide (l.space = .peer) && l.peerQm then
      if l.wtag ≠ q.wid then .error ⟨.worldViolation, 0⟩
      else if !l.w then .error ⟨.pageFault, 0⟩
      else
        match s.portFault l.port q.wid with
        | some e => .error e
        | none => .ok (.peer l.port (l.peerKey va))
    else
      match s.locate q.asid q.wid va true false with
      | .error e => .error e
      | .ok l =>
        if l.region.isCollection && decide (l.off < 1024) then .error ⟨.pageFault, 0x0A⟩
        else if l.region.merging && q.item.isNone then .error ⟨.pageFault, 0x0B⟩
        else .ok (.here l.unit)

/-- The byte offsets of the units of chunk `c`. -/
def Query.copyUnits (q : Query) (c : Nat) : List Nat :=
  (List.range (min 64 ((q.n - 65536 * c) / 1024))).map (fun i => 65536 * c + 1024 * i)

/-- Sources and destinations of a chunk, every page translated first (R348). -/
def State.copyPlan (s : State) (q : Query) : List Nat → Except (QFault × Word) (List (Nat × CopyDst))
  | [] => .ok []
  | o :: rest =>
    match s.locate q.asid q.wid (q.sa + word o) false false with
    | .error e => .error (e, q.sa + word o)
    | .ok l =>
      match s.copyDst q (q.sd + word o) with
      | .error e => .error (e, q.sd + word o)
      | .ok d =>
        match s.copyPlan q rest with
        | .error e => .error e
        | .ok p => .ok ((l.unit, d) :: p)

/-- Reads units, each in one state; the place in the list of one that ends in a data-error, and the state it leaves. -/
def readUnits : List Nat → State → Except (Nat × State) (List Nat × State)
  | [], s => .ok ([], s)
  | n :: rest, s =>
    match s.readUnit n with
    | .error t => .error (0, t)
    | .ok r =>
      match readUnits rest r.2 with
      | .error e => .error (e.1 + 1, e.2)
      | .ok x => .ok (r.1 :: x.1, x.2)

/-- A unit that a `qcopy` moves within this device: its place in the item, its source and its destination. -/
structure CopyUnit where
  ix : Nat
  src : Nat
  dst : Nat
  deriving DecidableEq, Repr

/-- The units of a planned chunk that go to units of this device and have not been written with another chunk's stripe
(`done` lists those). -/
def Query.copyHere (q : Query) (c : Nat) (plan : List (Nat × CopyDst)) : List CopyUnit :=
  ((q.copyUnits c).zip plan).filterMap (fun x => match x.2.2 with
    | .here n => if q.done.testBit (x.1 / 1024) then none else some ⟨x.1 / 1024, x.2.1, n⟩
    | .peer _ _ => none)

/-- Units of chunks not begun that are written with chunk `c`: those of a stripe that chunk `c` reaches and the item covers
whole (R316, R361). Their chunks translate every page, and their sources can be read (R348). -/
def State.copyAhead (s : State) (q : Query) (c : Nat) (own : List CopyUnit) : List CopyUnit :=
  let open' := (List.range q.nchunks).filter (fun k => decide (k ≠ c) && !q.chunks.testBit k && !q.acking.contains k)
  let rest := (open'.flatMap (fun k => match s.copyPlan q (q.copyUnits k) with
    | .error _ => []
    | .ok plan => q.copyHere k plan)).filter (fun u => s.readable u.src)
  let all := own ++ rest
  rest.filter (fun u => own.any (fun o => (stripeUnits o.dst).contains u.dst) &&
    (stripeUnits u.dst).all (fun m => decide (m = parityUnit u.dst) || all.any (fun x => decide (x.dst = m))))

/-- A `qcopy` faults; chunks at a peer complete first (R348). -/
def State.failCopy (s : State) (q : Query) (e : Cause × Nat × Word) : State :=
  if q.acking.isEmpty then s.faultQuery q e.1 e.2.1 q.lowestOpen e.2.2
  else s.setQuery { q with ending := if q.ending.isSome then q.ending else some e }

/-- Is a chunk of a `qcopy` on its way to the peer of a port? -/
def State.copyOnPort (s : State) (q : Query) (port c : Nat) : Bool :=
  (q.copyUnits c).any (fun o => match s.vm.leaf q.asid (vaIndex (q.sd + word o)) with
    | some l => decide (l.space = .peer) && decide (l.port = port)
    | none => false)

/-- A port is lost: the chunks on it that the peer has not acknowledged fault (R301, R361). -/
def State.loseCopy (s : State) (q : Query) (port : Nat) : State :=
  match q.acking.find? (s.copyOnPort q port) with
  | none => s
  | some c => s.failCopy { q with acking := q.acking.filter (fun c => !s.copyOnPort q port c) }
      (.streamFault, 0x08, q.sd + word (65536 * c))

/-- The peer's acknowledgement of a chunk has returned, or its refusal (R301, R361). -/
def State.copyAcked (s : State) (q : Query) (c : Nat) (refused : Bool) : State :=
  if !q.acking.contains c then s
  else
    let q1 := { q with acking := q.acking.filter (fun k => k ≠ c) }
    if refused then s.failCopy q1 (.worldViolation, 0, q.sd + word (65536 * c))
    else
      let t := s.writeReply q1 c 0 (fun _ v => v)
      match q1.ending, q1.acking with
      | some e, [] =>
        match t.query? q.id with
        | some q2 => t.failCopy { q2 with ending := none } e
        | none => t
      | _, _ => t

/-- `QCOPY_CHUNK_PERFORM`: the chunk is written here, and is then performed; what goes to a peer waits for its
acknowledgement. A stripe that the item covers whole is written whole, with the units of it that other chunks hold. -/
def State.copyChunk (s : State) (q : Query) (c : Nat) : State :=
  let failIn := fun (t : State) (e : QFault) (va : Word) => t.failCopy q (e.cause, e.sub, va)
  match s.copyPlan q (q.copyUnits c) with
  | .error e => failIn s e.1 e.2
  | .ok plan =>
    let own := q.copyHere c plan
    let ahead := s.copyAhead q c own
    let away := ((q.copyUnits c).zip plan).filterMap (fun x => match x.2.2 with
      | .here _ => none
      | .peer _ k => some (⟨x.1 / 1024, x.2.1, k⟩ : CopyUnit))
    let moved := own ++ away ++ ahead
    match readUnits (moved.map CopyUnit.src) s with
    | .error e => failIn e.2 ⟨.dataError, 0⟩ (q.sa + word (1024 * (moved.map CopyUnit.ix).getD e.1 0))
    | .ok r =>
      let value := fun (us : List CopyUnit) (o : Nat) => us.zip (r.1.drop o)
      let here := (value own 0 ++ value ahead (own.length + away.length)).map (fun x => (⟨x.1.dst, 0, 1024, x.2⟩ : UnitWrite))
      if !s.acceptsAll here then s
      else
        match r.2.writeAll here with
        | .error w => failIn (r.2.misread w.unit) ⟨.dataError, 0⟩ (q.sd + word (1024 *
            (((own ++ ahead).find? (fun u => decide (u.dst = w.unit))).elim (64 * c) CopyUnit.ix)))
        | .ok t =>
          let peer := (value away own.length).foldl (fun (m : Memory) x => m.write x.1.dst 1024 x.2) t.mem.peer
          let u := { t with mem := { t.mem with peer := peer } }
          let q' := { q with done := ahead.foldl (fun (m : Nat) x => m ||| 2 ^ x.ix) q.done }
          if away.isEmpty then u.writeReply q' c 0 (fun _ v => v)
          else u.setQuery { q' with acking := c :: q'.acking }

/-! ### qmerge (R368) -/

/-- The bytes of a collection's tombstone map (R362). -/
def Region.tombBytes (r : Region) : Nat := 1024 * ((r.body + r.side + 8191) / 8192)

/-- Is the collection's tombstone map zero? `none` when a unit cannot be read. -/
def State.tombsClear (s : State) (r : Region) : Option Bool :=
  (unitPieces r.tombOff r.tombBytes).foldl (fun a p =>
    match a, s.readUnit (r.unit (p.1 / 1024)) with
    | some b, .ok u => some (b && decide (getBits u.1 (8 * (p.1 % 1024)) (8 * p.2) = 0))
    | _, _ => none) (some true)

/-- Is the target a collection of the same class, width and world (R368)? -/
def mergeFits (a b : Region) : Bool :=
  a.isCollection && decide (a.cls = b.cls) && decide (a.width = b.width) && decide (a.world = b.world)

/-- The target's conditions at acceptance. `none` when they cannot be told: a page at sa or sd does not translate, or a unit of
the target cannot be read; no unit is touched before the target's pages translate (R312, R328, R348, R382). -/
def State.mergeOk (s : State) (q : Query) : Option Bool :=
  match s.regionOf q q.sa, s.regionOf q q.sd with
  | some a, some b =>
    if mergeFits a b && !a.merging && !b.merging then
      if (s.pagesFault q b q.sd true).isSome then none
      else
        match s.tombsClear b, s.readHeader b 0x20 with
        | some z, .ok c => some (z && decide (c.1 = 0))
        | _, _ => none
    else some false
  | _, _ => none

/-- A target that cannot be reached or read is no reason to trap: the item is accepted, and its item step ends in a record (R252,
R348, R378). -/
def runMerge (i : Instr) (t p : TReg) (k : Nat) (s : State) : Out :=
  match s.member? k with
  | none => .next s
  | some (cv, m) =>
    let q := newQuery s.me cv m ⟨.merge, 0, t.val, 1, p.val, 0, 0, 0⟩
    if s.mergeOk q = some false then trapQuery k ⟨.illegalType, 0, none⟩ s else s.acceptQuery k i (cv.env s.me) [] q true

def descQmerge (c : Bool) (d : SReg) (t p : TReg) (a : SReg) : TileDesc :=
  queryDesc (fun _ => [(t.val, 1)]) (fun _ => []) [p.val] [a, d] (fun _ => true) never (runMerge (.qmerge c d t p a) t p)
def execQmerge (c : Bool) (d : SReg) (t p : TReg) (a : SReg) (s : State) : Out :=
  runTile (.qmerge c d t p a) (descQmerge c d t p a) s

/-- `n` bytes of a region from offset `o` on. -/
def State.regionBits (s : State) (r : Region) (o n : Nat) : Except State (Nat × State) :=
  (unitPieces o n).foldr (fun p acc =>
    match acc with
    | .error t => .error t
    | .ok x =>
      match x.2.readUnit (r.unit (p.1 / 1024)) with
      | .error t => .error t
      | .ok u => .ok (getBits u.1 (8 * (p.1 % 1024)) (8 * p.2) + x.1 * 2 ^ (8 * p.2), u.2)) (.ok (0, s))

/-- The live rows of a list, in order. -/
def mergeRows (a : Region) : List Nat → State → Except State (List Nat × State)
  | [], s => .ok ([], s)
  | i :: rest, s =>
    match s.regionBits a (a.tombOff + i / 8) 1 with
    | .error t => .error t
    | .ok x =>
      if x.1.testBit (i % 8) then mergeRows a rest x.2
      else
        match x.2.regionBits a (a.rowOff i) a.rowBytes with
        | .error t => .error t
        | .ok y => (mergeRows a rest y.2).map (fun z => (y.1 :: z.1, z.2))

/-- The writes of a merge: the rows that fit, at the target's body rows in order, and then the header's counts. -/
def mergeWrites (b : Region) (rows : List Nat) : List UnitWrite :=
  ((rows.take b.body).zipIdx.map (fun x => b.writes (b.rowOff x.2) b.rowBytes x.1)).flatten ++
    (if b.body < rows.length then [] else b.writes 0x10 8 rows.length ++ b.writes 0x20 16 0)

/-- The collection goes back to live and the merge ends with a record that holds nothing. -/
def State.failMerge (s : State) (q : Query) (a : Region) (c : Cause) (sub : Nat) : State :=
  ({ s with qm := s.qm.setRegion { a with merging := false } }).faultQuery q c sub 0 q.sa

/-- Does one of some ranges of an item reach a region? -/
def State.reaches (s : State) (asid : Nat) (rs : List Range) (r : Region) : Bool :=
  rs.any (fun x => (s.spans asid x).any (fun a => !a.peer && decide (a.region = r.id)))

/-- `QMERGE_COPY`, steps 2 to 4: `done` bit 0 says that it has been taken, `ok` holds N. It waits for every write item
ordered before the freeze, a `qcopy` into the collection included. -/
def State.mergeCopy (s : State) (q : Query) : State :=
  match s.regionAt q.asid q.sa, s.regionAt q.asid q.sd with
  | some a, some b =>
    let busy : Bool := s.allQueries.any (fun o => decide (o.id ≠ q.id) && o.op.isWrite && o.item.isSome &&
      s.reaches o.asid o.writeRanges a)
    if q.item.isNone || q.done.testBit 0 || busy then s
    else
      match s.readHeader a 0x20 with
      | .error t => t.failMerge q a .dataError 0
      | .ok c =>
        match mergeRows a (List.range (a.body + c.1)) c.2 with
        | .error t => t.failMerge q a .dataError 0
        | .ok x =>
          let ws := mergeWrites b x.1
          if !s.acceptsAll ws then s
          else
            match x.2.writeAll ws with
            | .error w => (x.2.misread w.unit).failMerge q a .dataError 0
            | .ok t =>
              if b.body < x.1.length then t.failMerge q a .pageFault 0x09
              else ({ t with qm := t.qm.setRegion { b with body := x.1.length } }).setQuery
                { q with done := 1, applied := 1, ok := x.1.length }
  | _, _ => s.faultQuery q .pageFault 0 0 q.sa

/-- `QMERGE_SWITCH`, steps 5 to 7: the region at sa takes the target's band, the old band is retired with the target's
region number, the count and the pip bit are written. -/
def State.mergeSwitch (s : State) (q : Query) : State :=
  match s.regionAt q.asid q.sa, s.regionAt q.asid q.sd with
  | some a, some b =>
    -- every reader ordered before the switch has finished, a `qcopy` from the collection included
    let busy : Bool := s.allQueries.any (fun o => decide (o.id ≠ q.id) && o.item.isSome &&
      (s.reaches o.asid o.readRanges a || (o.op.isQuery && s.reaches o.asid o.writeRanges a)))
    if !q.done.testBit 0 || busy then s
    else
      let qm := { s.qm with regions := s.qm.regions.map (fun (r : Region) =>
        if r.id = a.id then { b with id := a.id, merging := false }
        else if r.id = b.id then { a with id := b.id, merging := false, retired := true }
        else r) }
      let t := ({ s with qm := qm }).dropQuery q.id
      t.updOwner q.owner (fun p => (p.putRegs (setLow p.tregs q.tq q.ok)).setPip q.pip 0)
  | _, _ => s.faultQuery q .pageFault 0 0 q.sa

/-! ### The item step (R365) -/

/-- `COLLECTION_ITEM_STEP`: the item's step at the header of every collection it names. A write into a collection that is
merging faults (R368); a reader goes on. -/
def State.itemStep (s : State) (q : Query) : State :=
  if q.item.isSome || !q.sent || q.stopped || s.qm.losing.isSome || !s.namesCollection q then s
  else
    match q.op with
    | .append =>
      match s.regionAt q.asid q.sa with
      | some r => if r.isCollection then s.reserveRows q r else s.faultQuery q .pageFault 0 0 q.sa
      | none => s.faultQuery q .pageFault 0 0 q.sa
    | .merge =>
      match s.regionAt q.asid q.sa, s.regionAt q.asid q.sd with
      | some a, some b =>
        match s.pagesFault q a q.sa false, s.pagesFault q b q.sd true with
        | some e, _ => s.faultQuery q e.1.cause e.1.sub 0 e.2
        | none, some e => s.faultQuery q e.1.cause e.1.sub 0 e.2
        | none, none =>
          if a.merging || b.merging then s.faultQuery q .pageFault 0x0B 0 q.sa
          -- what is mapped there by now is no target (notes/assumptions/54.md)
          else if !mergeFits a b then s.faultQuery q .pageFault 0 0 q.sd
          else if s.mergeOk q = none then (s.misread (b.unit 0)).faultQuery q .dataError 0 0 q.sd
          else ({ s with qm := s.qm.setRegion { a with merging := true } }).setQuery { q with item := some 0 }
      | none, _ => s.faultQuery q .pageFault 0 0 q.sa
      | some _, none => s.faultQuery q .pageFault 0 0 q.sd
    | .hamm => search
    | .code => search
    | o =>
      if o.isWrite && (s.collectionsIn q.asid q.writeRanges).any Region.merging then
        if o = .eval then s.faultQuery q .pageFault 0x0B (q.lowestElem / 64) q.sa
        else if o = .copy then s.failCopy q (.pageFault, 0x0B, q.sd)
        else s.faultWrite q ((List.range q.count).find? (fun f => !q.done.testBit f &&
          (match s.locate q.asid q.wid (q.elemVa f) true false with
            | .ok l => l.region.merging
            | .error _ => false)) |>.getD q.lowestElem) ⟨.pageFault, 0x0B⟩
      else s.setQuery { q with item := some 0 }
where
  /-- a search whose step before acceptance met a fault reads its count here -/
  search : State :=
    match s.regionAt q.asid q.sa with
    | none => s.faultQuery q .pageFault 0 q.lowestOpen q.sa
    | some r =>
      match s.pagesFault q r q.sa false with
      | some e => s.faultQuery q e.1.cause e.1.sub q.lowestOpen e.2
      | none =>
        match s.readHeader r 0x20 with
        | .error t => t.faultQuery q .dataError 0 q.lowestOpen q.sa
        | .ok c => c.2.setQuery { q with item := some c.1 }

/-! ### Settling (R23, R119, R322) -/

/-- Elements applied and not yet performed. -/
def Query.owed (q : Query) : Nat := q.applied ^^^ (q.applied &&& q.done)

/-- Is a delta of the element still on its way or waiting? -/
def Qm.pending (m : Qm) (item f : Nat) : Bool :=
  m.deltas.any (fun d => decide (d.item = item) && decide (d.elem = f)) ||
    m.held.any (fun w => decide (w.delta.item = item) && decide (w.delta.elem = f))

/-- Elements whose deltas have all been absorbed are performed (R23). -/
def State.settleElems (s : State) : State :=
  s.allQueries.foldl (fun t q =>
    if q.owed = 0 then t
    else (List.range q.count).foldl (fun u f =>
      if q.owed.testBit f && !u.qm.pending q.id f then u.performElem q.id f else u) t) s

/-- The lowest chunk an item has not performed, for its record: of a write the chunk of its lowest element (R348). -/
def Query.openChunk (q : Query) : Nat :=
  if q.op.isWrite && q.op != .cas && q.op != .copy && q.op != .append && q.op != .merge then q.lowestElem / 64 else q.lowestOpen

/-- Does a transfer of the engine work on query memory (R284)? -/
def State.onQm (s : State) (x : Xfer) : Bool :=
  match x.op with
  | .xseal => true
  | .xunseal => true
  | .bar => false
  | _ => (s.regionAt x.asid x.dst).isSome

/-- Query memory becomes unavailable (R325): every item not performed, a stopped or resumed one too, faults with data-error,
and the contexts with QM work in flight are removed, saved ones and those with a transfer on query memory included. -/
def State.loseQm (s : State) : State :=
  let s1 := { s with qm := { s.qm with unav := true } }
  let back := s1.eng.resumed.filterMap (fun r => r.2.query?)
  let kept := (s1.cp.images.map (fun m => m.queries)).flatten
  let qs := s1.eng.queries ++ back ++ kept
  let xs := s1.eng.xfers ++ (s1.cp.images.map (fun m => m.xfers)).flatten
  let s2 := { s1 with
    eng := { s1.eng with resumed := s1.eng.resumed.filter (fun r => r.2.query?.isNone) }
    cp := { s1.cp with images := s1.cp.images.map (fun (m : Image) => { m with queries := [] }) } }
  -- elements already applied perform first (R23)
  let t := qs.foldl (fun (u : State) q =>
    if q.owed ≠ 0 && (u.query? q.id).isSome then u.endQuery q .dataError 0 0 else u.faultQuery q .dataError 0 q.openChunk 0) s2
  let owners := qs.map (fun q => q.owner) ++ (xs.filter s.onQm).map (fun x => x.owner)
  let ls := (owners.filterMap (fun o => (s.owner? o).map (fun p => p.place.launch))).eraseDups
  ls.foldl (fun u l => u.startRemoval l 4 Cause.dataError.code.toNat) t

/-- A record about a stack (R428). -/
def stackRec (st : Nat) : ErrRec := plainRec 0x0D 6 2 st

/-- The command processor declares a stack lost (R322, R440); a second one makes query memory unavailable (R325). -/
def State.declareLost (s : State) (st : Nat) : State :=
  if s.dev.lostStacks.contains st then s
  else
    let t := ({ s with dev := { s.dev with lostStacks := s.dev.lostStacks ++ [st] } }).report (stackRec st) none
    if s.qm.lost.isSome || s.qm.losing.isSome then t.loseQm
    else { t with qm := { t.qm with losing := some st } }

/-- More than 16 units of a stack reconstructed within one scrub interval (R322). -/
def State.settleStacks (s : State) : State :=
  match s.qm.recon.find? (fun r => decide (16 < r.2) && !s.dev.lostStacks.contains r.1) with
  | none => s
  | some r => s.declareLost r.1

/-! ### Chunks in progress when an item meets a fault (R348) -/

/-- The bytes that reply chunk `c` reads. -/
def State.chunkVas (s : State) (q : Query) (c : Nat) : List Word :=
  match q.op with
  | .best => q.reads 0
  | .hamm => search
  | .code => search
  | _ => ((q.positions c).map q.reads).flatten
where
  search : List Word :=
    match s.regionAt q.asid q.sa with
    | none => []
    | some r =>
      let base := s.regionBase q.asid q.sa
      ((List.range (q.searchCount r)).map (fun i => r.tombVa base i :: r.rowVas base i)).flatten

/-- May reply chunk `c` of an item that ends still be written: it has touched a unit, every page translates, every unit can be
read? -/
def State.replyFinishable (s : State) (q : Query) (c : Nat) : Bool :=
  let vas := s.chunkVas q c
  let unit := fun (va : Word) => match s.locate q.asid q.wid va false false with
    | .ok l => some l.unit
    | .error _ => none
  let touched := fun (n : Nat) => (lookupNat n q.touched).isSome
  q.ending.isSome && !q.chunks.testBit c && vas.any (fun va => (unit va).any touched) &&
    vas.all (fun va => (unit va).any (fun n => touched n || s.readable n))

/-- Has an item that ends work left to complete: elements applied and not performed, elements of chunks in progress, replies of
such chunks? -/
def State.finishing (s : State) (q : Query) : Bool :=
  decide (q.owed ≠ 0) ||
    match q.op with
    | .eval =>
      match s.regionAt q.asid q.sa with
      | none => false
      | some r => (List.range q.count).any (s.evalFinishable q r)
    | .cas => (List.range q.count).any (s.finishable q) ||
        (List.range q.nchunks).any (fun c => !q.chunks.testBit c && (q.positions c).all q.done.testBit)
    | o => if o.isWrite then (List.range q.count).any (s.finishable q) else (List.range q.nchunks).any (s.replyFinishable q)

/-- The chunk that the record of an item names: the lowest that will never set, of an element write the chunk of the lowest
element that needs the place of the fault (R348, R358). -/
def State.endChunk (s : State) (q : Query) (c : Cause) (va : Word) : Nat :=
  match q.op with
  | .eval => q.lowestElem / 64
  | .cas => q.lowestOpen
  | o => if o.isWrite then s.lowestFaulting q c va / 64 else q.lowestOpen

/-- Items that end and have nothing left to complete enter their records. A `qcopy` waits for its peer instead. -/
def State.settleEnding (s : State) : State :=
  s.eng.queries.foldl (fun (t : State) q =>
    match q.ending with
    | none => t
    | some e =>
      if q.op = .copy || t.finishing q then t
      else t.faultQuery q e.1 e.2.1 (t.endChunk q e.1 e.2.2) e.2.2) s

/-- What follows at once from a step on query memory. -/
def State.settle (s : State) : State := s.settleElems.settleEnding.settleStacks


end Sys2Proof.Machine
end

