-- ==== Sys2Proof/Machine/Transfer.lean ====
section
/-! DEFINITION. The bytes of a transfer and of its chunks (spec/14_stream_engine.md R290, R292), and what is in progress behind
a page whose mapping changes (spec/19_query_ordering_and_faults.md R380, R382; spec/23_worlds_and_contexts.md R413). -/

set_option Elab.async false

namespace Sys2Proof.Machine

/-! ### Shape (R288 to R290) -/

def Xfer.rows (x : Xfer) : Nat :=
  match x.op with
  | .copy2 => x.dim1.toNat
  | .copy3 => x.dim1.toNat
  | .gath => x.dim1.toNat
  | _ => 1

def Xfer.planes (x : Xfer) : Nat := if x.op = .copy3 then x.dim2.toNat else 1

/-- T -/
def Xfer.total (x : Xfer) : Nat :=
  match x.op with
  | .xseal => 0
  | .xunseal => 0
  | .bar => 0
  | _ => x.planes * x.rows * x.len.toNat

/-- ⌈T / SIZE⌉, or one chunk (R290). -/
def Xfer.count (x : Xfer) : Nat :=
  match x.op with
  | .put => 1
  | .xseal => 1
  | .xunseal => 1
  | .bar => 1
  | _ => (x.total + x.size - 1) / x.size

/-- The strides, sign-extended (R290). -/
def strideSrc (w : Word) : Int := toSigned 32 (w.toNat % 2 ^ 32)
def strideDst (w : Word) : Int := toSigned 32 (w.toNat / 2 ^ 32)

def Xfer.isCopy (x : Xfer) : Bool := x.op == .copy || x.op == .copy2 || x.op == .copy3
def Xfer.uses1 (x : Xfer) : Bool := x.op == .copy2 || x.op == .copy3

/-- Source and destination of byte `n`, but for the rows of `xgath`. -/
def Xfer.srcAt (x : Xfer) (n : Nat) : Word :=
  let sb := x.len.toNat
  let k : Int := (n / sb / x.rows : Nat)
  let j : Int := (n / sb % x.rows : Nat)
  x.src + BitVec.ofInt 64 (k * strideSrc x.str2 + j * (if x.uses1 then strideSrc x.str1 else 0)) + word (n % sb)

def Xfer.dstAt (x : Xfer) (n : Nat) : Word :=
  let sb := x.len.toNat
  let k : Int := (n / sb / x.rows : Nat)
  let j : Int := (n / sb % x.rows : Nat)
  match x.op with
  | .gath => x.dst + word n
  | _ => x.dst + BitVec.ofInt 64 (k * strideDst x.str2 + j * (if x.uses1 then strideDst x.str1 else 0)) + word (n % sb)

/-- The pieces of a chunk: aligned dwords, or the bytes of `xput`. -/
def Xfer.pieceOffsets (x : Xfer) (c : Nat) : List (Nat × Nat) :=
  if x.op = .put then [(0, x.len.toNat)]
  else
    let lo := c * x.size
    (List.range ((min x.total (lo + x.size) - lo) / 8)).map (fun i => (lo + 8 * i, 8))

/-! ### Pages under a change of mapping (R380, R382, R413) -/

/-- The bytes of a transfer's sources and destinations that chunk `c` touches: address and length. -/
def State.chunkBytes (s : State) (x : Xfer) (c : Nat) : List (Word × Nat) :=
  -- one past the last chunk stands for the landing flag
  if c = x.chunks then [(x.flagA, 8)]
  else
  match x.op with
  | .xseal => [(x.src, 2 ^ 21), (x.dst, 2 ^ 21 + 80)]
  | .xunseal => [(x.dst, 2 ^ 21), (x.src, 2 ^ 21 + 80)]
  | .bar => []
  | .put => [(x.dst, x.len.toNat)]
  | .gath => (x.pieceOffsets c).flatMap (fun o =>
      let list := x.src + word (8 * (o.1 / x.len.toNat))
      let row := (s.vm.leaf x.asid (vaIndex list)).elim 0 (fun l => word (s.mem.spad.read (l.phys list) 8))
      [(list, 8), (row + word (o.1 % x.len.toNat), o.2), (x.dstAt o.1, o.2)])
  | _ => (x.pieceOffsets c).flatMap (fun o => [(x.srcAt o.1, o.2), (x.dstAt o.1, o.2)])

/-- Is a chunk in progress that touches the bytes [lo, lo + n)? -/
def State.xferIn (s : State) (lo n : Nat) (x : Xfer) : Bool :=
  (x.reading ++ x.flushing ++ x.acking).any (fun c => (s.chunkBytes x c).any (fun b => s.rangeIn x.asid lo n (.bytes b.1 b.2)))

/-- Has anything been translated against the bytes [lo, lo + n) of an address space and neither performed nor faulted: a
chunk in progress, an item that has left the query queue, a buffered store? -/
def State.inProgress (s : State) (asid lo n : Nat) : Bool :=
  s.eng.xfers.any (fun x => decide (x.asid = asid) && s.xferIn lo n x) ||
    s.eng.queries.any (fun q => decide (q.asid = asid) && (q.sent || !q.acking.isEmpty) && s.itemIn lo n q) ||
    s.players.any (fun p => decide (p.place.asid = asid) && (s.ownStores p).any (fun st =>
      (s.vm.leavesOf asid).any (fun l => l.2.space == .spad && decide (l.1 < lo + n) && decide (lo < l.1 + leafSize l.2.level) &&
        st.overlaps (l.2.frame * 4096) (leafSize l.2.level))))

end Sys2Proof.Machine
end

