-- ==== Sys2Proof/Machine/Status.lean ====
section
/-! DEFINITION. Moves from and to status registers (spec/09_control_scalar_system.md R234 to R236; the chapters that own
the registers), the base table load (spec/18 R356) and the remap (spec/19 R379, R380). -/

set_option Elab.async false

namespace Sys2Proof.Machine

/-! ### Reading (R234, R235) -/

/-- The numbers readable at supervisor privilege only: access SR or SRW (R235). -/
def superOnly (n : Nat) : Bool :=
  (decide (0x21 ≤ n) && decide (n ≤ 0x26)) || (decide (0x28 ≤ n) && decide (n ≤ 0x2D)) ||
    (decide (0x33 ≤ n) && decide (n ≤ 0x35))

/-- `GRANT` as it reads (R267). -/
def Grant.word (g : Grant) : Word :=
  BitVec.ofNat 64 (g.att.toNat + g.bstep.toNat * 2 ^ 2 + g.acc.toNat * 2 ^ 8 + g.asize.toNat * 2 ^ 16 + g.afmt.toNat * 2 ^ 24
    + g.bfmt.toNat * 2 ^ 32 + g.rows.toNat * 2 ^ 40 + g.cols.toNat * 2 ^ 52)

/-- `QMSTAT` as it reads (R326). -/
def Qm.stat (q : Qm) : Word :=
  let lost := q.lost.getD 15
  BitVec.ofNat 64 (q.lost.isSome.toNat + lost * 2 + q.unav.toNat * 2 ^ 5 + q.warm.toNat * 2 ^ 6)

/-- `CLOCK` advances by what has passed since it was last read (R236; notes/assumptions/8.md). -/
def State.tick (s : State) : State :=
  { s with
    dev := { s.dev with clock := s.dev.clock + Config.freeElapsed s.fresh }
    fresh := s.fresh + 1 }

/-- The value of a status register, without the reads that change something. -/
def State.statusOf (s : State) (n : Nat) : Word :=
  let p := s.me
  match n with
  | 0x00 => word p.shape.vl
  | 0x01 => word p.shape.flim
  | 0x02 => word p.shape.vlmax
  | 0x03 => p.shape.tty.setWidth 64
  | 0x04 => p.shape.seat.setWidth 64
  | 0x05 => word p.shape.allot
  | 0x06 => p.grant.word
  | 0x07 => p.flagsWord
  | 0x08 => p.frm.setWidth 64
  | 0x09 => p.xrm.setWidth 64
  | 0x0A => boolWord p.det
  | 0x0B => word (p.place.rank + p.place.size * 2 ^ 16)
  | 0x0C => p.wmk
  | 0x0D => p.barp
  | 0x0E => p.q.qlen.setWidth 64
  | 0x0F => p.q.qstride
  | 0x10 => p.q.qk.setWidth 64
  | 0x11 => p.q.qratio.setWidth 64
  | 0x12 => p.q.qlo
  | 0x13 => p.q.qhi
  | 0x14 => word p.shape.gbase
  | 0x15 => word p.shape.gstep
  | 0x16 => boolWord p.gtrim
  | 0x18 => p.x.dim1
  | 0x19 => p.x.dim2
  | 0x1A => p.x.str1
  | 0x1B => p.x.str2
  | 0x1C => p.x.chunk.setWidth 64
  | 0x1D => p.x.flagA
  | 0x1E => p.x.flagV
  | 0x20 => word (p.place.wid + p.trap.priv.toNat * 2 ^ 8)
  | 0x21 => p.trap.ecause.setWidth 64
  | 0x22 => p.trap.epc
  | 0x23 => p.trap.eidx
  | 0x24 => p.trap.etval
  | 0x25 => p.trap.evec
  | 0x26 => p.trap.escratch
  | 0x27 => word (p.parked.length + p.joins.length * 2 ^ 4)
  | 0x28 => word (p.trap.ppriv.toNat + p.trap.resume.toNat * 2)
  | 0x29 => word (p.trap.level.toNat + p.trap.nspill.toNat * 2 ^ 8)
  | 0x2A => p.trap.efspc
  | 0x2B => p.trap.etinfo.setWidth 64
  | 0x2C => p.eafq
  | 0x2D => p.eafqa
  | 0x2E => s.qm.stat
  | 0x2F => p.q.qewin
  | 0x30 => word s.dev.clock
  | 0x31 => word p.place.slot
  | 0x32 => word (p.place.core + p.place.cluster * 4)
  | 0x33 => boolWord p.q.act
  | 0x34 => p.q.qrmt
  | 0x35 => p.q.qrmv
  | _ => 0

/-- `getsr`: a read of `CLOCK` lets time pass, and in deterministic mode `CLOCK`, `SEATID` and `COREID` read 0, `ETINFO`
reads without seat and lane, each raising CLK (R102, R236, R253). -/
def execGetsr (d : SReg) (n : BitVec 12) (s : State) : Out :=
  let k := n.toNat
  if superOnly k && !s.super then trapHere .privileged 0 s.me.pc s
  else
    let t := if k = 0x30 then s.tick else s
    let v := t.statusOf k
    if k = 0x30 ∨ k = 0x31 ∨ k = 0x32 then
      let r := t.detRead v
      r.2.finishWr d r.1
    else if k = 0x2B ∧ t.me.det then (t.raise flagCLK).finishWr d (v &&& 0x3F00FF)
    else t.finishWr d v

/-! ### Writing (R234, R235) -/

/-- Is `XCHUNK` a value the stream engine takes (R286)? -/
def xchunkOk (v : Nat) : Bool :=
  decide (v < 2 ^ 33) &&
    (decide (v % 2 ^ 32 = 0) || (List.range 16).any (fun k => decide (v % 2 ^ 32 = 2 ^ (k + 6))))

/-- Does the owning rule of a register take the value (R112, R234, R286, R332)? -/
def putOk (n : Nat) (v : Word) : Bool :=
  match n with
  | 0x08 => frmOk v
  | 0x09 => xrmOk v
  | 0x0E => decide (v.toNat < 2 ^ 49)
  | 0x10 => decide (v.toNat < 2 ^ 34)
  | 0x1C => xchunkOk v.toNat
  | 0x25 => decide (v.toNat % 4 = 0)
  | _ => true

/-- Writes a plain writable register; reserved bits are ignored (R2). -/
def Player.put (p : Player) (n : Nat) (v : Word) : Player :=
  match n with
  | 0x08 => { p with frm := v.setWidth 3 }
  | 0x09 => { p with xrm := v.setWidth 2 }
  | 0x0C => { p with wmk := v }
  | 0x0D => { p with barp := v }
  | 0x0E => { p with q := { p.q with qlen := v.setWidth 49 } }
  | 0x0F => { p with q := { p.q with qstride := v } }
  | 0x10 => { p with q := { p.q with qk := v.setWidth 34 } }
  | 0x12 => { p with q := { p.q with qlo := v } }
  | 0x13 => { p with q := { p.q with qhi := v } }
  | 0x16 => { p with gtrim := v.getLsbD 0 }
  | 0x18 => { p with x := { p.x with dim1 := v } }
  | 0x19 => { p with x := { p.x with dim2 := v } }
  | 0x1A => { p with x := { p.x with str1 := v } }
  | 0x1B => { p with x := { p.x with str2 := v } }
  | 0x1C => { p with x := { p.x with chunk := v.setWidth 33 } }
  | 0x1D => { p with x := { p.x with flagA := v } }
  | 0x1E => { p with x := { p.x with flagV := v } }
  | 0x21 => { p with trap := { p.trap with ecause := v.setWidth 8 } }
  | 0x22 => { p with trap := { p.trap with epc := v } }
  | 0x23 => { p with trap := { p.trap with eidx := v } }
  | 0x24 => { p with trap := { p.trap with etval := v } }
  | 0x25 => { p with trap := { p.trap with evec := v } }
  | 0x26 => { p with trap := { p.trap with escratch := v } }
  | 0x28 => { p with trap := { p.trap with ppriv := v.getLsbD 0, resume := v.getLsbD 1 } }
  | 0x29 => { p with trap := { p.trap with level := v.setWidth 4, nspill := (v >>> 8).setWidth 8 } }
  | 0x2A => { p with trap := { p.trap with efspc := v } }
  | 0x2B => { p with trap := { p.trap with etinfo := v.setWidth 22 &&& 0x3FFFF7 } }
  | 0x2D => { p with afq := match p.afq with
      | [] => []
      | r :: rest => { r with addr := v } :: rest }
  | 0x34 => { p with q := { p.q with qrmt := v } }
  | _ => p

/-- `putsr`: a value that the owning rule refuses traps illegal-opcode and leaves the register (R234). -/
def execPutsr (a : SReg) (n : BitVec 12) (s : State) : Out :=
  let k := n.toNat
  if superOnly k && !s.super then trapHere .privileged 0 s.me.pc s
  else if !putOk k (s.rd a) then trapHere .illegalOpcode 0 s.me.pc s
  else .next (s.withMe (s.me.put k (s.rd a))).advance

def execPutsrFlags (a : SReg) (s : State) : Out := .next (s.withMe (s.me.putFlags (s.rd a))).advance

/-- `putsr` to `EAFQ` removes the oldest record, and clears the overflow bit when bit 25 is written 0 (R297). -/
def execPutsrEafq (a : SReg) (s : State) : Out :=
  if !s.super then trapHere .privileged 0 s.me.pc s
  else .next (s.withMe { s.me.popFault with afqOvf := s.me.afqOvf && (s.rd a).getLsbD 25 }).advance

/-! ### EAFQR (R375, R376) -/

/-- A write of `EAFQR`: the oldest record goes, and its held instruction is discarded, or joins the arrival order and is
accepted again when it may take a slot. -/
def writeEafqr (self : Instr) (a : SReg) (s : State) : Out :=
  let v := s.rd a
  if !s.super then trapHere .privileged 0 s.me.pc s
  else if v.toNat ≥ 2 then trapHere .illegalOpcode 0 s.me.pc s
  else
    let act := v.getLsbD 0
    let p := { s.me with q := { s.me.q with act := act } }
    match p.oldestHeld with
    | none => .next (s.withMe p.popFault).advance
    | some h =>
      if !act then .next (s.withMe p.popFault).advance
      else
        let t := s.withMe p.popFault
        if t.mayTake h.eng t.me.id then .next (t.reaccept h).advance
        else
          .next (({ t with eng := { t.eng with resumed := t.eng.resumed ++ [(t.me.id, h)] } }).waitForSlot h.eng self)

def execPutsrEafqrResume (a : SReg) (s : State) : Out := writeEafqr (.putsrEafqrResume a) a s
def execPutsrEafqrDiscard (a : SReg) (s : State) : Out := writeEafqr (.putsrEafqrDiscard a) a s

/-- `HELD_INSTRUCTION_REACCEPT`: the resumed instruction of a player takes a slot, and its `putsr` completes. -/
def execHeldInstructionReaccept (p : Nat) (s : State) : Out :=
  onPlayer p (fun t =>
    match t.eng.resumed.find? (fun r => r.1 = t.me.id) with
    | none => .next t
    | some r =>
      if t.mayTake r.2.eng t.me.id then
        let u := { t with eng := { t.eng with resumed := t.eng.resumed.filter (fun (x : Nat × Held) => x.1 ≠ t.me.id) } }
        .next ((u.leaveQueue r.2.eng).reaccept r.2).advance
      else .next t) s

/-! ### QEWIN (R356) -/

/-- The region a `QEWIN` value names, for the base table entry. -/
def State.windowRegion (s : State) (p : Player) (va : Word) : Option Nat :=
  if va = 0 then none
  else
    match s.locate p.place.asid p.place.wid va false false with
    | .error _ => none
    | .ok l => if l.region.slab then some l.region.id else none

/-- Writing `QEWIN` starts the load of the player's base table entry. -/
def execPutsrQewin (a : SReg) (s : State) : Out :=
  .next (s.withMe { s.me with q := { s.me.q with qewin := s.rd a, loading := true, window := none } }).advance

/-- `BASE_TABLE_LOAD` -/
def execBaseTableLoad (p : Nat) (s : State) : Out :=
  onPlayer p (fun t =>
    if !t.me.q.loading then .next t
    else .next (t.withMe { t.me with q := { t.me.q with window := t.windowRegion t.me t.me.q.qewin, loading := false } })) s

/-! ### The remap (R379, R380) -/

/-- A valid QM page: its leaf, its region and its base. -/
def State.qmPage (s : State) (asid : Nat) (va : Word) : Option (Leaf × Region × Nat) :=
  if !canonicalVa va then none
  else
    match s.vm.leaf asid (vaIndex va) with
    | none => none
    | some l =>
      if l.space ≠ .qm then none
      else
        match s.qm.region? (getBits l.frame 20 16) with
        | none => none
        | some r => if r.retired then none else some (l, r, vaIndex va / leafSize l.level * leafSize l.level)

/-- The first status that applies, in the order 1, 4, 2, 3; 0 when the remap may proceed (R380 step 1). -/
def State.remapStatus (s : State) (asid : Nat) (v t : Word) : Nat :=
  match s.qmPage asid v, s.qmPage asid t with
  | some a, some b =>
    if a.2.2 = b.2.2 then 4
    else if a.1.level ≠ b.1.level || a.1.wtag != b.1.wtag || a.2.1.cls != b.2.1.cls || a.2.1.isCollection ||
        b.2.1.isCollection then 2
    else if a.2.1.merging || b.2.1.merging || a.1.exp || b.1.exp then 3
    else 0
  | _, _ => 1

def State.closePage (s : State) (asid : Nat) (va : Word) : State :=
  match s.vm.leaf asid (vaIndex va) with
  | none => s
  | some l => { s with vm := { s.vm with closed := ⟨asid, vaIndex va / leafSize l.level⟩ :: s.vm.closed } }

def State.openPage (s : State) (asid : Nat) (va : Word) : State :=
  match s.vm.leaf asid (vaIndex va) with
  | none => s
  | some l =>
    let mine := fun (c : Closed) => decide (c.asid = asid) && decide (c.page = vaIndex va / leafSize l.level)
    { s with vm := { s.vm with closed := s.vm.closed.filter (fun c => !mine c) } }

/-- The entry of a leaf (R410). -/
def Leaf.entry (l : Leaf) : BitVec 64 :=
  let sp : Nat := match l.space with
    | .spad => 0
    | .qm => 1
    | .host => 2
    | .peer => 3
  BitVec.ofNat 64 (3 + sp * 2 ^ 2 + l.w.toNat * 2 ^ 4 + l.x.toNat * 2 ^ 5 + l.exp.toNat * 2 ^ 6 + l.frame * 2 ^ 12 + l.wtag * 2 ^ 57)

/-- Is an item still in progress that was translated against one of the two pages (R380 step 3)? -/
def State.remapBusy (s : State) (asid : Nat) (v t : Word) : Bool :=
  [v, t].any (fun a => match s.qmPage asid a with
    | some x => s.inProgress asid x.2.2 (leafSize x.1.level)
    | none => false)

/-- The switch: V names T's region and page index, T is invalid (R380 steps 4 and 5). -/
def State.remap (s : State) (asid : Nat) (v t : Word) : State :=
  match s.qmPage asid v, s.qmPage asid t with
  | some a, some b =>
    { s with vm := (s.vm.map asid a.2.2 a.1.level ({ a.1 with frame := b.1.frame } : Leaf).entry).unmap asid b.2.2 }
  | _, _ => s

/-- A `putsr` to `QRMV` completes when the remap has ended. -/
def execPutsrQrmv (a : SReg) (s : State) : Out :=
  let v := s.rd a
  let asid := s.me.place.asid
  if !s.super then trapHere .privileged 0 s.me.pc s
  else
    let st := s.remapStatus asid v s.me.q.qrmt
    if st ≠ 0 then .next (s.withMe { s.me with q := { s.me.q with qrmv := word st } }).advance
    else if s.remapBusy asid v s.me.q.qrmt then
      let t := (s.closePage asid v).closePage asid s.me.q.qrmt
      .next { t with me := { t.me with waiting := some (.putsrQrmv a) } }
    else
      let t := s.remap asid v s.me.q.qrmt
      .next (t.withMe { t.me with q := { t.me.q with qrmv := 0 } }).advance

/-- `REMAP_SWITCH`: the drain has ended, the pages open again. -/
def execRemapSwitch (p : Nat) (s : State) : Out :=
  onPlayer p (fun t =>
    match t.me.waiting with
    | some (.putsrQrmv a) =>
      let asid := t.me.place.asid
      if t.remapBusy asid (t.rd a) t.me.q.qrmt then .next t
      else
        let u := (t.openPage asid (t.rd a)).openPage asid t.me.q.qrmt
        let w := u.remap asid (t.rd a) t.me.q.qrmt
        .next (w.withMe { w.me with q := { w.me.q with qrmv := 0 }, waiting := none }).advance
    | _ => .next t) s

end Sys2Proof.Machine
end

