-- ==== Sys2Proof/Machine/QueryEngine.lean ====
section
/-! DEFINITION. The steps of the query engine and of query memory (spec/16, 17, 18, 19; spec/23 R413). A step that is not
enabled changes nothing (notes/assumptions/9.md). -/

set_option Elab.async false

namespace Sys2Proof.Machine

/-- Takes a step of an item; without the item nothing happens. -/
def onQuery (id : Nat) (f : State → Query → State) (s : State) : Out :=
  match s.query? id with
  | none => .next s
  | some q => .next (f s q).settle

/-! ### Leaving the query queue (R22, R323, R371, R380) -/

/-- Does a range touch a page closed to translation? -/
def State.rangeClosed (s : State) (asid : Nat) (r : Range) : Bool :=
  s.vm.closed.any (fun c => decide (c.asid = asid) && [2 ^ 21, 2 ^ 30].any (fun size =>
    s.isClosed asid (word (c.page * size)) && s.rangeIn asid (c.page * size) size r))

def State.sendable (s : State) (q : Query) : Bool :=
  !q.sent && !q.stopped && s.qm.losing.isNone && !s.qm.unav && !s.behindWrite q.owner q.id q.asid q.ranges &&
    !q.ranges.any (s.rangeClosed q.asid)

def execQueryQueueSend (q : Nat) (s : State) : Out :=
  onQuery q (fun s q => if s.sendable q then s.setQuery { q with sent := true } else s) s

def execCollectionItemStep (q : Nat) (s : State) : Out := onQuery q State.itemStep s

/-! ### Touches (R23, R317, R348) -/

/-- The first byte of chunk `c` that lies in unit `u`, when every page of the chunk translates. -/
def State.byteIn (s : State) (q : Query) (u c : Nat) : Option Word :=
  let vas := s.chunkVas q c
  if q.chunks.testBit c || (s.firstFault q false vas).isSome then none
  else vas.find? (fun va => match s.locate q.asid q.wid va false false with
    | .ok l => decide (l.unit = u)
    | .error _ => false)

/-- A query touches a unit for a chunk it may touch units for. -/
def State.touchUnit (s : State) (q : Query) (u : Nat) : State :=
  if !s.mayTouch q || q.op.isWrite then s
  else
    match (List.range q.nchunks).findSome? (s.byteIn q u) with
    | none => s
    | some va =>
      match s.touch q u with
      | .error t => t.faultReply q ⟨.dataError, 0⟩ va
      | .ok r => r.2.1.setQuery r.2.2

def execStackUnitTouch (q u : Nat) (s : State) : Out := onQuery q (fun s q => s.touchUnit q u) s

/-- A touch that rebuilds its unit: the unit is uncorrectable or lies in the lost stack. -/
def execReconstructingRead (q u : Nat) (s : State) : Out :=
  onQuery q (fun s q => if s.qm.bad.contains u || decide (s.qm.lost = some (unitStack u)) then s.touchUnit q u else s) s

def execQueryReplyChunk (q c : Nat) (s : State) : Out :=
  onQuery q (fun s q =>
    let ends : Bool := q.ending.isSome && s.mayTouch { q with ending := none } && (q.op == .cas || s.replyFinishable q c)
    if !q.op.isQuery || !(s.mayTouch q || ends) || q.chunks.testBit c || decide (q.nchunks ≤ c) then s
    else
      match q.op with
      | .cas => s.casChunk q c
      | .hamm => s.searchChunk q c
      | .code => s.searchChunk q c
      | _ => s.replyChunk q c) s

/-! ### Writes (R314 to R316) -/

def execStackUnitWriteApply (q f : Nat) (s : State) : Out :=
  onQuery q (fun s q =>
    if !q.op.isWrite || !s.mayTouch { q with ending := none } then s
    else
      match q.op with
      | .append => s.appendRow q f
      | .eval => s
      | .copy => s
      | .merge => s
      | _ => s.applyElem q f) s

/-- `FULL_STRIPE_WRITE`: the stripe of element `f`, wholly covered by a `qst` or `qstx`. Every chunk with an element in the
stripe translates its pages first (R313, R348). -/
def State.stripeWrite (s : State) (q : Query) (f : Nat) : State :=
  match s.chunkFault q (f / 64), s.locateElem q f with
  | none, .ok l =>
    let n := l.unit
    let es := s.stripeWrites q n
    if !s.wholeStripe q n || (stripeUnits n).any s.qm.pcBlocked ||
        es.any (fun e => (s.chunkFault q (e.1 / 64)).isSome) then s
    else
      let t := { s with qm := s.qm.fullStripe n (coverValue (es.map Prod.snd)) }
      es.foldl (fun u e => u.performElem q.id e.1) t
  | _, _ => s

def execFullStripeWrite (q f : Nat) (s : State) : Out :=
  onQuery q (fun s q => if s.mayTouch q && decide (f < q.count) && !s.qm.unav then s.stripeWrite q f else s) s

/-- A waiting write goes on at its data PC: its delta is formed from the bytes as they stand, and accepted, and its data unit
takes the new bytes (steps 1 to 4 of R314). -/
def execParityDeltaAccept (st : Nat) (s : State) : Out :=
  let m := s.qm
  match m.held.find? (fun w => w.delta.stack = st) with
  | none => .next s
  | some w =>
    if m.room st then
      let a := w.unit * 1024 + w.delta.off
      let d := { w.delta with val := m.cells.read a w.delta.len ^^^ w.bytes }
      .next ({ s with qm := ({ m with
        cells := m.cells.write a w.delta.len w.bytes
        deltas := m.deltas ++ [d]
        held := m.held.erase w }).markClean w.unit }).settle
    else .next s

/-- The position in the list of the `k`-th delta of a stack. -/
def deltaIx (st : Nat) : Nat → Nat → List Delta → Option Nat
  | _, _, [] => none
  | i, k, d :: rest =>
    if d.stack = st then
      match k with
      | 0 => some i
      | k + 1 => deltaIx st (i + 1) k rest
    else deltaIx st (i + 1) k rest

/-- The parity queue of a stack absorbs its `k`-th delta, unless an earlier one goes to the same parity unit. -/
def execParityDeltaApply (st k : Nat) (s : State) : Out :=
  let m := s.qm
  match deltaIx st 0 k m.deltas with
  | none => .next s
  | some i =>
    match m.deltas[i]? with
    | none => .next s
    | some d =>
      if (m.deltas.take i).any (fun o => decide (o.stack = st) && decide (o.pc = d.pc) && decide (o.row = d.row)) then .next s
      else
        .next ({ s with qm := { m.absorb d with deltas := m.deltas.eraseIdx i } }).settle

/-! ### Management items -/

def execQcopyChunkPerform (q c : Nat) (s : State) : Out :=
  onQuery q (fun s q =>
    if q.op == .copy && s.mayTouch q && !q.chunks.testBit c && !q.acking.contains c && decide (c < q.nchunks) then
      s.copyChunk q c else s) s

def execSideCountRaise (q : Nat) (s : State) : Out :=
  onQuery q (fun s q => if q.op == .append && s.mayTouch q then s.raiseCount q else s) s

def execQmergeCopy (q : Nat) (s : State) : Out :=
  onQuery q (fun s q => if q.op == .merge && s.mayTouch q then s.mergeCopy q else s) s

def execQmergeSwitch (q : Nat) (s : State) : Out :=
  onQuery q (fun s q => if q.op == .merge && s.mayTouch q then s.mergeSwitch q else s) s

def execQevalElement (q f : Nat) (s : State) : Out :=
  onQuery q (fun s q => if q.op == .eval && s.mayTouch { q with ending := none } then s.evalElem q f else s) s

/-! ### Translation (R382, R413) -/

/-- The host driver's export mark takes effect once the items translated against the page have performed; the MAP that
set it is done (R415). -/
def execExportMarkSet (s : State) : Out :=
  match s.vm.exporting with
  | none => .next s
  | some (asid, va) =>
    if s.vm.leaf asid va |>.any (fun l => s.inProgress asid (va / leafSize l.level * leafSize l.level) (leafSize l.level)) then .next s
    else
      let done := fun (t : State) =>
        ({ t with
          vm := { t.vm with exporting := none }
          dev := { t.dev with mbStatus := 0, mbBell := false, mbTaken := false } } : State).msi 65
      match s.vm.leaf asid va with
      | none => .next (done s)
      | some l =>
        let size := leafSize l.level
        let t := s.openPage asid (word va)
        .next (done { t with vm := t.vm.map asid (va / size * size) l.level ({ l with exp := true } : Leaf).entry })

/-- The leaf entry of a walk with its level, for the caches. -/
def Vm.walkEntry (v : Vm) (va : Nat) : (level slot : Nat) → Option (Nat × BitVec 64)
  | 0, slot => some (0, v.entry slot (levelIndex va 0))
  | level + 1, slot =>
    let e := v.entry slot (levelIndex va (level + 1))
    if e.getLsbD 1 then some (level + 1, e) else v.walkEntry va level (getBits e.toNat 12 45)

/-- The tables that a walk reads. -/
def Vm.walkSlots (v : Vm) (va : Nat) : (level slot : Nat) → List Nat
  | 0, slot => [slot]
  | level + 1, slot =>
    let e := v.entry slot (levelIndex va (level + 1))
    slot :: (if e.getLsbD 0 && !e.getLsbD 1 then v.walkSlots va level (getBits e.toNat 12 45) else [])

/-- The unit of the table store that holds the entry of an address in a table of a level (R412): 176 tables to a region, four
units to a table. The entries themselves stand in `Vm.tables` (notes/assumptions/91.md). -/
def State.entryUnit (s : State) (slot ix : Nat) : Option Nat :=
  (s.vm.store[slot / tablesPerRegion]?).bind (fun id => (s.qm.region? id).map (fun r =>
    r.unit (slot % tablesPerRegion * 4 + ix / 128)))

/-- The walk is a context path (R412): it reads the units of its tables as the stack units serve them, with their error handling
(R320); `none` when one cannot be read. -/
def State.readTables (s : State) (va : Nat) : (level : Nat) → List Nat → Option State
  | _, [] => some s
  | level, slot :: rest =>
    match s.entryUnit slot (levelIndex va level) with
    | none => s.readTables va (level - 1) rest
    | some n =>
      match s.readUnit n with
      | .error _ => none
      | .ok r => r.2.readTables va (level - 1) rest

/-- `TRANSLATION_WALK`: a walk that ends at a valid leaf fills the caches. One that meets a unit it cannot read fills nothing. -/
def execTranslationWalk (asid va : Nat) (s : State) : Out :=
  let va := va % 2 ^ 57
  match lookupNat asid s.vm.roots with
  | none => .next s
  | some r =>
    if (s.vm.cached asid va).isSome || (s.vm.walk va 4 r.2).isNone then .next s
    else
      match s.vm.walkEntry va 4 r.2, s.readTables va 4 (s.vm.walkSlots va 4 r.2) with
      | none, _ => .next s
      | _, none => .next s
      | some (lvl, e), some s =>
        .next { s with vm := { s.vm with cache := (asid, va / leafSize lvl * leafSize lvl, lvl, e) :: s.vm.cache } }

/-! ### Scrubbing and loss (R319 to R323) -/

/-- The scrubber reads a row: it certifies it, or rewrites what it corrects or rebuilds from the stripe (R319 to R321). The
visit of row 0 of PC 0 begins a new interval of its stack. -/
def execScrubRowVisit (st pc row : Nat) (s : State) : Out :=
  let n := unitNo st pc row
  if !unitExists st pc row then .fault (.noSuchRow n)
  else
    let first : Bool := decide (pc = 0) && decide (row = 0)
    let seen := if first then 1 else ((lookupNat st s.qm.visited).getD 0) + 1
    let m : Qm := { s.qm with
      recon := if first then eraseNat st s.qm.recon else s.qm.recon
      corrected := if first then eraseNat st s.qm.corrected else s.qm.corrected
      visited := setNat st seen s.qm.visited }
    let t := { s with qm := m }
    if m.unav || decide (m.lost = some st) then .next t
    else
      match ({ t with qm := m.dropClean n } : State).readUnit n with
      | .error u => .next u
      | .ok r => .next ({ r.2 with qm := r.2.qm.markClean n }).settle

def execCleanRowExpiry (st pc row : Nat) (s : State) : Out :=
  let n := unitNo st pc row
  if !unitExists st pc row then .fault (.noSuchRow n)
  else .next { s with qm := s.qm.dropClean n }

def execStackFatalError (st : Nat) (s : State) : Out := if st < 12 then .next (s.declareLost st) else .next s

/-- A write whose delta was not accepted before the loss is made again under R324. -/
def Qm.reissue (m : Qm) (st : Nat) (w : WaitDelta) : Qm :=
  if unitStack w.unit = st then
    let a := parityUnit w.unit * 1024 + w.delta.off
    let old := getBits (m.rebuild w.unit) (8 * w.delta.off) (8 * w.delta.len)
    ({ m with cells := m.cells.write a w.delta.len (m.cells.read a w.delta.len ^^^ old ^^^ w.bytes) }).markClean (parityUnit w.unit)
  else ({ m with cells := m.cells.write (w.unit * 1024 + w.delta.off) w.delta.len w.bytes }).markClean w.unit

/-- `DEGRADED_SWITCH`: once the surviving parity queues have drained, stack `st` is served by its stand-in. -/
def execDegradedSwitch (st : Nat) (s : State) : Out :=
  let m := s.qm
  if m.losing ≠ some st || m.deltas.any (fun d => decide (d.stack ≠ st)) then .next s
  else
    let hit := fun (w : WaitDelta) => decide (unitStack w.unit = st) || decide (w.delta.stack = st)
    let m' := (m.held.filter hit).foldl (fun x w => x.reissue st w)
      { m with deltas := [], held := m.held.filter (fun w => !hit w), lost := some st, losing := none }
    .next (({ s with qm := m' }).msi 64).settle

end Sys2Proof.Machine
end

