-- ==== Sys2Proof/Machine/Reduce.lean ====
section
/-! DEFINITION. Reductions and scans of major 0x2D (spec/07_conversions_reductions_permutes.md R174 to R179;
spec/05_number_formats.md R128 to R133). -/

set_option Elab.async false

namespace Sys2Proof.Machine

/-- F, I and N. -/
def tySum (e : Env) : Bool := e.ty.inIN || e.ty.inF

/-- Types of the forms with an index. -/
def tyIndexed (e : Env) : Bool := tySum e && decide (32 ≤ e.w)

/-- The positions of a group, padding where inactive. -/
def partsOf (e : Env) (a : TReg) (va : Nat) (act : Nat → Bool) (fs : List Nat) : List Part :=
  fs.map (fun f => if act f then some (e.at a va f) else none)

/-- The carry: position 0 of tb (R175). -/
def carryOf (e : Env) (b : TReg) (vs : List Nat) : Nat := e.posGet (e.view b) (vs.getD 1 0) 0

/-- A reduction to one value with a carry. `step` folds a group into the marker, `result` reads the value and index. -/
def reduceFold (step : Env → TReg → List Nat → (Nat → Bool) → List Nat → Marker → Marker)
    (init : Env → Nat → Marker) (result : Env → Marker → Nat × Int × Flags) (indexed : Bool) (d a b : TReg) (m : MaskMode)
    (trees : Bool := false) : Fold where
  mode := m
  dst := fun e => some (.group (e.view d))
  srcs := fun e => [.group (e.view a), .first (e.view b)]
  init := fun e vs => init e (carryOf e b vs)
  step := fun e vs act _ fs acc => { acc with mark := step e a vs act fs acc.mark }
  last := fun e _ _ mk x =>
    let r := result e mk
    let y := e.posSet (e.view d) x 0 r.1
    ⟨if indexed then e.posSet (e.view d) y 1 (wrap e.w r.2.1) else y, r.2.2, none⟩
  zero := fun e vs x =>
    let y := e.posSet (e.view d) x 0 (carryOf e b vs)
    FoldEnd.keep (if indexed then e.posSet (e.view d) y 1 (ones e.w) else y)
  part := if trees then some (fun _ _ _ _ _ acc => (acc.x, 0)) else none

/-! ### Sums -/

def sumInit (_ : Env) (carry : Nat) : Marker := { Marker.start with acc := ⟨some carry, 0⟩ }
def sumResult (_ : Env) (mk : Marker) : Nat × Int × Flags := (mk.acc.part.getD 0, 0, mk.acc.flags)

def sumFold (d a b : TReg) (m : MaskMode) : Fold :=
  reduceFold (fun e a vs act fs mk =>
    { mk with acc := foldGroup e.ty e.frm mk.acc (partsOf e a (vs.getD 0 0) act fs) }) sumInit sumResult false d a b m true

def orderedFold (d a b : TReg) (m : MaskMode) : Fold :=
  reduceFold (fun e a vs act fs mk =>
    { mk with acc := orderedSum e.ty e.frm mk.acc (partsOf e a (vs.getD 0 0) act fs) }) sumInit sumResult false d a b m

def logicFold (op : Nat → Nat → Nat) (d a b : TReg) (m : MaskMode) : Fold :=
  reduceFold (fun e a vs act fs mk =>
    { mk with acc := ⟨some ((fs.filter act).foldl (fun r f => op r (e.at a (vs.getD 0 0) f)) (mk.acc.part.getD 0)), 0⟩ })
    sumInit sumResult false d a b m

def descTredsum (d a b : TReg) (m : MaskMode) : TileDesc := foldDesc .perm tySum (sumFold d a b m)
def execTredsum (c : Bool) (d a b : TReg) (m : MaskMode) (s : State) : Out :=
  runTile (.tredsum c d a b m) (descTredsum d a b m) s

def descTredosum (d a b : TReg) (m : MaskMode) : TileDesc := foldDesc .perm tySum (orderedFold d a b m)
def execTredosum (c : Bool) (d a b : TReg) (m : MaskMode) (s : State) : Out :=
  runTile (.tredosum c d a b m) (descTredosum d a b m) s

def descTredand (d a b : TReg) (m : MaskMode) : TileDesc := foldDesc .perm tyIN (logicFold (· &&& ·) d a b m)
def execTredand (c : Bool) (d a b : TReg) (m : MaskMode) (s : State) : Out :=
  runTile (.tredand c d a b m) (descTredand d a b m) s

def descTredor (d a b : TReg) (m : MaskMode) : TileDesc := foldDesc .perm tyIN (logicFold (· ||| ·) d a b m)
def execTredor (c : Bool) (d a b : TReg) (m : MaskMode) (s : State) : Out :=
  runTile (.tredor c d a b m) (descTredor d a b m) s

def descTredxor (d a b : TReg) (m : MaskMode) : TileDesc := foldDesc .perm tyIN (logicFold (· ^^^ ·) d a b m)
def execTredxor (c : Bool) (d a b : TReg) (m : MaskMode) (s : State) : Out :=
  runTile (.tredxor c d a b m) (descTredxor d a b m) s

/-! ### Maximum and minimum (R133) -/

def selectFold (wantMax indexed : Bool) (d a b : TReg) (m : MaskMode) : Fold :=
  reduceFold (fun e a vs act fs mk =>
    { mk with sel := (fs.filter act).foldl (fun r f => r.offer e.ty wantMax (e.at a (vs.getD 0 0) f) f) mk.sel })
    (fun e carry => { Marker.start with sel := Sel.empty.offer e.ty wantMax carry (-1) })
    (fun e mk => ((mk.sel.result e.ty).1, (mk.sel.result e.ty).2, mk.sel.flags)) indexed d a b m

def descTredmax (d a b : TReg) (m : MaskMode) : TileDesc := foldDesc .perm tySum (selectFold true false d a b m)
def execTredmax (c : Bool) (d a b : TReg) (m : MaskMode) (s : State) : Out :=
  runTile (.tredmax c d a b m) (descTredmax d a b m) s

def descTredmin (d a b : TReg) (m : MaskMode) : TileDesc := foldDesc .perm tySum (selectFold false false d a b m)
def execTredmin (c : Bool) (d a b : TReg) (m : MaskMode) (s : State) : Out :=
  runTile (.tredmin c d a b m) (descTredmin d a b m) s

def descTredmaxi (d a b : TReg) (m : MaskMode) : TileDesc := foldDesc .perm tyIndexed (selectFold true true d a b m)
def execTredmaxi (c : Bool) (d a b : TReg) (m : MaskMode) (s : State) : Out :=
  runTile (.tredmaxi c d a b m) (descTredmaxi d a b m) s

def descTredmini (d a b : TReg) (m : MaskMode) : TileDesc := foldDesc .perm tyIndexed (selectFold false true d a b m)
def execTredmini (c : Bool) (d a b : TReg) (m : MaskMode) (s : State) : Out :=
  runTile (.tredmini c d a b m) (descTredmini d a b m) s

/-! ### Group values and scans (R176, R177) -/

/-- −0 for a float, 0 for an integer. -/
def padValue (t : ElemTy) : Nat :=
  match t with
  | .flt n => withSign n.fmt true 0
  | _ => 0

def gsumFold (d a : TReg) (m : MaskMode) : Fold where
  mode := m
  dst := fun e => some (.group (e.view d))
  srcs := fun e => [.group (e.view a)]
  init := fun _ _ => Marker.start
  step := fun e vs act g fs acc =>
    let v := tree64 e.ty e.frm (partsOf e a (vs.getD 0 0) act fs)
    { acc with x := e.posSet (e.view d) acc.x g (v.1.getD (padValue e.ty)), flags := acc.flags ||| v.2 }
  last := fun _ _ _ _ x => FoldEnd.keep x
  zero := fun _ _ x => FoldEnd.keep x
  part := some (fun _ _ _ _ _ acc => (acc.x, 0))

def descTredgsum (d a : TReg) (m : MaskMode) : TileDesc := foldDesc .perm tySum (gsumFold d a m)
def execTredgsum (c : Bool) (d a : TReg) (m : MaskMode) (s : State) : Out :=
  runTile (.tredgsum c d a m) (descTredgsum d a m) s

/-- The parts of a group with the positions after `f` as padding. -/
def prefixParts (fs : List Nat) (ps : List Part) (f : Nat) : List Part :=
  (fs.zip ps).map (fun x => if x.1 ≤ f then x.2 else none)

/-- The values a scan writes at the selected ones of these elements of a group, and their flags. -/
def scanGroup (d a : TReg) (e : Env) (vs : List Nat) (act : Nat → Bool) (fs : List Nat) (acc : FoldAcc) : Nat × Flags :=
  let ps := partsOf e a (vs.getD 0 0) act fs
  (fs.filter act).foldl (fun (r : Nat × Flags) f =>
    let v := partAdd e.ty e.frm (acc.mark.acc.part, 0) (tree64 e.ty e.frm (prefixParts fs ps f))
    (e.setElem (e.view d) r.1 f (v.1.getD 0), r.2 ||| v.2)) (acc.x, 0)

def scanFold (d a b : TReg) (m : MaskMode) : Fold where
  mode := m
  dst := fun e => some (.group (e.view d))
  srcs := fun e => [.group (e.view a), .first (e.view b)]
  init := fun e vs => sumInit e (carryOf e b vs)
  step := fun e vs act _ fs acc =>
    let r := scanGroup d a e vs act fs acc
    let g := foldGroup e.ty e.frm acc.mark.acc (partsOf e a (vs.getD 0 0) act fs)
    { acc with x := r.1, mark := { acc.mark with acc := ⟨g.part, g.flags ||| r.2⟩ } }
  part := some (fun e vs act _ fs acc => scanGroup d a e vs act fs acc)
  zeroReads := false
  last := fun _ _ _ mk x => ⟨x, mk.acc.flags, none⟩
  zero := fun _ _ x => FoldEnd.keep x
  fills := true
  out := .element

def descTscan (d a b : TReg) (m : MaskMode) : TileDesc := foldDesc .perm tySum (scanFold d a b m)
def execTscan (c : Bool) (d a b : TReg) (m : MaskMode) (s : State) : Out := runTile (.tscan c d a b m) (descTscan d a b m) s

end Sys2Proof.Machine
end

