-- ==== Sys2Proof/Machine/Gcm.lean ====
section
/-! DEFINITION. AES-256-GCM, under which pages and context images are sealed (spec/14_stream_engine.md R293, R294;
spec/23_worlds_and_contexts.md R421). The spec names the cipher; its definition is that of FIPS 197 and SP 800-38D
(notes/assumptions/80.md). -/

set_option Elab.async false

namespace Sys2Proof.Machine

/-! ### AES-256 (FIPS 197) -/

/-- The substitution of a byte, 32 of them to a number, the lowest index in the low byte. -/
def aesTable : List Nat :=
  [ 0xC072A49CAFA2D4ADF04759FA7DC982CA76ABD7FE2B670130C56F6BF27B777C63,
    0x75B227EBE28012079A059618C323C7041531D871F1E5A534CCF73F362693FDB7,
    0xCF584C4A39BECB6A5BB1FC20ED00D153842FE329B3D63B52A05A6E1B1A2C8309,
    0xD2F3FF1021DAB6BCF5389D928F40A351A89F3C507F02F94585334D43FBAAEFD0,
    0xDB0B5EDE14B8EE4688902A22DC4F816073195D643D7EA7C41744975FEC130CCD,
    0x08AE7A65EAF4566CA94ED58D6D37C8E779E4959162ACD3C25C2406490A3A32E0,
    0x9E1DC186B95735610EF6034866B53E708A8BBD4B1F74DDE8C6B4A61C2E2578BA,
    0x16BB54B00F2D99416842E6BF0D89A18CDF2855CEE9871E9B948ED9691198F8E1 ]

def subByte (x : Nat) : Nat := getBits (aesTable.getD (x / 32) 0) (8 * (x % 32)) 8

/-- A byte doubled in the field of AES. -/
def twice (x : Nat) : Nat := (2 * x % 256) ^^^ (if 128 ≤ x then 0x1B else 0)

/-- Two lists of bytes combined by exclusive or. -/
def xorBytes (x y : List Nat) : List Nat := List.zipWith (fun a b => a ^^^ b) x y

/-- The constant of key round `n`: x to the power n − 1. -/
def roundConst : Nat → Nat
  | 0 => 0
  | 1 => 1
  | n + 1 => twice (roundConst n)

/-- The words of the key schedule, the newest first: word `i` is the next of `n` to come. -/
def aesSchedule : (n i : Nat) → (w : List (List Nat)) → List (List Nat)
  | 0, _, w => w
  | n + 1, i, w =>
    let last := w.headD []
    let t := if i % 8 = 0 then xorBytes ((last.drop 1 ++ last.take 1).map subByte) [roundConst (i / 8), 0, 0, 0]
      else if i % 8 = 4 then last.map subByte
      else last
    aesSchedule n (i + 1) (xorBytes (w.getD 7 []) t :: w)

/-- The fifteen round keys of a 32-byte key. -/
def roundKeys (key : List Nat) : List (List Nat) :=
  let start := ((List.range 8).map (fun i => (key.drop (4 * i)).take 4)).reverse
  let w := (aesSchedule 52 8 start).reverse
  (List.range 15).map (fun r => ((w.drop (4 * r)).take 4).flatten)

/-- Rows turned: byte r of column c comes from column c + r. -/
def shiftRows (b : List Nat) : List Nat := (List.range 16).map (fun i => b.getD ((i + 4 * (i % 4)) % 16) 0)

/-- A column mixed. -/
def mixColumn (c : List Nat) : List Nat :=
  (List.range 4).map (fun i =>
    let at' := fun (k : Nat) => c.getD ((i + k) % 4) 0
    ((twice (at' 0) ^^^ (twice (at' 1) ^^^ at' 1)) ^^^ at' 2) ^^^ at' 3)

def mixColumns (b : List Nat) : List Nat := (List.range 4).flatMap (fun c => mixColumn ((b.drop (4 * c)).take 4))

/-- One block encrypted under round keys. -/
def aesBlock (keys : List (List Nat)) (b : List Nat) : List Nat :=
  let start := xorBytes b (keys.headD [])
  let x := ((keys.drop 1).take 13).foldl (fun v k => xorBytes (mixColumns (shiftRows (v.map subByte))) k) start
  xorBytes (shiftRows (x.map subByte)) (keys.getD 14 [])

/-! ### GCM (SP 800-38D) -/

/-- A 16-byte block as a number, its first byte the highest. -/
def blockNum (b : List Nat) : Nat := b.foldl (fun x y => x * 256 + y) 0

/-- The 16 bytes of a block number. -/
def numBlock (x : Nat) : List Nat := ((List.range 16).map (fun i => getBits x (8 * i) 8)).reverse

/-- A product in the field of GCM: the bits of `x` below 2 ^ `n`, the highest first. -/
def ghashMul (x : Nat) : (n z v : Nat) → Nat
  | 0, z, _ => z
  | n + 1, z, v =>
    ghashMul x n (if x.testBit n then z ^^^ v else z) (v / 2 ^^^ (if v % 2 = 1 then 0xE1 * 2 ^ 120 else 0))

/-- The hash of `n` blocks of bytes. -/
def ghashBlocks (h : Nat) : (n y : Nat) → (b : List Nat) → Nat
  | 0, y, _ => y
  | n + 1, y, b =>
    let k := b.take 16
    ghashBlocks h n (ghashMul (y ^^^ blockNum (k ++ List.replicate (16 - k.length) 0)) 128 0 h) (b.drop 16)

def blocksOf (b : List Nat) : Nat := (b.length + 15) / 16

/-- The hash of the additional authenticated data and the ciphertext, with their lengths in bits. -/
def ghash (h : Nat) (aad cipher : List Nat) : Nat :=
  let y := ghashBlocks h (blocksOf cipher) (ghashBlocks h (blocksOf aad) 0 aad) cipher
  ghashMul (y ^^^ (8 * aad.length * 2 ^ 64 + 8 * cipher.length)) 128 0 h

/-- Bytes as numbers. -/
def byteNums (b : List Byte) : List Nat := b.map BitVec.toNat

/-- The counter block `k` of a 12-byte nonce. -/
def counterBlock (nonce k : Nat) : List Nat := byteNums (natToBytes nonce 12) ++ (byteNums (natToBytes k 4)).reverse

/-- The keystream, `n` blocks from counter `k` on. -/
def gcmStream (keys : List (List Nat)) (nonce : Nat) : (n k : Nat) → List Nat
  | 0, _ => []
  | n + 1, k => aesBlock keys (counterBlock nonce k) ++ gcmStream keys nonce n (k + 1)

/-- Keys and nonces are numbers whose low byte is their first byte. -/
def keysOf (key : Nat) : List (List Nat) := roundKeys (byteNums (natToBytes key 32))

/-- The keystream combined with bytes: plaintext to ciphertext, and back. -/
def gcmCombine (key nonce : Nat) (b : List Byte) : List Byte :=
  List.zipWith (fun x y => x ^^^ BitVec.ofNat 8 y) b (gcmStream (keysOf key) nonce ((b.length + 15) / 16) 2)

/-- The 16-byte tag over header and ciphertext; the header is the additional authenticated data. -/
def gcmTag (key nonce : Nat) (header cipher : List Byte) : List Byte :=
  let ks := keysOf key
  let h := blockNum (aesBlock ks (List.replicate 16 0))
  (numBlock (ghash h (byteNums header) (byteNums cipher) ^^^ blockNum (aesBlock ks (counterBlock nonce 1)))).map (BitVec.ofNat 8)

end Sys2Proof.Machine
end

