-- ==== Sys2Proof/Machine/Stream.lean ====
section
/-! DEFINITION. The stream engine (spec/14_stream_engine.md R284 to R302): acceptance, chunks, sealing, landing flags,
cancelling, and the frames of the Chawick ports. -/

set_option Elab.async false

namespace Sys2Proof.Machine

/-! ### Overlap and the checks before acceptance (R288, R289) -/

/-- The smallest range that holds every byte of one side. -/
def Xfer.span (x : Xfer) (base : Word) (s1 s2 : Int) : Int × Int :=
  let a : Int := if x.uses1 then ((x.rows : Int) - 1) * s1 else 0
  let b : Int := ((x.planes : Int) - 1) * s2
  (base.toNat + min 0 a + min 0 b, base.toNat + max 0 a + max 0 b + x.len.toNat)

/-- The overlap and self-overlap of R289. -/
def Xfer.overlaps (x : Xfer) : Bool :=
  if !x.isCopy then false
  else
    let sb : Int := x.len.toNat
    let d1 := strideDst x.str1
    let d2 := strideDst x.str2
    let e1 : Int := if x.rows = 1 then sb else ((x.rows : Int) - 1) * d1.natAbs + sb
    let s := x.span x.src (strideSrc x.str1) (strideSrc x.str2)
    let d := x.span x.dst d1 d2
    (x.uses1 && decide (1 < x.rows) && decide ((d1.natAbs : Int) < sb)) ||
      (decide (x.op = .copy3) && decide (1 < x.planes) && decide ((d2.natAbs : Int) < e1)) ||
      (decide (x.total ≠ 0) && decide (s.1 < d.2) && decide (d.1 < s.2))

/-- Order 1 of R288. -/
def Xfer.misaligned (x : Xfer) : Bool :=
  let odd := fun (m : Nat) (w : Word) => decide (w.toNat % m ≠ 0)
  let halves := fun (w : Word) => decide (w.toNat % 2 ^ 32 % 8 ≠ 0) || decide (w.toNat / 2 ^ 32 % 8 ≠ 0)
  (match x.op with
    | .put => decide (x.len ≠ 0) && odd x.len.toNat x.dst
    | .xseal => odd 2097152 x.dst || odd 2097152 x.src
    | .xunseal => odd 2097152 x.dst || odd 2097152 x.src
    | .bar => false
    | _ => odd 8 x.dst || odd 8 x.src || odd 8 x.len || (x.uses1 && halves x.str1) ||
        (decide (x.op = .copy3) && halves x.str2)) || odd 8 x.flagA

def Xfer.badSize (x : Xfer) : Bool :=
  (decide (x.op = .put) && !(x.len = 1 || x.len = 2 || x.len = 4 || x.len = 8)) || decide (2 ^ 40 ≤ x.total)

/-- The checks of R288 in their order; a subcode for stream-fault. -/
def Xfer.check (x : Xfer) (lanes : Nat) : Option (Cause × Nat) :=
  if x.misaligned then some (.misaligned, 0)
  else if x.badSize then some (.streamFault, 0x03)
  else if !x.np && decide (2048 * lanes < x.count) then some (.streamFault, 0x02)
  else if x.overlaps then some (.streamFault, 0x04)
  else none

/-! ### Acceptance (R288, R291) -/

/-- The transfer a word becomes: the registers as they stand (R286, R302). -/
def newXfer (p : Player) (m : Member) (op : XOp) (pip : Nat) : Xfer where
  id := 0
  owner := p.id
  op := op
  dst := m.scal.getD 0 0
  src := m.scal.getD 1 0
  len := m.scal.getD 2 0
  dim1 := p.x.dim1
  dim2 := p.x.dim2
  str1 := p.x.str1
  str2 := p.x.str2
  size := if p.x.chunk.toNat % 2 ^ 32 = 0 then 64 else p.x.chunk.toNat % 2 ^ 32
  np := p.x.chunk.getLsbD 32
  flagA := p.x.flagA
  flagV := p.x.flagV
  pip := pip
  wid := p.place.wid
  asid := p.place.asid
  pc := m.addr
  chunks := 0
  done := 0
  reading := []
  flushing := []
  acking := []
  flagOwed := decide (p.x.flagA ≠ 0)
  fault := false
  ending := none
  stopped := false

/-- A trap before acceptance: `ETVAL` is the subcode of a stream-fault, and else free (notes/assumptions/5.md). -/
def trapStream (k : Nat) (c : Cause) (sub : Nat) (s : State) : Out :=
  if c = .streamFault then trapMember k c 0 (word sub) 3 s
  else
    let r := s.free
    trapMember k c 0 (word r.1) 3 r.2

def runStream (i : Instr) (op : XOp) (pip : TReg) (k : Nat) (s : State) : Out :=
  match s.member? k with
  | none => .next s
  | some (_, m) =>
    let x0 := newXfer s.me m op pip.val
    let x := { x0 with chunks := x0.count }
    match x.check s.me.lanes with
    | some e => trapStream k e.1 e.2 s
    | none =>
      if s.mayTake 3 s.me.id then
        let t := s.takeId
        let x := { x with id := t.1 }
        let u := t.2.leaveQueue 3
        if x.chunks = 0 ∧ !x.flagOwed then .next (u.finishMember k)
        else
          let v := if x.np || decide (x.chunks = 0) then u else u.withMe (u.me.own x.pip x.chunks x.id)
          .next (({ v with eng := { v.eng with xfers := v.eng.xfers ++ [x] } }).finishMember k)
      else .next (s.waitForSlot 3 i)

def streamDesc (priv : Bool) (regs : List SReg) (pip : TReg) (run : Nat → State → Out) : TileDesc where
  cls := .async
  priv := priv
  mode := .unmasked
  typeOk := tyAny
  dsts := fun _ => []
  srcs := fun _ => []
  regs := regs
  pips := [pip.val]
  matrix := false
  noDet := never
  post := fun _ => true
  kind := .run run (fun _ k _ => run k) (fun _ _ _ => Look.clear)

def xDesc (i : Instr) (op : XOp) (priv : Bool) (regs : List SReg) (p : TReg) : TileDesc :=
  streamDesc priv regs p (runStream i op p)

def descXcopy (c : Bool) (d a b : SReg) (p : TReg) : TileDesc := xDesc (.xcopy c d a b p) .copy false [d, a, b] p
def execXcopy (c : Bool) (d a b : SReg) (p : TReg) (s : State) : Out := runTile (.xcopy c d a b p) (descXcopy c d a b p) s
def descXcopy2 (c : Bool) (d a b : SReg) (p : TReg) : TileDesc := xDesc (.xcopy2 c d a b p) .copy2 false [d, a, b] p
def execXcopy2 (c : Bool) (d a b : SReg) (p : TReg) (s : State) : Out := runTile (.xcopy2 c d a b p) (descXcopy2 c d a b p) s
def descXcopy3 (c : Bool) (d a b : SReg) (p : TReg) : TileDesc := xDesc (.xcopy3 c d a b p) .copy3 false [d, a, b] p
def execXcopy3 (c : Bool) (d a b : SReg) (p : TReg) (s : State) : Out := runTile (.xcopy3 c d a b p) (descXcopy3 c d a b p) s
def descXgath (c : Bool) (d a b : SReg) (p : TReg) : TileDesc := xDesc (.xgath c d a b p) .gath false [d, a, b] p
def execXgath (c : Bool) (d a b : SReg) (p : TReg) (s : State) : Out := runTile (.xgath c d a b p) (descXgath c d a b p) s
def descXput (c : Bool) (d a b : SReg) (p : TReg) : TileDesc := xDesc (.xput c d a b p) .put false [d, a, b] p
def execXput (c : Bool) (d a b : SReg) (p : TReg) (s : State) : Out := runTile (.xput c d a b p) (descXput c d a b p) s
def descXseal (c : Bool) (d a : SReg) (p : TReg) : TileDesc := xDesc (.xseal c d a p) .xseal true [d, a] p
def execXseal (c : Bool) (d a : SReg) (p : TReg) (s : State) : Out := runTile (.xseal c d a p) (descXseal c d a p) s
def descXunseal (c : Bool) (d a : SReg) (p : TReg) : TileDesc := xDesc (.xunseal c d a p) .xunseal true [d, a] p
def execXunseal (c : Bool) (d a : SReg) (p : TReg) (s : State) : Out := runTile (.xunseal c d a p) (descXunseal c d a p) s
def descXbar (c : Bool) (p : TReg) : TileDesc := xDesc (.xbar c p) .bar false [] p
def execXbar (c : Bool) (p : TReg) (s : State) : Out := runTile (.xbar c p) (descXbar c p) s

/-! ### Translation of a chunk (R284, R285) -/

/-- A byte to be read. -/
inductive SLoc where
  | imm (b : Byte)
  | spad (pa : Nat)
  | host (a : Nat)
  deriving DecidableEq, Repr

/-- Where a piece goes. -/
inductive DLoc where
  | spad (pa : Nat)
  | qm (l : QLoc)
  | host (a : Nat)
  | peer (port key : Nat)
  deriving DecidableEq, Repr

def SLoc.space : SLoc → Space
  | .imm _ => .spad
  | .spad _ => .spad
  | .host _ => .host

/-- The pairs of R284. -/
def pairOk (op : XOp) (src dst : Space) : Bool :=
  match op with
  | .put => dst != .qm
  | .gath => dst == .spad || dst == .qm
  | _ => if src = .host then dst == .spad || dst == .qm else true

abbrev SFault := QFault × Word

/-- Orders 1 and 3 of R193. -/
def State.streamLeaf (s : State) (x : Xfer) (va : Word) : Except SFault Leaf :=
  if !canonicalVa va then .error (⟨.spadRange, 0⟩, va)
  else
    match s.vm.leaf x.asid (vaIndex va) with
    | none => .error (⟨.pageFault, 0⟩, va)
    | some l => .ok l

/-- The leaf of a source byte (orders 1 and 3, then the spaces of R284); `hostOk` is false for the address list of `xgath`. -/
def State.srcLeaf (s : State) (x : Xfer) (va : Word) (hostOk : Bool) : Except SFault Leaf :=
  match s.streamLeaf x va with
  | .error e => .error e
  | .ok l =>
    match l.space with
    | .qm => .error (⟨.qmLoad, 0⟩, va)
    | .peer => .error (⟨.streamFault, 0x01⟩, va)
    | .host => if hostOk then .ok l else .error (⟨.streamFault, 0x01⟩, va)
    | .spad => .ok l

/-- The leaf of a destination: a peer's query memory is `qcopy`'s alone (R284, R361). -/
def State.dstLeaf (s : State) (x : Xfer) (va : Word) (ok : Space → Bool) : Except SFault Leaf :=
  match s.streamLeaf x va with
  | .error e => .error e
  | .ok l => if ok l.space && !(l.space == .peer && l.peerQm) then .ok l else .error (⟨.streamFault, 0x01⟩, va)

/-- The place of a destination: orders 6 and 7, and for query memory the checks of R312, R363 and R368. -/
def State.dstLoc (s : State) (x : Xfer) (va : Word) (l : Leaf) : Except SFault DLoc :=
  if l.space = .qm then
    match s.locate x.asid x.wid va true false with
    | .error e => .error (e, va)
    | .ok q =>
      match q.writeFault with
      | some e => .error (e, va)
      | none => .ok (.qm q)
  else if l.wtag ≠ x.wid then .error (⟨.worldViolation, 0⟩, va)
  else if !l.w then .error (⟨.pageFault, 0⟩, va)
  else
    match l.space with
    | .peer =>
      match s.portFault l.port x.wid with
      | some e => .error (e, va)
      | none => .ok (.peer l.port (l.peerKey va))
    | .host => .ok (.host (l.phys va))
    | _ => .ok (.spad (l.phys va))

/-- The address of row `j` of `xgath`, read from its list (R298). -/
def State.rowAddr (s : State) (x : Xfer) (j : Nat) : Except SFault Word :=
  let va := x.src + word (8 * j)
  match s.srcLeaf x va false with
  | .error e => .error e
  | .ok l =>
    if l.wtag ≠ x.wid then .error (⟨.worldViolation, 0⟩, va)
    else if s.mem.badHit (l.phys va) 8 then .error (⟨.dataError, 0⟩, va)
    else .ok (word (s.mem.spad.read (l.phys va) 8))

/-- The source addresses of the `n` bytes from byte `o` on. -/
def State.srcVas (s : State) (x : Xfer) (o n : Nat) : Except SFault (List Word) :=
  match x.op with
  | .put => .ok []
  | .gath =>
    match s.rowAddr x (o / x.len.toNat) with
    | .error e => .error e
    | .ok a => .ok ((List.range n).map (fun i => a + word (o % x.len.toNat + i)))
  | _ => .ok ((List.range n).map (fun i => x.srcAt (o + i)))

/-- The leaves of a list of source bytes. -/
def State.srcLeaves (s : State) (x : Xfer) : List Word → Except SFault (List (Word × Leaf))
  | [] => .ok []
  | a :: rest =>
    match s.srcLeaf x a true with
    | .error e => .error e
    | .ok l =>
      match s.srcLeaves x rest with
      | .error e => .error e
      | .ok ls => .ok ((a, l) :: ls)

/-- A piece of a chunk: its sources with their addresses, its destination and its address. -/
structure Piece' where
  srcs : List (SLoc × Word)
  dst : DLoc
  va : Word
  deriving DecidableEq, Repr

/-- The piece of `n` bytes at byte `o`, translated in the order of R285: what each page is, the pair, the worlds, the
permissions. -/
def State.piece (s : State) (x : Xfer) (o n : Nat) : Except SFault Piece' :=
  let dva := x.dstAt o
  let imm : List (SLoc × Word) := if x.op = .put then (natToBytes x.src.toNat n).map (fun b => (SLoc.imm b, 0)) else []
  match s.srcVas x o n with
  | .error e => .error e
  | .ok vas =>
    match s.srcLeaves x vas with
    | .error e => .error e
    | .ok ls =>
      match s.dstLeaf x dva (fun d => pairOk x.op .spad d && ls.all (fun a => pairOk x.op a.2.space d)) with
      | .error e => .error e
      | .ok dl =>
        match ls.find? (fun a => a.2.wtag ≠ x.wid) with
        | some a => .error (⟨.worldViolation, 0⟩, a.1)
        | none =>
          match s.dstLoc x dva dl with
          | .error e => .error e
          | .ok d => .ok ⟨imm ++ ls.map (fun a => (if a.2.space = .host then .host (a.2.phys a.1) else .spad (a.2.phys a.1), a.1)), d, dva⟩

/-- The first data-error of a translated piece: a source dword, or a destination dword written in part (order 8). -/
def State.pieceBad (s : State) (p : Piece') : Option SFault :=
  match p.srcs.find? (fun a => match a.1 with
    | .spad pa => s.mem.badHit pa 1
    | _ => false) with
  | some a => some (⟨.dataError, 0⟩, a.2)
  | none =>
    match p.dst with
    | .spad pa => if p.srcs.length < 8 && s.mem.badHit pa p.srcs.length then some (⟨.dataError, 0⟩, p.va) else none
    | _ => none

/-- The pieces translated one after another. -/
def State.translated (s : State) (x : Xfer) : List (Nat × Nat) → Except SFault (List Piece')
  | [] => .ok []
  | (o, n) :: rest =>
    match s.piece x o n with
    | .error e => .error e
    | .ok p =>
      match s.translated x rest with
      | .error e => .error e
      | .ok ps => .ok (p :: ps)

/-- The pieces of a chunk: every page is translated before any byte is read (R285). -/
def State.pieces (s : State) (x : Xfer) (c : Nat) : Except SFault (List Piece') :=
  match s.translated x (x.pieceOffsets c) with
  | .error e => .error e
  | .ok ps =>
    match ps.findSome? s.pieceBad with
    | some e => .error e
    | none => .ok ps

/-! ### Ordering (R295, R298 to R300) -/

/-- Earlier transfers of the player still in the engine, in the order of acceptance. -/
def earlierXfers (owner id : Nat) : List Xfer → List Xfer
  | [] => []
  | y :: rest => if y.id = id then [] else if y.owner = owner then y :: earlierXfers owner id rest else earlierXfers owner id rest

def State.before (s : State) (x : Xfer) : List Xfer := earlierXfers x.owner x.id s.eng.xfers

/-- Every earlier QM write of the player has performed (R299). -/
def State.writesDone (s : State) (owner id : Nat) : Bool :=
  !(s.itemsOf owner).any (fun q => decide (q.id < id) && q.op.isWrite && !q.settledCas)

/-- Has a pre-emption request stopped the player's engines (R256, R302)? -/
def State.heldUp (s : State) (id : Nat) : Bool := (s.player? id).any (fun p => p.frozen || (p.preempt && !p.hold))

/-- A chunk may begin: not held back by a fault, cancel, pre-emption, or an earlier `xbar`. -/
def State.mayBegin (s : State) (x : Xfer) (c : Nat) : Bool :=
  decide (c < x.chunks) && !x.done.testBit c && !x.fault && x.ending.isNone && !x.stopped && !s.heldUp x.owner &&
    !(x.reading.contains c || x.flushing.contains c || x.acking.contains c) &&
    !(s.before x).any (fun y => y.op == .bar) &&
    (if x.op = .bar then (s.before x).isEmpty else true) &&
    (if x.op = .put then s.writesDone x.owner x.id else true)

/-! ### Performing -/

/-- The value of source bytes, first lowest. -/
def State.srcValue (s : State) : List (SLoc × Word) → Nat
  | [] => 0
  | l :: rest =>
    (match l.1 with
      | .imm b => b.toNat
      | .spad pa => (s.mem.spad.get pa).toNat
      | .host a => (s.mem.host.get a).toNat) + 256 * s.srcValue rest

/-- The correctable errors of the dwords a chunk reads are corrected and counted (R255). -/
def State.correctPieces (s : State) (ps : List Piece') : State :=
  (ps.flatMap (fun p => p.srcs)).foldl (fun (t : State) a => match a.1 with
    | .spad pa => t.correctSpad pa 1
    | _ => t) s

/-- Writes one piece outside query memory (R300); a stream write breaks every tag on its line (R209). -/
def State.putPiece (s : State) (d : DLoc) (n v : Nat) : State :=
  match d with
  | .spad pa => s.applyStore 0 (Store.plain pa n v)
  | .qm _ => s
  | .host a => { s with mem := { s.mem with host := s.mem.host.write a n v } }
  | .peer _ k => { s with mem := { s.mem with peer := s.mem.peer.write k n v } }

/-- The writes of a chunk to query memory. -/
def State.pieceWrites (s : State) (ps : List Piece') : List UnitWrite :=
  ps.filterMap (fun p => match p.dst with
    | .qm l => some ⟨l.unit, l.inUnit, p.srcs.length, s.srcValue p.srcs⟩
    | _ => none)

def Xfer.lowestOpen (x : Xfer) : Nat := ((List.range x.chunks).find? (fun c => !x.done.testBit c)).getD x.chunks

/-- Stores the transfer back. With no chunk in progress it ends when everything has performed, with its record when it
faulted or was cancelled (R296, R297), and without one in a context removal (R302). -/
def State.keepXfer (s : State) (x : Xfer) : State :=
  let removing : Bool := s.cp.launches.any (fun l => l.removing.isSome && s.inLaunch l.id x.owner)
  if x.busy then s.setXfer x
  else if removing && (x.fault || x.ending.isSome) then s.dropXfer x.id
  else
    match x.ending with
    | some e => s.faultXfer x e.1 e.2.1 x.lowestOpen e.2.2
    | none => if x.allDone && !x.flagOwed && !x.fault then s.dropXfer x.id else s.setXfer x

/-- The transfer faults: no further chunk begins, those in progress complete (R297). -/
def State.failXfer (s : State) (x : Xfer) (e : SFault) : State :=
  s.keepXfer { x with ending := some (x.ending.getD (e.1.cause, e.1.sub, e.2)) }

def DLoc.isHost : DLoc → Bool
  | .host _ => true
  | _ => false

def DLoc.isPeer : DLoc → Bool
  | .peer _ _ => true
  | _ => false

/-- The data of a chunk moves: what is left is the host's flush or the peer's acknowledgement. A fault gives the state it
leaves. -/
def State.moveChunk (s : State) (x : Xfer) (c : Nat) (ps : List Piece') : Except (SFault × State) (State × Xfer) :=
  let s := s.correctPieces ps
  match s.writeAll (s.pieceWrites ps) with
  | .error w => .error ((⟨.dataError, 0⟩, (ps.find? (fun p => match p.dst with
      | .qm l => decide (l.unit = w.unit) && decide (l.inUnit = w.off)
      | _ => false)).elim x.dst (fun p => p.va)), s.misread w.unit)
  | .ok t =>
    let u := (ps.map (fun p => (p, s.srcValue p.srcs))).foldl (fun (u : State) p => u.putPiece p.1.dst p.1.srcs.length p.2) t
    let h : Bool := ps.any (fun p => p.dst.isHost)
    let r : Bool := ps.any (fun p => p.dst.isPeer)
    if h || r then
      .ok (u, { x with
        reading := x.reading.filter (fun k => k ≠ c)
        flushing := if h then c :: x.flushing else x.flushing
        acking := if r then c :: x.acking else x.acking })
    else .ok (u.chunkDone x c)

/-! ### Sealing (R293, R294, R418) -/

/-- A world's key of a kind: the 32 bytes of HKDF-SHA-256 over the sealing root, with the start salt and the info `label`,
w, gen(w) (R418; notes/assumptions/88.md). -/
def State.worldKey (s : State) (label : List Byte) (wid : Nat) : Nat :=
  bytesToNat (hkdf (le 32 s.dev.salt) (le 32 Config.sealingRoot.toNat) (label ++ le 2 wid ++ le 8 (s.worldAt wid).gen))

/-- KSEAL(w): its label is the bytes `seal`. -/
def State.sealKey (s : State) (wid : Nat) : Nat := s.worldKey [0x73, 0x65, 0x61, 0x6C] wid

/-- KCTX(w): its label is the bytes `ctx`. -/
def State.contextKey (s : State) (wid : Nat) : Nat := s.worldKey [0x63, 0x74, 0x78] wid

/-- The nonce of a world's export: it counts up, so none repeats under one key (R293). -/
def sealNonce (wid count : Nat) : Nat := (Config.nonceBase wid + count) % 2 ^ 96

def pageBytes : Nat := 2097152

/-- The device tag: the first 8 bytes of the SHA-256 of the identity public key (R432). -/
def deviceTag : Nat := bytesToNat ((sha Config.identityKey).take 8)

/-- The 64-byte header. -/
def sealHeader (wid count : Nat) (src : Word) : List Byte :=
  le 4 0x4C414553 ++ le 2 1 ++ le 2 wid ++ le 8 deviceTag ++ le 8 src.toNat ++ le 8 count ++
    le 12 (sealNonce wid count) ++ le 4 0 ++ le 8 pageBytes ++ le 8 0

/-- The checks of R294 on a header but for the tag. -/
def sealHeaderOk (wid : Nat) (h : List Byte) : Bool :=
  let f := fun (o n : Nat) => bytesToNat ((h.drop o).take n)
  decide (f 0 4 = 0x4C414553) && decide (f 4 2 = 1) && decide (f 6 2 = wid) && decide (f 8 8 = deviceTag) &&
    decide (f 0x2C 4 = 0) && decide (f 0x30 8 = pageBytes) && decide (f 0x38 8 = 0)

/-- The units of a QM page, sealing access. -/
def State.pageUnits (s : State) (x : Xfer) (va : Word) (write : Bool) : List Nat → Except SFault (List Nat)
  | [] => .ok []
  | i :: rest =>
    let a := va + word (1024 * i)
    match s.streamLeaf x a with
    | .error e => .error e
    | .ok l =>
      if l.space ≠ .qm then .error (⟨.streamFault, 0x01⟩, a)
      else
        match s.locate x.asid x.wid a write true with
        | .error e => .error (e, a)
        | .ok l =>
          match if write then l.writeFault else none with
          | some e => .error (e, a)
          | none =>
            match s.pageUnits x va write rest with
            | .error e => .error e
            | .ok us => .ok (l.unit :: us)

/-- The host addresses of the blob, page by page: 4 KiB each, the last 80 bytes long. -/
def State.blobPages (s : State) (x : Xfer) (va : Word) (write : Bool) : List Nat → Except SFault (List Nat)
  | [] => .ok []
  | i :: rest =>
    let a := va + word (4096 * i)
    match s.streamLeaf x a with
    | .error e => .error e
    | .ok l =>
      if l.space ≠ .host then .error (if l.space = .qm && !write then ⟨.qmLoad, 0⟩ else ⟨.streamFault, 0x01⟩, a)
      else if l.wtag ≠ x.wid then .error (⟨.worldViolation, 0⟩, a)
      else if write && !l.w then .error (⟨.pageFault, 0⟩, a)
      else
        match s.blobPages x va write rest with
        | .error e => .error e
        | .ok ps => .ok (l.phys a :: ps)

def blobPageCount : Nat := 513
def blobBytes : Nat := 2097232

/-- The translation of `xseal` or `xunseal`: units and host pages, the source first. -/
def State.sealPlan (s : State) (x : Xfer) : Except SFault (List Nat × List Nat) :=
  if x.op = .xseal then
    match s.pageUnits x x.src false (List.range 2048) with
    | .error e => .error e
    | .ok us =>
      match s.blobPages x x.dst true (List.range blobPageCount) with
      | .error e => .error e
      | .ok ps => .ok (us, ps)
  else
    match s.blobPages x x.src false (List.range blobPageCount) with
    | .error e => .error e
    | .ok ps =>
      match s.pageUnits x x.dst true (List.range 2048) with
      | .error e => .error e
      | .ok us => .ok (us, ps)

/-- Host bytes gathered or scattered over the blob's pages. -/
def hostBlob (m : Memory) (ps : List Nat) : List Byte :=
  ((ps.zipIdx.map (fun p => m.bytes p.1 (min 4096 (blobBytes - 4096 * p.2))))).flatten

def putBlob (m : Memory) (ps : List Nat) (b : List Byte) : Memory :=
  ps.zipIdx.foldl (fun (x : Memory) p => x.writeBytes p.1 ((b.drop (4096 * p.2)).take 4096)) m

/-- `xseal`: reads the page, writes the blob; the flush is left. A fault gives the state it leaves. -/
def State.sealMove (s : State) (x : Xfer) : Except (SFault × State) (State × Xfer) :=
  match s.sealPlan x with
  | .error e => .error (e, s)
  | .ok (us, ps) =>
    match readUnits us s with
    | .error e => .error ((⟨.dataError, 0⟩, x.src + word (1024 * e.1)), e.2)
    | .ok r =>
      let t := r.2.updWorld x.wid (fun w => { w with exports := w.exports + 1 })
      let count := (t.worldAt x.wid).exports
      let h := sealHeader x.wid count x.src
      let key := s.sealKey x.wid
      let nonce := sealNonce x.wid count
      let plain := (r.1.map (fun v => natToBytes v 1024)).flatten
      let cipher := gcmCombine key nonce plain
      let tag := gcmTag key nonce h cipher
      .ok ({ t with mem := { t.mem with host := putBlob t.mem.host ps (h ++ cipher ++ tag) } }, { x with flushing := [0] })

/-- The units of a page with their new contents. -/
def unitsOf (us : List Nat) (b : List Byte) : List UnitWrite :=
  us.zipIdx.map (fun u => ⟨u.1, 0, 1024, bytesToNat ((b.drop (1024 * u.2)).take 1024)⟩)

/-- The export mark of the page at an address clears (R382). -/
def State.clearExport (s : State) (asid : Nat) (va : Word) : State :=
  match s.vm.leaf asid (vaIndex va) with
  | none => s
  | some l =>
    if l.exp then
      { s with vm := s.vm.map asid (vaIndex va / leafSize l.level * leafSize l.level) l.level ({ l with exp := false } : Leaf).entry }
    else s

/-- `xunseal`, the blob read: the page is written, zero when a check fails, which is a stream-fault 0x06. It waits until
query memory can take the writes. -/
def State.unsealMove (s : State) (x : Xfer) (us ps : List Nat) : State :=
  let b := hostBlob s.mem.host ps
  let h := b.take 64
  let cipher := (b.drop 64).take pageBytes
  let key := s.sealKey x.wid
  let nonce := bytesToNat ((h.drop 0x20).take 12)
  let good : Bool := sealHeaderOk x.wid h &&
    decide (b.drop (64 + pageBytes) = gcmTag key nonce h cipher)
  let ws := unitsOf us (if good then gcmCombine key nonce cipher else [])
  let idle := { x with reading := [] }
  if !s.acceptsAll ws then s
  else
    match s.writeAll ws with
    | .error w => (s.misread w.unit).failXfer idle (⟨.dataError, 0⟩, x.dst + word (1024 * us.findIdx (fun u => decide (u = w.unit))))
    | .ok t =>
      if !good then t.failXfer idle (⟨.streamFault, 0x06⟩, x.src)
      else
        -- the export mark clears when the pip bit is set (R382)
        let d := (t.clearExport x.asid x.dst).chunkDone x 0
        d.1.keepXfer d.2

/-! ### Link loss (R301) -/

/-- The first byte of a chunk that a lost link carries: a host source, or a destination in a lost space. -/
def State.lostByte (s : State) (x : Xfer) (c : Nat) (lost : Leaf → Bool) : Word :=
  let on := fun (va : Word) => (s.vm.leaf x.asid (vaIndex va)).any lost
  match x.op with
  | .xseal => x.dst
  | .xunseal => x.src
  | _ =>
    ((x.pieceOffsets c).findSome? (fun o =>
      match (match s.srcVas x o.1 o.2 with
        | .ok vas => vas.find? on
        | .error _ => none) with
      | some va => some va
      | none => if on (x.dstAt o.1) then some (x.dstAt o.1) else none)).getD x.dst

/-- Does a chunk that a peer is to acknowledge use the port? -/
def State.chunkOnPort (s : State) (x : Xfer) (n c : Nat) : Bool :=
  (x.pieceOffsets c).any (fun o => (s.vm.leaf x.asid (vaIndex (x.dstAt o.1))).any (fun l => l.space == .peer && decide (l.port = n)))

/-- Some chunks in progress are lost with their link: they fault, the others complete. -/
def State.loseChunks (s : State) (x : Xfer) (gone : List Nat) (lost : Leaf → Bool) : State :=
  match gone.head? with
  | none => s
  | some c =>
    let keep := fun (l : List Nat) => l.filter (fun k => !gone.contains k)
    s.failXfer { x with reading := keep x.reading, flushing := keep x.flushing, acking := keep x.acking }
      (⟨.streamFault, 0x08⟩, s.lostByte x c lost)

/-- The host link is lost: the chunks whose read or flush has not returned fault. -/
def State.loseHost (s : State) (x : Xfer) : State := s.loseChunks x (x.reading ++ x.flushing) (fun l => l.space == .host)

/-- Ends an `xbar` with its pip bit, after its flag has been stored or refused. -/
def State.barBit (s : State) (x : Xfer) : State :=
  if x.op = .bar && !x.np then s.updPlayer x.owner (fun p => p.setPip x.pip 0) else s

/-- The transfer ends in a fault of its landing flag (R297). -/
def State.failFlag (s : State) (x : Xfer) (e : SFault) : State :=
  (s.barBit x).faultXfer x e.1.cause e.1.sub x.chunks e.2

/-- The place in `acking` of a landing flag that its peer has not acknowledged: one past the last chunk. -/
def Xfer.flagAck (x : Xfer) : Nat := x.chunks

/-- A port is lost: the chunks on it that the peer has not acknowledged fault, and so does a landing flag. -/
def State.losePeer (s : State) (x : Xfer) (n : Nat) : State :=
  let on := fun (l : Leaf) => l.space == .peer && decide (l.port = n)
  if x.acking.contains x.flagAck then
    if (s.vm.leaf x.asid (vaIndex x.flagA)).any on then
      s.failFlag { x with acking := [], flagOwed := true } (⟨.streamFault, 0x08⟩, x.flagA)
    else s
  else s.loseChunks x (x.acking.filter (s.chunkOnPort x n)) on

/-! ### Steps -/

/-- Does any byte of the chunk lie in a closed page (R380, R382)? -/
def State.chunkClosed (s : State) (x : Xfer) (c : Nat) : Bool :=
  if s.vm.closed.isEmpty then false
  else
    match x.op with
    | .xseal => s.isClosed x.asid x.src
    | .xunseal => s.isClosed x.asid x.dst
    | .bar => false
    | _ => (x.pieceOffsets c).any (fun o => s.isClosed x.asid (x.dstAt o.1))

/-- The QM bytes a chunk writes wait for the issuer's earlier QM writes to them (R300), for room in the parity queues (R315)
and for the switch to degraded routing (R323). -/
def State.qmReady (s : State) (x : Xfer) (ps : List Piece') : Bool :=
  let rs := ps.filterMap (fun p => match p.dst with
    | .qm _ => some (Range.bytes p.va p.srcs.length)
    | _ => none)
  (rs.isEmpty || s.qm.losing.isNone) && !s.behindWrite x.owner x.id x.asid rs && s.acceptsAll (s.pieceWrites ps)

/-- The first byte of a chunk that the host link would carry while it is down (R301). -/
def State.linkFault (s : State) (ps : List Piece') : Option SFault :=
  if s.dev.linkUp then none
  else
    ps.findSome? (fun p =>
      match p.srcs.find? (fun a => a.1.space == .host) with
      | some a => some (⟨.streamFault, 0x08⟩, a.2)
      | none => if p.dst.isHost then some (⟨.streamFault, 0x08⟩, p.va) else none)

def Piece'.fromHost (p : Piece') : Bool := p.srcs.any (fun a => a.1.space == .host)

/-- A chunk whose bytes are all at hand moves, once query memory can take what it writes. -/
def State.tryMove (s : State) (x : Xfer) (c : Nat) (ps : List Piece') : State :=
  if !s.qmReady x ps then s
  else
    match s.moveChunk x c ps with
    | .error e => e.2.failXfer { x with reading := x.reading.filter (fun k => k ≠ c) } e.1
    | .ok r => r.1.keepXfer r.2

/-- `STREAM_CHUNK_PERFORM` of a copy, a gather or an `xput`. -/
def State.beginChunk (s : State) (x : Xfer) (c : Nat) : State :=
  -- the read observes the issuer's own earlier stores (R298)
  let s := s.drainPlayer x.owner
  match s.pieces x c with
  | .error e => s.failXfer x e
  | .ok ps =>
    match s.linkFault ps with
    | some e => s.failXfer x e
    | none => if ps.any Piece'.fromHost then s.setXfer { x with reading := c :: x.reading } else s.tryMove x c ps

def State.beginSeal (s : State) (x : Xfer) : State :=
  match s.sealPlan x with
  | .error e => s.failXfer x e
  | .ok _ =>
    if !s.dev.linkUp then s.failXfer x (⟨.streamFault, 0x08⟩, x.dst)
    else
      match s.sealMove x with
      | .error e => e.2.failXfer x e.1
      | .ok r => r.1.setXfer r.2

def State.beginUnseal (s : State) (x : Xfer) : State :=
  match s.sealPlan x with
  | .error e => s.failXfer x e
  | .ok _ => if s.dev.linkUp then s.setXfer { x with reading := [0] } else s.failXfer x (⟨.streamFault, 0x08⟩, x.src)

/-- The chunk of `xbar`: its bit is set now, or after its landing flag (R295). -/
def State.beginBar (s : State) (x : Xfer) : State :=
  if x.flagOwed then s.setXfer { x with done := 1 }
  else
    let r := s.chunkDone x 0
    r.1.keepXfer r.2

def onXfer (id : Nat) (f : State → Xfer → State) (s : State) : Out :=
  match s.xfer? id with
  | none => .next s
  | some x => .next (f s x).settle

def execStreamChunkPerform (x c : Nat) (s : State) : Out :=
  onXfer x (fun s x =>
    if !s.mayBegin x c || s.chunkClosed x c then s
    else
      match x.op with
      | .bar => s.beginBar x
      | .xseal => s.beginSeal x
      | .xunseal => s.beginUnseal x
      | _ => s.beginChunk x c) s

def execHostReadReturn (x c : Nat) (s : State) : Out :=
  onXfer x (fun s x =>
    if !x.reading.contains c then s
    else if x.op = .xunseal then
      if s.qm.losing.isSome || s.behindWrite x.owner x.id x.asid [.bytes x.dst pageBytes] then s
      else
        match s.sealPlan x with
        | .error e => s.failXfer { x with reading := [] } e
        | .ok plan => s.unsealMove x plan.1 plan.2
    else
      match s.pieces x c with
      | .error e => s.failXfer { x with reading := x.reading.filter (fun k => k ≠ c) } e
      | .ok ps => s.tryMove x c ps) s

/-- A flush or an acknowledgement has returned; the chunk performs when neither is left. -/
def State.landChunk (s : State) (x : Xfer) (c : Nat) : State :=
  if x.flushing.contains c || x.acking.contains c then s.setXfer x
  else
    let r := s.chunkDone x c
    r.1.keepXfer r.2

def execHostFlushReadReturn (x c : Nat) (s : State) : Out :=
  onXfer x (fun s x =>
    if x.flushing.contains c then s.landChunk { x with flushing := x.flushing.filter (fun k => k ≠ c) } c else s) s

/-- The peer's acknowledgement of a chunk or landing flag of a transfer, or of a chunk of a `qcopy`, has returned, or its refusal,
which is recorded as world-violation (R301, R361). -/
def execPeerAcknowledgement (x : Nat) (reply : PeerReply) (s : State) : Out :=
  let c := reply.chunk
  let refused := reply.isRefusal
  match s.query? x with
  | some _ => .next (onQuery' x c refused s).settle
  | none =>
    onXfer x (fun s x =>
      if !x.acking.contains c then s
      else
        let y := { x with acking := x.acking.filter (fun k => k ≠ c) }
        if c = x.flagAck then
          if refused then s.failFlag { y with flagOwed := true } (⟨.worldViolation, 0⟩, x.flagA) else (s.barBit y).keepXfer y
        else if refused then s.failXfer { y with flushing := y.flushing.filter (fun k => k ≠ c) }
          (⟨.worldViolation, 0⟩, s.lostByte x c (fun l => l.space == .peer))
        else s.landChunk y c) s
where
  onQuery' (id c : Nat) (refused : Bool) (s : State) : State :=
    match s.query? id with
    | some q => s.copyAcked q c refused
    | none => s

/-! ### The landing flag (R297, R299) -/

/-- The spaces a landing flag may lie in. -/
def State.flagSpaces (s : State) (x : Xfer) (d : Space) : Bool :=
  if x.op = .bar || decide (x.chunks = 0) then d != .qm
  else
    match s.vm.leaf x.asid (vaIndex x.dst) with
    | none => d != .qm
    | some l => if l.space = .qm then d == .spad else d == l.space

def execLandingFlagStore (x : Nat) (s : State) : Out :=
  onXfer x (fun s x =>
    if !x.flagOwed || !x.allDone || x.busy || x.fault || x.ending.isSome || x.stopped || !s.writesDone x.owner x.id then s
    else
      let s := s.drainPlayer x.owner
      match s.streamLeaf x x.flagA with
      | .error e => s.failFlag x e
      | .ok l =>
        if !s.flagSpaces x l.space || (l.space == .peer && l.peerQm) then s.failFlag x (⟨.streamFault, 0x05⟩, x.flagA)
        else
          match s.dstLoc x x.flagA l with
          | .error e => s.failFlag x e
          | .ok d =>
            if d.isHost && !s.dev.linkUp then s.failFlag x (⟨.streamFault, 0x08⟩, x.flagA)
            else
              let t := s.putPiece d 8 x.flagV.toNat
              -- a peer answers for the flag as for a chunk
              if d.isPeer then t.setXfer { x with flagOwed := false, acking := [x.flagAck] }
              else (t.barBit x).dropXfer x.id) s

/-! ### Cancelling (R296) -/

/-- The transfers an `xcancel` acts on: those that have neither finished nor faulted. -/
def State.cancelled (s : State) (owner pip : Nat) : List Xfer :=
  s.eng.xfers.filter (fun x => decide (x.owner = owner) && decide (x.pip = pip) && x.ending.isNone)

/-- Is a transfer under an `xcancel` of the pip tile still in the engine? -/
def State.cancelling (s : State) (owner pip : Nat) : Bool :=
  s.eng.xfers.any (fun x => decide (x.owner = owner) && decide (x.pip = pip) && decide (x.ending = some (.streamFault, 0x07, 0)))

/-- `xcancel`: no further chunk begins, and each transfer ends with its record once its chunks in progress have completed;
the instruction is accepted when the last of them has. -/
def runCancel (i : Instr) (pip : TReg) (k : Nat) (s : State) : Out :=
  if s.me.x.flagA.toNat % 8 ≠ 0 then trapStream k .misaligned 0 s
  else
    let t := (s.cancelled s.me.id pip.val).foldl (fun (u : State) x =>
      u.keepXfer { x with ending := some (.streamFault, 0x07, 0) }) s
    if t.cancelling s.me.id pip.val then .next { t with me := { t.me with waiting := some i } }
    else .next (({ t with me := { t.me with waiting := none } }).finishMember k)

def descXcancel (c : Bool) (p : TReg) : TileDesc := streamDesc false [] p (runCancel (.xcancel c p) p)
def execXcancel (c : Bool) (p : TReg) (s : State) : Out := runTile (.xcancel c p) (descXcancel c p) s

/-! ### Frames from a peer (R301, R436) -/

/-- The world tags of the entries that map a scratchpad byte of this device (R409). -/
def State.pageTags (s : State) (pa : Nat) : List Nat :=
  (s.vm.roots.flatMap (fun r => s.vm.leavesBelow 4 r.2.2 0)).filterMap (fun l =>
    if l.2.space == .spad && decide (l.2.frame * 4096 ≤ pa) && decide (pa < l.2.frame * 4096 + leafSize l.2.level) then some l.2.wtag
    else none)

/-- Do the tags of the pages under some bytes agree with the world bound to a port's session (R301)? -/
def State.peerMay (s : State) (p : Port) (off n : Nat) : Bool :=
  (List.range n).all (fun i => (s.pageTags (off + i)).any (fun w => decide (p.world = some w)))

def State.updPort (s : State) (n : Nat) (f : Port → Port) : State :=
  if h : n < 12 then { s with cp := { s.cp with ports := s.cp.ports.set n (f s.cp.ports[n]) } } else s

/-- A record about a port (R428). -/
def portRec (flags n : Nat) : ErrRec := { plainRec 0x13 8 flags (n * 2 ^ 10) with sub := 8 }

/-- A port's session ends and its traffic stops: unacknowledged chunks fault (R301, R361, R436). -/
def State.endPort (s : State) (n : Nat) : State :=
  let t := s.updPort n (fun p => { p with keyed := false, frames := 0 })
  let u := { t with cp := { t.cp with sessions := t.cp.sessions.filter (fun x => x.port ≠ some n) } }
  let v := u.eng.xfers.foldl (fun v x => v.losePeer x n) u
  v.eng.queries.foldl (fun w q => w.loseCopy q n) v

/-- A frame's tag fails: the session ends, and the port awaits a new one (R436, R451). -/
def State.tagFails (s : State) (n : Nat) : State :=
  (((s.endPort n).updPort n (fun p => { p with rekey := true, fails := 0 })).bump 14).report (portRec 0 n) none

/-- `CHAWICK_FRAME_RECEIVE`: a peer's chunk for this device. A tag failure ends the session; a page of another world is
refused. A frame that would be the 2^30th under its key waits for `KEY_UPDATE` (R436). -/
def execChawickFrameReceive (port : Nat) (qm : Bool) (region off : Nat) (data : List Byte) (tagOk : Bool) (s : State) : Out :=
  let p := s.portAt port
  if p.lost || !p.keyed || decide (12 ≤ port) || decide (2 ^ 30 ≤ p.frames + 1) then .next s
  else if !tagOk then .next (s.tagFails port)
  else
    let t := s.updPort port (fun p => { p with frames := p.frames + 1 })
    if qm then
      match t.qm.region? region with
      | none => .next t
      | some r =>
        -- a collection's header unit is no program's, and one that is merging takes no write (R363, R368)
        if some r.world ≠ p.world ∨ r.retired ∨ r.merging ∨ (r.isCollection ∧ off < 1024) ∨
            r.units * 1024 < off + data.length then .next t
        else
          let ws := r.writes off data.length (bytesToNat data)
          if t.qm.losing.isSome || !t.acceptsAll ws then .next s
          else
            match t.writeAll ws with
            | .error w => .next (t.misread w.unit)
            | .ok u => .next u.settle
    else if !t.peerMay p off data.length then .next t
    else
      let u := data.zipIdx.foldl (fun (u : State) b => u.applyStore 0 (Store.plain (off + b.2) 1 b.1.toNat)) t
      -- words covered whole have fresh check bits (R255)
      let fresh := fun (d : Nat) => decide (off ≤ 8 * d) && decide (8 * d + 8 ≤ off + data.length)
      .next { u with mem := { u.mem with spadBad := u.mem.spadBad.filter (fun d => !fresh d) } }

end Sys2Proof.Machine
end

