-- ==== Sys2Proof/Machine/TileMem.lean ====
section
/-! DEFINITION. Tile loads and stores of majors 0x31 to 0x33 (spec/08_scratchpad_access_and_sync.md R199 to R210; the
order of R16, R18, R248). -/

set_option Elab.async false

namespace Sys2Proof.Machine

/-! ### Where an element lies (R200) -/

/-- A run of bits of one element: the byte address it starts in, the first bit there, the number of bits. -/
structure Piece where
  va : Word
  off : Nat
  bits : Nat
  deriving DecidableEq, Repr

/-- The same after translation. -/
structure Spot where
  pa : Nat
  off : Nat
  bits : Nat
  deriving DecidableEq, Repr

/-- Bytes a run of bits touches. -/
def spanBytes (off bits : Nat) : Nat := (off + bits + 7) / 8

def Piece.bytes (p : Piece) : Nat := spanBytes p.off p.bits
def Spot.bytes (p : Spot) : Nat := spanBytes p.off p.bits

/-- How a tile memory instruction finds its elements. -/
inductive Form where
  | unit
  | stride
  | index (x : TReg)
  /-- fields, memory type -/
  | seg (nf : Nat) (mt : ElemTy)
  deriving DecidableEq, Repr

def Form.fields : Form → Nat
  | .seg nf _ => nf
  | _ => 1

/-- The pieces of field `i` of element `f`; `ws` are sa and sx, `idx` is the index group's value. -/
def Form.pieces (fm : Form) (e : Env) (ws : List Word) (idx f i : Nat) : List Piece :=
  let sa := ws.getD 0 0
  match fm with
  | .unit =>
    if e.ty.isSlice then
      let c := e.colOf f
      (List.range e.w).map (fun p => ⟨sa + word ((e.rowOf f * e.w + p) * (e.vlmax / 8) + c / 8), c % 8, 1⟩)
    else if e.w = 4 then [⟨sa + word (f / 2), 4 * (f % 2), 4⟩]
    else [⟨sa + word (f * (e.w / 8)), 0, e.w⟩]
  | .stride => [⟨sa + word f * ws.getD 1 0, 0, e.w⟩]
  | .index x => [⟨sa + word (e.at x idx f), 0, e.w⟩]
  | .seg nf mt => [⟨sa + word ((f * nf + i) * (mt.width / 8)), 0, mt.width⟩]

/-- The alignment of a piece (R194): none for nibbles and bits. -/
def Form.align (fm : Form) (e : Env) : Nat :=
  match fm with
  | .seg _ mt => mt.width / 8
  | _ => if e.ty.isSlice || decide (e.w < 8) then 1 else e.w / 8

/-- The checks of R193 for one piece; a sliced access needs sa to be a multiple of 8 (R194). -/
def checkPiece (s : State) (e : Env) (fm : Form) (ws : List Word) (use : Use) (p : Piece) : Except Cause Spot :=
  if e.ty.isSlice && decide ((ws.getD 0 0).toNat % 8 ≠ 0) then
    .error (if canonicalVa p.va then .misaligned else .spadRange)
  else
    match checkAccess s s.me p.va (fm.align e) p.bytes use with
    | .error c => .error c
    | .ok pa => .ok ⟨pa, p.off, p.bits⟩

/-- All pieces, or the first failing check with its address. -/
def checkPieces (s : State) (e : Env) (fm : Form) (ws : List Word) (use : Use) : List Piece → Except (Cause × Word) (List Spot)
  | [] => .ok []
  | p :: rest =>
    match checkPiece s e fm ws use p with
    | .error c => .error (c, p.va)
    | .ok x =>
      match checkPieces s e fm ws use rest with
      | .error c => .error c
      | .ok xs => .ok (x :: xs)

/-- The spots of every field of element `f`. Which field's cause and address a failing element reports is open where
several fields fail; the lowest field is asked first (notes/assumptions/30.md). -/
def checkFields (s : State) (e : Env) (fm : Form) (ws : List Word) (use : Use) (idx f : Nat) :
    Nat → Except (Cause × Word) (List (List Spot))
  | 0 => .ok []
  | n + 1 =>
    match checkFields s e fm ws use idx f n with
    | .error c => .error c
    | .ok xs =>
      match checkPieces s e fm ws use (fm.pieces e ws idx f n) with
      | .error c => .error c
      | .ok x => .ok (xs ++ [x])

/-- The scratchpad bytes that element `f` reaches, whatever its checks say: of every piece that has a translation there. -/
def reachBytes (s : State) (e : Env) (fm : Form) (ws : List Word) (idx f : Nat) : List (Nat × Nat) :=
  ((List.range fm.fields).flatMap (fm.pieces e ws idx f)).filterMap (fun p =>
    match s.vm.leaf s.me.place.asid (vaIndex p.va) with
    | some l => if l.space = .spad then some (l.phys p.va, p.bytes) else none
    | none => none)

/-! ### Reading and writing spots (R19, R202) -/

/-- The correctable errors in the dwords of a list of spots are corrected (R255). -/
def State.correctSpots (s : State) (xs : List Spot) : State := xs.foldl (fun t x => t.correctSpad x.pa x.bytes) s

/-- The bits of an element as the player's own read observes them. -/
def State.readSpots (s : State) : List Spot → Nat
  | [] => 0
  | x :: rest => getBits (s.spadRead s.me x.pa x.bytes) x.off x.bits + State.readSpots s rest * 2 ^ x.bits

/-- The store of a run of bits. -/
def Spot.store (x : Spot) (v : Nat) : Store := ⟨x.pa, x.bytes, v % 2 ^ x.bits * 2 ^ x.off, ones x.bits * 2 ^ x.off⟩

/-- The bits of an element enter the write buffer. -/
def State.pushSpots (s : State) : List Spot → Nat → State
  | [], _ => s
  | x :: rest, v => (s.pushStore (x.store v)).pushSpots rest (v / 2 ^ x.bits)

/-! ### The instructions (R199, R207) -/

/-- What a tile memory instruction does at an element. -/
inductive MemKind where
  | load
  /-- first-fault and trimming loads (R205) -/
  | first
  | store
  | loadSc
  | storeSc
  | link
  deriving DecidableEq, Repr

def MemKind.stores : MemKind → Bool
  | .store => true
  | .storeSc => true
  | _ => false

/-- `tldsc` and `tstsc` run unchained (R208). -/
def MemKind.chains : MemKind → Bool
  | .loadSc => false
  | .storeSc => false
  | _ => true

/-- The use for R193; a link counts with the writes (order 7). -/
def MemKind.use : MemKind → Use
  | .load => .load
  | .first => .load
  | .loadSc => .load
  | .store => .store
  | .storeSc => .store
  | .link => .atomic

structure MemOp where
  kind : MemKind
  form : Form
  tv : TReg
  mode : MaskMode
  /-- elements perform in ascending order, and a single step takes the next one only -/
  ordered : Bool
  deriving DecidableEq, Repr

/-- The group of field `i` (R200). -/
def MemOp.field (M : MemOp) (e : Env) (i : Nat) : View := ⟨M.tv.val + i * e.g, e.g, e.w, e.ty.isSlice⟩

def MemOp.fields (M : MemOp) (e : Env) : List View := (List.range M.form.fields).map (M.field e)

/-- The index group as an operand. -/
def MemOp.index (M : MemOp) (e : Env) : List Opnd :=
  match M.form with
  | .index x => [.group (e.view x)]
  | _ => []

/-- Tile sources: the index group, and what a store reads. -/
def MemOp.srcs (M : MemOp) (e : Env) : List Opnd :=
  M.index e ++ (if M.kind.stores then (M.fields e).map Opnd.group else [])

/-- Conversion of a field between memory and register types (R203). -/
def MemOp.convert (M : MemOp) (e : Env) (x : Nat) : Res :=
  match M.form with
  | .seg _ mt =>
    if mt = e.ty then ⟨x, 0⟩
    else if M.kind.stores then Machine.convert mt e.ty e.frm x
    else Machine.convert e.ty mt e.frm x
  | _ => ⟨x, 0⟩

/-- Why an element stopped. -/
inductive MemStop where
  | stop (st : Stop)
  | mem (f : Nat) (c : Cause) (va : Word)
  deriving DecidableEq, Repr

/-- A run over elements: the machine, the values of the field groups, flags, DONE. -/
structure MemLoop where
  s : State
  xs : List Nat
  flags : Flags
  done : Nat
  stop : Option MemStop
  deriving DecidableEq, Repr

/-- `tgll`: the tag in the same step as the read; a fifth drops the oldest of the home (R209). Whether a `tgll` on a line
already tagged renews the tag's age is open; it does here (notes/assumptions/83.md). -/
def State.setTag (s : State) (line : Nat) : State :=
  let mine := fun (t : Tag) => decide (t.line = line) && decide (t.player = s.me.id)
  let rest := s.mem.tags.filter (fun t => !mine t)
  let here := rest.filter (fun t => t.line = line)
  let kept := if 4 ≤ here.length then
      match here.getLast? with
      | some o => rest.filter (fun t => !(decide (t.line = o.line) && decide (t.player = o.player)))
      | none => rest
    else rest
  { s with mem := { s.mem with tags := Tag.mk line s.me.id :: kept } }

/-- One field of one element performs at the memory. -/
def MemKind.access (k : MemKind) (s : State) (xs : List Spot) (v : Nat) : State × Nat :=
  match k with
  | .load => (s.correctSpots xs, s.readSpots xs)
  | .first => (s.correctSpots xs, s.readSpots xs)
  | .store => (s.pushSpots xs v, 0)
  | .link =>
    match xs with
    | x :: _ => ((s.correctSpots xs).setTag (lineOf x.pa), s.readSpots xs)
    | [] => (s, 0)
  | .loadSc =>
    let t := s.drainOwn
    ({ t.correctSpots xs with mem := { (t.correctSpots xs).mem with turn := t.mem.turn + 1 } }, t.readSpots xs)
  | .storeSc =>
    let t := s.drainOwn
    let u := { t with mem := { t.mem with turn := t.mem.turn + 1 } }
    (xs.foldl (fun (w : State) x => w.applyStore w.me.id (x.store v)) u, 0)

/-- The fields of element `f`, in order. -/
def MemOp.perform (M : MemOp) (e : Env) (f : Nat) : List (List Spot) → Nat → MemLoop → MemLoop
  | [], _, l => { l with done := l.done ||| 2 ^ f }
  | xs :: rest, i, l =>
    let v := M.field e i
    let g := l.xs.getD i 0
    if M.kind.stores then
      let r := M.convert e (e.elem v g f)
      MemOp.perform M e f rest (i + 1) { l with s := (M.kind.access l.s xs r.val).1, flags := l.flags ||| r.flags }
    else
      let a := M.kind.access l.s xs 0
      let r := M.convert e a.2
      MemOp.perform M e f rest (i + 1)
        { l with s := a.1, xs := l.xs.set i (e.setElem v g f r.val), flags := l.flags ||| r.flags }

/-- Why element `f` cannot perform, or its spots. -/
def MemOp.check (M : MemOp) (e : Env) (s : State) (ws : List Word) (t0 : Nat) (vals : List Nat) (f : Nat) :
    Except MemStop (List (List Spot)) :=
  match stopAt e s.me M.mode ws t0 vals (M.srcs e) f with
  | some st => .error (.stop st)
  | none =>
    match checkFields s e M.form ws M.kind.use (vals.getD 0 0) f M.form.fields with
    | .error c => .error (.mem f c.1 c.2)
    | .ok xs => .ok xs

def MemOp.open (M : MemOp) (e : Env) (p : Player) (t0 dn f : Nat) : Bool := isOpen e p M.mode t0 dn f

def MemOp.step (M : MemOp) (e : Env) (ws : List Word) (t0 : Nat) (vals : List Nat) (l : MemLoop) (f : Nat) : MemLoop :=
  if l.stop.isSome || !M.open e l.s.me t0 l.done f then l
  else
    match M.check e l.s ws t0 vals f with
    | .error st => { l with stop := some st }
    | .ok xs => M.perform e f xs 0 l

/-- A trimming load looks at every element first: the element count it keeps, or the stop it traps with (R205). -/
def MemOp.trim (M : MemOp) (e : Env) (s : State) (ws : List Word) (t0 dn : Nat) (vals : List Nat) :
    List Nat → Bool → Except MemStop Nat
  | [], _ => .ok e.flim
  | f :: rest, any =>
    if !M.open e s.me t0 dn f then M.trim e s ws t0 dn vals rest any
    else
      match M.check e s ws t0 vals f with
      | .ok _ => M.trim e s ws t0 dn vals rest true
      | .error (.mem _ .spadRange va) => if any then .ok f else .error (.mem f .spadRange va)
      | .error (.mem _ .pageFault va) => if any then .ok f else .error (.mem f .pageFault va)
      | .error st => .error st

/-- The lane that holds element `f` of the data group (R79, R253). -/
def MemOp.lane (M : MemOp) (e : Env) (f : Nat) : Nat :=
  ((e.slotBits (M.field e 0) (e.rowOf f) (e.colOf f)).headD 0) % e.regBits / 64 % e.lanes

/-- Takes the trap of a stop of member `k`. -/
def trapMem (lane : Nat → Nat) (k : Nat) (addr : Word) (st : MemStop) (s : State) : Out :=
  match st with
  | .stop x => trapStop k addr x s
  | .mem f c va => trapMember k c (BitVec.ofNat 64 f) va 1 s (lane f)

/-- Does an open element below `f` touch bytes that element `f` touches (R202)? -/
def MemOp.behind (M : MemOp) (e : Env) (s : State) (ws : List Word) (t0 : Nat) (vals : List Nat) (dn f : Nat) : Bool :=
  let spots := fun (g : Nat) =>
    match M.check e s ws t0 vals g with
    | .ok xs => xs.flatten
    | .error _ => []
  (List.range f).any (fun g => M.open e s.me t0 dn g &&
    (spots g).any (fun x => (spots f).any (fun y => decide (x.pa < y.pa + y.bytes) && decide (y.pa < x.pa + x.bytes))))

/-- The element a single step may take. -/
def MemOp.mayTake (M : MemOp) (e : Env) (s : State) (ws : List Word) (t0 : Nat) (vals : List Nat) (dn f : Nat) : Bool :=
  if M.ordered then (List.range f).all (fun g => !M.open e s.me t0 dn g)
  else !M.kind.stores || !M.behind e s ws t0 vals dn f

/-- Is this a load that trims instead of trapping (R205)? -/
def MemOp.trims (M : MemOp) (p : Player) : Bool :=
  match M.kind, M.form with
  | .first, _ => true
  | .load, .index _ => p.gtrim
  | _, _ => false

/-- The instruction captured a shape; a trim narrows it. -/
def Env.withFlim (e : Env) (n : Nat) : Env := { e with flim := n }

/-- Runs member `k` over the elements of `pick`, under the shape `e`. -/
def MemOp.run (M : MemOp) (k : Nat) (m : Member) (e : Env) (pick : List Nat) (free : Bool) (ready : Nat → Bool) (s : State) : Out :=
  let p := s.me
  let t0 := m.t0 p
  let ds := M.srcs e
  let vals := ds.map (fun o => e.read p.tregs o.view)
  let vs := M.fields e
  let l := pick.foldl (M.step e m.scal t0 vals) ⟨s, vs.map (e.read p.tregs), 0, m.done, none⟩
  let gs := newGroups e.groups (!free) (fun g => ready g && groupShut e p M.mode t0 l.done g) m.groups
  let whole := l.stop.isNone && allGroups e.groups gs
  let fill := fun (v : View) (x : Nat) =>
    let y := (Opnd.group v).fillGroups e M.mode t0 m.groups gs x
    if whole && e.ta then (Opnd.group v).fillTail e y else y
  let regs := if M.kind.stores then l.s.me.tregs
    else (vs.zip l.xs).foldl (fun (t : Vector Nat 64) (x : View × Nat) => e.write t x.1 (fill x.1 x.2)) l.s.me.tregs
  let soft := p.tsoft.filter (fun b => pick.any (fun f => l.done.testBit f && !m.done.testBit f &&
    readsBit e m.scal t0 vals (ds ++ maskOperand M.mode) f b))
  let u := (({ l.s with me := { l.s.me with tregs := regs, flags := l.s.me.flags ||| l.flags } }).setMember k
    (fun n => { n with done := l.done, groups := gs, mask := some t0 })).correctTile soft
  match l.stop with
  | some st => trapMem (M.lane e) k m.addr st u
  | none => .next (if whole then u.finishMember k else u)

/-- Elements of any group may perform in a gather or scatter that is not ordered (R14, R18). -/
def MemOp.free (M : MemOp) : Bool :=
  match M.form with
  | .index _ => !M.ordered
  | _ => false

/-- Elements `pick` of member `k`, whose shape and trim are settled. -/
def MemOp.go (M : MemOp) (k : Nat) (e : Env) (only : Option Nat) (ready : Nat → Bool) (s : State) : Out :=
  match s.member? k with
  | none => .next s
  | some (_, m) =>
    match only with
    | none => M.run k m e (List.range e.flim) M.free ready s
    | some f =>
      let vals := (M.srcs e).map (fun o => e.read s.me.tregs o.view)
      if f < e.flim ∧ M.mayTake e s m.scal (m.t0 s.me) vals m.done f then M.run k m e [f] M.free ready s
      else M.run k m e [] M.free ready s

/-- Member `k` from where it stands; `only` names the element of a single step. A trimming load looks at every element
before its first one; from then on it has the element count it kept. -/
def MemOp.exec (M : MemOp) (k : Nat) (only : Option Nat) (ready : Nat → Bool) (s : State) : Out :=
  match s.member? k with
  | none => .next s
  | some (cv, m) =>
    let e := cv.env s.me
    if e.flim = 0 then .next (s.finishMember k)
    else
      match m.kept with
      | some n => M.go k (e.withFlim n) only ready s
      | none =>
        if M.trims s.me then
          let t0 := m.t0 s.me
          let vals := (M.srcs e).map (fun o => e.read s.me.tregs o.view)
          match M.trim e s m.scal t0 m.done vals (List.range e.flim) false with
          | .error st => trapMem (M.lane e) k m.addr st (s.setMember k (fun m => { m with mask := some t0 }))
          | .ok n =>
            let t := if n < e.flim then { s with me := { s.me with shape := { s.me.shape with flim := n } } } else s
            M.go k (e.withFlim n) only ready (t.setMember k (fun m => { m with mask := some t0, kept := some n }))
        else M.go k e only ready s

/-- What element `f` of member `k` would meet. -/
def MemOp.look (M : MemOp) (k f : Nat) (s : State) : Look :=
  match s.member? k with
  | none => Look.clear
  | some (cv, m) =>
    let e := cv.env s.me
    let vals := (M.srcs e).map (fun o => e.read s.me.tregs o.view)
    let fails : Bool := match M.check e s m.scal (m.t0 s.me) vals f with
      | .error _ => true
      | .ok _ => false
    ⟨fails, reachBytes s e M.form m.scal (vals.getD 0 0) f⟩

/-- Defined types (R201). -/
def tyNoSlice (e : Env) : Bool := !e.ty.isSlice
def tyBytes (e : Env) : Bool := !e.ty.isSlice && decide (8 ≤ e.w)
def tyLink (e : Env) : Bool := e.ty.inIN && decide (32 ≤ e.w)

/-- Types of a segment access: neither side sliced, `e2m1` or `e8m0`; nf groups fit in 8 registers (R200, R201). -/
def segTy (t : ElemTy) : Bool :=
  match t with
  | .int _ _ => true
  | .flt .e2m1 => false
  | .flt _ => true
  | _ => false

def tySeg (t : TypeCode) (nf : Nat) (e : Env) : Bool :=
  segTy e.ty && (match ElemTy.ofCode t.val with
    | some mt => segTy mt
    | none => false) && decide (nf * e.g ≤ 8)

/-- A tile memory instruction as a member. -/
def memDesc (types : Env → Bool) (regs : List SReg) (M : MemOp) : TileDesc where
  cls := if M.kind.stores then .spadStore else .spad
  priv := false
  mode := M.mode
  typeOk := types
  dsts := fun e => if M.kind.stores then [] else (M.fields e).map (fun v => (v.reg, v.regs))
  srcs := fun e => (M.srcs e).map Opnd.group?
  regs := regs
  pips := []
  matrix := false
  noDet := fun _ => false
  post := fun _ => true
  acc := fun e => ((if M.kind.stores then [] else (M.fields e).map (fun v => Opnd.access true (.group v))) ++
    (M.srcs e).map (Opnd.access false)).map (fun a => if M.kind.chains then a else { a with reach := .whole })
  free := M.free
  idx := fun e => (M.index e).map Opnd.group?
  trims := fun p => M.trims p
  kind := .run (fun k => M.exec k none (fun _ => true)) (fun ready k f => M.exec k (some f) ready) M.look

/-! ### Loads (R199) -/

def descTld (v : TReg) (a : SReg) (m : MaskMode) : TileDesc := memDesc tyAny [a] ⟨.load, .unit, v, m, false⟩
def execTld (c : Bool) (v : TReg) (a : SReg) (m : MaskMode) (s : State) : Out := runTile (.tld c v a m) (descTld v a m) s

def descTlds (v : TReg) (a x : SReg) (m : MaskMode) : TileDesc := memDesc tyBytes [a, x] ⟨.load, .stride, v, m, false⟩
def execTlds (c : Bool) (v : TReg) (a x : SReg) (m : MaskMode) (s : State) : Out :=
  runTile (.tlds c v a x m) (descTlds v a x m) s

def descTldx (v : TReg) (a : SReg) (x : TReg) (m : MaskMode) : TileDesc := memDesc tyBytes [a] ⟨.load, .index x, v, m, false⟩
def execTldx (c : Bool) (v : TReg) (a : SReg) (x : TReg) (m : MaskMode) (s : State) : Out :=
  runTile (.tldx c v a x m) (descTldx v a x m) s

def descTldxo (v : TReg) (a : SReg) (x : TReg) (m : MaskMode) : TileDesc := memDesc tyBytes [a] ⟨.load, .index x, v, m, true⟩
def execTldxo (c : Bool) (v : TReg) (a : SReg) (x : TReg) (m : MaskMode) (s : State) : Out :=
  runTile (.tldxo c v a x m) (descTldxo v a x m) s

def descTldff (v : TReg) (a : SReg) (m : MaskMode) : TileDesc := memDesc tyNoSlice [a] ⟨.first, .unit, v, m, false⟩
def execTldff (c : Bool) (v : TReg) (a : SReg) (m : MaskMode) (s : State) : Out :=
  runTile (.tldff c v a m) (descTldff v a m) s

/-- The memory type of a segment word; its type check comes first. -/
def segMt (t : TypeCode) : ElemTy := (ElemTy.ofCode t.val).getD .e8m0

def descTldseg (v : TReg) (a : SReg) (t : TypeCode) (m : MaskMode) (n : Fin 8) : TileDesc :=
  memDesc (tySeg t (n.val + 1)) [a] ⟨.load, .seg (n.val + 1) (segMt t), v, m, false⟩
def execTldseg (c : Bool) (v : TReg) (a : SReg) (t : TypeCode) (m : MaskMode) (n : Fin 8) (s : State) : Out :=
  runTile (.tldseg c v a t m n) (descTldseg v a t m n) s

/-! ### Stores -/

def descTst (v : TReg) (a : SReg) (m : MaskMode) : TileDesc := memDesc tyAny [a] ⟨.store, .unit, v, m, false⟩
def execTst (c : Bool) (v : TReg) (a : SReg) (m : MaskMode) (s : State) : Out := runTile (.tst c v a m) (descTst v a m) s

def descTsts (v : TReg) (a x : SReg) (m : MaskMode) : TileDesc := memDesc tyBytes [a, x] ⟨.store, .stride, v, m, false⟩
def execTsts (c : Bool) (v : TReg) (a x : SReg) (m : MaskMode) (s : State) : Out :=
  runTile (.tsts c v a x m) (descTsts v a x m) s

def descTstx (v : TReg) (a : SReg) (x : TReg) (m : MaskMode) : TileDesc := memDesc tyBytes [a] ⟨.store, .index x, v, m, false⟩
def execTstx (c : Bool) (v : TReg) (a : SReg) (x : TReg) (m : MaskMode) (s : State) : Out :=
  runTile (.tstx c v a x m) (descTstx v a x m) s

def descTstxo (v : TReg) (a : SReg) (x : TReg) (m : MaskMode) : TileDesc := memDesc tyBytes [a] ⟨.store, .index x, v, m, true⟩
def execTstxo (c : Bool) (v : TReg) (a : SReg) (x : TReg) (m : MaskMode) (s : State) : Out :=
  runTile (.tstxo c v a x m) (descTstxo v a x m) s

def descTstseg (v : TReg) (a : SReg) (t : TypeCode) (m : MaskMode) (n : Fin 8) : TileDesc :=
  memDesc (tySeg t (n.val + 1)) [a] ⟨.store, .seg (n.val + 1) (segMt t), v, m, false⟩
def execTstseg (c : Bool) (v : TReg) (a : SReg) (t : TypeCode) (m : MaskMode) (n : Fin 8) (s : State) : Out :=
  runTile (.tstseg c v a t m n) (descTstseg v a t m n) s

/-! ### Sequentially consistent and linked accesses (R207 to R210) -/

def descTldsc (v : TReg) (a : SReg) (x : TReg) (m : MaskMode) : TileDesc := memDesc tyBytes [a] ⟨.loadSc, .index x, v, m, true⟩
def execTldsc (c : Bool) (v : TReg) (a : SReg) (x : TReg) (m : MaskMode) (s : State) : Out :=
  runTile (.tldsc c v a x m) (descTldsc v a x m) s

def descTstsc (v : TReg) (a : SReg) (x : TReg) (m : MaskMode) : TileDesc := memDesc tyBytes [a] ⟨.storeSc, .index x, v, m, true⟩
def execTstsc (c : Bool) (v : TReg) (a : SReg) (x : TReg) (m : MaskMode) (s : State) : Out :=
  runTile (.tstsc c v a x m) (descTstsc v a x m) s

def descTgll (v : TReg) (a : SReg) (x : TReg) (m : MaskMode) : TileDesc := memDesc tyLink [a] ⟨.link, .index x, v, m, false⟩
def execTgll (c : Bool) (v : TReg) (a : SReg) (x : TReg) (m : MaskMode) (s : State) : Out :=
  runTile (.tgll c v a x m) (descTgll v a x m) s

/-! ### tscc (R210) -/

/-- The open elements of a `tscc` that pass their checks, with their spots, and the lowest that stops. -/
def sccTargets (M : MemOp) (e : Env) (s : State) (ws : List Word) (t0 : Nat) (vals : List Nat) (dn : Nat) :
    List Nat → List (Nat × Spot) × Option (Nat × MemStop)
  | [] => ([], none)
  | f :: rest =>
    let r := sccTargets M e s ws t0 vals dn rest
    if !M.open e s.me t0 dn f then r
    else
      match M.check e s ws t0 vals f with
      | .error st => (r.1, some (f, st))
      | .ok xs => ((xs.flatten.map (fun x => (f, x))) ++ r.1, r.2)

/-- The lines to take: all of those that an element below the lowest stop lies in, and in each every element of the line,
those above the stop too (R204, R210). -/
def sccLines (els : List (Nat × Spot)) (stop : Option (Nat × MemStop)) : List Nat :=
  ((els.filter (fun a => match stop with
    | some x => decide (a.1 < x.1)
    | none => true)).map (fun a => lineOf a.2.pa)).eraseDups

/-- The home of one line: every element of the line performs or none, and the tag is dropped. -/
def State.sccLine (s : State) (e : Env) (M : MemOp) (line : Nat) (els : List (Nat × Spot)) : State :=
  let ok := s.mem.tags.any (fun t => decide (t.line = line) && decide (t.player = s.me.id))
  let v := e.view M.tv
  let x := e.read s.me.tregs v
  let s1 := if ok then els.foldl (fun (t : State) a => t.applyStore t.me.id (a.2.store (e.elem v x a.1))) s else s
  let m0 := els.foldl (fun (b : Nat) a => setBits b a.1 1 ok.toNat) s1.me.tregs[0]
  { s1 with
    me := { s1.me with tregs := s1.me.tregs.set 0 m0 }
    mem := { s1.mem with tags := s1.mem.tags.filter (fun t => !(decide (t.line = line) && decide (t.player = s.me.id))) } }

/-- Member `k`, a `tscc`: line by line in the order of the lowest element; `only` takes the line of one element. -/
def runScc (M : MemOp) (k : Nat) (only : Option Nat) (s : State) : Out :=
  match s.member? k with
  | none => .next s
  | some (cv, m) =>
    let e := cv.env s.me
    if e.flim = 0 then .next (s.finishMember k)
    else
      let t0 := m.t0 s.me
      let ds := M.srcs e
      let vals := ds.map (fun o => e.read s.me.tregs o.view)
      let r := sccTargets M e s m.scal t0 vals m.done (List.range e.flim)
      let lines := sccLines r.1 r.2
      let todo := match only with
        | none => lines
        | some f => lines.filter (fun l => r.1.any (fun a => decide (a.1 = f) && decide (lineOf a.2.pa = l)))
      let els := fun (l : Nat) => r.1.filter (fun a => lineOf a.2.pa = l)
      let t := todo.foldl (fun (u : State) l => u.sccLine e M l (els l)) s.drainOwn
      let done := (todo.map els).flatten.foldl (fun (b : Nat) a => b ||| 2 ^ a.1) m.done
      let whole := (List.range e.flim).all (fun f => !M.open e s.me t0 done f)
      let soft := s.me.tsoft.filter (fun b => (List.range e.flim).any (fun f => done.testBit f && !m.done.testBit f &&
        readsBit e m.scal t0 vals (ds ++ maskOperand M.mode) f b))
      let u := (t.setMember k (fun m => { m with done := done, mask := some t0 })).correctTile soft
      match r.2 with
      | some st => if only.isNone || only == some st.1 then trapMem (M.lane e) k m.addr st.2 u else .next u
      | none => .next (if whole then u.finishMember k else u)

def sccOp (v x : TReg) (m : Bool) : MemOp := ⟨.storeSc, .index x, v, if m then .masked else .unmasked, true⟩

/-- The result bits go to t0, which is a destination as well (R40). -/
def descTscc (v : TReg) (a : SReg) (x : TReg) (m : Bool) : TileDesc :=
  { memDesc tyLink [a] (sccOp v x m) with
    dsts := fun _ => [(0, 1)]
    acc := fun e => wholeAccess true (0, 1) :: ((sccOp v x m).srcs e).map (fun o => wholeAccess false o.group?)
    kind := .run (fun k => runScc (sccOp v x m) k none) (fun _ k f => runScc (sccOp v x m) k (some f)) (sccOp v x m).look }
def execTscc (c : Bool) (v : TReg) (a : SReg) (x : TReg) (m : Bool) (s : State) : Out :=
  runTile (.tscc c v a x m) (descTscc v a x m) s

end Sys2Proof.Machine
end

