-- ==== Sys2Proof/Machine/Members.lean ====
section
/-! DEFINITION. The tile instructions by constructor: what a convoy member is made of (spec/02_instruction_word.md R44 to
R46). Anything else is no member. -/

set_option Elab.async false

namespace Sys2Proof.Machine

/-- The description of a tile instruction; `none` for a word that may not stand in a convoy. -/
def tileDesc? (i : Instr) : Option TileDesc :=
  match i with
  | .tadd _ d a b m => some (descTadd d a b m)
  | .tsub _ d a b m => some (descTsub d a b m)
  | .tand _ d a b m => some (descTand d a b m)
  | .tor _ d a b m => some (descTor d a b m)
  | .txor _ d a b m => some (descTxor d a b m)
  | .tandn _ d a b m => some (descTandn d a b m)
  | .tmin _ d a b m => some (descTmin d a b m)
  | .tmax _ d a b m => some (descTmax d a b m)
  | .tsll _ d a b m => some (descTsll d a b m)
  | .tsrl _ d a b m => some (descTsrl d a b m)
  | .tsra _ d a b m => some (descTsra d a b m)
  | .tmul _ d a b m => some (descTmul d a b m)
  | .tmulh _ d a b m => some (descTmulh d a b m)
  | .tmulhsu _ d a b m => some (descTmulhsu d a b m)
  | .tdiv _ d a b m => some (descTdiv d a b m)
  | .trem _ d a b m => some (descTrem d a b m)
  | .tsel _ d a b => some (descTsel d a b)
  | .tmov _ d a m => some (descTmov d a m)
  | .tiota _ d m => some (descTiota d m)
  | .taddS _ d a b m => some (descTaddS d a b m)
  | .tsubS _ d a b m => some (descTsubS d a b m)
  | .tandS _ d a b m => some (descTandS d a b m)
  | .torS _ d a b m => some (descTorS d a b m)
  | .txorS _ d a b m => some (descTxorS d a b m)
  | .tandnS _ d a b m => some (descTandnS d a b m)
  | .tminS _ d a b m => some (descTminS d a b m)
  | .tmaxS _ d a b m => some (descTmaxS d a b m)
  | .tsllS _ d a b m => some (descTsllS d a b m)
  | .tsrlS _ d a b m => some (descTsrlS d a b m)
  | .tsraS _ d a b m => some (descTsraS d a b m)
  | .tmulS _ d a b m => some (descTmulS d a b m)
  | .tmulhS _ d a b m => some (descTmulhS d a b m)
  | .tmulhsuS _ d a b m => some (descTmulhsuS d a b m)
  | .tdivS _ d a b m => some (descTdivS d a b m)
  | .tremS _ d a b m => some (descTremS d a b m)
  | .tsplat _ d b m => some (descTsplat d b m)
  | .trsubS _ d a b m => some (descTrsubS d a b m)
  | .tselS _ d a b => some (descTselS d a b)
  | .taddI _ d a i m => some (descTaddI d a i m)
  | .tandI _ d a i m => some (descTandI d a i m)
  | .torI _ d a i m => some (descTorI d a i m)
  | .txorI _ d a i m => some (descTxorI d a i m)
  | .tminI _ d a i m => some (descTminI d a i m)
  | .tmaxI _ d a i m => some (descTmaxI d a i m)
  | .tsllI _ d a i m => some (descTsllI d a i m)
  | .tsrlI _ d a i m => some (descTsrlI d a i m)
  | .tsraI _ d a i m => some (descTsraI d a i m)
  | .tsplatI _ d i m => some (descTsplatI d i m)
  | .trsubI _ d a i m => some (descTrsubI d a i m)
  | .tfadd _ d a b m => some (descTfadd d a b m)
  | .tfsub _ d a b m => some (descTfsub d a b m)
  | .tfmul _ d a b m => some (descTfmul d a b m)
  | .tfdiv _ d a b m => some (descTfdiv d a b m)
  | .tfmin _ d a b m => some (descTfmin d a b m)
  | .tfmax _ d a b m => some (descTfmax d a b m)
  | .tfsqrt _ d a m => some (descTfsqrt d a m)
  | .tfrsqe _ d a m => some (descTfrsqe d a m)
  | .tfrece _ d a m => some (descTfrece d a m)
  | .tfsignc _ d a b m => some (descTfsignc d a b m)
  | .tfsignn _ d a b m => some (descTfsignn d a b m)
  | .tfsignx _ d a b m => some (descTfsignx d a b m)
  | .tfma _ d a b m => some (descTfma d a b m)
  | .tfms _ d a b m => some (descTfms d a b m)
  | .tfnma _ d a b m => some (descTfnma d a b m)
  | .tfnms _ d a b m => some (descTfnms d a b m)
  | .tfaddS _ d a b m => some (descTfaddS d a b m)
  | .tfsubS _ d a b m => some (descTfsubS d a b m)
  | .tfmulS _ d a b m => some (descTfmulS d a b m)
  | .tfdivS _ d a b m => some (descTfdivS d a b m)
  | .tfminS _ d a b m => some (descTfminS d a b m)
  | .tfmaxS _ d a b m => some (descTfmaxS d a b m)
  | .tfsigncS _ d a b m => some (descTfsigncS d a b m)
  | .tfsignnS _ d a b m => some (descTfsignnS d a b m)
  | .tfsignxS _ d a b m => some (descTfsignxS d a b m)
  | .tfmaS _ d a b m => some (descTfmaS d a b m)
  | .tfmsS _ d a b m => some (descTfmsS d a b m)
  | .tfnmaS _ d a b m => some (descTfnmaS d a b m)
  | .tfnmsS _ d a b m => some (descTfnmsS d a b m)
  | .tfrsubS _ d a b m => some (descTfrsubS d a b m)
  | .tfrdivS _ d a b m => some (descTfrdivS d a b m)
  | .tceq _ d a b m => some (descTceq d a b m)
  | .tcne _ d a b m => some (descTcne d a b m)
  | .tclt _ d a b m => some (descTclt d a b m)
  | .tcle _ d a b m => some (descTcle d a b m)
  | .tcgt _ d a b m => some (descTcgt d a b m)
  | .tcge _ d a b m => some (descTcge d a b m)
  | .tcun _ d a b m => some (descTcun d a b m)
  | .tceqS _ d a b m => some (descTceqS d a b m)
  | .tcneS _ d a b m => some (descTcneS d a b m)
  | .tcltS _ d a b m => some (descTcltS d a b m)
  | .tcleS _ d a b m => some (descTcleS d a b m)
  | .tcgtS _ d a b m => some (descTcgtS d a b m)
  | .tcgeS _ d a b m => some (descTcgeS d a b m)
  | .tcunS _ d a b m => some (descTcunS d a b m)
  | .tsadd _ d a b m => some (descTsadd d a b m)
  | .tssub _ d a b m => some (descTssub d a b m)
  | .tavg _ d a b m => some (descTavg d a b m)
  | .tavgsub _ d a b m => some (descTavgsub d a b m)
  | .tsmul _ d a b m => some (descTsmul d a b m)
  | .twadd _ d a b m => some (descTwadd d a b m)
  | .twsub _ d a b m => some (descTwsub d a b m)
  | .twmul _ d a b m => some (descTwmul d a b m)
  | .twmacc _ d a b m => some (descTwmacc d a b m)
  | .tnshr _ d a b m => some (descTnshr d a b m)
  | .tcvt _ d a t m => some (descTcvt d a t m)
  | .tcvtn _ d a t m => some (descTcvtn d a t m)
  | .tcvtw _ d a t m => some (descTcvtw d a t m)
  | .tcvte _ d a m => some (descTcvte d a m)
  | .tscale _ d a m => some (descTscale d a m)
  | .tcvtns _ d a t m => some (descTcvtns d a t m)
  | .tcvtes _ d a m => some (descTcvtes d a m)
  | .tmxscale _ d a t m => some (descTmxscale d a t m)
  | .tmxscaleB _ d a t m => some (descTmxscaleB d a t m)
  | .tredsum _ d a b m => some (descTredsum d a b m)
  | .tredosum _ d a b m => some (descTredosum d a b m)
  | .tredgsum _ d a m => some (descTredgsum d a m)
  | .tscan _ d a b m => some (descTscan d a b m)
  | .tredmax _ d a b m => some (descTredmax d a b m)
  | .tredmin _ d a b m => some (descTredmin d a b m)
  | .tredmaxi _ d a b m => some (descTredmaxi d a b m)
  | .tredmini _ d a b m => some (descTredmini d a b m)
  | .tredand _ d a b m => some (descTredand d a b m)
  | .tredor _ d a b m => some (descTredor d a b m)
  | .tredxor _ d a b m => some (descTredxor d a b m)
  | .tcompress _ d a m => some (descTcompress d a m)
  | .texpand _ d a m => some (descTexpand d a m)
  | .tslideup _ d a i m => some (descTslideup d a i m)
  | .tslidedn _ d a i m => some (descTslidedn d a i m)
  | .tslideupS _ d a b m => some (descTslideupS d a b m)
  | .tslidednS _ d a b m => some (descTslidednS d a b m)
  | .trgather _ d a b m => some (descTrgather d a b m)
  | .ttrans _ d a m => some (descTtrans d a m)
  | .trowbc _ d a m => some (descTrowbc d a m)
  | .tcolbc _ d a m => some (descTcolbc d a m)
  | .textr _ sd a => some (descTextr sd a)
  | .tmand _ d a b m => some (descTmand d a b m)
  | .tmor _ d a b m => some (descTmor d a b m)
  | .tmxor _ d a b m => some (descTmxor d a b m)
  | .tmandn _ d a b m => some (descTmandn d a b m)
  | .tmnot _ d a m => some (descTmnot d a m)
  | .tmbefore _ d a m => some (descTmbefore d a m)
  | .tmthrough _ d a m => some (descTmthrough d a m)
  | .tmonly _ d a m => some (descTmonly d a m)
  | .tmpop _ sd a m => some (descTmpop sd a m)
  | .tmfirst _ sd a m => some (descTmfirst sd a m)
  | .txnorpop _ d a b m => some (descTxnorpop d a b m)
  | .tpext _ d a b m => some (descTpext d a b m)
  | .tpins _ d a b m => some (descTpins d a b m)
  | .tld _ v a m => some (descTld v a m)
  | .tlds _ v a x m => some (descTlds v a x m)
  | .tldx _ v a x m => some (descTldx v a x m)
  | .tldxo _ v a x m => some (descTldxo v a x m)
  | .tldff _ v a m => some (descTldff v a m)
  | .tldseg _ v a t m n => some (descTldseg v a t m n)
  | .tst _ v a m => some (descTst v a m)
  | .tsts _ v a x m => some (descTsts v a x m)
  | .tstx _ v a x m => some (descTstx v a x m)
  | .tstxo _ v a x m => some (descTstxo v a x m)
  | .tstseg _ v a t m n => some (descTstseg v a t m n)
  | .tldsc _ v a x m => some (descTldsc v a x m)
  | .tstsc _ v a x m => some (descTstsc v a x m)
  | .tgll _ v a x m => some (descTgll v a x m)
  | .tscc _ v a x m => some (descTscc v a x m)
  | .mxattach c d a b => some (descMxattach c d a b)
  | .mxdetach _ d p => some (descMxdetach d p)
  | .mxzero _ d => some (descMxzero d)
  | .mxsync _ d p => some (descMxsync d p)
  | .mxop _ d a b m e => some (descMxop d a b m e)
  | .mxopn _ d a b m e => some (descMxopn d a b m e)
  | .xcopy c d a b p => some (descXcopy c d a b p)
  | .xcopy2 c d a b p => some (descXcopy2 c d a b p)
  | .xcopy3 c d a b p => some (descXcopy3 c d a b p)
  | .xgath c d a b p => some (descXgath c d a b p)
  | .xput c d a b p => some (descXput c d a b p)
  | .xseal c d a p => some (descXseal c d a p)
  | .xunseal c d a p => some (descXunseal c d a p)
  | .xbar c p => some (descXbar c p)
  | .xcancel c p => some (descXcancel c p)
  | .qdot c v t p a => some (descQdot c v t p a)
  | .qdotm c v t p a => some (descQdotm c v t p a)
  | .qdotx c v t p a => some (descQdotx c v t p a)
  | .qsum c v t p a => some (descQsum c v t p a)
  | .qcount c v t p a => some (descQcount c v t p a)
  | .qmax c v t p a => some (descQmax c v t p a)
  | .qmin c v t p a => some (descQmin c v t p a)
  | .qbest c v p a => some (descQbest c v p a)
  | .qhamm c v t p a => some (descQhamm c v t p a)
  | .qcode c v t p a => some (descQcode c v t p a)
  | .qnarrow c v t p a => some (descQnarrow c v t p a)
  | .qgsum c v t p a => some (descQgsum c v t p a)
  | .qst c v a => some (descQst c v a)
  | .qstx c v t a => some (descQstx c v t a)
  | .qraddAdd c v t a => some (descQraddAdd c v t a)
  | .qraddMax c v t a => some (descQraddMax c v t a)
  | .qraddMin c v t a => some (descQraddMin c v t a)
  | .qraddOr c v t a => some (descQraddOr c v t a)
  | .qraddAnd c v t a => some (descQraddAnd c v t a)
  | .qappend c v t p a => some (descQappend c v t p a)
  | .qcas c v t p a => some (descQcas c v t p a)
  | .qeval c p a => some (descQeval c p a)
  | .qcopy c d p a => some (descQcopy c d p a)
  | .qmerge c d t p a => some (descQmerge c d t p a)
  | _ => none

end Sys2Proof.Machine
end

