-- ==== Sys2Proof/Machine/Place.lean ====
section
/-! DEFINITION. Choosing the next launch and placing it (spec/22_launch_and_scheduling.md R392 to R402): the checks of a
head, the order of candidates, `LAUNCH_PLACEMENT` and `AGING_INTERVAL`. -/

set_option Elab.async false

namespace Sys2Proof.Machine

/-! ### The checks of a head (R392, R393) -/

/-- The module and the descriptor a launch packet names. -/
def State.moduleOf (s : State) (p : Packet) : Option Module :=
  match p.device with
  | some (m, _, _) => s.cp.modules.find? (fun x => x.handle = m)
  | none => s.cp.modules.find? (fun x => x.handle = p.operand.toNat)

def State.descOf (s : State) (p : Packet) : Option Desc :=
  match p.device with
  | some (_, _, d) => some d
  | none => (s.moduleOf p).bind (fun m => m.descs[p.descIx]?)

/-- The descriptor of a head: that of its launch, once it has started. -/
def State.headDesc (s : State) (p : Packet) : Option Desc :=
  match p.started with
  | some id => (s.cp.launches.find? (fun l => l.id = id)).map (fun l => l.desc)
  | none => s.descOf p

/-- The ranges of R69 and the limit of R392. -/
def Desc.inRange (d : Desc) : Bool :=
  decide (1 ≤ d.parties) && decide (d.parties ≤ 65535) && decide (1 ≤ d.players) && decide (d.players ≤ 64) &&
    decide (1 ≤ d.seats) && decide (d.seats ≤ 16) && allotOk d.allot && decide (d.players * d.seats ≤ 64)

/-- A wait or done address is none, or a scratchpad dword of the queue's world and ASID. -/
def State.dwordOk (s : State) (h : HostQueue) (a : Word) : Bool := decide (a = 0) || (s.dwordAt h.asid h.world a).isSome

/-- The status a head fails with; 0 when it may start (R392; notes/assumptions/43.md for the order). -/
def State.headStatus (s : State) (q : Nat) (p : Packet) : Nat :=
  let h := s.queueAt q
  if p.malformed then 2
  else
    match s.moduleOf p with
    | none => 2
    | some m =>
      if !m.ready then 1
      else if m.world ≠ h.world || (p.device.isNone && decide (m.asid ≠ h.asid)) then 6
      else
        match s.descOf p with
        | none => 2
        | some d =>
          if !d.inRange then 2
          else if !s.dwordOk h p.waitA || !s.dwordOk h p.doneA then 6
          else if !s.couldFit p.dies p.window d.players d.seats then 2
          else 0

/-- Entries that the packet itself needs when it starts. -/
def Packet.entries (p : Packet) : Nat :=
  p.cqe.toNat + (match p.mode with
    | some (_, c, _) => c.toNat
    | none => 0)

/-- May `n` entries be written or wait (R392, R458)? -/
def HostQueue.roomFor (h : HostQueue) (n : Nat) (linkUp : Bool) : Bool :=
  decide (n = 0) ||
    (decide ((h.compTail - h.compHead).toNat + h.reserved + h.entries.length + n ≤ h.compEntries) &&
      (linkUp || decide (h.reserved + h.entries.length + n ≤ 256)))

/-- Is the dword of a head's wait address below its value (R401)? -/
def State.waitsMark (s : State) (h : HostQueue) (p : Packet) : Bool :=
  if p.waitA = 0 then false
  else
    match s.dwordAt h.asid h.world p.waitA with
    | some pa => decide (s.mem.spad.read pa 8 < p.waitV.toNat)
    | none => true

/-- Is an earlier launch of the queue incomplete (R391)? -/
def State.earlierOpen (s : State) (q : Nat) (p : Packet) : Bool :=
  s.cp.launches.any (fun l => decide (l.queue = q) && decide (some l.id ≠ p.started))

/-- A head is blocked (R397); one of whose parties has started is so no more. -/
def State.blocked (s : State) (q : Nat) (p : Packet) : Bool :=
  let h := s.queueAt q
  p.started.isNone && (s.waitsMark h p || (p.order && s.earlierOpen q p) || !h.roomFor p.entries s.dev.linkUp)

/-- Has a head passed its checks? They are made once, when the packet becomes head (R393); one that `PACKET_HEAD` has not met
yet is checked as it is placed. -/
def State.passed (s : State) (q : Nat) (p : Packet) : Bool := p.started.isSome || p.checked || decide (s.headStatus q p = 0)

/-- The head of a queue when it is a launch that may start but for room on a cluster. -/
def State.openHead (s : State) (q : Nat) : Option Packet :=
  let h := s.queueAt q
  if !s.serving || decide ((s.worldAt h.world).st ≠ .live) then none
  else
    match h.pending with
    | [] => none
    | p :: _ => if p.kind = .launch ∧ s.passed q p ∧ !s.blocked q p then some p else none

/-! ### Candidates (R397, R398) -/

/-- A candidate for placement: a queue's head, or a saved party. -/
structure Cand where
  queue : Nat
  party : Option Party
  aged : Nat
  deriving DecidableEq, Repr

/-- w in microseconds. -/
def State.waitTime (s : State) (c : Cand) : Nat := c.aged * 2 ^ (s.queueAt c.queue).ageShift

def Cand.starving (c : Cand) : Bool := decide (8 ≤ c.aged)

/-- The effective level (R397). -/
def State.effLevel (s : State) (c : Cand) : Nat := (s.queueAt c.queue).level - c.aged

/-- The queue of a launch. -/
def State.queueOf (s : State) (launch : Nat) : Nat :=
  match s.cp.launches.find? (fun l => l.id = launch) with
  | some l => l.queue
  | none => 0

/-- The order of R398 as one number. -/
def State.candKey (s : State) (c : Cand) : Nat :=
  let last := (lookupNat (s.effLevel c) s.cp.rotation).getD 63
  let tie := match c.party with
    | some p => p.order
    | none => 2 ^ 64 + (c.queue + 63 - last) % 64
  if c.starving then (2 ^ 64 - s.waitTime c) * 2 ^ 80 + tie else (2 ^ 64 + 1 + s.effLevel c) * 2 ^ 80 + tie

/-- Is a launch under removal? -/
def State.isRemoving (s : State) (launch : Nat) : Bool :=
  s.cp.launches.any (fun l => decide (l.id = launch) && l.removing.isSome)

/-- Every candidate, foremost first. -/
def State.candidates (s : State) : List Cand :=
  let heads := (List.range 64).filterMap (fun q => (s.openHead q).map (fun _ => Cand.mk q none (s.queueAt q).aged))
  let saved := if s.serving then s.cp.parties.filter (fun p => decide (p.saved = 2) && !s.isRemoving p.launch) else []
  sortBy s.candKey (saved.map (fun p => Cand.mk (s.queueOf p.launch) (some p) p.aged) ++ heads)

/-! ### Does a candidate fit (R399)? -/

/-- The images of a party in rank order. -/
def State.partyImages (s : State) (p : Party) : List Image :=
  sortBy (fun (m : Image) => m.player.place.rank)
    (s.cp.images.filter (fun m => decide (m.player.place.launch = p.launch) && decide (m.player.place.party = p.index)))

/-- Seats players of given seat counts in ascending rank. -/
def seatEach : List Nat → List CoreRoom → Option (List (Nat × Nat × Nat))
  | [], _ => some []
  | n :: rest, rs =>
    match seatOne n 0 rs with
    | none => none
    | some x =>
      match seatEach rest x.2 with
      | none => none
      | some y => some (x.1 :: y)

def Image.seats (m : Image) : Nat := popCount m.player.shape.seat.toNat 16

/-- The window pages an image holds. -/
def Image.pages (m : Image) : Nat := m.window.length / 4096

/-- The seating of a saved party on its own cluster (R258, R405). -/
def State.savedSeats (s : State) (p : Party) : Option (List (Nat × Nat × Nat)) :=
  let ms := s.partyImages p
  let w := (ms.map (fun m => m.player.place.wid)).headD 0
  let pages := (ms.map Image.pages).sum
  if s.clusterOpen w p.cluster && decide (pages ≤ (s.freePages p.cluster).length) then
    seatEach (ms.map Image.seats) (s.clusterRoom p.cluster)
  else none

/-- The cluster and seats of a head's next party. -/
def State.headSeats (s : State) (q : Nat) (p : Packet) : Option (Nat × List (Nat × Nat × Nat)) :=
  match s.headDesc p with
  | none => none
  | some d => s.bestCluster (s.queueAt q).world p.dies p.window d.players d.seats

def State.candFits (s : State) (c : Cand) : Bool :=
  match c.party with
  | some p => (s.savedSeats p).isSome
  | none =>
    match s.openHead c.queue with
    | none => false
    | some p => (s.headSeats c.queue p).isSome

/-- The first candidate that fits; none behind a starving one that does not (R398). -/
def State.firstFit (s : State) : List Cand → Option Cand
  | [] => none
  | c :: rest => if s.candFits c then some c else if c.starving then none else s.firstFit rest

def State.nextCand (s : State) : Option Cand := s.firstFit s.candidates

/-! ### Placement (R393, R394, R399, R400) -/

/-- The arguments of a launch: those of the mask from the packet (R393). -/
def Packet.argsWith (p : Packet) (d : Desc) : Vector Word 8 :=
  match p.device with
  | some _ => d.args
  | none => Vector.ofFn (fun i => if p.argMask.testBit i.val then p.args[i] else d.args[i])

/-- The launch a packet becomes when its first party starts. -/
def State.newLaunch (s : State) (q : Nat) (p : Packet) (m : Module) (d : Desc) : Launch where
  id := s.cp.nextLaunch
  queue := q
  tag := p.tag
  cqe := p.cqe
  world := (s.queueAt q).world
  asid := match p.device with
    | some (_, a, _) => a
    | none => (s.queueAt q).asid
  module := m.handle
  desc := d
  det := match p.mode with
    | some (b, _, _) => b
    | none => d.det
  doneA := p.doneA
  doneV := p.doneV
  window := p.window
  dies := p.dies
  device := p.device.isSome
  parties := d.parties
  placed := 0
  removing := none
  cancels := []

/-- A head leaves its pending list. -/
def State.popHead (s : State) (q : Nat) : State :=
  s.updQueue q (fun h => { h with pending := h.pending.drop 1, aged := 0 })

/-- The launch of the head of a queue, started when it has not yet been: its completion entry is reserved, and the entry
of a paired MODE is written (R392, R394). -/
def State.openLaunch (s : State) (q : Nat) (p : Packet) : Option (Launch × State) :=
  match p.started with
  | some id => (s.cp.launches.find? (fun l => l.id = id)).map (fun l => (l, s))
  | none =>
    match s.moduleOf p, s.descOf p with
    | some m, some d =>
      let l := s.newLaunch q p m d
      let s1 := { s with cp := { s.cp with nextLaunch := s.cp.nextLaunch + 1, launches := s.cp.launches ++ [l] } }
      let s2 := s1.updQueue q (fun h => { h with
        reserved := h.reserved + l.cqe.toNat
        pending := match h.pending with
          | [] => []
          | x :: rest => { x with started := some l.id } :: rest })
      let s3 := match p.mode with
        | some (_, true, t) => s2.complete q t 0 0
        | _ => s2
      some (l, s3)
    | _, _ => none

/-- Places the next party of a queue's head. -/
def State.placeHead (s : State) (q : Nat) (p : Packet) : State :=
  match s.headSeats q p, s.openLaunch q p with
  | some (c, seats), some (l, t) =>
    let e := s.effLevel ⟨q, none, (s.queueAt q).aged⟩
    let t1 := { t with cp := { t.cp with rotation := setNat e q t.cp.rotation } }
    let t2 := t1.startParty l l.placed c seats (s.queueAt q).level p.mode.isSome (p.argsWith l.desc)
    if l.parties ≤ l.placed + 1 then t2.popHead q else t2
  | _, _ => s

/-- `LAUNCH_PLACEMENT`: the foremost candidate that fits starts its next party. A saved party is brought back by
`CONTEXT_RESTORE`. -/
def execLaunchPlacement (s : State) : Out :=
  match s.nextCand with
  | none => .next s
  | some c =>
    match c.party with
    | some _ => .next s
    | none =>
      match s.openHead c.queue with
      | none => .next s
      | some p => .next (s.placeHead c.queue p)

/-- `AGING_INTERVAL`: one more interval of a waiting head (`l` = 0) or of a saved party has passed (R397). -/
def execAgingInterval (q l party : Nat) (s : State) : Out :=
  if l = 0 then
    match s.openHead q with
    | none => .next s
    | some _ => .next (s.updQueue q (fun h => { h with aged := h.aged + 1 }))
  else
    .next { s with cp := { s.cp with parties := s.cp.parties.map (fun (p : Party) =>
      if p.launch = l ∧ p.index = party ∧ p.saved = 2 then { p with aged := p.aged + 1 } else p) } }

end Sys2Proof.Machine
end

