-- ==== Sys2Proof/Machine/Context.lean ====
section
/-! DEFINITION. Context images (spec/10_tile_ordering_and_faults.md R257, spec/13_matrix_array.md R282, spec/16_query_memory.md
R327, spec/23_worlds_and_contexts.md R419 to R422): what an image keeps of a player, its bytes, the CONTEXT region that holds
them, and the checks of a restore. The layout inside a section is the command processor's own (R420;
notes/assumptions/89.md). -/

set_option Elab.async false

namespace Sys2Proof.Machine

/-! ### What is kept (R257, R282) -/

/-- The accumulator as the image holds it: what draining it corrects is corrected, what it finds uncorrectable is poisoned
(R279), and of a block value bits [98:0] stay (R282). -/
def Accum.kept (a : Accum) : Accum :=
  { a.scan.1 with blk := packVals 128 ((List.range a.grant.size).map (fun k => valAt a.blk 128 k % 2 ^ 99)) }

/-- What the image keeps of a player: the issue queue, the buffers, monitors, tags and requests go, of the tile registers
t0 to t(ALLOT − 1) stay, a convoy in flight stays as the resume slot would hold it, and the evaluation window's table entry is
loaded again at the restore (R257, R356). -/
def Player.kept (p : Player) : Player :=
  { p with
    tregs := Vector.ofFn (fun i => if i.val < p.shape.allot then p.tregs[i] else 0)
    accum := p.accum.map Accum.kept
    conv := p.conv.map (fun c => c.setAside p.tregs[0])
    queue := []
    wbuf := []
    waiting := none
    armed := none
    wake := false
    tbad := []
    tsoft := []
    preempt := false
    hold := false
    frozen := false
    q := { p.q with window := none, loading := decide (p.q.qewin ≠ 0) } }

/-- The accumulator store is read as it drains: what it corrects and what it cannot correct is counted (R279, R447). -/
def State.scanAccums (s : State) (p : Player) : State :=
  p.accum.foldl (fun (t : State) a => t.scanned p a.scan) s

/-! ### Fields of a section -/

/-- A number behind its length in bytes. -/
def num (v : Nat) : List Byte := le 4 (v.log2 / 8 + 1) ++ le (v.log2 / 8 + 1) v
def nums (l : List Nat) : List Byte := num l.length ++ l.flatMap num
def bitOf (b : Bool) : Nat := b.toNat
def optNum (o : Option Nat) : List Nat := match o with
  | none => [0]
  | some v => [1, v]

/-- A signed number: sign, then size. -/
def intNums (x : Int) : List Nat := [bitOf (decide (x < 0)), x.natAbs]

def Marker.nums (m : Marker) : List Nat :=
  [m.next, m.acc.flags.toNat, m.sel.flags.toNat, m.count] ++ optNum m.acc.part ++
    (match m.sel.best with
      | none => [0]
      | some b => [1, b.1] ++ intNums b.2) ++
    (match m.sel.nan with
      | none => [0]
      | some x => 1 :: intNums x)

/-- A member: DONE, its captured element count, what R15 and R36 need of registers that its convoy has overwritten, and the
marker. -/
def Member.nums (m : Member) : List Nat :=
  [bitOf m.fin, m.done] ++ optNum m.kept ++ optNum m.under ++
    (match m.ownT0 with
      | none => [0]
      | some o => [1, o.1, o.2]) ++
    (match m.marker with
      | none => [0]
      | some k => 1 :: k.nums)

def convoyNums (c : Option Convoy) : List Nat :=
  match c with
  | none => [0]
  | some c => [1, c.start.toNat, c.next.toNat, c.tty.toNat, c.frm.toNat, c.xrm.toNat, c.vl, c.flim, c.members.length] ++
      c.members.flatMap Member.nums

def XOp.num (o : XOp) : Nat :=
  match o with
  | .copy => 0
  | .copy2 => 1
  | .copy3 => 2
  | .gath => 3
  | .put => 4
  | .xseal => 5
  | .xunseal => 6
  | .bar => 7

/-- A stopped or held transfer (R302). -/
def Xfer.nums (x : Xfer) : List Nat :=
  [x.op.num, x.dst.toNat, x.src.toNat, x.len.toNat, x.dim1.toNat, x.dim2.toNat, x.str1.toNat, x.str2.toNat, x.size, bitOf x.np,
    x.flagA.toNat, x.flagV.toNat, x.pip, x.wid, x.asid, x.pc.toNat, x.chunks, x.done, bitOf x.flagOwed]

def QOp.num (o : QOp) : Nat :=
  match o with
  | .dot => 0
  | .dotm => 1
  | .dotx => 2
  | .sum => 3
  | .count => 4
  | .max => 5
  | .min => 6
  | .best => 7
  | .hamm => 8
  | .code => 9
  | .narrow => 10
  | .gsum => 11
  | .st => 12
  | .stx => 13
  | .raddAdd => 14
  | .raddMax => 15
  | .raddMin => 16
  | .raddOr => 17
  | .raddAnd => 18
  | .append => 19
  | .cas => 20
  | .eval => 21
  | .copy => 22
  | .merge => 23

/-- A stopped or held query, write, evaluation or copy (R359). -/
def Query.nums (q : Query) : List Nat :=
  [q.op.num, q.sa.toNat, q.sd.toNat, q.tty.toNat, q.flim, q.vl, q.frm.toNat, q.lanes, q.qratio, q.qlen.toNat, q.qstride.toNat,
    q.qk.toNat, q.qlo.toNat, q.qhi.toNat, q.vec, q.idx, q.exp, q.tv, q.tq, q.dregs, q.pip, q.wid, q.asid, q.pc.toNat,
    bytesToNat q.prog, q.prog.length, q.chunks, q.done, q.ok, q.applied, q.flags.toNat] ++ optNum q.item

def heldNums (h : Option Held) : List Nat :=
  match h with
  | none => [0]
  | some (.xfer x) => 1 :: x.nums
  | some (.query q) => 2 :: q.nums

def FaultRec.nums (r : FaultRec) : List Nat :=
  [r.cause.toNat, r.eng.toNat, r.ptile.toNat, r.sub.toNat, r.chunk.toNat, r.addr.toNat] ++ heldNums r.held

def Grant.nums (g : Grant) : List Nat :=
  [bitOf g.att, g.bstep.toNat, g.acc.toNat, g.asize.toNat, g.afmt.toNat, g.bfmt.toNat, g.rows.toNat, g.cols.toNat]

def MxWork.nums (w : MxWork) : List Nat :=
  match w with
  | .op n e a b act sc frm => [0, bitOf n, bitOf e, a, b, act, sc, frm.toNat]
  | .zero => [1]
  | .back d p i l pc => [2, bitOf d, p, i, l, pc.toNat]

/-- The drained accumulator with its open block, its used bits, its poison marks and its flags (R282). -/
def Accum.nums (a : Accum) : List Nat :=
  a.grant.nums ++ [a.vals, a.blk, a.used, a.poison, a.flags.toNat, a.served, a.work.length] ++ a.work.flatMap MxWork.nums

/-! ### The eight sections (R420) -/

def controlSection (p : Player) : List Byte :=
  nums ([p.pc.toNat] ++ p.sregs.toList.map BitVec.toNat ++
    [p.flags.toNat, p.frm.toNat, p.xrm.toNat, bitOf p.det, bitOf p.gtrim, p.wmk.toNat, p.barp.toNat] ++
    [bitOf p.trap.priv, p.trap.ecause.toNat, p.trap.epc.toNat, p.trap.eidx.toNat, p.trap.etval.toNat, p.trap.evec.toNat,
      p.trap.escratch.toNat, bitOf p.trap.ppriv, bitOf p.trap.resume, p.trap.etinfo.toNat, bitOf p.trap.entering] ++
    [p.q.qlen.toNat, p.q.qstride.toNat, p.q.qk.toNat, p.q.qratio.toNat, p.q.qlo.toNat, p.q.qhi.toNat, p.q.qewin.toNat,
      bitOf p.q.act, p.q.qrmt.toNat, p.q.qrmv.toNat] ++
    [p.x.dim1.toNat, p.x.dim2.toNat, p.x.str1.toNat, p.x.str2.toNat, p.x.chunk.toNat, p.x.flagA.toNat, p.x.flagV.toNat,
      p.window.toNat, p.windowPages, bitOf p.started])

def shapeSection (p : Player) : List Byte :=
  nums ([popCount p.shape.seat.toNat 16, p.shape.allot, p.shape.tty.toNat, p.shape.limit, p.shape.vl, p.shape.flim,
      p.shape.vlmax, p.shape.gbase, p.shape.gstep, bitOf p.shape.await] ++ optNum (p.shape.pending.map BitVec.toNat) ++
    convoyNums p.conv ++ convoyNums p.slot)

def fragmentSection (p : Player) : List Byte :=
  nums ([p.trap.level.toNat, p.trap.nspill.toNat, p.trap.efspc.toNat, p.joins.length] ++ p.joins ++
    p.parked.flatMap (fun f => [f.mask, f.pc.toNat, f.level]))

/-- ALLOT · 256 · L bytes (R257, R419). -/
def tileSection (p : Player) : List Byte :=
  (p.tregs.toList.take p.shape.allot).flatMap (fun v => natToBytes v (256 * p.lanes))

def asyncSection (m : Image) : List Byte :=
  nums ([m.xfers.length] ++ m.xfers.flatMap Xfer.nums ++ [m.queries.length] ++ m.queries.flatMap Query.nums ++
    [bitOf m.player.afqOvf, m.player.afq.length] ++ m.player.afq.flatMap FaultRec.nums ++
    m.player.owners.flatMap (fun o => [o.tile, o.chunks, o.item, bitOf o.fault]))

def matrixSection (p : Player) : List Byte := nums (p.grant.nums ++ p.accum.flatMap Accum.nums)

def syncSection (p : Player) : List Byte :=
  nums (match p.barGen with
    | none => [0]
    | some g => [1, g.1, g.2.toNat])

def Image.sections (m : Image) : List (List Byte) :=
  [controlSection m.player, shapeSection m.player, fragmentSection m.player, tileSection m.player, asyncSection m,
    matrixSection m.player, m.window, syncSection m.player]

def Image.body (m : Image) : List Byte := m.sections.flatten

/-! ### The header and the bytes of an image (R420, R421) -/

/-- Offset and length of each section. -/
def sectionTable : Nat → List (List Byte) → List Byte
  | _, [] => []
  | o, x :: rest => le 4 o ++ le 4 x.length ++ sectionTable (o + x.length) rest

/-- Does the image hold a stopped or a held instruction of a record? -/
def Image.holdsAny (m : Image) : Bool := m.player.afq.any (fun r => r.held.isSome)

/-- Bytes 0 to 3 the context number, bytes 4 to 11 the save count. -/
def contextNonce (context count : Nat) : List Byte := le 4 context ++ le 8 count

/-- The 128 bytes of the header; `tag` is the launch packet's. -/
def Image.header (m : Image) (tag : Nat) : List Byte :=
  let p := m.player
  let w := p.place.wid
  le 4 0x49585443 ++ le 2 1 ++ le 2 w ++ le 2 p.place.asid ++
    le 2 (bitOf (decide (w ≠ 0)) + 2 * bitOf (!p.accum.isEmpty) + 4 * bitOf m.holdsAny) ++ le 4 tag ++ le 1 p.place.queue ++
    le 1 p.place.rank ++ le 2 p.place.party ++ le 1 (popCount p.shape.seat.toNat 16) ++ le 1 p.shape.allot ++
    le 1 p.place.cluster ++ zeros 1 ++ le 8 m.count ++ contextNonce m.context m.count ++ zeros 4 ++ le 8 m.body.length ++
    zeros 8 ++ sectionTable 0 m.sections

/-- The launch tag of a header: 0 for a device-side launch (R420). -/
def State.imageTag (s : State) (launch : Nat) : Nat :=
  match s.cp.launches.find? (fun l => l.id = launch) with
  | some l => if l.device then 0 else l.tag.toNat
  | none => 0

/-- The stored bytes: header and body, in a protected world encrypted under KCTX(w) with its 16-byte tag (R421). -/
def State.imageBytes (s : State) (m : Image) : List Byte :=
  let h := m.header (s.imageTag m.player.place.launch)
  let w := m.player.place.wid
  if w = 0 then h ++ m.body
  else
    let key := s.contextKey w
    let nonce := bytesToNat (contextNonce m.context m.count)
    let cipher := gcmCombine key nonce m.body
    h ++ cipher ++ gcmTag key nonce h cipher

/-! ### Storing an image (R327, R406) -/

/-- The image goes into a CONTEXT region of its own; without room, or while its writes must wait, nothing happens. -/
def State.storeImage (s : State) (m : Image) : Option (Image × State) :=
  let b := s.imageBytes m
  match s.allocContext b.length with
  | none => none
  | some (id, t) =>
    match t.qm.region? id with
    | none => none
    | some r =>
      let ws := r.writes 0 b.length (bytesToNat b)
      if t.qm.losing.isSome || !t.acceptsAll ws then none
      else
        match t.writeAll ws with
        | .error _ => none
        | .ok u => some ({ m with region := id }, u)

/-! ### Reading it back (R422) -/

/-- What a restore finds. -/
inductive Reading where
  | clean | corrected | unreadable | refused
  deriving DecidableEq, Repr

/-- Does a read of the unit correct or rebuild it? -/
def Qm.repairs (q : Qm) (n : Nat) : Bool :=
  (lookupNat n q.soft).isSome || q.bad.contains n || decide (q.lost = some (unitStack n))

/-- The checks on the corrected bytes: magic, version, reserved fields, world and ASID against the queue's, the save count
against the recorded one, and the tag of a sealed image. -/
def State.imageGood (s : State) (m : Image) (b : List Byte) : Bool :=
  let f := fun (o n : Nat) => bytesToNat ((b.drop o).take n)
  let h := s.queueAt m.player.place.queue
  let dev := s.cp.launches.any (fun l => decide (l.id = m.player.place.launch) && l.device)
  let len := f 0x30 8
  let body := (b.drop 128).take len
  decide (f 0 4 = 0x49585443) && decide (f 4 2 = 1) && decide (f 0x0A 2 < 8) && decide (f 0x17 1 = 0) && decide (f 0x2C 4 = 0) &&
    decide (f 0x38 8 = 0) && decide (f 6 2 = h.world) && (decide (f 8 2 = h.asid) || (dev && decide (f 8 2 = m.player.place.asid))) &&
    decide (f 0x18 8 = m.count) &&
    (!(f 0x0A 2).testBit 0 ||
      decide ((b.drop (128 + len)).take 16 = gcmTag (s.contextKey (f 6 2)) (f 0x20 12) (b.take 128) body))

/-- What befell a stored unit of the image: it is in error (R320). The rest of the machine stays as it is. -/
def State.damage (s : State) (m : Image) (d : Damage) : State :=
  match s.qm.region? m.region with
  | none => s
  | some r =>
    match d with
    | .intact => s
    | .soft n => if n < r.units then { s with qm := { s.qm with soft := (r.unit n, 1) :: eraseNat (r.unit n) s.qm.soft } } else s
    | .hard n => if n < r.units then { s with qm := { s.qm with bad := r.unit n :: s.qm.bad } } else s

@[simp] theorem State.damage_intact (s : State) (m : Image) : s.damage m .intact = s := by
  unfold State.damage; split <;> rfl

/-- Damage is of query memory alone. -/
theorem State.damage_frame (s : State) (m : Image) (d : Damage) : s.damage m d = { s with qm := (s.damage m d).qm } := by
  unfold State.damage; split
  · rfl
  · cases d <;> dsimp only <;> split <;> rfl

/-- The image is read through the storage path, then checked. -/
def State.readImage (s : State) (m : Image) : Reading × State :=
  match s.qm.region? m.region with
  | none => (.unreadable, s)
  | some r =>
    let us := (List.range r.units).map r.unit
    match readUnits us s with
    | .error e => (.unreadable, e.2)
    | .ok x =>
      let b := (x.1.map (fun v => natToBytes v 1024)).flatten
      if !s.imageGood m b then (.refused, x.2)
      else if us.any s.qm.repairs then (.corrected, x.2)
      else (.clean, x.2)

/-- The record of an image goes, and its region is zeroed with full-stripe writes and freed. -/
def State.dropImage (s : State) (m : Image) : State :=
  let t := s.freeRegion m.region
  { t with cp := { t.cp with images := t.cp.images.filter (fun (x : Image) => x.context ≠ m.context) } }

end Sys2Proof.Machine
end

