-- ==== Sys2Proof/Machine/Ready.lean ====
section
/-! DEFINITION. When an element of a convoy member may perform (spec/10_tile_ordering_and_faults.md R247 to R251,
spec/01_engines_and_their_ties.md R14, R18): what it waits for in the earlier members, in registers and in scratchpad bytes,
and when an element that fails takes its trap. -/

set_option Elab.async false

namespace Sys2Proof.Machine

/-! ### What a member waits for (R247 to R249) -/

/-- Is an instruction one of the stream engine's? -/
def isStream (i : Instr) : Bool :=
  match i with
  | .xcopy _ _ _ _ _ => true
  | .xcopy2 _ _ _ _ _ => true
  | .xcopy3 _ _ _ _ _ => true
  | .xgath _ _ _ _ _ => true
  | .xput _ _ _ _ _ => true
  | .xseal _ _ _ _ => true
  | .xunseal _ _ _ _ => true
  | .xbar _ _ => true
  | .xcancel _ _ => true
  | _ => false

/-- `tldsc` and `tstsc` draw tickets. -/
def drawsTickets (i : Instr) : Bool :=
  match i with
  | .tldsc _ _ _ _ _ => true
  | .tstsc _ _ _ _ _ => true
  | _ => false

/-- What a later member waits for before it performs its element group. -/
inductive Dep where
  | nothing | group | all
  deriving DecidableEq, Repr

/-- Two accesses to common registers, one of them a write: element by element where both see the registers in one layout,
else all of the earlier member (R247; notes/assumptions/87.md). -/
def Access.dep (later earlier : Access) : Dep :=
  if !(later.write || earlier.write) || !groupsMeet (later.view.reg, later.view.regs) (earlier.view.reg, earlier.view.regs) then
    .nothing
  else if later.reach ≠ .whole ∧ later.reach = earlier.reach ∧ later.view = earlier.view then .group
  else .all

/-- The accesses of a member that still count for later ones: its mask has been read once it holds it (R36). -/
def Member.standing (m : Member) (d : TileDesc) (e : Env) : List Access :=
  if m.mask.isSome then d.acc e ++ d.pips.map (fun t => wholeAccess true (t, 1)) else d.accesses e

/-- Do scalar registers order two members: a result read, a register written twice, or an operand read (R8, R247)? -/
def TileDesc.scalarDep (later earlier : TileDesc) : Bool :=
  later.regs.any earlier.outs.contains || later.outs.any earlier.outs.contains || later.outs.any earlier.regs.contains

/-- What member `m` still has to do before a later member of description `d` goes on with its own group. -/
def TileDesc.waitsFor (d : TileDesc) (m : Member) (md : TileDesc) (p : Player) (e : Env) : Dep :=
  let ds := (d.accesses e).flatMap (fun a => (m.standing md e).map a.dep)
  if d.scalarDep md || ds.contains .all || (ds.contains .group && (d.every || d.trims p)) then .all
  else if ds.contains .group then .group
  else .nothing

/-- Is the operation one whose accesses meet the scratchpad? -/
def TileDesc.onSpad (d : TileDesc) : Bool := d.cls == .spad || d.cls == .spadStore

/-- ASYNC members reach their engines in program order, a stream member behind every earlier scratchpad access that its
flag releases (R276, R299). -/
def asyncBehind (i : Instr) (d md : TileDesc) : Bool := d.cls == .async && (md.cls == .async || (isStream i && md.onSpad))

/-- May member `k`'s element group `g` perform as far as earlier members' registers go (R247)? Tickets follow program order
(R18). -/
def State.groupReady (s : State) (cv : Convoy) (k : Nat) (i : Instr) (d : TileDesc) (g : Nat) : Bool :=
  (cv.members.take k).all (fun o => o.fin ||
    match tileDesc? o.instr with
    | none => true
    | some od => !asyncBehind i d od && !(drawsTickets i && drawsTickets o.instr) &&
      match d.waitsFor o od s.me (cv.env s.me) with
      | .nothing => true
      | .group => o.groups.testBit g
      | .all => false)

/-- Are the addresses of a member's elements settled: neither its index nor its mask is still to be written? -/
def State.placed (cv : Convoy) (j : Nat) (d : TileDesc) (e : Env) : Bool :=
  (cv.members.take j).all (fun o => o.fin ||
    match tileDesc? o.instr with
    | none => true
    | some od => !(d.idx e ++ maskGroups d.mode).any (fun g => (od.dsts e).any (groupsMeet g)))

/-- Do two lists of byte ranges share a byte? -/
def bytesMeet (a b : List (Nat × Nat)) : Bool :=
  a.any (fun x => b.any (fun y => decide (x.1 < y.1 + y.2) && decide (y.1 < x.1 + x.2)))

/-- Have the first `k` members performed what they do to these bytes (R248)? An element whose address is not settled holds
back the later accesses. -/
def State.bytesClear (s : State) (cv : Convoy) (k : Nat) (mine : List (Nat × Nat)) : Bool :=
  let e := cv.env s.me
  (List.range k).all (fun j =>
    match cv.members[j]? with
    | none => true
    | some o => o.fin ||
      match tileDesc? o.instr with
      | none => true
      | some od => !od.onSpad || (State.placed cv j od e && (List.range cv.flim).all (fun g =>
          !isOpen e s.me od.mode (o.t0 s.me) o.done g || !bytesMeet (od.look j g s).bytes mine)))

/-- Has every earlier member performed what it does to the bytes of element `f` of member `k` (R248)? -/
def State.bytesFree (s : State) (cv : Convoy) (k : Nat) (d : TileDesc) (f : Nat) : Bool :=
  !d.onSpad || s.bytesClear cv k (d.look k f s).bytes

/-- Has a member no open element below its group `g`, or only in groups it may complete now? Only a gather or a scatter
performs elsewhere (R14). -/
def State.inOrder (s : State) (cv : Convoy) (k : Nat) (m : Member) (d : TileDesc) (g : Nat) : Bool :=
  d.free || (List.range g).all (fun h => m.groups.testBit h ||
    (s.groupReady cv k m.instr d h && groupShut (cv.env s.me) s.me d.mode (m.t0 s.me) m.done h))

/-- May member `k` of the current player's convoy perform its element `f` (R14, R247, R248)? -/
def State.elemReady (s : State) (cv : Convoy) (k : Nat) (m : Member) (d : TileDesc) (f : Nat) : Bool :=
  !m.fin && (d.cls == .async || decide (f < cv.flim)) && s.groupReady cv k m.instr d (f / 64) &&
    s.inOrder cv k m d (f / 64) && s.bytesFree cv k d f

/-- The lowest element a member still has to meet. -/
def Convoy.lowest (cv : Convoy) (p : Player) (m : Member) (d : TileDesc) : Option Nat :=
  (List.range cv.flim).find? (fun f => isOpen (cv.env p) p d.mode (m.t0 p) m.done f)

/-- Would another member trap with a better claim than element `f` of member `k`: in a lower group, or in the same group
and earlier in program order (R250)? -/
def State.failsBefore (s : State) (cv : Convoy) (k f : Nat) : Bool :=
  (List.range cv.members.length).any (fun j =>
    match cv.members[j]? with
    | none => false
    | some o =>
      match tileDesc? o.instr with
      | none => false
      | some od =>
        match cv.lowest s.me o od with
        | none => false
        | some h => decide (j ≠ k) && (decide (h / 64 < f / 64) || (decide (h / 64 = f / 64) && decide (j < k))) &&
            s.elemReady cv j o od h && (od.look j h s).fails)

/-- May the step at element `f` be taken? One that would trap waits until every open element of the member below it has
performed and no other failure stands before it (R204, R250, R251). -/
def State.mayMeet (s : State) (cv : Convoy) (k : Nat) (m : Member) (d : TileDesc) (f : Nat) : Bool :=
  !(d.look k f s).fails || (cv.lowest s.me m d == some f && !s.failsBefore cv k f)

end Sys2Proof.Machine
end

