-- ==== Sys2Proof/Machine/Preempt.lean ====
section
/-! DEFINITION. Pre-emption, saved contexts, the world switch of a cluster and context removal
(spec/10_tile_ordering_and_faults.md R256 to R258, spec/22_launch_and_scheduling.md R404 to R407,
spec/23_worlds_and_contexts.md R419 to R427). -/

set_option Elab.async false

namespace Sys2Proof.Machine

/-! ### Requests (R405) -/

/-- The running parties of a cluster, those not saved. -/
def State.runningOn (s : State) (c : Nat) : List Party :=
  s.cp.parties.filter (fun p => decide (p.cluster = c) && decide (p.saved ≤ 1))

/-- The machine with the seats, slots, windows and barrier dwords of some parties counted as free. -/
def State.without (s : State) (ps : List Party) : State :=
  let mine := fun (p : Player) => ps.any (fun x => decide (x.launch = p.place.launch) && decide (x.index = p.place.party))
  let held := fun (e : Nat × Nat × Nat) => ps.any (fun p => decide (e.1 = p.cluster) &&
    ((decide (e.2.1 = p.bar % 2 ^ 24) && decide (e.2.2 = 8)) || p.frames.any (fun f => f.2 * 4096 = e.2.1)))
  { s with
    me := if mine s.me then Player.vacant else s.me
    others := s.others.filter (fun p => !mine p)
    cp := { s.cp with used := s.cp.used.filter (fun e => !held e), parties := s.cp.parties.filter (fun p => !ps.contains p) } }

/-- Would the next party of a head fit on cluster `c`? -/
def State.headFitsOn (s : State) (q : Nat) (p : Packet) (c : Nat) : Bool :=
  match s.descOf p with
  | none => false
  | some d => (s.fits (s.queueAt q).world p.dies p.window d.players d.seats c).isSome

/-- A set's preference: its base levels, highest first, then the start of its most recently started party. -/
def setKey (ps : List Party) : Nat :=
  (sortBy (fun (p : Party) => 8 - p.level) ps).foldl (fun a p => a * 16 + p.level) 0 * 2 ^ 64 +
    ps.foldl (fun a p => max a p.order) 0

/-- The victim sets of `k` parties for a head, by cluster. -/
def State.victimSets (s : State) (q : Nat) (p : Packet) (k : Nat) : List (List Party) :=
  ((List.range 64).map (fun c =>
    (List.sublistsLen k ((s.runningOn c).filter (fun x => decide ((s.queueAt q).level < x.level)))).filter
      (fun ps => (s.without ps).headFitsOn q p c))).flatten

/-- The set with the greatest key, the earliest on a tie. -/
def bestSet : List (List Party) → List Party
  | [] => []
  | ps :: rest => if (bestSet rest).isEmpty || decide (setKey (bestSet rest) ≤ setKey ps) then ps else bestSet rest

/-- The parties to pre-empt for the head of a queue; none when it has not waited an interval or fits as it is. -/
def State.victims (s : State) (q : Nat) : List Party :=
  match s.openHead q with
  | none => []
  | some p =>
    if (s.queueAt q).aged = 0 || (s.headSeats q p).isSome then []
    else
      match (List.range 64).find? (fun k => !(s.victimSets q p (k + 1)).isEmpty) with
      | none => []
      | some k => bestSet (s.victimSets q p (k + 1))

/-- Every player of a party is to be pre-empted. -/
def State.requestParty (s : State) (p : Party) : State :=
  let mine := fun (x : Player) => decide (x.place.launch = p.launch) && decide (x.place.party = p.index)
  let t := s.mapPlayers (fun x => if mine x then { x with preempt := true } else x)
  { t with cp := { t.cp with parties := t.cp.parties.map (fun (x : Party) =>
      if x.launch = p.launch ∧ x.index = p.index then { x with saved := 1 } else x) } }

/-- `PREEMPTION_REQUEST` of a running party: for the priority case or for a world switch. -/
def execPreemptionRequest (l party : Nat) (s : State) : Out :=
  match s.cp.parties.find? (fun p => decide (p.launch = l) && decide (p.index = party)) with
  | none => .next s
  | some p =>
    if p.saved ≠ 0 ∨ s.isRemoving l then .next s
    else if (lookupNat p.cluster s.cp.switching).isSome || (List.range 64).any (fun q => (s.victims q).contains p) then
      .next (s.requestParty p)
    else .next s

/-! ### The request is taken (R256, R407) -/

/-- Is a wait one that the request abandons, or one that only holds up an unaccepted tile instruction? A scalar
instruction other than these completes first. -/
def abandons (i : Instr) : Bool :=
  (tileDesc? i).isSome || (match i with
    | .waitEq _ _ _ => true
    | .waitNe _ _ _ => true
    | .waitGeu _ _ _ => true
    | .waitAny _ _ _ => true
    | .pwait _ _ _ => true
    | .setvlw _ _ _ => true
    | .setvlG _ _ => true
    | .bar => true
    | _ => false)

/-- Elements of groups that an in-flight member has begun and not finished: member and element. -/
def Convoy.begunElems (cv : Convoy) : List (Nat × Nat) :=
  (cv.members.zipIdx.map (fun m =>
    if m.1.fin || drawsTickets m.1.instr then []
    else ((List.range cv.flim).filter (fun f =>
      !m.1.done.testBit f && decide (getBits m.1.done (f / 64 * 64) 64 ≠ 0))).map (fun f => (m.2, f)))).flatten

/-- The current player performs the given elements until one traps; one that may not trap yet stays open. -/
def finishElems : List (Nat × Nat) → State → State
  | [], s => s
  | (k, f) :: rest, s =>
    match s.member? k with
    | none => s
    | some (cv, m) =>
      match tileDesc? m.instr with
      | none => s
      | some d =>
        if !s.elemReady cv k m d f || !s.mayMeet cv k m d f then finishElems rest s
        else
          match d.goOn k (d.runOne (s.groupReady cv k m.instr d) k f) s with
          | .next t => finishElems rest t
          | _ => s

/-- Has the array a step of this player in service? -/
def Player.inService (p : Player) : Bool := p.accum.any (fun a => decide (a.served ≠ 0))

/-- Are all of a query-engine item's writes performed as far as they have begun, and its chunks acknowledged? -/
def Query.atRest (q : Query) : Bool := q.owed == 0 && q.acking.isEmpty && q.ending.isNone

/-- May the request of a player be taken now? -/
def State.mayStop (s : State) (p : Player) : Bool :=
  p.live && p.preempt && !p.hold && !p.frozen && !p.inService &&
    !s.eng.xfers.any (fun x => decide (x.owner = p.id) && x.busy) && !s.eng.resumed.any (fun r => r.1 = p.id) &&
    p.heldQueries.all Query.atRest && s.eng.queries.all (fun q => decide (q.owner ≠ p.id) || q.op == .merge || q.atRest) &&
    (match p.waiting with
      | none => true
      | some i => abandons i)

/-- Every accepted item of a player stops at a chunk boundary; an accepted `qmerge` goes on (R302, R359, R377), and for a
warm start so do the items that have left the query queue (R441 step 3). -/
def Eng.stopItems (e : Eng) (id : Nat) (warming : Bool) : Eng :=
  { e with
    xfers := e.xfers.map (fun (x : Xfer) => if x.owner = id then { x with stopped := true } else x)
    queries := e.queries.map (fun (q : Query) =>
      if q.owner = id ∧ q.op ≠ .merge ∧ ¬(warming ∧ q.sent) then { q with stopped := true, sent := false, touched := [] } else q)
    arrivals := e.arrivals.filter (fun a => a.1 ≠ id) }

/-- `PREEMPTION_TAKEN`: the element groups begun complete, buffers drain, waits are abandoned, items stop. -/
def execPreemptionTaken (p : Nat) (s : State) : Out :=
  onPlayer p (fun t =>
    if !t.mayStop t.me then .next t
    else
      let u := match t.me.conv with
        | none => t
        | some cv => finishElems cv.begunElems t
      let v := u.drainOwn
      let q := { v.me with waiting := none, armed := none, wake := false, frozen := true }
      .next { v with
        me := q
        mem := { v.mem with tags := v.mem.tags.filter (fun g => g.player ≠ q.id) }
        eng := v.eng.stopItems q.id v.dev.warming }) s

/-! ### Images (R406, R419 to R421) -/

/-- The bytes of a player's window. -/
def State.windowBytes (s : State) (party : Party) (rank : Nat) : List Byte :=
  ((party.frames.filter (fun f => f.1 = rank)).map (fun f =>
    s.mem.spad.bytes ((party.cluster * 4096 + f.2) * 4096) 4096)).flatten

def State.partyOf (s : State) (p : Player) : Option Party :=
  s.cp.parties.find? (fun x => decide (x.launch = p.place.launch) && decide (x.index = p.place.party))

/-- Changes a party's record. -/
def State.updParty (s : State) (p : Party) (f : Party → Party) : State :=
  { s with cp := { s.cp with parties := s.cp.parties.map (fun (x : Party) =>
      if x.launch = p.launch ∧ x.index = p.index then f x else x) } }

/-- Seats, slots and windows of a party are freed once every player's image is stored (R406). -/
def State.vacate (s : State) (p : Party) (asid : Nat) : State :=
  let mine := fun (x : Player) => decide (x.place.launch = p.launch) && decide (x.place.party = p.index)
  let held := fun (e : Nat × Nat × Nat) => decide (e.1 = p.cluster) && decide (e.2.2 = 4096) &&
    p.frames.any (fun f => f.2 * 4096 = e.2.1)
  let t := { s with
    me := if mine s.me then Player.vacant else s.me
    others := s.others.filter (fun x => !mine x)
    vm := s.vm.unmapWindows p asid
    cp := { s.cp with used := s.cp.used.filter (fun e => !held e) } }
  t.updParty p (fun x => { x with saved := 2, frames := [], aged := 0 })

/-- The ranks of a party that have halted: no member and no image has them. -/
def State.haltedRanks (s : State) (p : Party) (players : Nat) : List Nat :=
  (List.range players).filter (fun k => !(s.members p.launch p.index).any (fun x => x.place.rank = k) &&
    !(s.partyImages p).any (fun m => m.player.place.rank = k))

/-- The windows of the halted ranks of a party: they stay its own until its last player halts (R400), so one image of the party
holds them behind its own player's (R406; notes/assumptions/99.md). -/
def State.haltedWindows (s : State) (p : Party) (players : Nat) : List Byte :=
  (s.haltedRanks p players).flatMap (s.windowBytes p)

/-- Does an image of the party hold them already? -/
def State.windowsKept (s : State) (p : Party) (players : Nat) : Bool :=
  (s.haltedWindows p players).isEmpty ||
    (s.partyImages p).any (fun m => decide (m.player.windowPages * 4096 < m.window.length))

/-- Is the image of every member of a party that has not halted stored? -/
def State.allStored (s : State) (p : Party) : Bool :=
  (s.members p.launch p.index).all (fun x => s.cp.images.any (fun m => m.player.id = x.id))

/-- The image of a stopped player: with its stopped transfers and queries, an accepted `qmerge` goes on without it. -/
def State.imageOf (s : State) (q : Player) (party : Party) (count : Nat) : Image :=
  ⟨q.kept, s.eng.xfers.filter (fun x => x.stopped && decide (x.owner = q.id)),
    s.eng.queries.filter (fun x => x.stopped && decide (x.owner = q.id)), s.windowBytes party q.place.rank,
    s.cp.nextContext, count, 0⟩

/-- The stopped items of a player leave their engines. -/
def Eng.takeOut (e : Eng) (id : Nat) : Eng :=
  { e with
    xfers := e.xfers.filter (fun x => !(x.stopped && decide (x.owner = id)))
    queries := e.queries.filter (fun q => !(q.stopped && decide (q.owner = id))) }

/-- `CONTEXT_SAVE`: the image of a stopped player is stored in a CONTEXT region, sealed in a protected world (R421). When
every member that has not halted is stored, the party's seats, slots and windows are freed (R406). A warm start, which
erases every image, stores none (R441). -/
def execContextSave (p : Nat) (s : State) : Out :=
  match s.player? p with
  | none => .next s
  | some q =>
    match s.partyOf q with
    | none => .next s
    | some party =>
      if !q.live || !q.frozen || decide (party.saved ≠ 1) || s.dev.warming then .next s
      else
        let n := (s.worldAt q.place.wid).saves + 1
        match s.cp.images.find? (fun m => m.player.id = p) with
        | some m =>
          if !s.allStored party then .next s
          else if s.windowsKept party q.place.size then .next (s.vacate party q.place.asid)
          else
            -- a member has halted since: the image is stored again, with the window of that rank
            let t := s.dropImage m
            match t.storeImage { m with count := n, window := m.window ++ s.haltedWindows party q.place.size } with
            | none => .next s
            | some x =>
              let u := x.2.updWorld q.place.wid (fun w => { w with saves := n })
              .next (({ u with cp := { u.cp with images := u.cp.images ++ [x.1] } }).vacate party q.place.asid)
        | none =>
        let last := (s.members party.launch party.index).all (fun x => decide (x.id = p) || s.cp.images.any (fun m => m.player.id = x.id))
        let image := s.imageOf q party n
        match s.storeImage { image with
          window := image.window ++ (if last then s.haltedWindows party q.place.size else []) } with
        | none => .next s
        | some x =>
          let t := (x.2.updWorld q.place.wid (fun w => { w with saves := n })).scanAccums q
          let u := { t with
            eng := t.eng.takeOut p
            cp := { t.cp with images := t.cp.images ++ [x.1], nextContext := t.cp.nextContext + 1 } }
          if u.allStored party then .next (u.vacate party q.place.asid) else .next u

/-! ### Restore (R258, R282, R302, R398, R422) -/

/-- A window page in an image: rank, place in the rank's window, bytes. -/
structure SavedPage where
  rank : Nat
  index : Nat
  bytes : List Byte
  deriving DecidableEq, Repr

/-- The pages of an image of a party: those of its player's window, then those of the ranks that had halted. -/
def State.imagePages (s : State) (p : Party) (players : Nat) (m : Image) : List SavedPage :=
  let n := m.player.windowPages
  (List.range m.pages).map (fun j =>
    ⟨if j < n then m.player.place.rank else (s.haltedRanks p players).getD ((j - n) / n) 0, j % n, (m.window.drop (j * 4096)).take 4096⟩)

/-- The players of a saved party take their seats, slots and window pages again, still stopped. -/
def State.reseatParty (s : State) (p : Party) (seats : List (Nat × Nat × Nat)) : State :=
  let ms := s.partyImages p
  let base := p.cluster * 4096
  let asid := (ms.map (fun m => m.player.place.asid)).headD 0
  let wid := (ms.map (fun m => m.player.place.wid)).headD 0
  let size := (ms.map (fun m => m.player.place.size)).headD 0
  let wanted := ms.flatMap (s.imagePages p size)
  let pages := wanted.zip (s.freePages p.cluster)
  let s := s.giveCluster p.cluster wid
  let vm := pages.foldl (fun (v : Vm) x =>
    v.map asid ((windowVa p.order x.1.rank).toNat + x.1.index * 4096) 0 (spadEntry (base + x.2) wid true false)) s.vm
  let s := pages.foldl (fun (t : State) x => t.zeroSpad ((base + x.2) * 4096) 4096) s
  let spad := pages.foldl (fun (m : Memory) x => m.writeBytes ((base + x.2) * 4096) x.1.bytes) s.mem.spad
  let ps := (ms.zip seats).map (fun x =>
    let q := x.1.player
    { q with
      place := { q.place with core := x.2.1, slot := x.2.2.2 }
      shape := { q.shape with seat := BitVec.ofNat 16 x.2.2.1 }
      frozen := true })
  let waits := (ps.filter (fun q => !q.accum.isEmpty)).map (fun q => (q.id, 2))
  let t := { s with
    others := s.others ++ ps
    vm := vm
    mem := { s.mem with spad := spad }
    eng := { s.eng with arrivals := s.eng.arrivals ++ waits }
    cp := { s.cp with
      used := s.cp.used ++ pages.map (fun (x : SavedPage × Nat) => (p.cluster, x.2 * 4096, 4096)) } }
  (t.updParty p (fun x => { x with saved := 3, frames := pages.map (fun (y : SavedPage × Nat) => (y.1.rank, y.2)) })).keepTables

/-- Does an attachment that reached the cluster's array before a party's wait (R266)? -/
def State.attachBefore (s : State) (p : Party) (ids : List Nat) : Bool :=
  (s.eng.arrivals.takeWhile (fun a => !(ids.contains a.1 && a.2 == 2))).any (fun a =>
    decide (a.2 = 2) && decide (s.coreOf a.1 / 4 = p.cluster))

/-- Do the slots suffice for the items and grants of a party about to go on (R266, R282, R302)? Its accumulators wait in the
order in which attachments reached the array. -/
def State.slotsSuffice (s : State) (p : Party) : Bool :=
  let ms := s.members p.launch p.index
  let ids := ms.map (fun x => x.id)
  let on := fun (core owner : Nat) => decide (s.coreOf owner = core)
  let mine := (ms.map (fun x => (x.accum.map (fun a => a.grant.slots)).sum)).sum
  (decide (mine = 0) || (decide (s.slotsUsed p.cluster + mine ≤ 1024) && !s.attachBefore p ids)) &&
    (List.range 4).all (fun k =>
      let core := p.cluster * 4 + k
      decide ((s.eng.xfers.filter (fun x => on core x.owner && (!x.stopped || ids.contains x.owner))).length ≤ 256) &&
        decide ((s.eng.queries.filter (fun q => on core q.owner && (!q.stopped || ids.contains q.owner))).length ≤ 512))

/-- Every image of the party has been read: its players go on from their markers. -/
def State.resumeParty (s : State) (p : Party) : State :=
  let ids := (s.members p.launch p.index).map (fun x => x.id)
  let t := s.mapPlayers (fun x => if ids.contains x.id then { x with frozen := false, preempt := false } else x)
  let u := { t with eng := { t.eng with
    xfers := t.eng.xfers.map (fun (x : Xfer) => if ids.contains x.owner then { x with stopped := false } else x)
    queries := t.eng.queries.map (fun (q : Query) => if ids.contains q.owner then { q with stopped := false } else q)
    arrivals := t.eng.arrivals.filter (fun a => !(ids.contains a.1 && a.2 == 2)) } }
  u.updParty p (fun x => { x with saved := 0 })

/-- An image fails its checks or cannot be read: it is destroyed and its launch removed, with a fatal record (R422, R444). -/
def State.destroyImage (s : State) (m : Image) (sub : Nat) : State :=
  let r := { blankRec 0x0D 5 2 m.player with sub := sub, pc := 0 }
  ((s.dropImage m).report r none).startRemoval m.player.place.launch 4 0x0D

/-- The image has been read: its transfers and queries are with their engines again, its record and its region go. -/
def State.takeImage (s : State) (m : Image) : State :=
  let t := s.dropImage m
  { t with eng := { t.eng with xfers := t.eng.xfers ++ m.xfers, queries := t.eng.queries ++ m.queries } }

/-- `CONTEXT_RESTORE` of context number `c`: the party of the first candidate that fits takes its seats again, and the image
is read, with what has befallen its units by then, and checked (R422). The players go on when every image of the party has been read. -/
def execContextRestore (c : Nat) (damage : Damage) (s : State) : Out :=
  match s.cp.images.find? (fun m => m.context = c) with
  | none => .next s
  | some m =>
    match s.partyOf m.player with
    | none => .next s
    | some p =>
      let placed : Option State :=
        if s.isRemoving p.launch || s.dev.warming then none
        else if p.saved = 3 then some s
        else
          match s.nextCand with
          | some ⟨_, some q, _⟩ => if q = p then (s.savedSeats p).map (s.reseatParty p) else none
          | _ => none
      match placed with
      | none => .next s
      | some t =>
        match (t.damage m damage).readImage m with
        | (.unreadable, u) => .next (u.destroyImage m 0x0D)
        | (.refused, u) => .next ((u.bump 11).destroyImage m 0x06)
        | (r, u) =>
          let v := (if r = .corrected then u.bump 10 else u).takeImage m
          if !(v.partyImages p).isEmpty then .next v
          else if v.slotsSuffice p then .next (v.resumeParty p)
          else .next t

/-! ### World switch of a cluster (R423, R424) -/

/-- The parties of a cluster a switch would pre-empt, and its players. -/
def State.playersOn (s : State) (c : Nat) : Nat := (s.players.filter (fun p => p.live && decide (p.place.cluster = c))).length

/-- Could a candidate use cluster `c` after a switch? -/
def State.switchable (s : State) (c : Cand) (w cl : Nat) : Bool :=
  (match lookupNat cl s.cp.owners with
    | some o => decide (o ≠ w)
    | none => false) && (lookupNat cl s.cp.switching).isNone && !(s.runningOn cl).isEmpty &&
    (c.starving || (s.runningOn cl).all (fun p => decide ((s.queueAt c.queue).level < p.level))) &&
    (match c.party with
      | some p => decide (p.cluster = cl)
      | none => match s.openHead c.queue with
        | some p => dieAllowed p.dies cl
        | none => false)

/-- The world of a candidate. -/
def State.candWorld (s : State) (c : Cand) : Nat :=
  match c.party with
  | some p => (s.cp.launches.find? (fun l => l.id = p.launch)).elim 0 (fun l => l.world)
  | none => (s.queueAt c.queue).world

/-- The cluster R424 picks for the first candidate, if it needs a switch: one cluster at a time passes to its world. -/
def State.switchChoice (s : State) : Option (Nat × Nat) :=
  match s.candidates with
  | [] => none
  | c :: _ =>
    let w := s.candWorld c
    if s.candFits c || s.cp.switching.any (fun x => x.2 = w) then none
    else
      match sortBy s.playersOn ((List.range 64).filter (s.switchable c w)) with
      | [] => none
      | cl :: _ => some (cl, w)

/-- `WORLD_SWITCH`: cluster `cl` is to pass to world `w`; its parties are then pre-empted. -/
def execWorldSwitch (cl w : Nat) (s : State) : Out :=
  if s.switchChoice = some (cl, w) then .next { s with cp := { s.cp with switching := s.cp.switching ++ [(cl, w)] } }
  else .next s

/-- `WORLD_SWITCH_CLEAR`: every player is saved and no engine holds an item of the old world; registers and queues went with
the players, cached translations are dropped, the owner is set. -/
def execWorldSwitchClear (cl : Nat) (s : State) : Out :=
  match lookupNat cl s.cp.switching with
  | none => .next s
  | some w =>
    if s.clusterBusy cl then .next s
    else .next { s with
      vm := { s.vm with cache := [] }
      cp := { s.cp with owners := setNat cl w s.cp.owners, switching := eraseNat cl s.cp.switching } }

/-! ### Removal (R426, R427) -/

/-- Has every player stopped, but for those whose launches are being removed (R441 step 2)? -/
def State.allStopped (s : State) : Bool := s.players.all (fun p => !p.live || p.frozen || s.isRemoving p.place.launch)

/-- `CONTEXT_REMOVAL`: a removal that is due begins; once every player has stopped for a warm start, each launch is due with
status 0x08 (R441). -/
def execContextRemoval (l : Nat) (s : State) : Out :=
  .next ((if s.dev.warming && s.allStopped then s.startRemoval l 8 0 else s).beginRemoval l)

def execRemovalStepDrained (l : Nat) (s : State) : Out := .next (s.advanceRemoval l)

/-- A player waits no more; pages that its remap has closed open again (R380). -/
def State.dropWaiting (s : State) (id : Nat) : State :=
  match s.player? id with
  | none => s
  | some p =>
    let t := match p.waiting with
      | some (.putsrQrmv a) => (s.openPage p.place.asid (p.rd a)).openPage p.place.asid p.q.qrmt
      | _ => s
    t.updPlayer id (fun q => { q with waiting := none })

/-- The count of a step is made zero: at steps 1 to 4, 6 and 7 the core or the array is reset (R427). -/
def State.forceCount (s : State) (l : Launch) (k : Nat) : State :=
  match k with
  | 1 => (s.ofLaunch l.id).foldl (fun (t : State) p => t.dropWaiting p.id)
      { s with mem := { s.mem with arrivals := s.mem.arrivals.filter (fun a => !s.inLaunch l.id a.1) } }
  | 2 => { s with eng := { s.eng with xfers := s.eng.xfers.filter (fun x => !s.inLaunch l.id x.owner) } }
  | 3 => { s with eng := { s.eng with queries := s.eng.queries.filter (fun q => !s.inLaunch l.id q.owner || q.op.isWrite) } }
  | 4 => (s.ofLaunch l.id).foldl (fun t p => t.updPlayer p.id (fun q => { q with accum := [] })) s
  | _ => s

/-- Is a player one for which the count of step `k` is not zero? -/
def State.stalls (s : State) (k : Nat) (p : Player) : Bool :=
  match k with
  | 1 => p.waiting.isSome || s.mem.arrivals.any (fun a => a.1 = p.id)
  | 2 => s.eng.xfers.any (fun x => decide (x.owner = p.id) && x.busy)
  | 3 => s.eng.queries.any (fun q => decide (q.owner = p.id) && !q.op.isWrite)
  | 4 => !p.accum.isEmpty
  | _ => false

/-- The cores at which a removal stalls, at step 4 the matrix arrays. -/
def State.stalledAt (s : State) (l : Launch) (k : Nat) : List Nat :=
  (((s.ofLaunch l.id).filter (s.stalls k)).map (fun p => if k = 4 then p.place.cluster else p.place.coreIx)).eraseDups

/-- The launches that share a stalled core, at step 4 a stalled matrix array. -/
def State.sharing (s : State) (l : Launch) (k : Nat) : List Nat :=
  let unit := fun (p : Player) => if k = 4 then p.place.cluster else p.place.coreIx
  let mine := s.stalledAt l k
  ((s.players.filter (fun p => p.live && decide (p.place.launch ≠ l.id) && mine.contains (unit p) &&
    (decide (k ≠ 4) || p.grant.att))).map (fun p => p.place.launch)).eraseDups

/-- The unit that an item writes next. -/
def State.nextUnit (s : State) (q : Query) : Option Nat :=
  let at' := fun (va : Word) => match s.locate q.asid q.wid va true false with
    | .ok l => some l.unit
    | .error _ => none
  match q.op with
  | .append => at' (s.regionBase q.asid q.sa + word ((s.regionAt q.asid q.sa).elim 0 (fun r => q.item.elim 0 (fun f => r.rowOff (f + q.lowestElem)))))
  | .eval => at' (q.sa + word (q.lowestElem * evalSw q.prog))
  | .copy => at' (q.sd + word (65536 * q.lowestOpen))
  | .merge => at' (s.regionBase q.asid q.sd)
  | _ => at' (q.elemVa q.lowestElem)

/-- The stack that holds a write of the launch that has not performed: where it waits, where its delta is, or where it is still to
be applied. -/
def State.stalledStack (s : State) (l : Launch) : Nat :=
  let qs := s.eng.queries.filter (fun q => s.inLaunch l.id q.owner)
  let ids := qs.map (fun q => q.id)
  match s.qm.held.find? (fun w => ids.contains w.delta.item) with
  | some w => unitStack w.unit
  | none =>
    match s.qm.deltas.find? (fun d => ids.contains d.item) with
    | some d => d.stack
    | none => ((qs.filterMap s.nextUnit).map unitStack).headD 0

/-- Removes a launch whose core has been reset, with a cause of its own (R427). -/
def removeSharing (s : State) (id : Nat) : State :=
  let r := s.free
  r.2.startRemoval id 4 (r.1 % 256)

/-- The stalled cores or arrays are reset until the removal has ended (R454; notes/assumptions/102.md); the stall is counted and
enters the log (R444, R447). -/
def State.resetStalled (s : State) (l : Launch) (k : Nat) : State :=
  let t := (s.bump 17).report { plainRec 0 5 2 0xFFFF with world := l.world, asid := l.asid } none
  { t with cp := { t.cp with resets := t.cp.resets ++ (s.stalledAt l k).map (fun n => (l.id, decide (k = 4), n)) } }

/-- `REMOVAL_STALL`: the count has not reached zero within 10 ms. -/
def execRemovalStall (l : Nat) (s : State) : Out :=
  match s.cp.launches.find? (fun x => x.id = l) with
  | none => .next s
  | some x =>
    match x.removing with
    | none => .next s
    | some (k, _, _) =>
      if k = 0 ∨ s.removalCount x k = 0 then .next s
      else if k = 5 then .next ((s.bump 17).declareLost (s.stalledStack x))
      else .next ((s.sharing x k).foldl removeSharing ((s.resetStalled x k).forceCount x k))

end Sys2Proof.Machine
end

