-- ==== Sys2Proof/Machine/Report.lean ====
section
/-! DEFINITION. What the host reads back: error records (spec/23_worlds_and_contexts.md R428), the status block
(spec/24_start_errors_and_host.md R438, R450) and the summary record (R452 to R456). -/

set_option Elab.async false

namespace Sys2Proof.Machine

/-! ### Error records (R428) -/

def ErrRec.bytes (r : ErrRec) : List Byte :=
  le 4 r.seq ++ le 1 r.cause ++ le 1 r.engine ++ le 1 r.world ++ le 1 r.flags ++ le 2 r.asid ++ le 2 r.place ++
    le 2 r.memPlace ++ le 2 r.sub ++ le 8 r.eidx ++ le 8 r.addr ++ le 2 r.region ++ zeros 6 ++ le 8 r.pc ++ le 4 r.word ++
    zeros 4 ++ le 8 r.time

/-! ### The status block (R438, R450) -/

def boolBit (b : Bool) (n : Nat) : Nat := if b then 2 ^ n else 0

def maskOf (n : Nat) (f : Nat → Bool) : Nat := ((List.range n).map (fun i => boolBit (f i) i)).sum

def State.portsLost (s : State) : Nat := maskOf 12 (fun n => (s.portAt n).lost)
def State.portsKeyed (s : State) : Nat := maskOf 12 (fun n => (s.portAt n).keyed)
def State.seatsRetired (s : State) : Bool := s.dev.retired.any (fun r => decide (r.2 ≠ 0))

/-- `DSTAT.REPLACE` (R450): the health log lists a stack or a seat, or a port is lost. -/
def State.replaceRequested (s : State) : Bool := !s.dev.lostStacks.isEmpty || s.seatsRetired || decide (s.portsLost ≠ 0)

/-- `DSTAT` as it reads. -/
def State.dstat (s : State) : Nat :=
  s.dev.stage % 256 + s.dev.sfault % 256 * 2 ^ 8 + boolBit s.dev.ready 16 + boolBit s.dev.failed 17 +
    boolBit s.replaceRequested 18 + boolBit s.qm.lost.isSome 19 + boolBit s.qm.unav 20 + boolBit s.seatsRetired 21 +
    boolBit (decide (s.portsLost ≠ 0)) 22 + boolBit s.dev.absorbed 23 + boolBit s.dev.warm 24

/-- `DPMEAS` as it reads. -/
def Dev.dpmeas (d : Dev) : Nat := d.meas % 2 ^ 12 + d.dutyReg % 16 * 2 ^ 16 + d.temp % 256 * 2 ^ 24

/-- A queue table entry as it reads (R389). -/
def HostQueue.bytes (h : HostQueue) : List Byte :=
  le 8 h.ringBase ++ le 4 h.ringEntries ++ le 1 h.level ++ le 1 h.ageShift ++ le 1 h.world ++ le 1 h.enable.toNat ++
    le 8 h.compBase ++ le 4 h.compEntries ++ zeros 4 ++ le 4 h.head.toNat ++ le 4 h.tail.toNat ++ le 4 h.compTail.toNat ++
    le 4 h.compHead.toNat ++ le 2 h.asid ++ zeros 14

/-- A dword of the first host BAR as the host reads it; any other offset reads zero (R437). -/
def State.barDword (s : State) (off : Nat) : Nat :=
  if off = 0 then 7 + Config.revision.toNat * 2 ^ 16
  else if off = 0x08 then s.dstat
  else if off = 0x10 then s.portsLost + s.portsKeyed * 2 ^ 16
  else if off = 0x18 then s.dev.cap
  else if off = 0x1C then s.dev.dpmeas
  else if off = 0x20 then s.dev.fatalCause
  else if off = 0x28 then s.dev.seq
  else if 0x100 ≤ off ∧ off < 0x140 then getBits s.dev.mbCmd (8 * (off - 0x100)) 32
  else if off = 0x140 then s.dev.mbBell.toNat
  else if off = 0x144 then s.dev.mbStatus
  else if off = 0x148 then s.dev.mbResult
  else if 0x10000 ≤ off ∧ off < 0x11000 then
    bytesToNat (((s.queueAt ((off - 0x10000) / 64)).bytes.drop ((off - 0x10000) % 64)).take 4)
  else 0

/-! ### The summary record (R453 to R455) -/

/-- A context of the summary: a running player, or a saved image. -/
structure Ctx where
  player : Player
  saved : Bool
  deriving DecidableEq, Repr

def State.launchTag (s : State) (id : Nat) : Nat :=
  match s.cp.launches.find? (fun l => l.id = id) with
  | some l => if l.device then 0 else l.tag.toNat
  | none => 0

/-- Contexts by world, ASID, launch tag, party and rank (R455). -/
def State.contexts (s : State) : List Ctx :=
  let live := s.players.filter (fun p => p.live)
  let saved := (s.cp.images.map (fun m => m.player)).filter (fun p => !live.any (fun q => q.id = p.id))
  sortBy (fun (c : Ctx) =>
      (((c.player.place.wid * 2 ^ 14 + c.player.place.asid) * 2 ^ 32 + s.launchTag c.player.place.launch) * 2 ^ 16 +
        c.player.place.party) * 2 ^ 8 + c.player.place.rank)
    (live.map (fun p => Ctx.mk p false) ++ saved.map (fun p => Ctx.mk p true))

def Player.heldCount (p : Player) : Nat := (p.afq.filter (fun r => r.held.isSome)).length

def State.ctxBytes (s : State) (c : Ctx) : List Byte :=
  let p := c.player
  let st := if c.saved then 1 else if s.isRemoving p.place.launch then 2 else 0
  le 1 p.place.wid ++ le 1 p.place.queue ++ le 1 st ++ le 1 (popCount p.shape.seat.toNat 16) ++ le 2 p.place.asid ++
    le 2 p.place.party ++ le 4 (s.launchTag p.place.launch) ++ le 1 p.place.rank ++ le 1 p.place.cluster ++
    le 1 (if c.saved then 0xFF else p.place.core) ++ le 1 (if c.saved then 0xFF else p.place.slot) ++
    le 8 (if p.place.wid = 0 then p.pc.toNat else 0) ++ le 1 p.heldCount ++ le 1 p.afq.length ++ zeros 6

def State.coreBytes (s : State) (k : Nat) : List Byte :=
  let ps := s.players.filter (fun p => p.live && decide (p.place.coreIx = k))
  let mine := fun (owner : Nat) => ps.any (fun p => p.id = owner)
  let st := if s.cp.resets.any (fun r => !r.2.1 && decide (r.2.2 = k)) then 3 else if ps.isEmpty then 0 else if ps.any (fun p => s.isRemoving p.place.launch) then 2 else 1
  le 2 ps.length ++ le 2 (popCount (s.freeSeats k) 16) ++
    le 2 (s.eng.xfers.filter (fun x => !x.stopped && mine x.owner)).length ++
    le 2 (s.eng.queries.filter (fun q => !q.stopped && mine q.owner)).length ++
    le 1 ((ps.map Player.heldCount).sum) ++ le 1 st ++ zeros 6

def State.clusterBytes (s : State) (c : Nat) : List Byte :=
  let ps := s.players.filter (fun p => p.live && decide (p.place.cluster = c))
  let waits := ps.filter (fun p => match p.waiting with
    | some (.mxattach _ _ _ _) => true
    | _ => false)
  let st := if s.cp.resets.any (fun r => r.2.1 && decide (r.2.2 = c)) then 2 else (!(s.stepQueue c).isEmpty).toNat
  le 1 ((lookupNat c s.cp.owners).getD 0xFF) ++ le 1 st ++ le 2 (s.slotsUsed c) ++
    le 1 (ps.filter (fun p => p.grant.att)).length ++ le 1 waits.length ++ zeros 2 ++ le 4 (s.spadFree c / 1024) ++ zeros 4

def State.stackBytes (s : State) (k : Nat) : List Byte :=
  let st := match s.qm.lost with
    | some x => if k = x then 1 else if s.dev.lostStacks.contains k then 3 else if k = (x + 1) % 12 then 2 else 0
    | none => if s.dev.lostStacks.contains k then 1 else 0
  le 1 st ++ zeros 1 ++ le 2 (s.qm.deltas.filter (fun d => d.stack = k)).length ++ le 4 ((lookupNat k s.qm.recon).getD 0) ++
    le 4 (((lookupNat k s.qm.visited).getD 0) / 1000000) ++ le 4 ((lookupNat k s.qm.corrected).getD 0)

/-- A head of the queue: is it held up, does it starve, does a MODE wait with it? -/
def State.queueBytes (s : State) (q : Nat) : List Byte :=
  let h := s.queueAt q
  let head := h.pending.head?
  let blocked := match head with
    | some p => s.blocked q p
    | none => false
  let mode := match head with
    | some p => p.mode.isSome && p.started.isNone
    | none => false
  le 1 h.world ++ le 1 h.level ++
    le 1 (boolBit h.enable 0 + boolBit blocked 1 + boolBit (decide (8 ≤ h.aged)) 2 + boolBit mode 3) ++ zeros 1 ++
    le 2 h.asid ++ le 2 h.filled ++ le 4 (s.cp.launches.filter (fun l => l.queue = q)).length ++
    le 4 (min (h.aged * 2 ^ h.ageShift) (2 ^ 32 - 1))

def State.portBytes (s : State) (n : Nat) : List Byte :=
  let p := s.portAt n
  le 1 (if p.lost then 3 else if p.keyed then 2 else if p.trained then 1 else 0) ++ le 1 (p.world.getD 0xFF) ++ zeros 2 ++
    le 4 p.retrains ++ le 8 p.peerTag

def State.summaryHeader (s : State) (clock1 clock2 n : Nat) (truncated : Bool) : List Byte :=
  let flags := boolBit s.replaceRequested 0 + boolBit s.qm.lost.isSome 1 + boolBit s.qm.unav 2 + boolBit s.seatsRetired 3 +
    boolBit (decide (s.portsLost ≠ 0)) 4 + boolBit truncated 5 + boolBit s.dev.warm 6
  let fatal := match (s.dev.log.filter (fun r => r.flags.testBit 1)).getLast? with
    | some r => r.bytes
    | none => zeros 64
  let cs := s.contexts
  le 4 0x4D4D5553 ++ le 2 1 ++ le 2 flags ++ le 4 (0x2000 + 32 * n) ++ le 1 s.dev.stage ++ le 1 s.dev.sfault ++
    le 2 (min s.dev.warmStarts 0xFFFF) ++ le 8 clock1 ++ le 4 Config.firmwareVersion.toNat ++ le 4 Config.firmwareSvn.toNat ++
    le 8 s.qm.stat.toNat ++ le 2 s.portsLost ++ le 2 s.portsKeyed ++ le 4 n ++
    le 2 s.dev.cap ++ le 2 s.dev.meas ++ le 1 s.dev.dutyReg ++ le 1 s.dev.temp ++ zeros 2 ++ le 8 clock2 ++ fatal ++
    le 16 (maskOf 65 (fun w => decide ((s.worldAt w).st = .live))) ++
    le 4 (cs.filter (fun c => !c.saved)).length ++ le 4 (cs.filter (fun c => c.saved)).length ++
    le 4 ((List.range 64).map (fun q => ((s.queueAt q).pending.filter (fun p => p.kind = .launch)).length)).sum ++
    le 4 (s.qm.regions.filter (fun r => !r.retired)).length ++ zeros 96

/-- The bytes of a summary that fits a buffer: whole context entries only (R452). -/
def State.summary (s : State) (clock1 clock2 len : Nat) : List Byte :=
  let cs := s.contexts
  let fit := (len - 0x2000) / 32
  let per := fun (n : Nat) (f : Nat → List Byte) => ((List.range n).map f).flatten
  s.summaryHeader clock1 clock2 cs.length (decide (fit < cs.length)) ++
    per 256 (fun k => le 2 (s.retiredSeats k)) ++ per 256 s.coreBytes ++ per 64 s.clusterBytes ++
    per 12 s.stackBytes ++ zeros 64 ++ per 64 s.queueBytes ++ per 12 s.portBytes ++ zeros 64 ++
    (s.dev.counters.toList.map (fun v => le 8 v)).flatten ++ zeros 256 ++
    ((cs.take fit).map s.ctxBytes).flatten

/-- The replays of the host link since they were last looked at are counted, each with its record (R444, R447;
notes/assumptions/100.md). -/
def State.seeReplays (s : State) : State :=
  (List.range (Config.freeReplays s.fresh)).foldl (fun (t : State) _ => (t.bump 12).report (plainRec 0x13 7 4 0xFFFF) none)
    { s with fresh := s.fresh + 1 }

/-- Writes the summary between two reads of `CLOCK`. -/
def State.writeSummary (s : State) (addr len : Nat) : State :=
  let t := s.seeReplays.tick
  let u := t.tick
  u.hostWrite addr (t.summary t.dev.clock u.dev.clock len)

/-- Writes the records from a sequence number on (R446). -/
def State.dumpErrors (s : State) (addr first count : Nat) : State :=
  let s := s.seeReplays
  let rs := (s.dev.log.filter (fun r => first ≤ r.seq)).take count
  let t := s.hostWrite addr ((rs.map ErrRec.bytes).flatten)
  { t with dev := { t.dev with mbResult := rs.length } }

end Sys2Proof.Machine
end

