-- ==== Sys2Proof/Machine/Packets.lean ====
section
/-! DEFINITION. Packets from the host's rings (spec/22_launch_and_scheduling.md R390 to R395, spec/24_start_errors_and_host.md
R452): the start of a fetch, what each opcode does when it is fetched, and the check of a head. -/

set_option Elab.async false

namespace Sys2Proof.Machine

/-! ### Packets as bytes (R391) -/

/-- The 128 bytes of the packet of count head + `k`. -/
def State.packetAt (s : State) (h : HostQueue) (k : Nat) : List Byte :=
  s.mem.host.bytes (h.ringBase + (h.head.toNat + k) % 2 ^ 32 % h.ringEntries * 128) 128

/-- Bytes `o` to `o + n - 1` of a packet as a number. -/
def field (b : List Byte) (o n : Nat) : Nat := bytesToNat ((b.drop o).take n)

def opcodeOf (b : List Byte) : Nat := field b 0 1

/-- A LAUNCH packet's entry in the pending list. -/
def launchPacket (b : List Byte) : Packet where
  kind := .launch
  cqe := (field b 1 1).testBit 0
  order := (field b 1 1).testBit 1
  tag := BitVec.ofNat 32 (field b 4 4)
  operand := word (field b 8 8)
  descIx := field b 0x10 4
  dies := field b 0x14 1 % 16
  window := field b 0x16 2
  waitA := word (field b 0x18 8)
  waitV := word (field b 0x20 8)
  doneA := word (field b 0x28 8)
  doneV := word (field b 0x30 8)
  argMask := field b 0x38 1
  args := Vector.ofFn (fun i => word (field b (0x40 + 8 * i.val) 8))
  mode := none
  device := none
  malformed := decide (4 ≤ field b 1 1) || decide (field b 2 2 ≠ 0) || decide (16 ≤ field b 0x14 1) ||
    decide (field b 0x15 1 ≠ 0) || decide (1024 < field b 0x16 2) || decide (field b 0x39 7 ≠ 0)
  started := none
  checked := false

/-- An entry of another kind: its tag, its CQE, whether a reserved field is set. -/
def plainPacket (k : PKind) (b : List Byte) (bad : Bool) : Packet :=
  { launchPacket b with kind := k, order := false, malformed := bad }

/-- Do the fields that a MODE packet does not use hold zero? -/
def modeOk (b : List Byte) : Bool :=
  decide (field b 1 1 ≤ 1) && decide (field b 2 2 = 0) && decide (field b 8 8 ≤ 1) && decide (field b 0x10 112 = 0)

def cancelOk (b : List Byte) : Bool :=
  decide (field b 1 1 ≤ 1) && decide (field b 2 2 = 0) && decide (field b 12 4 = 0) && decide (field b 0x10 112 = 0)

def summaryOk (b : List Byte) : Bool :=
  decide (field b 1 1 ≤ 1) && decide (field b 2 2 = 0) && decide (field b 0x14 108 = 0)

/-! ### Fetching (R390) -/

/-- Packets that the host has made available and the command processor has not fetched. -/
def HostQueue.available (h : HostQueue) : Nat := (h.tail - h.head).toNat

/-- `PACKET_FETCH_START`: the read of the next available packet starts while the pending list has room. -/
def execPacketFetchStart (q : Nat) (s : State) : Out :=
  let h := s.queueAt q
  if s.mayFetch q && decide (h.fetching < h.available) && decide (h.filled + h.fetching < 256) then
    .next (s.updQueue q (fun h => { h with fetching := h.fetching + 1 }))
  else .next s

/-- The head advances over `k` packets, which were being read. -/
def State.fetched (s : State) (q k : Nat) : State :=
  s.updQueue q (fun h => { h with head := h.head + BitVec.ofNat 32 k, fetching := h.fetching - k })

/-- A packet enters the pending list. -/
def State.enqueue (s : State) (q : Nat) (p : Packet) : State :=
  s.updQueue q (fun h => { h with pending := h.pending ++ [p] })

/-- Has the packet at the head arrived, with the opcode an event names? -/
def State.arrived (s : State) (q : Nat) (op : Nat → Bool) : Bool :=
  let h := s.queueAt q
  decide (q < 64) && s.dev.linkUp && decide (0 < h.fetching) && op (opcodeOf (s.packetAt h 0))

/-- Has the pending list room for `n` more entries (R390)? -/
def HostQueue.holds (h : HostQueue) (n : Nat) : Bool := decide (h.filled + n ≤ 256)

/-- The entries of a LAUNCH that does not start: the MODE's first, with status 0x03 (R394). -/
def State.failEntry (s : State) (q : Nat) (p : Packet) (status : Nat) : State :=
  let t := match p.mode with
    | some (_, _, m) => s.complete q m 3 0
    | none => s
  t.complete q p.tag status 0

/-- Is a launch's module one that is still being loaded (R75)? -/
def State.notReady (s : State) (p : Packet) : Bool := s.cp.modules.any (fun m => decide (m.handle = p.operand.toNat) && m.loading)

/-- A LAUNCH arrives, with its MODE or without. One from a module that is being loaded is rejected at once, with an entry, and
is not queued (R75); any other enters the pending list while that has room. `k` packets have been fetched. -/
def State.arriveLaunch (s : State) (q : Nat) (p : Packet) (k : Nat) : State :=
  let h := s.queueAt q
  if s.notReady p then
    if h.roomFor k s.dev.linkUp then (s.fetched q k).failEntry q p 1 else s
  else if h.holds k then (s.enqueue q p).fetched q k
  else s

def execLaunchPacket (q : Nat) (s : State) : Out :=
  if s.arrived q (fun o => o == 1) then .next (s.arriveLaunch q (launchPacket (s.packetAt (s.queueAt q) 0)) 1) else .next s

/-- `MODE`: taken together with the packet that follows it; a LAUNCH and its MODE become one entry (R394). -/
def execMode (q : Nat) (s : State) : Out :=
  let h := s.queueAt q
  if !s.arrived q (fun o => o == 2) || decide (h.available < 2) then .next s
  else
    let b := s.packetAt h 0
    let c := s.packetAt h 1
    if opcodeOf c = 1 && modeOk b then
      let m := some ((field b 8 8).testBit 0, (field b 1 1).testBit 0, BitVec.ofNat 32 (field b 4 4))
      .next (s.arriveLaunch q { launchPacket c with mode := m } 2)
    else if h.holds 1 then .next ((s.enqueue q (plainPacket .mode b (!modeOk b))).fetched q 1)
    else .next s

def execPacketReservedOpcode (q : Nat) (s : State) : Out :=
  if s.arrived q (fun o => o != 1 && o != 2 && o != 3 && o != 16) && (s.queueAt q).holds 1 then
    .next ((s.enqueue q (plainPacket .reserved (s.packetAt (s.queueAt q) 0) true)).fetched q 1)
  else .next s

/-- `SUMMARY_PACKET` enters the pending list: address in the operand, length in the field at 0x10. -/
def execSummaryPacket (q : Nat) (s : State) : Out :=
  if s.arrived q (fun o => o == 16) && (s.queueAt q).holds 1 then
    let b := s.packetAt (s.queueAt q) 0
    .next ((s.enqueue q (plainPacket .summary b (!summaryOk b))).fetched q 1)
  else .next s

/-! ### CANCEL (R395, R407) -/

/-- Is a pending entry the launch a CANCEL names? -/
def Packet.isTarget (p : Packet) (t : BitVec 32) : Bool :=
  p.kind == .launch && p.device.isNone && p.tag == t && p.started.isNone

/-- `CANCEL`: it acts at fetch, when the completion ring has room. -/
def execCancel (q : Nat) (s : State) : Out :=
  let h := s.queueAt q
  if !s.arrived q (fun o => o == 3) || !h.room then .next s
  else
    let b := s.packetAt h 0
    let tag := BitVec.ofNat 32 (field b 4 4)
    let t := s.fetched q 1
    let target := BitVec.ofNat 32 (field b 8 4)
    if !cancelOk b then .next (t.complete q tag 2 0)
    else
      let cqe := (field b 1 1).testBit 0
      match t.cp.launches.find? (fun l => decide (l.queue = q) && !l.device && decide (l.tag = target)) with
      | some l =>
        let l' := { l with cancels := if cqe then l.cancels ++ [tag] else l.cancels }
        .next (({ t with cp := { t.cp with launches := t.cp.launches.map (fun (x : Launch) =>
          if x.id = l.id then l' else x) } }).startRemoval l.id 5 0)
      | none =>
        match (t.queueAt q).pending.find? (fun p => p.isTarget target) with
        | none => .next (t.complete q tag 7 0)
        | some p =>
          let u := (t.updQueue q (fun h => h.drop (fun x => x.isTarget target))).failEntry q p 5
          .next (if cqe then u.complete q tag 0 0 else u)

/-! ### The head (R392, R393, R394, R452) -/

/-- The status of a SUMMARY at the head. -/
def State.summaryStatus (s : State) (q : Nat) (p : Packet) : Nat :=
  if (s.queueAt q).world ≠ 0 then 6
  else if p.malformed || decide (p.operand.toNat % 4096 ≠ 0) || decide (p.descIx < 0x2000) then 2
  else 0

/-- `PACKET_HEAD`: the head is checked; one that fails leaves with its status, one with an effect of its own has it. -/
def execPacketHead (q : Nat) (s : State) : Out :=
  let h := s.queueAt q
  if !s.serving then .next s
  else
    match h.pending with
    | [] => .next s
    | p :: _ =>
      match p.kind with
      | .launch =>
        if p.started.isSome || p.checked then .next s
        else
          let st := s.headStatus q p
          if st = 0 then
            .next (s.updQueue q (fun h => { h with pending := h.pending.head?.toList.map (fun x => { x with checked := true }) ++ h.pending.drop 1 }))
          else if p.device.isSome then .next (s.popHead q)
          else if h.roomFor (1 + p.mode.isSome.toNat) s.dev.linkUp then .next ((s.popHead q).failEntry q p st)
          else .next s
      | .mode =>
        if h.roomFor 1 s.dev.linkUp then .next ((s.popHead q).complete q p.tag (if p.malformed then 2 else 3) 0) else .next s
      | .reserved => if h.roomFor 1 s.dev.linkUp then .next ((s.popHead q).complete q p.tag 2 0) else .next s
      | .summary =>
        let st := s.summaryStatus q p
        -- the record waits for the link (R458)
        if ((p.cqe || decide (st ≠ 0)) && !h.roomFor 1 s.dev.linkUp) || (decide (st = 0) && !s.dev.linkUp) then .next s
        else if st ≠ 0 then .next ((s.popHead q).complete q p.tag st 0)
        else
          let t := (s.popHead q).writeSummary p.operand.toNat p.descIx
          .next (if p.cqe then t.complete q p.tag 0 0 else t)

/-! ### The host's side of the rings (R389, R390) -/

/-- `QUEUE_TAIL_DOORBELL` -/
def execQueueTailDoorbell (q v : Nat) (s : State) : Out :=
  let h := s.queueAt q
  let t := BitVec.ofNat 32 v
  if s.dev.linkUp && decide ((t - h.head).toNat ≤ h.ringEntries) then .next (s.updQueue q (fun h => { h with tail := t })) else .next s

/-- `COMPLETION_HEAD_WRITE`: the host has consumed entries; waiting ones are written. -/
def execCompletionHeadWrite (q v : Nat) (s : State) : Out :=
  if !s.dev.linkUp then .next s
  else .next ((s.updQueue q (fun h => { h with compHead := BitVec.ofNat 32 v })).writeEntries q)

/-- `RING_BASE_WRITE`: head and tail start at 0. -/
def execRingBaseWrite (q v : Nat) (s : State) : Out :=
  if s.dev.linkUp ∧ v % 4096 = 0 ∧ v < 2 ^ 64 then
    .next (s.updQueue q (fun h => { h with ringBase := v, head := 0, tail := 0, fetching := 0 }))
  else .next s

/-- `COMPLETION_BASE_WRITE`: the completion counts start at 0. -/
def execCompletionBaseWrite (q v : Nat) (s : State) : Out :=
  if s.dev.linkUp ∧ v % 4096 = 0 ∧ v < 2 ^ 64 then .next (s.updQueue q (fun h => { h with compBase := v, compTail := 0, compHead := 0 }))
  else .next s

end Sys2Proof.Machine
end

