-- ==== Sys2Proof/Machine/Worlds.lean ====
section
/-! DEFINITION. Worlds, address spaces, regions and their commands (spec/23_worlds_and_contexts.md R408 to R417,
spec/24_start_errors_and_host.md R446): the admin mailbox and the requests of a world's owner. A step of a command is
taken only while the 64 bytes in the mailbox hold that command with the step's arguments as operands
(notes/assumptions/47.md). -/

set_option Elab.async false

namespace Sys2Proof.Machine

/-! ### The mailbox (R415, R446) -/

/-- The status of a command is written, the doorbell clears, vector 65 goes out. -/
def State.answer (s : State) (status : Nat) : State :=
  ({ s with dev := { s.dev with mbStatus := status, mbBell := false, mbTaken := false } }).msi 65

/-- A field of the command in the mailbox: `n` bytes at `o`. -/
def Dev.field (d : Dev) (o n : Nat) : Nat := getBits d.mbCmd (8 * o) (8 * n)

/-- An operand: offset, size in bytes, value. -/
abbrev Operand := Nat × Nat × Nat

/-- Operands of 8 bytes each, in order from byte 8. -/
def dwords (vs : List Nat) : List Operand := vs.zipIdx.map (fun v => (8 + 8 * v.2, 8, v.1))

/-- Has the doorbell been rung for this command with these operands? -/
def State.rung (s : State) (code : Nat) (ops : List Operand) : Bool :=
  s.dev.mbBell && decide (s.dev.field 0 1 = code) && ops.all (fun o => decide (s.dev.field o.1 o.2.1 = o.2.2))

/-- A command of R415: answered with 5 where the device did not serve when it was rung, or is in the safe state. -/
def mailbox (code : Nat) (ops : List Operand) (body : State → State) (s : State) : Out :=
  if !s.dev.linkUp || !s.rung code ops then .next s
  else if !s.dev.mbTaken || s.dev.failed then .next (s.answer 5)
  else .next (body s)

/-- A command of R446: answered whenever the host link is up. -/
def mailboxAlways (code : Nat) (ops : List Operand) (body : State → State) (s : State) : Out :=
  if !s.dev.linkUp || !s.rung code ops then .next s else .next (body s)

/-- Is a world in use: world 0, or a protected one that is not free? -/
def State.worldUsed (s : State) (w : Nat) : Bool := decide (w < 65) && decide ((s.worldAt w).st ≠ .free)

/-- The world of an ASID. -/
def State.asidWorld (s : State) (asid : Nat) : Option Nat := (lookupNat asid s.vm.roots).map Prod.fst

/-! ### Leaves and their backings (R409, R410, R417) -/

/-- Every leaf of every address space: world, ASID, address, leaf. -/
def State.allLeaves (s : State) : List (Nat × Nat × Nat × Leaf) :=
  (s.vm.roots.map (fun r => (s.vm.leavesBelow 4 r.2.2 0).map (fun l => (r.2.1, r.1, l.1, l.2)))).flatten

/-- The bytes behind a leaf: 0 scratchpad, 1 query memory, then first byte and size. -/
def Leaf.backing (l : Leaf) : Option (Nat × Nat × Nat) :=
  match l.space with
  | .spad => some (0, l.frame * 4096, leafSize l.level)
  | .qm => some (1, getBits l.frame 20 16 * 2 ^ 50 + getBits l.frame 0 20 * leafSize l.level, leafSize l.level)
  | .host => some (2, l.frame * 4096, leafSize l.level)
  | .peer => some (3, l.peerKey 0, leafSize l.level)

def backingsMeet (a b : Option (Nat × Nat × Nat)) : Bool :=
  match a, b with
  | some x, some y => decide (x.1 = y.1) && decide (x.2.1 < y.2.1 + y.2.2) && decide (y.2.1 < x.2.1 + x.2.2)
  | _, _ => false

/-- The smallest leaves a leaf's backing is made of: 4 KiB of scratchpad, 2 MiB of query memory. -/
def Leaf.granules (l : Leaf) : List Leaf :=
  match l.space, l.level with
  | .spad, 1 => (List.range 512).map (fun k => { l with level := 0, frame := l.frame + k })
  | .qm, 2 => (List.range 512).map (fun k =>
      { l with level := 1, frame := setBits l.frame 0 20 (getBits l.frame 0 20 * 512 + k) })
  | _, _ => [l]

/-- The zero writes to the QM units behind a leaf. -/
def State.zeroWrites (s : State) (l : Leaf) : List UnitWrite :=
  match l.space with
  | .qm =>
    match s.qm.region? (getBits l.frame 20 16) with
    | none => []
    | some r =>
      let first := getBits l.frame 0 20 * leafSize l.level / 1024
      (List.range (min (leafSize l.level / 1024) (r.units - first))).map (fun k => ⟨r.unit (first + k), 0, 1024, 0⟩)
  | _ => []

/-- What zeroing backings comes to. -/
inductive Zeroed where
  | done (s : State)
  /-- the parity queues cannot take the writes now -/
  | waits
  /-- a stripe that is covered in part cannot be read: everything else is zero, and so are the raw bytes there -/
  | stuck (s : State)

/-- Writes as far as units can be read; in one that cannot, the raw bytes alone change: no read of it succeeds. -/
def State.putRaw (s : State) (all : List UnitWrite) : State :=
  all.foldl (fun (t : State) w =>
    match t.putWrites all [w] with
    | .ok u => u
    | .error _ => { t with qm := { t.qm with cells := t.qm.cells.write (w.unit * 1024 + w.off) w.len w.val } }) s

/-- The parts of a leaf's backing that no leaf of `kept` maps become zero: full-stripe QM writes, zero stores for SPAD; HOST
and PEER stay (R417). -/
def State.zeroNew (s : State) (l : Leaf) (kept : List Leaf) : Zeroed :=
  let parts := l.granules.filter (fun g => !kept.any (fun k => backingsMeet g.backing k.backing))
  let ws := parts.flatMap s.zeroWrites
  if !s.acceptsAll ws || (!ws.isEmpty && s.qm.losing.isSome) then .waits
  else
    let pages := fun (t : State) => parts.foldl (fun (u : State) g => match g.space with
        | .spad => u.zeroSpad (g.frame * 4096) 4096
        | _ => u) t
    match s.writeAll ws with
    | .error _ => .stuck (pages (s.putRaw ws))
    | .ok t => .done (pages t)

/-- The leaves of a world. -/
def State.leavesIn (s : State) (w : Nat) : List Leaf := (s.allLeaves.filter (fun x => x.1 = w)).map (fun x => x.2.2.2)

/-! ### Worlds (R414, R415) -/

/-- `WORLD_CREATE` -/
def execWorldCreate (w : Nat) (s : State) : Out :=
  mailbox 0x01 (dwords [w]) (fun s =>
    if w = 0 ∨ 65 ≤ w then s.answer 1
    else if (s.worldAt w).st ≠ .free then s.answer 2
    else (s.updWorld w (fun x => { World.reset with st := .pending, gen := x.gen + 1 })).answer 0) s

/-- A protected world's regions, pages, address spaces, queues, modules and ports go; it becomes free (R415, R441). -/
def State.eraseWorld (s : State) (w : Nat) : State :=
  let pages := s.allLeaves.filter (fun l => decide (l.1 = w) && decide (l.2.2.2.space = .spad) && decide (l.2.2.2.wtag = w))
  let t := pages.foldl (fun (u : State) l => u.zeroSpad (l.2.2.2.frame * 4096) (leafSize l.2.2.2.level)) s
  let mine := t.qm.regions.filter (fun r => r.world = w)
  let qm := mine.foldl Qm.zeroBand t.qm
  let asids := (t.vm.roots.filter (fun r => r.2.1 = w)).map Prod.fst
  let u := { t with
    qm := { qm with regions := qm.regions.filter (fun r => r.world ≠ w) }
    vm := { t.vm with
      roots := t.vm.roots.filter (fun r => r.2.1 ≠ w)
      cache := t.vm.cache.filter (fun c => !asids.contains c.1)
      closed := t.vm.closed.filter (fun c => !asids.contains c.asid) }
    cp := { t.cp with
      modules := t.cp.modules.filter (fun m => m.world ≠ w)
      owners := t.cp.owners.filter (fun o => o.2 ≠ w)
      queues := t.cp.queues.map (fun (h : HostQueue) => if h.world = w then { h with world := 0, asid := 0, enable := false } else h)
      ports := t.cp.ports.map (fun (p : Port) => if p.world = some w then { p with world := none } else p) } }
  u.updWorld w (fun x => { World.reset with gen := x.gen })

/-- Launches of a world's queues that have not started end as cancelled; nothing else of the queues stays. -/
def State.dropPending (s : State) (w : Nat) : State :=
  ((List.range 64).filter (fun q => (s.queueAt q).world = w)).foldl (fun (t : State) q =>
    let ps := (t.queueAt q).pending
    let u := t.updQueue q (fun h => { h with pending := [], fetching := 0, aged := 0 })
    (ps.filter (fun p => p.device.isNone && p.kind == .launch)).foldl (fun v p => v.failEntry q p 5) u) s

/-- `WORLD_DESTROY`: first every context of the world is removed; the command is done when none is left. -/
def execWorldDestroy (w : Nat) (s : State) : Out :=
  mailbox 0x02 (dwords [w]) (fun s =>
    if w = 0 ∨ 65 ≤ w ∨ (s.worldAt w).st = .free then s.answer 1
    else
      let ls := s.cp.launches.filter (fun l => l.world = w)
      if ls.isEmpty then ((s.dropPending w).eraseWorld w).answer 0
      else
        let t := s.updWorld w (fun x => { x with st := .pending, path := false, handlerSet := false })
        ls.foldl (fun (v : State) l => v.startRemoval l.id 5 0) t) s

/-- `ASID_CREATE`: an empty root table. -/
def execAsidCreate (w asid : Nat) (s : State) : Out :=
  mailbox 0x03 (dwords [w, asid]) (fun s =>
    if !s.worldUsed w || decide (2 ^ 14 ≤ asid) then s.answer 1
    else if (s.asidWorld asid).isSome then s.answer 2
    else
      let t := { s with vm := { s.vm with roots := s.vm.roots ++ [(asid, w, s.vm.nextTable)], nextTable := s.vm.nextTable + 1 } }
      match t.growTables with
      | none => s.answer 4
      | some u => u.answer 0) s

/-- `ASID_DESTROY`: refused while a queue, a launch or a region uses it. -/
def execAsidDestroy (asid : Nat) (s : State) : Out :=
  mailbox 0x04 (dwords [asid]) (fun s =>
    if (s.asidWorld asid).isNone then s.answer 1
    else if s.cp.queues.toList.any (fun h => decide (h.asid = asid) || h.pending.any (fun p => p.device.any (fun d => d.2.1 = asid))) ||
        s.cp.launches.any (fun l => l.asid = asid) ||
        s.allLeaves.any (fun l => decide (l.2.1 = asid) && decide (l.2.2.2.space = .qm)) then s.answer 2
    else ({ s with vm := { s.vm with
      roots := s.vm.roots.filter (fun r => r.1 ≠ asid)
      cache := s.vm.cache.filter (fun c => c.1 ≠ asid) } }).answer 0) s

/-! ### MAP and UNMAP (R411 to R413, R417, R382) -/

/-- Is an entry a leaf that may stand at the level and the address? A QM leaf carries the tag of its region. -/
def State.leafOk (s : State) (va lvl : Nat) (e : BitVec 64) : Bool :=
  let l := Leaf.ofEntry lvl e
  decide (lvl ≤ 2) && canonicalVa (word va) && decide (va < 2 ^ 64) && decide (va % leafSize lvl = 0) && entryOk e &&
    e.getLsbD 1 && l.valid &&
    (if l.space = .qm then
      (match s.qm.region? (getBits l.frame 20 16) with
        | some r => decide (r.world = l.wtag)
        | none => false)
    else true)

/-- Does the page already lie there without its export mark? -/
def State.marksExport (s : State) (asid va : Nat) (l : Leaf) : Bool :=
  match s.vm.leaf asid (vaIndex (word va)) with
  | some o => l.exp && !o.exp && o.space == .qm && decide (o.level = l.level) && decide (o.frame = l.frame)
  | none => false

/-- The bytes of the leaf that an address lies in, or would lie in at a level. -/
def State.leafSpanAt (s : State) (asid va lvl : Nat) : Nat × Nat :=
  let n := match s.vm.leaf asid va with
    | some l => max (leafSize l.level) (leafSize lvl)
    | none => leafSize lvl
  (va / n * n, n)

/-- `MAP`: the leaf takes effect when every item translated under the old entry has performed; a mark EXP on a page in
place closes it first, and `EXPORT_MARK_SET` ends the command. -/
def execMap (asid va lvl leaf : Nat) (s : State) : Out :=
  mailbox 0x05 (dwords [asid, va, lvl, leaf]) (fun s =>
    let e := BitVec.ofNat 64 leaf
    let l := Leaf.ofEntry lvl e
    let at' := vaIndex (word va)
    let span := s.leafSpanAt asid at' lvl
    match s.asidWorld asid with
    | none => s.answer 1
    | some w =>
      if !s.leafOk va lvl e then s.answer 1
      else if decide (w ≠ 0) && s.allLeaves.any (fun x => decide (x.1 ≠ w) && backingsMeet x.2.2.2.backing l.backing) then s.answer 2
      else if s.marksExport asid va l then
        if s.vm.exporting.isSome then s
        else
          let t := s.closePage asid (word va)
          { t with vm := { t.vm with exporting := some (asid, at') } }
      else if s.inProgress asid span.1 span.2 then s
      else
        match if w = 0 then .done s else s.zeroNew l (s.leavesIn w) with
        | .waits => s
        | .stuck _ => s.answer 4
        | .done t =>
          match ({ t with vm := t.vm.map asid at' lvl e } : State).growTables with
          | none => s.answer 4
          | some u => u.answer 0) s

/-- `UNMAP`: a protected world's last mapping of a backing leaves it zero. -/
def execUnmap (asid va : Nat) (s : State) : Out :=
  mailbox 0x06 (dwords [asid, va]) (fun s =>
    let at' := vaIndex (word va)
    match s.asidWorld asid, s.vm.leaf asid at' with
    | some w, some l =>
      if s.inProgress asid (at' / leafSize l.level * leafSize l.level) (leafSize l.level) then s
      else
        let t := { s with vm := s.vm.unmap asid at' }
        match if w = 0 then .done t else t.zeroNew l (t.leavesIn w) with
        | .waits => s
        | .stuck u => u.answer 0
        | .done u => u.answer 0
    | _, _ => s.answer 1) s

/-! ### Queues, handlers, ports (R389, R416, R436) -/

/-- `QUEUE_BIND` -/
def execQueueBind (q w asid : Nat) (s : State) : Out :=
  mailbox 0x07 (dwords [q, w, asid]) (fun s =>
    if 64 ≤ q ∨ s.asidWorld asid ≠ some w then s.answer 1
    else if (s.queueAt q).pending.any (fun p => p.kind == .launch) || s.cp.launches.any (fun l => l.queue = q) then s.answer 2
    else (s.updQueue q (fun h => { h with world := w, asid := asid })).answer 0) s

/-- `HANDLER_SET`: a protected world's owner must have allowed the module. -/
def execHandlerSet (w module vec : Nat) (s : State) : Out :=
  mailbox 0x08 (dwords [w, module, vec]) (fun s =>
    match s.cp.modules.find? (fun m => m.handle = module) with
    | none => s.answer 1
    | some m =>
      if !s.worldUsed w || decide (m.world ≠ w) then s.answer 1
      else if w ≠ 0 && !(s.worldAt w).modules.contains m.digest then s.answer 3
      else (s.updWorld w (fun x => { x with handler := m.text, handlerSet := true, vector := word vec })).answer 0) s

/-- `PORT_BIND`: a protected world's owner must have allowed the port with its peer. -/
def execPortBind (port w : Nat) (s : State) : Out :=
  mailbox 0x09 (dwords [port, w]) (fun s =>
    if 12 ≤ port ∨ s.worldUsed w = false then s.answer 1
    else if w = 0 then (s.updPort port (fun p => { p with world := some 0, peerWorld := 0 })).answer 0
    else
      match (s.worldAt w).ports.find? (fun a => decide (a.1 = port) && decide (a.2.1 = (s.portAt port).peerTag)) with
      | none => s.answer 3
      | some a => (s.updPort port (fun p => { p with world := some w, peerWorld := a.2.2 })).answer 0) s

/-! ### Region commands (R309, R310) -/

/-- `REGION_ALLOC`: the number goes to the result dword. A SPREAD region may use one quadrant (R310). A layout byte above 1 is a
bad operand. -/
def execRegionAlloc (w cls : Nat) (slab : Bool) (home size ety width body side : Nat) (s : State) : Out :=
  let layout := s.dev.field 10 1
  mailbox 0x0A [(8, 1, w), (9, 1, cls), (10, 1, if layout ≤ 1 then slab.toNat else layout), (11, 1, home), (12, 1, ety), (16, 4, width), (24, 8, size),
      (32, 8, body), (40, 8, side)] (fun s =>
    if decide (1 < layout) || !s.worldUsed w || !(home == 15 || (!slab && decide (home < 4))) || !shapeFits cls size width body side then s.answer 1
    else
      match s.allocRegion w cls slab home size ety width body side with
      | none => s.answer 4
      | some r => ({ r.2 with dev := { r.2.dev with mbResult := r.1 } }).answer 0) s

/-- `REGION_FREE`: refused while a page maps the region; a CONTEXT region is the command processor's own. -/
def execRegionFree (id : Nat) (s : State) : Out :=
  mailbox 0x0B (dwords [id]) (fun s =>
    match s.qm.region? id with
    | none => s.answer 1
    | some r =>
      if r.cls = 3 then s.answer 1
      else if r.merging || s.allLeaves.any (fun l => decide (l.2.2.2.space = .qm) && decide (getBits l.2.2.2.frame 20 16 = id)) then
        s.answer 2
      else (s.freeRegion id).answer 0) s

/-! ### Reports (R446, R452) -/

/-- `SUMMARY` by mailbox. -/
def execSummary (addr len : Nat) (s : State) : Out :=
  mailboxAlways 0x0C [(8, 8, addr), (16, 4, len)] (fun s =>
    if addr % 4096 ≠ 0 ∨ len < 0x2000 then s.answer 1 else (s.writeSummary addr len).answer 0) s

/-- `DUMP_ERRORS` -/
def execDumpErrors (addr first count : Nat) (s : State) : Out :=
  mailboxAlways 0x0D [(8, 8, addr), (16, 4, first), (20, 4, count)] (fun s => if addr % 64 ≠ 0 then s.answer 1 else (s.dumpErrors addr first count).answer 0) s

/-- `MAILBOX_RESERVED_CODE`: a command whose code is none of 0x01 to 0x0D. -/
def execMailboxReservedCode (code : Nat) (s : State) : Out :=
  if 1 ≤ code ∧ code ≤ 0x0D then .next s else mailbox code [] (fun s => s.answer 1) s

/-! ### The owner of a protected world (R416) -/

/-- The device's response to a request: the version and the response code, then the fields that the manual states between what
SPDM 1.3 puts around them (R433; notes/assumptions/6.md). An ERROR has its fields at once. -/
def State.respondWith (s : State) (code sess : Nat) (req body : List Byte) : State :=
  let rc := code % 128
  let bytes := le 1 (if code = 0x84 then 0x10 else 0x13) ++ le 1 rc ++ (if rc = 0x7F then [] else Config.spdmHead code sess req) ++
    body ++ Config.spdmTail code sess req body
  { s with cp := { s.cp with responses := s.cp.responses ++ [(sess, bytes)] } }

def State.respond (s : State) (code sess : Nat) (req : List Byte) : State := s.respondWith code sess req []

/-- VENDOR_DEFINED_REQUEST -/
def codeVendor : Nat := 0xFE

/-- Is a session secured? -/
def State.secured (s : State) (sess : Nat) : Bool := s.cp.sessions.any (fun x => decide (x.id = sess) && decide (x.phase = 2))

/-- A request of the owner's session for its world; any other is answered without effect. -/
def ownerRequest (w sess : Nat) (f : State → State) (s : State) : Out :=
  if !s.secured sess then .next s
  else if w ≠ 0 && decide (w < 65) && decide ((s.worldAt w).owner = some sess) && decide ((s.worldAt w).st ≠ .free) then
    .next ((f s).respond codeVendor sess [])
  else .next (s.respond codeVendor sess [])

/-- `OWNER_BIND`: the session becomes the owner's; no later one takes over. -/
def execOwnerBind (w sess : Nat) (s : State) : Out :=
  if !s.secured sess then .next s
  else
    let t := if w ≠ 0 && decide (w < 65) && decide ((s.worldAt w).st = .pending) && (s.worldAt w).owner.isNone then
        s.updWorld w (fun x => { x with owner := some sess })
      else s
    .next (t.respond codeVendor sess [])

/-- `SET_QRATIO`: 4, 8, … 256, before the world is live. -/
def execSetQratio (w sess v : Nat) (s : State) : Out :=
  ownerRequest w sess (fun s =>
    if (s.worldAt w).st = .pending ∧ [4, 8, 16, 32, 64, 128, 256].contains v then s.updWorld w (fun x => { x with qratio := v })
    else s) s

/-- `ALLOW_MODULE` of a table digest. -/
def execAllowModule (w sess d : Nat) (s : State) : Out :=
  ownerRequest w sess (fun s => s.updWorld w (fun x => { x with modules := x.modules ++ [d] })) s

/-- `ALLOW_PORT`: port, peer device tag, peer world. -/
def execAllowPort (w sess port peerTag peerWorld : Nat) (s : State) : Out :=
  ownerRequest w sess (fun s => s.updWorld w (fun x => { x with ports := x.ports ++ [(port, peerTag, peerWorld)] })) s

/-- `PATH_ASSERT` -/
def execPathAssert (w sess : Nat) (s : State) : Out :=
  ownerRequest w sess (fun s => s.updWorld w (fun x => { x with path := true })) s

/-- `OWNER_SEAL`: live when a handler is set, a path assertion is recorded and host link IDE is active. -/
def execOwnerSeal (w sess : Nat) (s : State) : Out :=
  ownerRequest w sess (fun s =>
    let x := s.worldAt w
    if x.st = .pending ∧ x.handlerSet ∧ x.path ∧ s.cp.ide then s.updWorld w (fun x => { x with st := .live }) else s) s

end Sys2Proof.Machine
end

