-- ==== Sys2Proof/Machine/Links.lean ====
section
/-! DEFINITION. SPDM requests, the Chawick ports and the host link (spec/23_worlds_and_contexts.md R432 to R436,
spec/24_start_errors_and_host.md R451, R457, R458). What travels inside an SPDM message is left to SPDM 1.3
(notes/assumptions/6.md). -/

set_option Elab.async false

namespace Sys2Proof.Machine

/-! ### SPDM (R432 to R434) -/

/-- Does the device answer SPDM: identity key drawn, not in the safe state (R432, R443)? -/
def State.spdmUp (s : State) : Bool := s.dev.identity && !s.dev.failed

/-- A request outside a session, with the fields of its response that the manual states. -/
def plainRequest (code sess : Nat) (req body : List Byte) (s : State) : Out :=
  if s.spdmUp then .next (s.respondWith code sess req body) else .next s

/-- A request of a session in at least the given phase. -/
def sessionRequest (code phase sess : Nat) (req : List Byte) (f : State → Session → State) (s : State) : Out :=
  if !s.spdmUp then .next s
  else
    match s.cp.sessions.find? (fun x => x.id = sess) with
    | some x => if phase ≤ x.phase then .next ((f s x).respond code sess req) else .next (s.respond 0xFF sess req)
    | none => .next (s.respond 0xFF sess req)

/-- SPDM 1.3, and no other version. -/
def versionFields : List Byte := le 2 0x1300

/-- CERT, CHAL, MEAS with signature, ENCRYPT, MAC, MUT_AUTH, KEY_EX, HBEAT, KEY_UPD, in the flag bits of SPDM 1.3
(notes/assumptions/6.md). -/
def capabilityFields : List Byte := le 4 (2 ^ 1 + 2 ^ 2 + 2 ^ 4 + 2 ^ 6 + 2 ^ 7 + 2 ^ 8 + 2 ^ 9 + 2 ^ 13 + 2 ^ 14)

/-- SHA-256 for measurements and as base hash, RSASSA-3072 or RSAPSS-3072 as the requester's offer has it, FFDHE3072,
AES-256-GCM, in the selection bits of SPDM 1.3 (notes/assumptions/6.md). -/
def algorithmFields (req : List Byte) : List Byte :=
  le 4 (2 ^ 1) ++ le 4 (if Config.takesPss req then 2 ^ 3 else 2 ^ 2) ++ le 4 (2 ^ 0) ++ le 2 (2 ^ 1) ++ le 2 (2 ^ 1)

/-- Certificate slot 0: the vendor root, the manufacturing CA and the device certificate, which carries the identity public key
and the fused serial (R432). -/
def certificateChain (s : State) : List Byte :=
  Config.vendorRoot ++ Config.manufacturingCa ++ Config.deviceCertificate Config.identityKey s.dev.serial

def execGetVersion (sess : Nat) (req : List Byte) (s : State) : Out := plainRequest 0x84 sess req versionFields s
def execGetCapabilities (sess : Nat) (req : List Byte) (s : State) : Out := plainRequest 0xE1 sess req capabilityFields s
def execNegotiateAlgorithms (sess : Nat) (req : List Byte) (s : State) : Out :=
  plainRequest 0xE3 sess req (algorithmFields req) s
def execGetDigests (sess : Nat) (req : List Byte) (s : State) : Out := plainRequest 0x81 sess req (sha (certificateChain s)) s
def execGetCertificate (sess : Nat) (req : List Byte) (s : State) : Out := plainRequest 0x82 sess req (certificateChain s) s
def execChallenge (sess : Nat) (req : List Byte) (s : State) : Out := plainRequest 0x83 sess req (sha (certificateChain s)) s

/-- What block 4 measures: `QMSTAT`, the retired-seat masks, the lost-port mask (R434). -/
def State.hardwareState (s : State) : List Byte :=
  le 8 s.qm.stat.toNat ++ ((List.range 256).map (fun k => le 2 (s.retiredSeats k))).flatten ++ le 2 s.portsLost

/-- The measurement blocks 1 to 4, each a SHA-256 digest (R434): the payload as stage 0x06 measured it, the SVN, the fused
configuration, the hardware state as it stands. -/
def State.measurements (s : State) : List (List Byte) :=
  [s.dev.block1, sha (le 4 Config.firmwareSvn.toNat),
    sha (s.dev.serial ++ le 4 Config.minimumSvn.toNat ++ le 32 Config.vendorKeyHash.toNat), sha s.hardwareState]

/-- The blocks in the framing of SPDM 1.3 (notes/assumptions/6.md): index, specification, sizes, the type of the value. -/
def State.measurementFields (s : State) : List Byte :=
  s.measurements.zipIdx.flatMap (fun b =>
    le 1 (b.2 + 1) ++ le 1 1 ++ le 2 35 ++ [Config.measurementType (b.2 + 1)] ++ le 2 32 ++ b.1)

/-- `GET_MEASUREMENTS` -/
def execGetMeasurements (sess : Nat) (req : List Byte) (s : State) : Out :=
  if s.dev.measured then plainRequest 0xE0 sess req s.measurementFields s else .next s

/-- `KEY_EXCHANGE` over the host link (port 12) or a trained Chawick port opens one of 16 sessions. Over a port the device with
the lower tag is the requester: this device answers a peer whose tag is lower, and asks one whose tag is higher (R436). -/
def execKeyExchange (sess port peerTag : Nat) (req : List Byte) (s : State) : Out :=
  let p := s.portAt port
  let way : Bool := if port = 12 then s.dev.linkUp else decide (port < 12) && p.trained && !p.lost && decide (peerTag ≠ deviceTag)
  let fresh := !s.cp.sessions.any (fun x => x.id = sess) && !s.cp.worlds.toList.any (fun w => w.owner = some sess)
  if !s.spdmUp || !way then .next s
  else if !fresh || decide (16 ≤ s.cp.sessions.length) then .next (s.respond 0xFF sess req)
  else
    let x : Session := ⟨sess, 1, if port = 12 then none else some port⟩
    let t := { s with cp := { s.cp with sessions := s.cp.sessions ++ [x] } }
    if port = 12 then .next (t.respond 0xE4 sess req)
    else
      let u := t.updPort port (fun p => { p with peerTag := peerTag })
      .next (if peerTag < deviceTag then u.respond 0xE4 sess req else u)

/-- A port is lost: `DPORTS` changes, vector 64 goes out with the record. -/
def State.losePort (s : State) (n : Nat) : State :=
  ((s.endPort n).updPort n (fun p => { p with trained := false, keyed := false, lost := true, rekey := false })).report
    (portRec 2 n) none

/-- An attempt to retrain or to re-key a port fails; the third loses it (R451). -/
def State.portFails (s : State) (n : Nat) : State :=
  if 2 ≤ (s.portAt n).fails then s.losePort n else s.updPort n (fun p => { p with fails := p.fails + 1 })

/-- A session's port gets the session's keys. -/
def State.keyPort (s : State) (x : Session) : State :=
  match x.port with
  | none => s
  | some n => s.updPort n (fun p => if p.lost then p else { p with keyed := true, frames := 0, fails := 0, rekey := false })

/-- A session is secured. -/
def State.secure (s : State) (sess : Nat) : State :=
  { s with cp := { s.cp with sessions := s.cp.sessions.map (fun (y : Session) =>
    if y.id = sess then { y with phase := 2 } else y) } }

/-- Does the session of a port fail: the peer's certificate chain does not lead to the vendor root (R436)? -/
def Session.chainFails (x : Session) (req : List Byte) : Bool := x.port.isSome && !Config.chainVerifies req

/-- `FINISH`: the session is secured; a port carries traffic from then on. Where the peer's chain fails, the session ends, and an
attempt to re-key its port has failed. -/
def execFinish (sess : Nat) (req : List Byte) (s : State) : Out :=
  match s.cp.sessions.find? (fun x => x.id = sess) with
  | some x =>
    if s.spdmUp && decide (1 ≤ x.phase) && x.chainFails req then
      let t := { s with cp := { s.cp with sessions := s.cp.sessions.filter (fun y => y.id ≠ sess) } }
      let u := match x.port with
        | some n => if (s.portAt n).rekey then t.portFails n else t
        | none => t
      .next (u.respond 0xFF sess req)
    else sessionRequest 0xE5 1 sess req (fun s x => (s.secure sess).keyPort x) s
  | none => sessionRequest 0xE5 1 sess req (fun s x => (s.secure sess).keyPort x) s

def execHeartbeat (sess : Nat) (req : List Byte) (s : State) : Out := sessionRequest 0xE8 2 sess req (fun s _ => s) s

/-- `KEY_UPDATE`: new data keys; a port's frame count starts again. -/
def execKeyUpdate (sess : Nat) (req : List Byte) (s : State) : Out :=
  sessionRequest 0xE9 2 sess req (fun s x =>
    match x.port with
    | none => s
    | some n => s.updPort n (fun p => { p with frames := 0 })) s

/-- `END_SESSION`: a port's traffic ends with its session; a live world stays live (R416). -/
def execEndSession (sess : Nat) (req : List Byte) (s : State) : Out :=
  sessionRequest 0xEC 1 sess req (fun s x =>
    let t := { s with cp := { s.cp with sessions := s.cp.sessions.filter (fun y => y.id ≠ sess) } }
    match x.port with
    | none => t
    | some n => t.endPort n) s

/-- Any other request receives ERROR(UnsupportedRequest): error code 7, with the request's code (notes/assumptions/6.md). -/
def execUnsupportedRequest (sess : Nat) (req : List Byte) (s : State) : Out :=
  plainRequest 0x7F sess req (le 1 7 ++ [req.getD 1 0]) s

/-! ### Chawick ports (R301, R436, R451) -/

/-- `FRAME_TAG_FAILURE` -/
def execFrameTagFailure (port : Nat) (s : State) : Out :=
  if port < 12 ∧ (s.portAt port).keyed then .next (s.tagFails port) else .next s

/-- `FRAME_KEY_LIMIT`: `KEY_UPDATE` runs before 2^30 frames have used a key. -/
def execFrameKeyLimit (port : Nat) (s : State) : Out :=
  if (s.portAt port).keyed then .next (s.updPort port (fun p => { p with frames := 0 })) else .next s

/-- `PORT_LINK_DROP` -/
def execPortLinkDrop (port : Nat) (s : State) : Out :=
  if port < 12 ∧ (s.portAt port).trained then
    .next ((s.endPort port).updPort port (fun p => { p with trained := false, fails := 0, rekey := false }))
  else .next s

/-- `PORT_RETRAIN`: a third failure loses the port. During stage 0x01 a port trains for the first time instead (R431, R439), and
in the safe state it is idle (R443). -/
def execPortRetrain (port : Nat) (ok : Bool) (s : State) : Out :=
  let p := s.portAt port
  if 12 ≤ port ∨ p.trained ∨ p.lost ∨ s.dev.stage = 1 ∨ s.dev.failed then .next s
  else
    let t := ((s.updPort port (fun p => { p with retrains := p.retrains + 1 })).bump 15).report
      (portRec (if ok then 4 else 0) port) none
    .next (if ok then t.updPort port (fun p => { p with trained := true, fails := 0 }) else t.portFails port)

/-! ### The host link (R301, R435, R458) -/

/-- Has a transfer a HOST chunk in flight? -/
def Xfer.onHost (x : Xfer) : Bool := !(x.reading.isEmpty && x.flushing.isEmpty)

/-- A record about the host link (R428). -/
def linkRec (cause flags : Nat) : ErrRec := plainRec cause 7 flags 0xFFFF

/-- `HOST_LINK_DOWN`: HOST chunks in flight fault, queues stop fetching, contexts keep running. -/
def execHostLinkDown (s : State) : Out :=
  if !s.dev.linkUp then .next s
  else
    let t := { s with
      dev := { s.dev with linkUp := false }
      cp := { s.cp with queues := s.cp.queues.map (fun (h : HostQueue) => { h with fetching := 0 }) } }
    .next (((t.eng.xfers.filter Xfer.onHost).foldl State.loseHost t).bump 13 |>.report (linkRec 0x13 0) none)

/-- `HOST_LINK_TRAINED`: the waiting entries are written in order. -/
def execHostLinkTrained (s : State) : Out :=
  if s.dev.linkUp ∨ s.dev.stage = 1 then .next s
  else .next ((List.range 64).foldl State.writeEntries { s with dev := { s.dev with linkUp := true } })

/-- `IDE_KM` over a secured session with the upstream port keys the link stream. -/
def execIdeKm (sess : Nat) (s : State) : Out :=
  if s.dev.linkUp && s.cp.sessions.any (fun x => decide (x.id = sess) && decide (x.phase = 2) && x.port.isNone) then
    .next { s with cp := { s.cp with ide := true } }
  else .next s

/-- `IDE_SECURE_STATE_LOSS`: HOST chunks of protected worlds fault, their contexts are removed, the worlds are pending. -/
def execIdeSecureStateLoss (s : State) : Out :=
  if !s.cp.ide then .next s
  else
    let hit := s.cp.launches.filter (fun l => l.world ≠ 0)
    -- fatal to the contexts of protected worlds, where there are any (R444)
    let t := (({ s with cp := { s.cp with ide := false } }).bump 13).report (linkRec 0x0F (if hit.isEmpty then 0 else 2)) none
    let u := (t.eng.xfers.filter (fun x => x.onHost && decide (x.wid ≠ 0))).foldl State.loseHost t
    let v := (u.cp.launches.filter (fun l => l.world ≠ 0)).foldl (fun (v : State) l => v.startRemoval l.id 4 0x0F) u
    .next ((List.range 64).foldl (fun (a : State) k =>
      a.updWorld (k + 1) (fun x => if x.st = .live then { x with st := .pending, path := false } else x)) v)

end Sys2Proof.Machine
end

