-- ==== Sys2Proof/Machine/Loader.lean ====
section
/-! DEFINITION. The module loader (spec/03_assembly_and_objects.md R64 to R76): `MODULE_LOAD` takes steps 1 to 7 of R72 on the
bytes of an executable module, `MODULE_READY` the last one. -/

set_option Elab.async false

namespace Sys2Proof.Machine

/-! ### The module as bytes (R64 to R70) -/

/-- An entry of the section table (R65). -/
structure Sect where
  kind : Nat
  flags : Nat
  off : Nat
  size : Nat
  msize : Nat
  addr : Nat
  align : Nat
  zero : Nat
  link : Nat
  assoc : Nat
  digest : List Byte
  data : List Byte
  deriving DecidableEq, Repr

def sectAt (b : List Byte) (i : Nat) : Sect :=
  let e := (b.drop (0x40 + 80 * i)).take 80
  let off := field e 0x08 8
  let size := field e 0x10 8
  ⟨field e 4 2, field e 6 2, off, size, field e 0x18 8, field e 0x20 8, field e 0x28 1, field e 0x29 1, field e 0x2A 2,
    field e 0x2C 4, (e.drop 0x30).take 32, (b.drop off).take size⟩

def sections (b : List Byte) : List Sect := (List.range (field b 0x0C 2)).map (sectAt b)

/-- Loaded into scratchpad (R66). -/
def Sect.loaded (x : Sect) : Bool := x.kind == 1 || x.kind == 2 || x.kind == 3 || x.kind == 5

/-- Records of a given size in the sections of a kind. -/
def records (xs : List Sect) (kind size : Nat) : List (List Byte) :=
  ((xs.filter (fun x => x.kind = kind)).map (fun x =>
    (List.range (x.size / size)).map (fun i => (x.data.drop (size * i)).take size))).flatten

/-- A region record with its base (R67, R70). -/
structure RegionRec where
  cls : Nat
  slab : Nat
  page : Nat
  size : Nat
  width : Nat
  ety : Nat
  body : Nat
  side : Nat
  zero : Nat
  base : Nat
  deriving DecidableEq, Repr

/-- The value of symbol `i` of the module's symbols (R67). -/
def symbols (xs : List Sect) : List (List Byte) := records xs 8 24
def symValue (syms : List (List Byte)) (i : Nat) : Nat := field (syms.getD i []) 8 8

/-- The bases of the regions of a name, in the order of their symbols. -/
def basesOf (syms : List (List Byte)) (name : Nat) : List Nat :=
  (syms.filter (fun y => (field y 7 1 == 3 || field y 7 1 == 4) && decide (field y 0 4 = name))).map (fun y => field y 8 8)

/-- The record with the base of the `k`th symbol of its name. -/
def regionRec (syms : List (List Byte)) (k : Nat) (r : List Byte) : RegionRec :=
  ⟨field r 4 1, field r 5 1, field r 6 1, field r 8 8, field r 0x10 4, field r 0x14 1, field r 0x18 8, field r 0x20 8,
    field r 7 1 + field r 0x15 3 + field r 0x28 8, (basesOf syms (field r 0 4)).getD k 0⟩

/-- The region records: of several of one name, local to different modules, each goes with its own symbol, records and
symbols standing in one order (R71; notes/assumptions/85.md). -/
def regionRecs (xs : List Sect) : List RegionRec :=
  let rs := records xs 7 48
  rs.zipIdx.map (fun r =>
    regionRec (symbols xs) ((rs.take r.2).filter (fun y => decide (field y 0 4 = field r.1 0 4))).length r.1)

/-- A launch descriptor (R69). -/
def descRec (syms : List (List Byte)) (r : List Byte) : Desc where
  entry := word (symValue syms (field r 4 4))
  parties := field r 8 2
  players := field r 0x0A 1
  seats := field r 0x0B 1
  allot := field r 0x0C 1
  det := (field r 0x0D 1).testBit 0
  args := Vector.ofFn (fun i => word (field r (0x10 + 8 * i.val) 8))

/-- A QMINIT image: base of its region, offset in the region, bytes. -/
structure QmImage where
  base : Nat
  off : Nat
  data : List Byte
  deriving DecidableEq, Repr

def qmImages (xs : List Sect) : List QmImage :=
  let syms := symbols xs
  (xs.filter (fun x => x.kind = 4)).map (fun x => ⟨symValue syms x.assoc, field x.data 0 8, x.data.drop 8⟩)

/-! ### Steps 1 to 3 (R72, R73) -/

/-- Steps 1 and 2: the status, 0 when they pass. -/
def headerStatus (b : List Byte) (xs : List Sect) : Nat :=
  if field b 0 4 ≠ 0x4D4E534F ∨ field b 4 2 ≠ 1 ∨ field b 8 4 ≠ 7 ∨ (field b 6 2).testBit 0 = false then 1
  else if xs.any (fun x => x.kind = 9) then 3
  else if sha ((b.drop 0x40).take (80 * xs.length)) ≠ (b.drop 0x20).take 32 then 2
  else if xs.any (fun x => sha x.data ≠ x.digest) then 2
  else 0

/-- Kinds, flags and reserved fields. R73 names no status for an entry size, a table offset, an alignment or a region's base,
page, shape or size that its rule does not allow: the model counts them with the fields, status 0x03. The writable and the
executable flag of a loaded section are its own, whatever its kind (notes/assumptions/85.md). -/
def fieldsOk (b : List Byte) (xs : List Sect) : Bool :=
  decide (field b 6 2 = 1) && decide (1 ≤ xs.length) && decide (xs.length ≤ 4096) && decide (field b 0x0E 2 = 80) &&
    decide (field b 0x10 8 = 0x40) && decide (field b 0x1E 2 = 0) &&
    xs.all (fun x => decide (1 ≤ x.kind) && decide (x.kind ≤ 10) && decide (x.flags < 8) &&
      decide (x.loaded = x.flags.testBit 0) && decide (x.zero = 0) && decide (x.align ≤ 30) && decide (x.size ≤ x.msize) &&
      (x.loaded || decide (x.msize = x.size))) &&
    (regionRecs xs).all (fun r => decide (r.cls ≤ 2) && decide (r.slab ≤ 1) && (r.page == 21 || r.page == 30) &&
      decide (r.zero = 0) && decide (r.base % 2 ^ r.page = 0) && shapeFits r.cls r.size r.width r.body r.side) &&
    (records xs 6 80).all (fun r => decide (field r 0x0D 1 ≤ 1) && decide (field r 0x0E 2 = 0))

/-- Have `n` bytes from `a` and `m` bytes from `b` one in common? -/
def spansMeet (a n b m : Nat) : Bool := decide (0 < n) && decide (0 < m) && decide (a < b + m) && decide (b < a + n)

def Sect.firstPage (x : Sect) : Nat := x.addr / 4096
def Sect.pageCount (x : Sect) : Nat := if x.msize = 0 then 0 else (x.addr + x.msize - 1) / 4096 - x.addr / 4096 + 1

/-- Does no later element of a list meet an earlier one? -/
def pairwiseApart {α : Type} (meet : α → α → Bool) : List α → Bool
  | [] => true
  | x :: rest => rest.all (fun y => !meet x y) && pairwiseApart meet rest

/-- Do two loaded sections overlap: in a byte, or in a page while flags or clusters differ? -/
def sectsMeet (x y : Sect × Nat) : Bool :=
  spansMeet x.1.addr x.1.msize y.1.addr y.1.msize ||
    (spansMeet x.1.firstPage x.1.pageCount y.1.firstPage y.1.pageCount &&
      (decide (x.1.flags ≠ y.1.flags) || decide (x.2 ≠ y.2)))

/-- The addresses that a region's pages map. -/
def RegionRec.pages (r : RegionRec) : Nat := (r.size + 2 ^ r.page - 1) / 2 ^ r.page
def RegionRec.mapped (r : RegionRec) : Nat := r.pages * 2 ^ r.page

/-- Do two regions overlap in device virtual address, the whole of their pages counted? -/
def regionsMeet (x y : RegionRec) : Bool := spansMeet x.base x.mapped y.base y.mapped

def imagesMeet (x y : QmImage) : Bool := decide (x.base = y.base) && spansMeet x.off x.data.length y.off y.data.length

/-! ### Step 4: clusters and pages -/

/-- The page addresses of sections with cluster and flags, each once. -/
def pagesOf (xs : List (Sect × Nat)) : List (Nat × Nat × Nat) :=
  ((xs.map (fun x => (List.range x.1.pageCount).map (fun k => (x.1.firstPage + k, x.2, x.1.flags)))).flatten).eraseDups

/-- The cluster with the most free scratchpad, pages promised to earlier sections taken off. -/
def State.roomiest (s : State) (used : List (Sect × Nat)) : Nat :=
  let free := fun (c : Nat) => s.spadFree c - 4096 * (pagesOf (used.filter (fun u => u.2 = c))).length
  (List.range 64).foldl (fun b c => if free b < free c then c else b) 0

/-- Each loaded section with its cluster: the one the request names, else the roomiest. -/
def State.pickClusters (s : State) (req : List Nat) : List (Sect × Nat) → List (Sect × Nat) → List (Sect × Nat)
  | done, [] => done
  | done, (x, i) :: rest =>
    let want := req.getD i 64
    s.pickClusters req (done ++ [(x, if want < 64 then want else s.roomiest done)]) rest

/-- Gives every page a free page of its cluster: page, cluster, flags, frame. -/
def State.assignPages (s : State) (taken : List (Nat × Nat)) : List (Nat × Nat × Nat) → Option (List (Nat × Nat × Nat × Nat))
  | [] => some []
  | p :: rest =>
    match (s.freePages p.2.1).find? (fun f => !taken.contains (p.2.1, f)) with
    | none => none
    | some f => (s.assignPages (taken ++ [(p.2.1, f)]) rest).map (fun r => (p.1, p.2.1, p.2.2, p.2.1 * 4096 + f) :: r)

/-- Maps and zeroes the pages: the bytes of a page that lie in no section read 0 (notes/assumptions/85.md). -/
def State.mapPages (s : State) (asid wid : Nat) (ps : List (Nat × Nat × Nat × Nat)) : State :=
  ps.foldl (fun (t : State) p =>
    let u := t.zeroSpad (p.2.2.2 * 4096) 4096
    { u with vm := u.vm.map asid (p.1 * 4096) 0 (spadEntry p.2.2.2 wid (p.2.2.1.testBit 1) (p.2.2.1.testBit 2)) }) s

/-- Copies a section's contents into its pages (step 5). -/
def copySect (ps : List (Nat × Nat × Nat × Nat)) (x : Sect) (m : Memory) : Memory :=
  (List.range x.pageCount).foldl (fun (m : Memory) k =>
    let page := x.firstPage + k
    let lo := max x.addr (page * 4096)
    let hi := min (x.addr + x.size) (page * 4096 + 4096)
    match ps.find? (fun p => p.1 = page) with
    | some p => m.writeBytes (p.2.2.2 * 4096 + lo % 4096) ((x.data.drop (lo - x.addr)).take (hi - lo))
    | none => m) m

/-! ### Steps 6 and 7: regions and images -/

/-- A QM leaf (R410). -/
def qmEntry (region index wtag : Nat) : BitVec 64 :=
  BitVec.ofNat 64 (3 + 2 ^ 2 + 2 ^ 4 + index * 2 ^ 12 + region * 2 ^ 32 + wtag * 2 ^ 57)

/-- What a load comes to: it ends, it fails with a status and the state it leaves, or it waits for the parity queues. -/
inductive Loaded where
  | done (s : State)
  | failed (status : Nat) (s : State)
  | waits

/-- Allocates, zeroes and maps a record's region (step 6): a page of another world is a violation. -/
def State.loadRegion (s : State) (asid wid : Nat) (r : RegionRec) : Loaded :=
  let n := r.pages
  let at' := fun (k : Nat) => vaIndex (word (r.base + k * 2 ^ r.page))
  let foreign := (s.vm.leavesOf asid).any (fun x => decide (x.2.wtag ≠ wid) &&
    (List.range n).any (fun k => spansMeet x.1 (leafSize x.2.level) (at' k) (2 ^ r.page)))
  if foreign then .failed 6 s
  else
    match s.allocRegion wid r.cls (r.slab == 1) 15 r.size r.ety r.width r.body r.side with
    | none => .failed 5 s
    | some (id, t) =>
      let vm := (List.range n).foldl (fun (v : Vm) k => v.map asid (at' k) (if r.page = 21 then 1 else 2) (qmEntry id k wid)) t.vm
      match ({ t with vm := vm } : State).growTables with
      | none => .failed 5 t
      | some u => .done u

def State.loadRegions (s : State) (asid wid : Nat) : List RegionRec → Loaded
  | [] => .done s
  | r :: rest =>
    match s.loadRegion asid wid r with
    | .done t => t.loadRegions asid wid rest
    | e => e

/-- Writes the images (step 7): a fault of a write ends the load. -/
def State.loadImages (s : State) (asid : Nat) : List QmImage → Loaded
  | [] => .done s
  | x :: rest =>
    match s.vm.leaf asid (vaIndex (word x.base)) with
    | none => .failed 7 s
    | some l =>
      match s.qm.region? (getBits l.frame 20 16) with
      | none => .failed 7 s
      | some r =>
        if r.units * 1024 < x.off + x.data.length ∨ (r.isCollection ∧ x.off < 1024) then .failed 7 s
        else
          let ws := r.writes x.off x.data.length (bytesToNat x.data)
          if s.qm.losing.isSome || !s.acceptsAll ws then .waits
          else
            match s.writeAll ws with
            | .error _ => .failed 7 s
            | .ok t => t.loadImages asid rest

/-- A load that fails releases its pages and regions: the bytes it copied stand in pages that are free again, except a
protected world's, which leave zero (R417). -/
def State.release (s t : State) (wid : Nat) (ps : List (Nat × Nat × Nat × Nat)) : State :=
  let mine := t.qm.regions.filter (fun r => !s.qm.regions.any (fun o => o.id = r.id))
  let u := mine.foldl (fun (v : State) r => v.freeRegion r.id) t
  let v := if wid = 0 then u else ps.foldl (fun (v : State) p => v.zeroSpad (p.2.2.2 * 4096) 4096) u
  { v with vm := s.vm }

/-! ### MODULE_LOAD and MODULE_READY (R72, R73, R75, R416) -/

/-- Steps 5 to 7, on pages already chosen. -/
def State.fill (s : State) (asid wid : Nat) (ls : List (Sect × Nat)) (ps : List (Nat × Nat × Nat × Nat))
    (regions : List RegionRec) (images : List QmImage) : Loaded :=
  match (s.mapPages asid wid ps).growTables with
  | none => .failed 5 s
  | some t =>
    let spad := ls.foldl (fun (m : Memory) (x : Sect × Nat) => copySect ps x.1 m) t.mem.spad
    match ({ t with mem := { t.mem with spad := spad } } : State).loadRegions asid wid regions with
    | .done u => u.loadImages asid images
    | e => e

/-- Steps 1 to 7 of a load (R72) with the status of R73. The spec gives no status for an ASID that no world owns: the model
answers 0x06 before any other check (notes/assumptions/85.md). -/
def State.load (s : State) (asid : Nat) (b : List Byte) (req : List Nat) : Loaded :=
  let xs := sections b
  let h := headerStatus b xs
  let digest := bytesToNat ((b.drop 0x20).take 32)
  match s.asidWorld asid with
  | none => .failed 6 s
  | some w =>
    if h ≠ 0 then .failed h s
    else if w ≠ 0 && !(s.worldAt w).modules.contains digest then .failed 2 s
    else if !fieldsOk b xs then .failed 3 s
    else
      let ls := s.pickClusters req [] ((xs.zipIdx.filter (fun x => x.1.loaded)))
      let regions := regionRecs xs
      let images := qmImages xs
      if !pairwiseApart sectsMeet ls || !pairwiseApart regionsMeet regions || !pairwiseApart imagesMeet images then .failed 4 s
      else
        let pages := pagesOf ls
        let foreign := pages.any (fun p =>
          match s.vm.leaf asid (vaIndex (word (p.1 * 4096))) with
          | some l => decide (l.wtag ≠ w)
          | none => false)
        if foreign then .failed 6 s
        else
          match s.assignPages [] pages with
          | none => .failed 5 s
          | some ps =>
            match s.fill asid w ls ps regions images with
            | .waits => .waits
            | .failed e t => .failed e (s.release t w ps)
            | .done z =>
              -- the code region ends with the words of the file (notes/assumptions/85.md)
              let text := (xs.filter (fun x => x.kind = 1)).map (fun x => (x.addr, x.size))
              let own := ps.map (fun p => (p.2.1, p.2.2.2 % 4096))
              let m : Module := ⟨z.cp.nextModule, false, true, w, asid, digest, text,
                (records xs 6 80).map (descRec (symbols xs)), own⟩
              .done { z with cp := { z.cp with modules := z.cp.modules ++ [m], nextModule := z.cp.nextModule + 1 } }

/-- `MODULE_LOAD`: the load ends, or fails with its status. The spec gives no status for a load while the device does not
serve its queues: the model answers 0x05 (notes/assumptions/85.md). -/
def execModuleLoad (asid : Nat) (file : List Byte) (clusters : List Nat) (s : State) : Out :=
  if !s.serving then .next { s with dev := { s.dev with loadStatus := 5 } }
  else
    match s.load asid file clusters with
    | .failed e t => .next { t with dev := { t.dev with loadStatus := e } }
    | .done t => .next t
    | .waits => .next s

/-- `MODULE_READY`: the loader's fence has completed. -/
def execModuleReady (h : Nat) (s : State) : Out :=
  if !s.serving || !s.cp.modules.any (fun m => decide (m.handle = h) && m.loading) then .next s
  else .next { s with
    cp := { s.cp with modules := s.cp.modules.map (fun (m : Module) => if m.handle = h then { m with ready := true, loading := false } else m) }
    dev := { s.dev with loadStatus := 0 } }

end Sys2Proof.Machine
end

