-- ==== Sys2Proof/Machine/Start.lean ====
section
/-! DEFINITION. Start, warm start, device-fatal errors, power and the host's plain register writes
(spec/24_start_errors_and_host.md R437 to R443, R447 to R450, R459 to R462; spec/22_launch_and_scheduling.md R389). -/

set_option Elab.async false

namespace Sys2Proof.Machine

/-! ### Stages (R439) -/

/-- Stage `n` begins; vector 65 goes out (R448). -/
def State.enterStage (s : State) (n : Nat) : State := ({ s with dev := { s.dev with stage := n } }).msi 65

/-- The safe state: a start has failed or a device-fatal error has occurred; every engine is stopped (R443): no player issues
(`State.runnable`), and the engines take no step (`engineStep`). -/
def State.failSafe (s : State) (code : Nat) : State :=
  ({ s with
    dev := { s.dev with failed := true, ready := false, warming := false, sfault := code }
    eng := { s.eng with xfers := [], queries := [], arrivals := [], resumed := [] }
    cp := { s.cp with ports := s.cp.ports.map (fun (p : Port) => { p with keyed := false }) } }).msi 65

/-- Is stage `n` of a start running? -/
def State.inStage (s : State) (n : Nat) : Bool := decide (s.dev.stage = n) && !s.dev.ready && !s.dev.failed

/-- Query memory as the health log says: the first listed stack is lost, a second makes it unavailable. -/
def State.applyStacks (s : State) : State :=
  { s with qm := { s.qm with lost := s.dev.lostStacks.head?, losing := none, unav := decide (2 ≤ s.dev.lostStacks.length) } }

/-- `COLD_START`: the release of reset. The health log in flash stays (R440), and so does what lies outside the module; the status
bits whose reset value is the health log's show it at once (R438). Boot
code refuses an image whose SVN is below the fused minimum and stops in the safe state (R430), with a fault code that the
spec does not give (notes/assumptions/90.md). -/
def execColdStart (s : State) : Out :=
  let t := ({ State.reset with
    mem := { Mems.reset with host := s.mem.host, peer := s.mem.peer }
    dev := { Dev.reset with lostStacks := s.dev.lostStacks, retired := s.dev.retired, serial := s.dev.serial }
    agenda := s.agenda
    fresh := s.fresh } : State).applyStacks
  .next (if Config.firmwareSvn < Config.minimumSvn then t.failSafe Config.bootFault else t)

/-- `PHY_TRAINING`: the host link trained or not, and a mask of the ports that failed. -/
def execPhyTraining (host : Bool) (lost : Nat) (s : State) : Out :=
  if !s.inStage 1 then .next s
  else if !host then .next (s.failSafe 1)
  else
    let t := { s with dev := { s.dev with linkUp := true } }
    .next (((List.range 12).foldl (fun (u : State) n =>
      if lost.testBit n then u.losePort n else u.updPort n (fun p => { p with trained := true })) t).enterStage 2)

/-- A seat goes into the health log with its record (R440, R444, R449). -/
def State.logSeats (s : State) (core mask : Nat) : State :=
  let old := s.retiredSeats core
  let new := (old ||| mask) % 2 ^ 16
  let t := { s with dev := { s.dev with retired := setNat core new s.dev.retired } }
  (setBitsBelow (new - old) 16).foldl (fun (u : State) b =>
    u.report { plainRec 0x0D 0 2 0xFFFF with place := core / 4 + core % 4 * 64 + seatPlace (b, 0) } none) t

/-- A stack found bad during a start; nothing is in flight, so routing is degraded at once (R322, R325, R440). -/
def State.logStack (s : State) (st : Nat) : State :=
  if 12 ≤ st ∨ s.dev.lostStacks.contains st then s
  else ({ s with dev := { s.dev with lostStacks := s.dev.lostStacks ++ [st] } }).report (stackRec st) none

/-- `SELF_TEST`: did the command processor, the floor die and the health log pass; seats (core, mask) and stacks that
failed. A warm start goes on at stage 5 (R441). -/
def execSelfTest (ok : Bool) (seats : List (Nat × Nat)) (lostStacks : List Nat) (s : State) : Out :=
  if !s.inStage 2 then .next s
  else if !ok then .next (s.failSafe 2)
  else
    let t := seats.foldl (fun (u : State) x => if x.1 < 256 then u.logSeats x.1 x.2 else u) s
    let u := (lostStacks.foldl State.logStack t).applyStacks
    if (List.range 256).all (fun k => decide (u.retiredSeats k % 2 ^ 16 = 0xFFFF)) then .next (u.failSafe 3)
    else .next (u.enterStage (if s.dev.warming then 5 else 3))

/-- Every row of every stack, one after another (R319). -/
def allRows : Nat × Nat := (0, 12 * 64 * rowsPerPc)

/-- `QM_SCRUB`: every unit holds zero with fresh check symbols and parity, so that every row is clean (R319); stacks that
failed are lost. -/
def execQmScrub (lostStacks : List Nat) (s : State) : Out :=
  if !s.inStage 3 then .next s
  else
    let t := (lostStacks.foldl State.logStack s).applyStacks
    .next ({ t with qm := { t.qm with cells := [], bad := [], soft := [], deltas := [], held := [], clean := [allRows] } }.enterStage 4)

/-- Adds to a counter; it saturates (R447). -/
def State.bumpBy (s : State) (i n : Nat) : State :=
  if h : i < 64 then { s with dev := { s.dev with counters := s.dev.counters.set i (min (2 ^ 64 - 1) (s.dev.counters[i] + n)) } }
  else s

/-- `PARITY_VERIFICATION`: by stack, how many units failed twice; they are reconstructed and counted, more than 16 lose the
stack. -/
def execParityVerification (bad : List (Nat × Nat)) (s : State) : Out :=
  if !s.inStage 4 then .next s
  else
    let t := bad.foldl (fun (u : State) x =>
      let v := (u.bumpBy 9 x.2).bumpBy 7 x.2
      if 16 < x.2 then v.logStack x.1 else v) s
    .next (t.applyStacks.enterStage 5)

/-- `KEY_DERIVATION`: a fresh start salt, every world's keys, the identity key; `fail` is 1 for the entropy source, 2 for
the key store. -/
def execKeyDerivation (salt fail : Nat) (s : State) : Out :=
  if !s.inStage 5 then .next s
  else if fail = 1 then .next (s.failSafe 4)
  else if fail ≠ 0 then .next (s.failSafe 5)
  else .next ({ s with dev := { s.dev with salt := salt % 2 ^ 256, identity := true } }.enterStage 6)

/-- `FIRMWARE_MEASUREMENT`: the last stage; the module is ready. -/
def execFirmwareMeasurement (ok : Bool) (s : State) : Out :=
  if !s.inStage 6 then .next s
  else if !ok then .next (s.failSafe 6)
  else
    let w := s.dev.warming
    .next ({ s with
      qm := { s.qm with warm := w }
      dev := { s.dev with measured := true, block1 := sha Config.firmwarePayload, ready := true, absorbed := false, warm := w, warming := false, clock := 0 } }.enterStage 7)

/-! ### Warm start (R441, R442) -/

/-- `DSTART_WARM`: a write of 1 to the start register. Queues stop fetching, a load is abandoned, and every player is to be
pre-empted (R441 steps 1 and 2); a launch already being removed takes status 0x08 as well (step 4). -/
def execDstartWarm (v : Nat) (s : State) : Out :=
  if v % 2 = 0 ∨ !s.dev.linkUp then .next s
  else if s.dev.ready && !s.dev.failed then
    let loading := s.cp.modules.any (fun m => m.loading)
    let t := ({ s with
      dev := { s.dev with ready := false, warming := true, loadStatus := if loading then 5 else s.dev.loadStatus }
      cp := { s.cp with
        modules := s.cp.modules.filter (fun m => !m.loading)
        queues := s.cp.queues.map (fun (h : HostQueue) => { h with fetching := 0 }) } }).msi 65
    let u := t.mapPlayers (fun p => if p.live then { p with preempt := true } else p)
    .next { u with cp := { u.cp with launches := u.cp.launches.map (fun (l : Launch) =>
      { l with removing := l.removing.map (fun r => (r.1, 8, 0)) }) } }
  else .next { s with dev := { s.dev with absorbed := true } }

/-- The entries of launches that were pending: a LAUNCH paired with a MODE takes the entry. -/
def State.endPending (s : State) : State :=
  (List.range 64).foldl (fun (t : State) q =>
    let ps := ((t.queueAt q).pending.filter (fun p => p.kind == .launch))
    let u := t.updQueue q (fun h => { h with pending := h.pending.filter (fun p => p.kind != .launch), aged := 0 })
    (ps.filter (fun p => p.device.isNone)).foldl (fun v p => v.complete q p.tag 8 0) u) s

/-- The entries of the table store that a warm start keeps: QM and PEER leaves (R442). -/
def keptEntry (e : BitVec 64) : Bool :=
  !e.getLsbD 1 || (match Space.ofCode (getBits e.toNat 2 2) with
    | .spad => false
    | .host => false
    | _ => true)

/-- `WARM_START_QUIESCED`: no context is left and the mailbox command that was in progress has completed; entries are written, protected worlds, scratchpad and keys go. -/
def execWarmStartQuiesced (s : State) : Out :=
  if !s.dev.warming || decide (s.dev.stage ≠ 7) || !s.cp.launches.isEmpty || (s.dev.mbBell && s.dev.mbTaken) then .next s
  else
    let t := s.cp.images.foldl (fun (v : State) m => v.freeRegion m.region) s.endPending
    let u := (List.range 64).foldl (fun (v : State) k =>
      if (v.worldAt (k + 1)).st = .free then v else v.eraseWorld (k + 1)) t
    let v := { u with
      me := Player.vacant
      others := []
      mem := { u.mem with spad := [], spadBad := [], spadSoft := [], arrivals := [], tags := [] }
      qm := { u.qm with clean := [] }
      vm := { u.vm with
        tables := u.vm.tables.filter (fun e => keptEntry e.2)
        cache := []
        closed := []
        exporting := none }
      eng := { u.eng with xfers := [], queries := [], arrivals := [], resumed := [] }
      cp := { u.cp with
        modules := u.cp.modules.map (fun (m : Module) => { m with ready := false, pages := [] })
        parties := []
        images := []
        owners := []
        switching := []
        sessions := u.cp.sessions.filter (fun x => x.port.isNone)
        ports := u.cp.ports.map (fun (p : Port) => { p with keyed := false, frames := 0, rekey := false })
        used := [] }
      dev := { u.dev with warmStarts := u.dev.warmStarts + 1, identity := false, measured := false, block1 := [], salt := 0 } }
    .next (v.enterStage 2)

/-! ### Device-fatal errors and power (R443, R444, R459 to R461) -/

/-- A device-fatal record (R428). -/
def deviceRec : ErrRec := plainRec 0 5 2 0xFFFF

/-- `DEVICE_FATAL_ERROR`: 0x81 firmware, 0x82 floor die. -/
def execDeviceFatalError (code : Nat) (s : State) : Out :=
  if s.dev.failed || !(code == 0x81 || code == 0x82) then .next s
  else .next ((s.report deviceRec none).failSafe code)

/-- The power manager sets the duty, and `DPMEAS.DUTY` shows it (R438, R461). -/
def State.setDuty (s : State) (d : Nat) : State := { s with dev := { s.dev with duty := d, dutyReg := d - 1 } }

/-- The duty is lowered by a sixteenth, never below 2. -/
def State.lowerDuty (s : State) : State := if s.dev.duty ≤ 2 then s else (s.setDuty (s.dev.duty - 1)).bump 18

/-- `DPCAP_WRITE`: the cap, from 600 to 2600. R438 lists no field above `WATTS` [11:0] and marks no bit there reserved: the
model takes the whole value as `WATTS`, so that a bit above it leaves the cap (notes/assumptions/85.md). -/
def execDpcapWrite (v : Nat) (s : State) : Out :=
  if s.dev.linkUp ∧ 600 ≤ v ∧ v ≤ 2600 then .next { s with dev := { s.dev with cap := v } } else .next s

/-- `JUNCTION_TEMPERATURE`: 105 limits the duty to 8 until the junction falls below 100; 120 stops the module. -/
def execJunctionTemperature (t : Nat) (s : State) : Out :=
  let u := { s with dev := { s.dev with temp := t } }
  if s.dev.failed then .next u
  else if 120 ≤ t then .next ((u.report deviceRec none).failSafe 0x83)
  else if 105 ≤ t then
    let v := ({ u with dev := { u.dev with hot := true } }).setDuty (min 8 u.dev.duty)
    .next (if s.dev.hot then v else v.bump 19)
  else if t < 100 then .next { u with dev := { u.dev with hot := false } }
  else .next u

/-- The weights of R460 in units of 1/6400 pJ, by class of activity: 0 and 1 a bit of SEW of a selected element of an FP or
multiply operation and of any other, 2 an access of 8 bytes, 3 to 6 a matrix MAC of FP4, of FP8 or INT8, of BF16 or FP16, of
FP32 or FP64, 7 a QM byte, 8 a host link or Chawick byte. -/
def activityWeight (k : Nat) : Nat := [650, 100, 19200, 1216, 2176, 4352, 35200, 93440, 64000].getD k 0

/-- The static power of the module in watts. -/
def staticWatts : Nat := 260

/-- The weighted sum of the activity of a window, in units of 1/6400 pJ. -/
def activitySum (work : List (Nat × Nat)) : Nat := (work.map (fun w => activityWeight w.1 * w.2)).sum

/-- Is the estimate over a window of 10 µs above the cap? One watt is 10^7 pJ in a window. -/
def estimateAbove (cap : Nat) (work : List (Nat × Nat)) : Bool :=
  decide (cap * (6400 * 10 ^ 7) < staticWatts * (6400 * 10 ^ 7) + activitySum work)

/-- What a convoy member adds to the activity of a window: its elements that the mask selects, in bits of SEW (R140, R460). -/
def laneWork (fp : Bool) (sew : Nat) (mode : MaskMode) (t0 vl : Nat) : Nat × Nat :=
  (if fp then 0 else 1, sew * ((List.range vl).filter (selected mode t0)).length)

/-- `POWER_ESTIMATE_WINDOW`: the activity of a window of 10 µs, each entry a class and an amount (R459 to R461;
notes/assumptions/51.md). -/
def execPowerEstimateWindow (work : List (Nat × Nat)) (s : State) : Out :=
  .next (if estimateAbove s.dev.cap work then s.lowerDuty else s)

/-- `POWER_MEASURE_WINDOW`: the duty falls above the cap and rises below 95 % of it. -/
def execPowerMeasureWindow (watts : Nat) (s : State) : Out :=
  let t := { s with dev := { s.dev with meas := watts } }
  let top := if s.dev.hot then 8 else 16
  let u := if s.dev.cap < watts then t.lowerDuty
    else if watts * 100 < s.dev.cap * 95 ∧ s.dev.duty < top then t.setDuty (t.dev.duty + 1)
    else t
  .next (u.setDuty u.dev.duty)

/-! ### Host writes to the BAR (R389, R415, R437) -/

/-- A power of two from 16 to 65 536 (R389). -/
def ringSizeOk (v : Nat) : Bool := (List.range 13).any (fun k => decide (v = 2 ^ (k + 4)))

/-- The writable fields of a queue table entry that have no row of their own: offset, size, effect. -/
def queueFields : List (Nat × Nat × (Nat → HostQueue → HostQueue)) :=
  [(0x08, 4, fun v h => if ringSizeOk v then { h with ringEntries := v } else h),
   (0x0C, 1, fun v h => if v ≤ 7 then { h with level := v } else h),
   (0x0D, 1, fun v h => if v ≤ 20 then { h with ageShift := v } else h),
   (0x0F, 1, fun v h => if v ≤ 1 then { h with enable := v == 1 } else h),
   (0x18, 4, fun v h => if ringSizeOk v then { h with compEntries := v } else h)]

/-- A write of `size` bytes at `off` of a queue's entry sets every field it covers whole. -/
def HostQueue.barWrite (h : HostQueue) (off size v : Nat) : HostQueue :=
  queueFields.foldl (fun (x : HostQueue) f =>
    if off ≤ f.1 ∧ f.1 + f.2.1 ≤ off + size then f.2.2 (getBits v (8 * (f.1 - off)) (8 * f.2.1)) x else x) h

/-- `HOST_BAR_WRITE`: the queue table, the mailbox command and its doorbell; any other offset is ignored. While a command is
in progress the mailbox takes no write (notes/assumptions/47.md). -/
def execHostBarWrite (off size v : Nat) (s : State) : Out :=
  if !s.dev.linkUp then .next s
  else if 0x10000 ≤ off ∧ off < 0x11000 then
    .next (s.updQueue ((off - 0x10000) / 64) (fun h => h.barWrite (off % 64) size v))
  else if s.dev.mbBell then .next s
  else if 0x100 ≤ off ∧ off + size ≤ 0x140 then
    .next { s with dev := { s.dev with mbCmd := setBits s.dev.mbCmd (8 * (off - 0x100)) (8 * size) v } }
  else if off = 0x140 ∧ v % 2 = 1 then .next { s with dev := { s.dev with mbBell := true, mbTaken := s.serving } }
  else .next s

end Sys2Proof.Machine
end

