-- ==== Sys2Proof/Machine/Issue.lean ====
section
/-! DEFINITION. The steps of the issue queue, of the element engines and of acceptance (spec/01_engines_and_their_ties.md
R16 to R18, spec/10_tile_ordering_and_faults.md R247 to R249): any active element may perform whose earlier members have
gone far enough, and an instruction that waits for its engine may be accepted. -/

set_option Elab.async false

namespace Sys2Proof.Machine

/-- May a player's tile engines and waiting instructions go on: not stopped by a pre-emption request, not removed (R256,
R406, R426)? -/
def State.mayWork (s : State) (p : Player) : Bool := p.live && !p.frozen && !s.dev.failed && !s.isRemoving p.place.launch

/-! ### Issue (R17, R48) -/

/-- `ISSUE_CONVOY`: the player becomes the current one, and the words of its issue queue leave as one convoy after their
checks. -/
def execIssueConvoy (p : Nat) (s : State) : Out :=
  match s.player? p with
  | none => .next s
  | some q => if !s.runnable q || q.conv.isSome then .next s else issueWords tileDesc? q.queue (s.focus p)

/-! ### Elements (R18) -/

/-- A player whose instruction no longer waits stands in no engine's order of arrival. -/
def State.leaveAll (s : State) : State :=
  if s.me.waiting.isSome then s
  else { s with eng := { s.eng with arrivals := s.eng.arrivals.filter (fun a => a.1 ≠ s.me.id) } }

/-- Does the instruction a player waits in stop its convoy: is it no member of it, or the member asked for? A member that
waits for its engine holds back no other one (R16). -/
def Player.held (p : Player) (cv : Convoy) (m : Member) : Bool :=
  p.waiting.any (fun i => decide (m.instr = i) || !cv.members.any (fun o => !o.fin && decide (o.instr = i)))

/-- Member `k` performs its element `f`. A pending pre-emption request lets only groups already begun go on, and no further
ticket be drawn (R208, R256). -/
def performElem (pick : TileDesc → Instr → Bool) (p k f : Nat) (s : State) : Out :=
  onPlayer p (fun t =>
    if !t.mayWork t.me then .next t
    else
      match t.member? k with
      | none => .next t
      | some (cv, m) =>
       if t.me.held cv m then .next t
       else
        match tileDesc? m.instr with
        | none => .next t
        | some d =>
          let begun : Bool := !drawsTickets m.instr && decide (getBits m.done (f / 64 * 64) 64 ≠ 0)
          if !pick d m.instr || !t.elemReady cv k m d f || !t.mayMeet cv k m d f || (t.me.preempt && !t.me.hold && !begun) then
            .next t
          else
            match d.goOn k (d.runOne (t.groupReady cv k m.instr d) k f) t with
            | .next u => .next u.leaveAll
            | o => o) s

/-- `ELEMENT_PERFORM` -/
def execElementPerform (p m f : Nat) (s : State) : Out := performElem (fun _ i => !drawsTickets i) p m f s

/-- `TURN_TICKET`: an element of `tldsc` or `tstsc` draws its ticket and performs (R18, R208). -/
def execTurnTicket (p m f : Nat) (s : State) : Out := performElem (fun _ i => drawsTickets i) p m f s

/-! ### Acceptance (R266, R276, R288, R335) -/

/-- The position of the member that waits for its engine: the first one not complete that is the instruction. -/
def waitingAt (i : Instr) : List Member → Nat
  | [] => 0
  | m :: rest => if !m.fin && decide (m.instr = i) then 0 else waitingAt i rest + 1

/-- A player that waits in a tile instruction of the kind tries it again. -/
def retry (pick : Instr → TileDesc → Bool) (p : Nat) (s : State) : Out :=
  onPlayer p (fun t =>
    match t.me.waiting, t.me.conv with
    | some i, some cv =>
      match tileDesc? i with
      | none => .next t
      | some d =>
        if !t.mayWork t.me || (t.me.preempt && !t.me.hold) || !pick i d then .next t
        else
          let k := waitingAt i cv.members
          match d.goOn k (d.runWhole k) { t with me := { t.me with waiting := none } } with
          | .next u => .next u.leaveAll
          | o => o
    | _, _ => .next t) s

def isAttach (i : Instr) : Bool :=
  match i with
  | .mxattach _ _ _ _ => true
  | _ => false

/-- `MATRIX_ACCEPT` -/
def execMatrixAccept (p : Nat) (s : State) : Out := retry (fun i d => d.matrix && !isAttach i) p s

/-- `MXATTACH_SLOT_GRANT` -/
def execMxattachSlotGrant (p : Nat) (s : State) : Out := retry (fun i _ => isAttach i) p s

/-- `STREAM_ACCEPT` -/
def execStreamAccept (p : Nat) (s : State) : Out := retry (fun i _ => isStream i) p s

/-- `QUERY_ACCEPT` -/
def execQueryAccept (p : Nat) (s : State) : Out := retry (fun i d => !d.matrix && !isStream i) p s

end Sys2Proof.Machine
end

