-- ==== Sys2Proof/Machine/ScalarMem.lean ====
section
/-! DEFINITION. Scalar loads, stores and atomics (spec/08_scratchpad_access_and_sync.md R193 to R198). -/

set_option Elab.async false

namespace Sys2Proof.Machine

/-! ### Loads and stores (R195) -/

/-- The effective address (R195). -/
def State.ea (s : State) (a : SReg) (i : BitVec 15) : Word := s.rd a + imm15 i

/-- The low `n` bytes of a value as a register, sign- or zero-extended. -/
def extend (signed : Bool) (n v : Nat) : Word :=
  if signed then BitVec.ofInt 64 (toSigned (8 * n) v) else word v

/-- A scalar load of `n` bytes. It performs with sd = s0 too (R195). -/
def scalarLoad (n : Nat) (signed : Bool) (d a : SReg) (i : BitVec 15) (s : State) : Out :=
  match checkAccess s s.me (s.ea a i) n n .load with
  | .error c => trapAccess c (s.ea a i) s
  | .ok pa => (s.correctSpad pa n).finishWr d (extend signed n (s.spadRead s.me pa n))

/-- A scalar store of `n` bytes enters the write buffer (R19, R195). -/
def scalarStore (n : Nat) (v a : SReg) (i : BitVec 15) (s : State) : Out :=
  match checkAccess s s.me (s.ea a i) n n .store with
  | .error c => trapAccess c (s.ea a i) s
  | .ok pa => .next (s.pushStore (Store.plain pa n (s.rd v).toNat)).advance

def execSldD (d a : SReg) (i : BitVec 15) (s : State) : Out := scalarLoad 8 false d a i s
def execSldW (d a : SReg) (i : BitVec 15) (s : State) : Out := scalarLoad 4 true d a i s
def execSldnW (d a : SReg) (i : BitVec 15) (s : State) : Out := scalarLoad 4 false d a i s
def execSldH (d a : SReg) (i : BitVec 15) (s : State) : Out := scalarLoad 2 true d a i s
def execSldnH (d a : SReg) (i : BitVec 15) (s : State) : Out := scalarLoad 2 false d a i s
def execSldB (d a : SReg) (i : BitVec 15) (s : State) : Out := scalarLoad 1 true d a i s
def execSldnB (d a : SReg) (i : BitVec 15) (s : State) : Out := scalarLoad 1 false d a i s
def execSstD (v a : SReg) (i : BitVec 15) (s : State) : Out := scalarStore 8 v a i s
def execSstW (v a : SReg) (i : BitVec 15) (s : State) : Out := scalarStore 4 v a i s
def execSstH (v a : SReg) (i : BitVec 15) (s : State) : Out := scalarStore 2 v a i s
def execSstB (v a : SReg) (i : BitVec 15) (s : State) : Out := scalarStore 1 v a i s

/-! ### Atomics (R196 to R198) -/

/-- Does ORD make the atomic a release (R196, R198)? -/
def ordReleases (o : Fin 4) : Bool := decide (2 ≤ o.val)

/-- What must perform before the atomic: under a release every earlier scratchpad access, else the earlier stores to
the same bytes (R198, R248). -/
def State.beforeAtomic (s : State) (o : Fin 4) (pa n : Nat) : State :=
  if ordReleases o then s.drainOwn else s.drainBytes pa n

/-- One indivisible step at the home (R197). `f n old b e` is the new value from the old value, the operand and the
expected value, all of `n` bytes. -/
def scalarAtomic (f : Nat → Nat → Nat → Nat → Option Nat) (d a b : SReg) (o : Fin 4) (w : Bool) (s : State) : Out :=
  let n : Nat := if w then 4 else 8
  match checkAccess s s.me (s.rd a) n n .atomic with
  | .error c => trapAccess c (s.rd a) s
  | .ok pa =>
    let t := (s.beforeAtomic o pa n).correctSpad pa n
    let old := t.mem.spad.read pa n
    let cut := fun (x : Word) => x.toNat % 2 ^ (8 * n)
    let u := match f n old (cut (s.rd b)) (cut (s.rd d)) with
      | some v => t.applyStore t.me.id (Store.plain pa n v)
      | none => t
    u.finishWr d (extend w n old)

/-- The smaller or larger of two values by a key. -/
def pickBy (key : Nat → Int) (wantMax : Bool) (x y : Nat) : Nat :=
  if wantMax then (if key x < key y then y else x) else (if key y < key x then y else x)

def execSamoAdd (d a b : SReg) (_s o : Fin 4) (w : Bool) (s : State) : Out :=
  scalarAtomic (fun n x y _ => some ((x + y) % 2 ^ (8 * n))) d a b o w s
def execSamoAnd (d a b : SReg) (_s o : Fin 4) (w : Bool) (s : State) : Out :=
  scalarAtomic (fun _ x y _ => some (x &&& y)) d a b o w s
def execSamoOr (d a b : SReg) (_s o : Fin 4) (w : Bool) (s : State) : Out :=
  scalarAtomic (fun _ x y _ => some (x ||| y)) d a b o w s
def execSamoXor (d a b : SReg) (_s o : Fin 4) (w : Bool) (s : State) : Out :=
  scalarAtomic (fun _ x y _ => some (x ^^^ y)) d a b o w s
def execSamoSwap (d a b : SReg) (_s o : Fin 4) (w : Bool) (s : State) : Out :=
  scalarAtomic (fun _ _ y _ => some y) d a b o w s
def execSamoMin (d a b : SReg) (_s o : Fin 4) (w : Bool) (s : State) : Out :=
  scalarAtomic (fun n x y _ => some (pickBy (toSigned (8 * n)) false x y)) d a b o w s
def execSamoMax (d a b : SReg) (_s o : Fin 4) (w : Bool) (s : State) : Out :=
  scalarAtomic (fun n x y _ => some (pickBy (toSigned (8 * n)) true x y)) d a b o w s
def execSamoMinn (d a b : SReg) (_s o : Fin 4) (w : Bool) (s : State) : Out :=
  scalarAtomic (fun _ x y _ => some (pickBy (fun v => (v : Int)) false x y)) d a b o w s
def execSamoMaxn (d a b : SReg) (_s o : Fin 4) (w : Bool) (s : State) : Out :=
  scalarAtomic (fun _ x y _ => some (pickBy (fun v => (v : Int)) true x y)) d a b o w s
def execSamoCas (d a b : SReg) (_s o : Fin 4) (w : Bool) (s : State) : Out :=
  scalarAtomic (fun _ x y e => if x = e then some y else none) d a b o w s

end Sys2Proof.Machine
end

