-- ==== Sys2Proof/Machine/TileBranch.lean ====
section
/-! DEFINITION. The tile branches of major 0x34 (spec/09_control_scalar_system.md R229 to R233; spec/04_tile_programs.md
R103). -/

set_option Elab.async false

namespace Sys2Proof.Machine

/-- The mask tile of a tile branch, t0 to t7. -/
def maskTile (t : Fin 8) : TReg := ⟨t.val, by omega⟩

/-- Checks 5 to 7 of R47 of a tile branch, which is a tile instruction that stands alone (R82, R252): a retired seat that
awaits a configuration instruction, then a written register of the accumulator group of an attached grant (R268). -/
def branchChecked (outs : List TReg) (s : State) (run : Out) : Out :=
  if s.me.shape.await then trapHere .dataError 0 s.me.pc s
  else if outs.any (fun t => s.me.grant.meets (t.val, 1)) then trapHere .matrixGrant 0 s.me.pc s
  else run

/-- The bits below `FLIM` of a mask register. -/
def State.maskBits (s : State) (t : TReg) : Nat := (s.me.tregs[t]) % 2 ^ s.me.shape.flim

/-- What could be corrected of the bits below `FLIM` of a mask register, which the branch reads, is (R255). -/
def State.correctMask (s : State) (t : TReg) : State := s.correctBits t (fun b => decide (b < s.me.shape.flim))

/-- A tile branch on a mask register: taken to the address of the word plus off19 words. -/
def tileBranchIf (t : Fin 8) (c : Nat → Bool) (o : BitVec 19) (s : State) : Out :=
  let u := s.correctMask (maskTile t)
  branchChecked [] s (.next (if c (s.maskBits (maskTile t)) then u.setPc (u.target (o.signExtend 64)) else u.advance))

def execTbany (t : Fin 8) (o : BitVec 19) (s : State) : Out := tileBranchIf t (fun m => m != 0) o s
def execTball (t : Fin 8) (o : BitVec 19) (s : State) : Out := tileBranchIf t (fun m => m == ones s.me.shape.flim) o s
def execTbnone (t : Fin 8) (o : BitVec 19) (s : State) : Out := tileBranchIf t (fun m => m == 0) o s

/-- t0 with its bits below `FLIM` replaced. -/
def State.withMask (s : State) (m : Nat) : Nat := setBits s.me.tregs[0] 0 s.me.shape.flim m

/-- `tbdiv` (R231). -/
def execTbdiv (t : Fin 8) (o : BitVec 19) (s : State) : Out :=
  branchChecked [0] s <|
  let s := (s.correctMask 0).correctMask (maskTile t)
  let m := s.maskBits 0
  let c := s.maskBits (maskTile t)
  if m &&& c = 0 then .next s.advance
  else if m &&& c = m then .next (s.setPc (s.target (o.signExtend 64)))
  else if s.me.joins.length = 8 ∨ s.me.parked.length = 8 then trapHere .fragmentOverflow 0 s.me.pc s
  else
    let s := s.correctBits 0 (fun _ => true)
    let park : Fragment := ⟨s.withMask (m ^^^ (m &&& c)), s.me.pc + 4, s.me.joins.length + 1⟩
    let q := { s.me with
      joins := s.me.tregs[0] :: s.me.joins
      parked := park :: s.me.parked
      tregs := s.me.tregs.set 0 (s.withMask (m &&& c)) }
    .next ((s.withMe q).setPc (s.target (o.signExtend 64)))

/-- `tjoin` (R232). -/
def execTjoin (s : State) : Out :=
  branchChecked [0] s <|
  match s.me.joins with
  | [] => .next s.advance
  | top :: rest =>
    match s.me.parked.find? (fun f => f.level = s.me.joins.length) with
    | some f =>
      .next ((s.withMe { s.me with
        parked := s.me.parked.eraseP (fun g => g.level = s.me.joins.length)
        tregs := s.me.tregs.set 0 f.mask }).setPc f.pc)
    | none =>
      if s.me.trap.nspill ≠ 0 then trapHere .fragmentOverflow 0 s.me.pc s
      else .next (s.withMe { s.me with joins := rest, tregs := s.me.tregs.set 0 top }).advance

/-- `tfspill`: the oldest parked entry leaves the buffer (R233). -/
def execTfspill (t : Fin 8) (s : State) : Out :=
  if !s.super then trapHere .privileged 0 s.me.pc s
  else
    branchChecked [maskTile t] s <|
    match s.me.parked.getLast? with
    | none => .next s.advance
    | some f =>
      .next (s.withMe { s.me with
        parked := s.me.parked.dropLast
        tregs := s.me.tregs.set t.val f.mask
        trap := { s.me.trap with
          efspc := f.pc
          level := BitVec.ofNat 4 f.level
          nspill := s.me.trap.nspill + 1 } }).advance

/-- `tffill`: an entry becomes the oldest of the buffer (R233). -/
def execTffill (t : Fin 8) (s : State) : Out :=
  if !s.super then trapHere .privileged 0 s.me.pc s
  else
    branchChecked [] s <|
    if s.me.joins.length < s.me.trap.level.toNat then trapHere .illegalType 0 s.me.pc s
    else if 8 ≤ s.me.parked.length then trapHere .fragmentOverflow 0 s.me.pc s
    else
      let s := s.correctBits (maskTile t) (fun _ => true)
      let f : Fragment := ⟨s.me.tregs[maskTile t], s.me.trap.efspc, s.me.trap.level.toNat⟩
      .next (s.withMe { s.me with
      parked := s.me.parked ++ [f]
      trap := { s.me.trap with nspill := if s.me.trap.nspill = 0 then 0 else s.me.trap.nspill - 1 } }).advance

end Sys2Proof.Machine
end

