-- ==== Sys2Proof/Machine/Dispatch.lean ====
section
/-! DEFINITION. The dispatch of every instruction of the opcode table to its meaning. -/

namespace Sys2Proof.Machine

def exec (i : Instr) (s : State) : Host.Outcome State Fault Refusal :=
  match i with
  | .tadd c d a b m => Sys2Proof.Machine.execTadd c d a b m s
  | .tsub c d a b m => Sys2Proof.Machine.execTsub c d a b m s
  | .tand c d a b m => Sys2Proof.Machine.execTand c d a b m s
  | .tor c d a b m => Sys2Proof.Machine.execTor c d a b m s
  | .txor c d a b m => Sys2Proof.Machine.execTxor c d a b m s
  | .tandn c d a b m => Sys2Proof.Machine.execTandn c d a b m s
  | .tmin c d a b m => Sys2Proof.Machine.execTmin c d a b m s
  | .tmax c d a b m => Sys2Proof.Machine.execTmax c d a b m s
  | .tsll c d a b m => Sys2Proof.Machine.execTsll c d a b m s
  | .tsrl c d a b m => Sys2Proof.Machine.execTsrl c d a b m s
  | .tsra c d a b m => Sys2Proof.Machine.execTsra c d a b m s
  | .tmul c d a b m => Sys2Proof.Machine.execTmul c d a b m s
  | .tmulh c d a b m => Sys2Proof.Machine.execTmulh c d a b m s
  | .tmulhsu c d a b m => Sys2Proof.Machine.execTmulhsu c d a b m s
  | .tdiv c d a b m => Sys2Proof.Machine.execTdiv c d a b m s
  | .trem c d a b m => Sys2Proof.Machine.execTrem c d a b m s
  | .tsel c d a b => Sys2Proof.Machine.execTsel c d a b s
  | .tmov c d a m => Sys2Proof.Machine.execTmov c d a m s
  | .tiota c d m => Sys2Proof.Machine.execTiota c d m s
  | .taddS c d a b m => Sys2Proof.Machine.execTaddS c d a b m s
  | .tsubS c d a b m => Sys2Proof.Machine.execTsubS c d a b m s
  | .tandS c d a b m => Sys2Proof.Machine.execTandS c d a b m s
  | .torS c d a b m => Sys2Proof.Machine.execTorS c d a b m s
  | .txorS c d a b m => Sys2Proof.Machine.execTxorS c d a b m s
  | .tandnS c d a b m => Sys2Proof.Machine.execTandnS c d a b m s
  | .tminS c d a b m => Sys2Proof.Machine.execTminS c d a b m s
  | .tmaxS c d a b m => Sys2Proof.Machine.execTmaxS c d a b m s
  | .tsllS c d a b m => Sys2Proof.Machine.execTsllS c d a b m s
  | .tsrlS c d a b m => Sys2Proof.Machine.execTsrlS c d a b m s
  | .tsraS c d a b m => Sys2Proof.Machine.execTsraS c d a b m s
  | .tmulS c d a b m => Sys2Proof.Machine.execTmulS c d a b m s
  | .tmulhS c d a b m => Sys2Proof.Machine.execTmulhS c d a b m s
  | .tmulhsuS c d a b m => Sys2Proof.Machine.execTmulhsuS c d a b m s
  | .tdivS c d a b m => Sys2Proof.Machine.execTdivS c d a b m s
  | .tremS c d a b m => Sys2Proof.Machine.execTremS c d a b m s
  | .tsplat c d b m => Sys2Proof.Machine.execTsplat c d b m s
  | .trsubS c d a b m => Sys2Proof.Machine.execTrsubS c d a b m s
  | .tselS c d a b => Sys2Proof.Machine.execTselS c d a b s
  | .taddI c d a k m => Sys2Proof.Machine.execTaddI c d a k m s
  | .tandI c d a k m => Sys2Proof.Machine.execTandI c d a k m s
  | .torI c d a k m => Sys2Proof.Machine.execTorI c d a k m s
  | .txorI c d a k m => Sys2Proof.Machine.execTxorI c d a k m s
  | .tminI c d a k m => Sys2Proof.Machine.execTminI c d a k m s
  | .tmaxI c d a k m => Sys2Proof.Machine.execTmaxI c d a k m s
  | .tsllI c d a k m => Sys2Proof.Machine.execTsllI c d a k m s
  | .tsrlI c d a k m => Sys2Proof.Machine.execTsrlI c d a k m s
  | .tsraI c d a k m => Sys2Proof.Machine.execTsraI c d a k m s
  | .tsplatI c d k m => Sys2Proof.Machine.execTsplatI c d k m s
  | .trsubI c d a k m => Sys2Proof.Machine.execTrsubI c d a k m s
  | .tfadd c d a b m => Sys2Proof.Machine.execTfadd c d a b m s
  | .tfsub c d a b m => Sys2Proof.Machine.execTfsub c d a b m s
  | .tfmul c d a b m => Sys2Proof.Machine.execTfmul c d a b m s
  | .tfdiv c d a b m => Sys2Proof.Machine.execTfdiv c d a b m s
  | .tfmin c d a b m => Sys2Proof.Machine.execTfmin c d a b m s
  | .tfmax c d a b m => Sys2Proof.Machine.execTfmax c d a b m s
  | .tfsqrt c d a m => Sys2Proof.Machine.execTfsqrt c d a m s
  | .tfrsqe c d a m => Sys2Proof.Machine.execTfrsqe c d a m s
  | .tfrece c d a m => Sys2Proof.Machine.execTfrece c d a m s
  | .tfsignc c d a b m => Sys2Proof.Machine.execTfsignc c d a b m s
  | .tfsignn c d a b m => Sys2Proof.Machine.execTfsignn c d a b m s
  | .tfsignx c d a b m => Sys2Proof.Machine.execTfsignx c d a b m s
  | .tfma c d a b m => Sys2Proof.Machine.execTfma c d a b m s
  | .tfms c d a b m => Sys2Proof.Machine.execTfms c d a b m s
  | .tfnma c d a b m => Sys2Proof.Machine.execTfnma c d a b m s
  | .tfnms c d a b m => Sys2Proof.Machine.execTfnms c d a b m s
  | .tfaddS c d a b m => Sys2Proof.Machine.execTfaddS c d a b m s
  | .tfsubS c d a b m => Sys2Proof.Machine.execTfsubS c d a b m s
  | .tfmulS c d a b m => Sys2Proof.Machine.execTfmulS c d a b m s
  | .tfdivS c d a b m => Sys2Proof.Machine.execTfdivS c d a b m s
  | .tfminS c d a b m => Sys2Proof.Machine.execTfminS c d a b m s
  | .tfmaxS c d a b m => Sys2Proof.Machine.execTfmaxS c d a b m s
  | .tfsigncS c d a b m => Sys2Proof.Machine.execTfsigncS c d a b m s
  | .tfsignnS c d a b m => Sys2Proof.Machine.execTfsignnS c d a b m s
  | .tfsignxS c d a b m => Sys2Proof.Machine.execTfsignxS c d a b m s
  | .tfmaS c d a b m => Sys2Proof.Machine.execTfmaS c d a b m s
  | .tfmsS c d a b m => Sys2Proof.Machine.execTfmsS c d a b m s
  | .tfnmaS c d a b m => Sys2Proof.Machine.execTfnmaS c d a b m s
  | .tfnmsS c d a b m => Sys2Proof.Machine.execTfnmsS c d a b m s
  | .tfrsubS c d a b m => Sys2Proof.Machine.execTfrsubS c d a b m s
  | .tfrdivS c d a b m => Sys2Proof.Machine.execTfrdivS c d a b m s
  | .tceq c d a b m => Sys2Proof.Machine.execTceq c d a b m s
  | .tcne c d a b m => Sys2Proof.Machine.execTcne c d a b m s
  | .tclt c d a b m => Sys2Proof.Machine.execTclt c d a b m s
  | .tcle c d a b m => Sys2Proof.Machine.execTcle c d a b m s
  | .tcgt c d a b m => Sys2Proof.Machine.execTcgt c d a b m s
  | .tcge c d a b m => Sys2Proof.Machine.execTcge c d a b m s
  | .tcun c d a b m => Sys2Proof.Machine.execTcun c d a b m s
  | .tceqS c d a b m => Sys2Proof.Machine.execTceqS c d a b m s
  | .tcneS c d a b m => Sys2Proof.Machine.execTcneS c d a b m s
  | .tcltS c d a b m => Sys2Proof.Machine.execTcltS c d a b m s
  | .tcleS c d a b m => Sys2Proof.Machine.execTcleS c d a b m s
  | .tcgtS c d a b m => Sys2Proof.Machine.execTcgtS c d a b m s
  | .tcgeS c d a b m => Sys2Proof.Machine.execTcgeS c d a b m s
  | .tcunS c d a b m => Sys2Proof.Machine.execTcunS c d a b m s
  | .tsadd c d a b m => Sys2Proof.Machine.execTsadd c d a b m s
  | .tssub c d a b m => Sys2Proof.Machine.execTssub c d a b m s
  | .tavg c d a b m => Sys2Proof.Machine.execTavg c d a b m s
  | .tavgsub c d a b m => Sys2Proof.Machine.execTavgsub c d a b m s
  | .tsmul c d a b m => Sys2Proof.Machine.execTsmul c d a b m s
  | .twadd c d a b m => Sys2Proof.Machine.execTwadd c d a b m s
  | .twsub c d a b m => Sys2Proof.Machine.execTwsub c d a b m s
  | .twmul c d a b m => Sys2Proof.Machine.execTwmul c d a b m s
  | .twmacc c d a b m => Sys2Proof.Machine.execTwmacc c d a b m s
  | .tnshr c d a b m => Sys2Proof.Machine.execTnshr c d a b m s
  | .tcvt c d a t m => Sys2Proof.Machine.execTcvt c d a t m s
  | .tcvtn c d a t m => Sys2Proof.Machine.execTcvtn c d a t m s
  | .tcvtw c d a t m => Sys2Proof.Machine.execTcvtw c d a t m s
  | .tcvte c d a m => Sys2Proof.Machine.execTcvte c d a m s
  | .tscale c d a m => Sys2Proof.Machine.execTscale c d a m s
  | .tcvtns c d a t m => Sys2Proof.Machine.execTcvtns c d a t m s
  | .tcvtes c d a m => Sys2Proof.Machine.execTcvtes c d a m s
  | .tmxscale c d a t m => Sys2Proof.Machine.execTmxscale c d a t m s
  | .tmxscaleB c d a t m => Sys2Proof.Machine.execTmxscaleB c d a t m s
  | .tredsum c d a b m => Sys2Proof.Machine.execTredsum c d a b m s
  | .tredosum c d a b m => Sys2Proof.Machine.execTredosum c d a b m s
  | .tredgsum c d a m => Sys2Proof.Machine.execTredgsum c d a m s
  | .tscan c d a b m => Sys2Proof.Machine.execTscan c d a b m s
  | .tredmax c d a b m => Sys2Proof.Machine.execTredmax c d a b m s
  | .tredmin c d a b m => Sys2Proof.Machine.execTredmin c d a b m s
  | .tredmaxi c d a b m => Sys2Proof.Machine.execTredmaxi c d a b m s
  | .tredmini c d a b m => Sys2Proof.Machine.execTredmini c d a b m s
  | .tredand c d a b m => Sys2Proof.Machine.execTredand c d a b m s
  | .tredor c d a b m => Sys2Proof.Machine.execTredor c d a b m s
  | .tredxor c d a b m => Sys2Proof.Machine.execTredxor c d a b m s
  | .tcompress c d a m => Sys2Proof.Machine.execTcompress c d a m s
  | .texpand c d a m => Sys2Proof.Machine.execTexpand c d a m s
  | .tslideup c d a k m => Sys2Proof.Machine.execTslideup c d a k m s
  | .tslidedn c d a k m => Sys2Proof.Machine.execTslidedn c d a k m s
  | .tslideupS c d a sf m => Sys2Proof.Machine.execTslideupS c d a sf m s
  | .tslidednS c d a sf m => Sys2Proof.Machine.execTslidednS c d a sf m s
  | .trgather c d a b m => Sys2Proof.Machine.execTrgather c d a b m s
  | .ttrans c d a m => Sys2Proof.Machine.execTtrans c d a m s
  | .trowbc c d a m => Sys2Proof.Machine.execTrowbc c d a m s
  | .tcolbc c d a m => Sys2Proof.Machine.execTcolbc c d a m s
  | .textr c sf a => Sys2Proof.Machine.execTextr c sf a s
  | .tmand c d a b m => Sys2Proof.Machine.execTmand c d a b m s
  | .tmor c d a b m => Sys2Proof.Machine.execTmor c d a b m s
  | .tmxor c d a b m => Sys2Proof.Machine.execTmxor c d a b m s
  | .tmandn c d a b m => Sys2Proof.Machine.execTmandn c d a b m s
  | .tmnot c d a m => Sys2Proof.Machine.execTmnot c d a m s
  | .tmbefore c d a m => Sys2Proof.Machine.execTmbefore c d a m s
  | .tmthrough c d a m => Sys2Proof.Machine.execTmthrough c d a m s
  | .tmonly c d a m => Sys2Proof.Machine.execTmonly c d a m s
  | .tmpop c sf a m => Sys2Proof.Machine.execTmpop c sf a m s
  | .tmfirst c sf a m => Sys2Proof.Machine.execTmfirst c sf a m s
  | .txnorpop c d a b m => Sys2Proof.Machine.execTxnorpop c d a b m s
  | .tpext c d a b m => Sys2Proof.Machine.execTpext c d a b m s
  | .tpins c d a b m => Sys2Proof.Machine.execTpins c d a b m s
  | .tld c v a m => Sys2Proof.Machine.execTld c v a m s
  | .tlds c v a sf m => Sys2Proof.Machine.execTlds c v a sf m s
  | .tldx c v a x m => Sys2Proof.Machine.execTldx c v a x m s
  | .tldxo c v a x m => Sys2Proof.Machine.execTldxo c v a x m s
  | .tldff c v a m => Sys2Proof.Machine.execTldff c v a m s
  | .tldseg c v a t m n => Sys2Proof.Machine.execTldseg c v a t m n s
  | .tst c v a m => Sys2Proof.Machine.execTst c v a m s
  | .tsts c v a sf m => Sys2Proof.Machine.execTsts c v a sf m s
  | .tstx c v a x m => Sys2Proof.Machine.execTstx c v a x m s
  | .tstxo c v a x m => Sys2Proof.Machine.execTstxo c v a x m s
  | .tstseg c v a t m n => Sys2Proof.Machine.execTstseg c v a t m n s
  | .tldsc c v a x m => Sys2Proof.Machine.execTldsc c v a x m s
  | .tstsc c v a x m => Sys2Proof.Machine.execTstsc c v a x m s
  | .tgll c v a x m => Sys2Proof.Machine.execTgll c v a x m s
  | .tscc c v a x m => Sys2Proof.Machine.execTscc c v a x m s
  | .mxattach c d a b => Sys2Proof.Machine.execMxattach c d a b s
  | .mxdetach c d p => Sys2Proof.Machine.execMxdetach c d p s
  | .mxzero c d => Sys2Proof.Machine.execMxzero c d s
  | .mxsync c d p => Sys2Proof.Machine.execMxsync c d p s
  | .mxop c d a b m e => Sys2Proof.Machine.execMxop c d a b m e s
  | .mxopn c d a b m e => Sys2Proof.Machine.execMxopn c d a b m e s
  | .xcopy c d a b p => Sys2Proof.Machine.execXcopy c d a b p s
  | .xcopy2 c d a b p => Sys2Proof.Machine.execXcopy2 c d a b p s
  | .xcopy3 c d a b p => Sys2Proof.Machine.execXcopy3 c d a b p s
  | .xgath c d a b p => Sys2Proof.Machine.execXgath c d a b p s
  | .xput c d a b p => Sys2Proof.Machine.execXput c d a b p s
  | .xseal c d a p => Sys2Proof.Machine.execXseal c d a p s
  | .xunseal c d a p => Sys2Proof.Machine.execXunseal c d a p s
  | .xbar c p => Sys2Proof.Machine.execXbar c p s
  | .xcancel c p => Sys2Proof.Machine.execXcancel c p s
  | .qdot c v q p a => Sys2Proof.Machine.execQdot c v q p a s
  | .qdotm c v q p a => Sys2Proof.Machine.execQdotm c v q p a s
  | .qdotx c v q p a => Sys2Proof.Machine.execQdotx c v q p a s
  | .qsum c v q p a => Sys2Proof.Machine.execQsum c v q p a s
  | .qcount c v q p a => Sys2Proof.Machine.execQcount c v q p a s
  | .qmax c v q p a => Sys2Proof.Machine.execQmax c v q p a s
  | .qmin c v q p a => Sys2Proof.Machine.execQmin c v q p a s
  | .qbest c v p a => Sys2Proof.Machine.execQbest c v p a s
  | .qhamm c v q p a => Sys2Proof.Machine.execQhamm c v q p a s
  | .qcode c v q p a => Sys2Proof.Machine.execQcode c v q p a s
  | .qnarrow c v t p a => Sys2Proof.Machine.execQnarrow c v t p a s
  | .qgsum c v q p a => Sys2Proof.Machine.execQgsum c v q p a s
  | .qst c v a => Sys2Proof.Machine.execQst c v a s
  | .qstx c v q a => Sys2Proof.Machine.execQstx c v q a s
  | .qraddAdd c v q a => Sys2Proof.Machine.execQraddAdd c v q a s
  | .qraddMax c v q a => Sys2Proof.Machine.execQraddMax c v q a s
  | .qraddMin c v q a => Sys2Proof.Machine.execQraddMin c v q a s
  | .qraddOr c v q a => Sys2Proof.Machine.execQraddOr c v q a s
  | .qraddAnd c v q a => Sys2Proof.Machine.execQraddAnd c v q a s
  | .qappend c v q p a => Sys2Proof.Machine.execQappend c v q p a s
  | .qcas c v q p a => Sys2Proof.Machine.execQcas c v q p a s
  | .qeval c sf a => Sys2Proof.Machine.execQeval c sf a s
  | .qcopy c d p a => Sys2Proof.Machine.execQcopy c d p a s
  | .qmerge c d q p a => Sys2Proof.Machine.execQmerge c d q p a s
  | .getsr d n => Sys2Proof.Machine.execGetsr d n s
  | .putsr a n => Sys2Proof.Machine.execPutsr a n s
  | .putsrFlags a => Sys2Proof.Machine.execPutsrFlags a s
  | .putsrEafq a => Sys2Proof.Machine.execPutsrEafq a s
  | .putsrEafqrResume a => Sys2Proof.Machine.execPutsrEafqrResume a s
  | .putsrEafqrDiscard a => Sys2Proof.Machine.execPutsrEafqrDiscard a s
  | .putsrQrmv a => Sys2Proof.Machine.execPutsrQrmv a s
  | .putsrQewin a => Sys2Proof.Machine.execPutsrQewin a s
  | .fence sf k => Sys2Proof.Machine.execFence sf k s
  | .bar => Sys2Proof.Machine.execBar s
  | .waitEq d a b => Sys2Proof.Machine.execWaitEq d a b s
  | .waitNe d a b => Sys2Proof.Machine.execWaitNe d a b s
  | .waitGeu d a b => Sys2Proof.Machine.execWaitGeu d a b s
  | .waitAny d a b => Sys2Proof.Machine.execWaitAny d a b s
  | .pwait a b p => Sys2Proof.Machine.execPwait a b p s
  | .wmpub d a => Sys2Proof.Machine.execWmpub d a s
  | .trap n => Sys2Proof.Machine.execTrap n s
  | .halt => Sys2Proof.Machine.execHalt s
  | .eret => Sys2Proof.Machine.execEret s
  | .yield => Sys2Proof.Machine.execYield s
  | .launch d a b => Sys2Proof.Machine.execLaunch d a b s
  | .setvl d a b => Sys2Proof.Machine.execSetvl d a b s
  | .setvlG d a => Sys2Proof.Machine.execSetvlG d a s
  | .setvlw d a b => Sys2Proof.Machine.execSetvlw d a b s
  | .settype d a => Sys2Proof.Machine.execSettype d a s
  | .reseat d a => Sys2Proof.Machine.execReseat d a s
  | .allot d a => Sys2Proof.Machine.execAllot d a s
  | .tbany t o => Sys2Proof.Machine.execTbany t o s
  | .tball t o => Sys2Proof.Machine.execTball t o s
  | .tbnone t o => Sys2Proof.Machine.execTbnone t o s
  | .tbdiv t o => Sys2Proof.Machine.execTbdiv t o s
  | .tjoin => Sys2Proof.Machine.execTjoin s
  | .tfspill t => Sys2Proof.Machine.execTfspill t s
  | .tffill t => Sys2Proof.Machine.execTffill t s
  | .slui d k => Sys2Proof.Machine.execSlui d k s
  | .spcrel d k => Sys2Proof.Machine.execSpcrel d k s
  | .sjal d o => Sys2Proof.Machine.execSjal d o s
  | .sjalr d a k => Sys2Proof.Machine.execSjalr d a k s
  | .sbeq a b o => Sys2Proof.Machine.execSbeq a b o s
  | .sbne a b o => Sys2Proof.Machine.execSbne a b o s
  | .sblt a b o => Sys2Proof.Machine.execSblt a b o s
  | .sbge a b o => Sys2Proof.Machine.execSbge a b o s
  | .sbltn a b o => Sys2Proof.Machine.execSbltn a b o s
  | .sbgen a b o => Sys2Proof.Machine.execSbgen a b o s
  | .saddi d a k => Sys2Proof.Machine.execSaddi d a k s
  | .sandi d a k => Sys2Proof.Machine.execSandi d a k s
  | .sori d a k => Sys2Proof.Machine.execSori d a k s
  | .sxori d a k => Sys2Proof.Machine.execSxori d a k s
  | .slti d a k => Sys2Proof.Machine.execSlti d a k s
  | .sltin d a k => Sys2Proof.Machine.execSltin d a k s
  | .sslli d a n => Sys2Proof.Machine.execSslli d a n s
  | .ssrli d a n => Sys2Proof.Machine.execSsrli d a n s
  | .ssrai d a n => Sys2Proof.Machine.execSsrai d a n s
  | .sadd d a b => Sys2Proof.Machine.execSadd d a b s
  | .ssub d a b => Sys2Proof.Machine.execSsub d a b s
  | .sand d a b => Sys2Proof.Machine.execSand d a b s
  | .sor d a b => Sys2Proof.Machine.execSor d a b s
  | .sxor d a b => Sys2Proof.Machine.execSxor d a b s
  | .sandn d a b => Sys2Proof.Machine.execSandn d a b s
  | .ssll d a b => Sys2Proof.Machine.execSsll d a b s
  | .ssrl d a b => Sys2Proof.Machine.execSsrl d a b s
  | .ssra d a b => Sys2Proof.Machine.execSsra d a b s
  | .sslt d a b => Sys2Proof.Machine.execSslt d a b s
  | .ssltn d a b => Sys2Proof.Machine.execSsltn d a b s
  | .smin d a b => Sys2Proof.Machine.execSmin d a b s
  | .smax d a b => Sys2Proof.Machine.execSmax d a b s
  | .sminn d a b => Sys2Proof.Machine.execSminn d a b s
  | .smaxn d a b => Sys2Proof.Machine.execSmaxn d a b s
  | .smul d a b => Sys2Proof.Machine.execSmul d a b s
  | .smulh d a b => Sys2Proof.Machine.execSmulh d a b s
  | .smulhn d a b => Sys2Proof.Machine.execSmulhn d a b s
  | .smulhsu d a b => Sys2Proof.Machine.execSmulhsu d a b s
  | .sdiv d a b => Sys2Proof.Machine.execSdiv d a b s
  | .sdivn d a b => Sys2Proof.Machine.execSdivn d a b s
  | .srem d a b => Sys2Proof.Machine.execSrem d a b s
  | .sremn d a b => Sys2Proof.Machine.execSremn d a b s
  | .spopc d a => Sys2Proof.Machine.execSpopc d a s
  | .sclz d a => Sys2Proof.Machine.execSclz d a s
  | .sctz d a => Sys2Proof.Machine.execSctz d a s
  | .sldD d a k => Sys2Proof.Machine.execSldD d a k s
  | .sldW d a k => Sys2Proof.Machine.execSldW d a k s
  | .sldnW d a k => Sys2Proof.Machine.execSldnW d a k s
  | .sldH d a k => Sys2Proof.Machine.execSldH d a k s
  | .sldnH d a k => Sys2Proof.Machine.execSldnH d a k s
  | .sldB d a k => Sys2Proof.Machine.execSldB d a k s
  | .sldnB d a k => Sys2Proof.Machine.execSldnB d a k s
  | .sstD v a k => Sys2Proof.Machine.execSstD v a k s
  | .sstW v a k => Sys2Proof.Machine.execSstW v a k s
  | .sstH v a k => Sys2Proof.Machine.execSstH v a k s
  | .sstB v a k => Sys2Proof.Machine.execSstB v a k s
  | .sfadd d a b r f => Sys2Proof.Machine.execSfadd d a b r f s
  | .sfsub d a b r f => Sys2Proof.Machine.execSfsub d a b r f s
  | .sfmul d a b r f => Sys2Proof.Machine.execSfmul d a b r f s
  | .sfdiv d a b r f => Sys2Proof.Machine.execSfdiv d a b r f s
  | .sfsqrt d a r f => Sys2Proof.Machine.execSfsqrt d a r f s
  | .sfmin d a b f => Sys2Proof.Machine.execSfmin d a b f s
  | .sfmax d a b f => Sys2Proof.Machine.execSfmax d a b f s
  | .sfma d a b r f => Sys2Proof.Machine.execSfma d a b r f s
  | .sfsignc d a b f => Sys2Proof.Machine.execSfsignc d a b f s
  | .sfsignn d a b f => Sys2Proof.Machine.execSfsignn d a b f s
  | .sfsignx d a b f => Sys2Proof.Machine.execSfsignx d a b f s
  | .sfeq d a b f => Sys2Proof.Machine.execSfeq d a b f s
  | .sflt d a b f => Sys2Proof.Machine.execSflt d a b f s
  | .sfle d a b f => Sys2Proof.Machine.execSfle d a b f s
  | .sfcvti d a r f => Sys2Proof.Machine.execSfcvti d a r f s
  | .sfcvtn d a r f => Sys2Proof.Machine.execSfcvtn d a r f s
  | .sicvtf d a r f => Sys2Proof.Machine.execSicvtf d a r f s
  | .sncvtf d a r f => Sys2Proof.Machine.execSncvtf d a r f s
  | .sfcvtx d a r f => Sys2Proof.Machine.execSfcvtx d a r f s
  | .samoAdd d a b sf o w => Sys2Proof.Machine.execSamoAdd d a b sf o w s
  | .samoAnd d a b sf o w => Sys2Proof.Machine.execSamoAnd d a b sf o w s
  | .samoOr d a b sf o w => Sys2Proof.Machine.execSamoOr d a b sf o w s
  | .samoXor d a b sf o w => Sys2Proof.Machine.execSamoXor d a b sf o w s
  | .samoSwap d a b sf o w => Sys2Proof.Machine.execSamoSwap d a b sf o w s
  | .samoMin d a b sf o w => Sys2Proof.Machine.execSamoMin d a b sf o w s
  | .samoMax d a b sf o w => Sys2Proof.Machine.execSamoMax d a b sf o w s
  | .samoMinn d a b sf o w => Sys2Proof.Machine.execSamoMinn d a b sf o w s
  | .samoMaxn d a b sf o w => Sys2Proof.Machine.execSamoMaxn d a b sf o w s
  | .samoCas d a b sf o w => Sys2Proof.Machine.execSamoCas d a b sf o w s
  | .issueConvoy p => Sys2Proof.Machine.execIssueConvoy p s
  | .elementPerform p m f => Sys2Proof.Machine.execElementPerform p m f s
  | .turnTicket p m f => Sys2Proof.Machine.execTurnTicket p m f s
  | .writeBufferDrain p k => Sys2Proof.Machine.execWriteBufferDrain p k s
  | .spadHomeApply k => Sys2Proof.Machine.execSpadHomeApply k s
  | .monitorWake p => Sys2Proof.Machine.execMonitorWake p s
  | .fenceComplete p => Sys2Proof.Machine.execFenceComplete p s
  | .pwaitComplete p => Sys2Proof.Machine.execPwaitComplete p s
  | .haltComplete p => Sys2Proof.Machine.execHaltComplete p s
  | .allotComplete p => Sys2Proof.Machine.execAllotComplete p s
  | .reseatApply p => Sys2Proof.Machine.execReseatApply p s
  | .launchHandoff p => Sys2Proof.Machine.execLaunchHandoff p s
  | .wmpubApply p => Sys2Proof.Machine.execWmpubApply p s
  | .streamAccept p => Sys2Proof.Machine.execStreamAccept p s
  | .streamChunkPerform x k => Sys2Proof.Machine.execStreamChunkPerform x k s
  | .landingFlagStore x => Sys2Proof.Machine.execLandingFlagStore x s
  | .hostFlushReadReturn x k => Sys2Proof.Machine.execHostFlushReadReturn x k s
  | .peerAcknowledgement x k => Sys2Proof.Machine.execPeerAcknowledgement x k s
  | .chawickFrameReceive port qm region off data tagOk => Sys2Proof.Machine.execChawickFrameReceive port qm region off data tagOk s
  | .queryAccept p => Sys2Proof.Machine.execQueryAccept p s
  | .queryQueueSend q => Sys2Proof.Machine.execQueryQueueSend q s
  | .stackUnitTouch q u => Sys2Proof.Machine.execStackUnitTouch q u s
  | .stackUnitWriteApply q f => Sys2Proof.Machine.execStackUnitWriteApply q f s
  | .parityDeltaAccept st => Sys2Proof.Machine.execParityDeltaAccept st s
  | .parityDeltaApply st k => Sys2Proof.Machine.execParityDeltaApply st k s
  | .fullStripeWrite q f => Sys2Proof.Machine.execFullStripeWrite q f s
  | .reconstructingRead q u => Sys2Proof.Machine.execReconstructingRead q u s
  | .queryReplyChunk q c => Sys2Proof.Machine.execQueryReplyChunk q c s
  | .qcopyChunkPerform q c => Sys2Proof.Machine.execQcopyChunkPerform q c s
  | .collectionItemStep q => Sys2Proof.Machine.execCollectionItemStep q s
  | .sideCountRaise q => Sys2Proof.Machine.execSideCountRaise q s
  | .qmergeCopy q => Sys2Proof.Machine.execQmergeCopy q s
  | .qmergeSwitch q => Sys2Proof.Machine.execQmergeSwitch q s
  | .qevalElement q f => Sys2Proof.Machine.execQevalElement q f s
  | .baseTableLoad p => Sys2Proof.Machine.execBaseTableLoad p s
  | .matrixAccept p => Sys2Proof.Machine.execMatrixAccept p s
  | .mxattachSlotGrant p => Sys2Proof.Machine.execMxattachSlotGrant p s
  | .mxattachLoadDone p => Sys2Proof.Machine.execMxattachLoadDone p s
  | .matrixArbiterCycle cl => Sys2Proof.Machine.execMatrixArbiterCycle cl s
  | .matrixChunkLand p c => Sys2Proof.Machine.execMatrixChunkLand p c s
  | .heldInstructionReaccept p => Sys2Proof.Machine.execHeldInstructionReaccept p s
  | .remapSwitch p => Sys2Proof.Machine.execRemapSwitch p s
  | .exportMarkSet => Sys2Proof.Machine.execExportMarkSet s
  | .translationWalk asid va => Sys2Proof.Machine.execTranslationWalk asid va s
  | .scrubRowVisit st pc row => Sys2Proof.Machine.execScrubRowVisit st pc row s
  | .cleanRowExpiry st pc row => Sys2Proof.Machine.execCleanRowExpiry st pc row s
  | .stackFatalError st => Sys2Proof.Machine.execStackFatalError st s
  | .degradedSwitch st => Sys2Proof.Machine.execDegradedSwitch st s
  | .preemptionRequest l party => Sys2Proof.Machine.execPreemptionRequest l party s
  | .preemptionTaken p => Sys2Proof.Machine.execPreemptionTaken p s
  | .contextSave p => Sys2Proof.Machine.execContextSave p s
  | .contextRestore c damage => Sys2Proof.Machine.execContextRestore c damage s
  | .worldSwitch cl w => Sys2Proof.Machine.execWorldSwitch cl w s
  | .worldSwitchClear cl => Sys2Proof.Machine.execWorldSwitchClear cl s
  | .contextRemoval l => Sys2Proof.Machine.execContextRemoval l s
  | .removalStepDrained l => Sys2Proof.Machine.execRemovalStepDrained l s
  | .removalStall l => Sys2Proof.Machine.execRemovalStall l s
  | .agingInterval q l party => Sys2Proof.Machine.execAgingInterval q l party s
  | .launchPlacement => Sys2Proof.Machine.execLaunchPlacement s
  | .packetHead q => Sys2Proof.Machine.execPacketHead q s
  | .packetFetchStart q => Sys2Proof.Machine.execPacketFetchStart q s
  | .launchPacket q => Sys2Proof.Machine.execLaunchPacket q s
  | .mode q => Sys2Proof.Machine.execMode q s
  | .cancel q => Sys2Proof.Machine.execCancel q s
  | .summaryPacket q => Sys2Proof.Machine.execSummaryPacket q s
  | .packetReservedOpcode q => Sys2Proof.Machine.execPacketReservedOpcode q s
  | .queueTailDoorbell q v => Sys2Proof.Machine.execQueueTailDoorbell q v s
  | .completionHeadWrite q v => Sys2Proof.Machine.execCompletionHeadWrite q v s
  | .ringBaseWrite q v => Sys2Proof.Machine.execRingBaseWrite q v s
  | .completionBaseWrite q v => Sys2Proof.Machine.execCompletionBaseWrite q v s
  | .hostBarWrite off size v => Sys2Proof.Machine.execHostBarWrite off size v s
  | .dstartWarm v => Sys2Proof.Machine.execDstartWarm v s
  | .warmStartQuiesced => Sys2Proof.Machine.execWarmStartQuiesced s
  | .dpcapWrite v => Sys2Proof.Machine.execDpcapWrite v s
  | .worldCreate w => Sys2Proof.Machine.execWorldCreate w s
  | .worldDestroy w => Sys2Proof.Machine.execWorldDestroy w s
  | .asidCreate w asid => Sys2Proof.Machine.execAsidCreate w asid s
  | .asidDestroy asid => Sys2Proof.Machine.execAsidDestroy asid s
  | .map asid va lvl leaf => Sys2Proof.Machine.execMap asid va lvl leaf s
  | .unmap asid va => Sys2Proof.Machine.execUnmap asid va s
  | .queueBind q w asid => Sys2Proof.Machine.execQueueBind q w asid s
  | .handlerSet w module vec => Sys2Proof.Machine.execHandlerSet w module vec s
  | .portBind port w => Sys2Proof.Machine.execPortBind port w s
  | .regionAlloc w cls slab home size ety width body side => Sys2Proof.Machine.execRegionAlloc w cls slab home size ety width body side s
  | .regionFree id => Sys2Proof.Machine.execRegionFree id s
  | .summary addr len => Sys2Proof.Machine.execSummary addr len s
  | .dumpErrors addr first count => Sys2Proof.Machine.execDumpErrors addr first count s
  | .mailboxReservedCode code => Sys2Proof.Machine.execMailboxReservedCode code s
  | .moduleLoad asid file clusters => Sys2Proof.Machine.execModuleLoad asid file clusters s
  | .moduleReady h => Sys2Proof.Machine.execModuleReady h s
  | .getVersion sess req => Sys2Proof.Machine.execGetVersion sess req s
  | .getCapabilities sess req => Sys2Proof.Machine.execGetCapabilities sess req s
  | .negotiateAlgorithms sess req => Sys2Proof.Machine.execNegotiateAlgorithms sess req s
  | .getDigests sess req => Sys2Proof.Machine.execGetDigests sess req s
  | .getCertificate sess req => Sys2Proof.Machine.execGetCertificate sess req s
  | .challenge sess req => Sys2Proof.Machine.execChallenge sess req s
  | .getMeasurements sess req => Sys2Proof.Machine.execGetMeasurements sess req s
  | .keyExchange sess port peerTag req => Sys2Proof.Machine.execKeyExchange sess port peerTag req s
  | .finish sess req => Sys2Proof.Machine.execFinish sess req s
  | .heartbeat sess req => Sys2Proof.Machine.execHeartbeat sess req s
  | .keyUpdate sess req => Sys2Proof.Machine.execKeyUpdate sess req s
  | .endSession sess req => Sys2Proof.Machine.execEndSession sess req s
  | .unsupportedRequest sess req => Sys2Proof.Machine.execUnsupportedRequest sess req s
  | .ownerBind w sess => Sys2Proof.Machine.execOwnerBind w sess s
  | .setQratio w sess v => Sys2Proof.Machine.execSetQratio w sess v s
  | .allowModule w sess d => Sys2Proof.Machine.execAllowModule w sess d s
  | .allowPort w sess port peerTag peerWorld => Sys2Proof.Machine.execAllowPort w sess port peerTag peerWorld s
  | .pathAssert w sess => Sys2Proof.Machine.execPathAssert w sess s
  | .ownerSeal w sess => Sys2Proof.Machine.execOwnerSeal w sess s
  | .ideKm sess => Sys2Proof.Machine.execIdeKm sess s
  | .coldStart => Sys2Proof.Machine.execColdStart s
  | .phyTraining host lost => Sys2Proof.Machine.execPhyTraining host lost s
  | .selfTest ok seats lostStacks => Sys2Proof.Machine.execSelfTest ok seats lostStacks s
  | .qmScrub lostStacks => Sys2Proof.Machine.execQmScrub lostStacks s
  | .parityVerification bad => Sys2Proof.Machine.execParityVerification bad s
  | .keyDerivation salt fail => Sys2Proof.Machine.execKeyDerivation salt fail s
  | .firmwareMeasurement ok => Sys2Proof.Machine.execFirmwareMeasurement ok s
  | .deviceFatalError code => Sys2Proof.Machine.execDeviceFatalError code s
  | .hostLinkDown => Sys2Proof.Machine.execHostLinkDown s
  | .hostLinkTrained => Sys2Proof.Machine.execHostLinkTrained s
  | .ideSecureStateLoss => Sys2Proof.Machine.execIdeSecureStateLoss s
  | .portLinkDrop port => Sys2Proof.Machine.execPortLinkDrop port s
  | .portRetrain port ok => Sys2Proof.Machine.execPortRetrain port ok s
  | .frameTagFailure port => Sys2Proof.Machine.execFrameTagFailure port s
  | .frameKeyLimit port => Sys2Proof.Machine.execFrameKeyLimit port s
  | .junctionTemperature t => Sys2Proof.Machine.execJunctionTemperature t s
  | .powerEstimateWindow work => Sys2Proof.Machine.execPowerEstimateWindow work s
  | .powerMeasureWindow watts => Sys2Proof.Machine.execPowerMeasureWindow watts s
  | .illegalOpcode w => Sys2Proof.Machine.execIllegalOpcode w s
  | .fetchBound pc => Sys2Proof.Machine.execFetchBound pc s
  | .misalignedFetch pc => Sys2Proof.Machine.execMisalignedFetch pc s
  | .hostReadReturn x k => Sys2Proof.Machine.execHostReadReturn x k s

end Sys2Proof.Machine
end

