-- ==== Sys2Proof/Machine/Select.lean ====
section
/-! DEFINITION. What the machine does next (spec/01_engines_and_their_ties.md R16; notes/assumptions/4.md): the fetch of the
current player's next word, or of its next convoy (R43, R44, R49, R227), and the steps of the other parts in the order in
which they are tried, and what follows an issue: the turn goes to the next ready player (R403), and every other part that can
take a step takes one. -/

set_option Elab.async false

namespace Sys2Proof.Machine

/-! ### Fetch (R43, R47, R49) -/

/-- Is the major one of a convoy member (R43)? -/
def memberMajor (w : Nat) : Bool :=
  let m := fld w 25 6
  (decide (0x24 ≤ m) && decide (m ≤ 0x33)) || (decide (0x35 ≤ m) && decide (m ≤ 0x3B))

/-- The members that continue a convoy: words of member majors with C = 0; a word that cannot be fetched ends it (R49). -/
noncomputable def State.followers (s : State) : Nat → Word → List Fetched
  | 0, _ => []
  | n + 1, pc =>
    match fetchWord s s.me pc with
    | .error _ => []
    | .ok w => if memberMajor w && fld w 31 1 == 0 then ⟨pc, w, decodeWord w⟩ :: s.followers n (pc + 4) else []

/-- The fetch of a word corrects what it can of the dword the word lies in (R255). -/
def State.correctFetch (s : State) (pc : Word) : State :=
  match s.vm.leaf s.me.place.asid (vaIndex pc) with
  | some l => s.correctSpad (l.phys pc) 4
  | none => s

/-- The current player has fetched the word at its PC; the trap entry before it is over (R228). -/
def State.tookWord (s : State) : State :=
  ({ s with me := { s.me with trap := { s.me.trap with entering := false } } }).correctFetch s.me.pc

/-- The issue queue holds the convoy that begins at the current PC; a ninth member is enough to see a limit broken (R45). -/
noncomputable def State.fillQueue (s : State) (w : Nat) : State :=
  let rest := s.followers 8 (s.me.pc + 4)
  rest.foldl (fun (u : State) f => u.correctFetch f.addr)
    { s with me := { s.me with queue := ⟨s.me.pc, w, decodeWord w⟩ :: rest } }

/-- The issue queue of player `p` takes in the convoy at its PC, which an `ISSUE_CONVOY` then issues without performing any
of it (R16, R17). -/
noncomputable def State.fetchFor (s : State) (p : Nat) : State :=
  match s.player? p with
  | none => s
  | some q =>
    if !s.runnable q || q.conv.isSome || !q.queue.isEmpty then s
    else
      match fetchWord s q q.pc with
      | .error _ => s
      | .ok w =>
        if ((decodeWord w).bind tileDesc?).isSome then
          (s.focus p).tookWord.fillQueue w
        else s

/-- A step to take: an instruction and the state to take it in, or an outcome. -/
inductive Choice where
  | run (i : Instr) (s : State)
  | done (o : Out)

/-- A convoy leaves the issue queue; its first member goes on. -/
def issued (o : Out) : Choice :=
  match o with
  | .next t =>
    match t.me.conv with
    | some cv =>
      match cv.members with
      | m :: _ => .run m.instr t
      | [] => .done (.next t)
    | none => .done (.next t)
  | o => .done o

/-- The fetched word of the current player becomes an instruction. -/
noncomputable def State.takeWord (s : State) (w : Nat) : Choice :=
  match decodeWord w with
  | none => .run (.illegalOpcode w) s
  | some i =>
    if (tileDesc? i).isSome then
      let t := s.fillQueue w
      issued (issueWords tileDesc? t.me.queue t)
    else .run i s

/-- The current player's next instruction. -/
noncomputable def State.nextOfMe (s : State) : Choice :=
  match s.me.conv with
  | some cv =>
    match cv.members[firstOpen cv.members]? with
    | some m => .run m.instr s
    | none => .done (.next s.closeConvoy)
  | none =>
    match fetchWord s s.me s.me.pc with
    | .error .misaligned => .run (.misalignedFetch s.me.pc.toNat) s
    | .error _ => .run (.fetchBound s.me.pc.toNat) s
    | .ok w => s.tookWord.takeWord w

/-! ### The other parts' steps -/

/-- Steps about one player. -/
noncomputable def playerSteps (p : Player) : List Instr :=
  (if p.wbuf.isEmpty then [] else [.writeBufferDrain p.id 0]) ++
  (if p.waiting.isNone then [] else
    [.monitorWake p.id, .fenceComplete p.id, .pwaitComplete p.id, .haltComplete p.id, .allotComplete p.id, .reseatApply p.id,
      .launchHandoff p.id, .wmpubApply p.id, .matrixAccept p.id, .mxattachSlotGrant p.id, .streamAccept p.id,
      .queryAccept p.id, .heldInstructionReaccept p.id, .remapSwitch p.id]) ++
  (if p.q.loading then [.baseTableLoad p.id] else []) ++
  (if p.accum.any (fun a => !a.loaded) then [.mxattachLoadDone p.id] else []) ++
  (match p.serving with
    | some a => match a.work with
      | .back _ _ _ landed _ :: _ => [.matrixChunkLand p.id landed]
      | _ => []
    | none => []) ++
  (if p.preempt then [.preemptionTaken p.id] else []) ++ (if p.frozen then [.contextSave p.id] else [])

/-- Steps of one transfer. -/
noncomputable def xferSteps (x : Xfer) : List Instr :=
  x.reading.map (Instr.hostReadReturn x.id) ++ x.flushing.map (Instr.hostFlushReadReturn x.id) ++
    x.acking.map (fun c => Instr.peerAcknowledgement x.id (.taken c)) ++ [.streamChunkPerform x.id x.lowestOpen, .landingFlagStore x.id]

/-- The lowest clear bit below `n`. -/
def lowestClear (m n : Nat) : Nat := ((List.range n).find? (fun i => !m.testBit i)).getD n

/-- Steps of one item of the query engine. -/
noncomputable def querySteps (q : Query) : List Instr :=
  let f := lowestClear (q.done ||| q.applied) (q.count + 1)
  q.acking.map (fun c => Instr.peerAcknowledgement q.id (.taken c)) ++
  [.queryQueueSend q.id, .collectionItemStep q.id, .queryReplyChunk q.id (lowestClear q.chunks (q.nchunks + 1)),
    .fullStripeWrite q.id f, .stackUnitWriteApply q.id f, .qcopyChunkPerform q.id (lowestClear q.chunks (q.nchunks + 1)),
    .qevalElement q.id f, .sideCountRaise q.id, .qmergeCopy q.id, .qmergeSwitch q.id]

/-- Steps of one queue. -/
noncomputable def queueSteps (q : Nat) (h : HostQueue) : List Instr :=
  (if h.head = h.tail then [] else [.packetFetchStart q]) ++
  (if h.fetching = 0 then [] else
    [.launchPacket q, .mode q, .cancel q, .summaryPacket q, .packetReservedOpcode q]) ++
  (if h.pending.isEmpty then [] else [.packetHead q])

/-- The command whose doorbell has been rung (R415, R446). -/
noncomputable def Dev.command (d : Dev) : Instr :=
  let dw := fun (k : Nat) => d.field (8 + 8 * k) 8
  match d.field 0 1 with
  | 1 => .worldCreate (dw 0)
  | 2 => .worldDestroy (dw 0)
  | 3 => .asidCreate (dw 0) (dw 1)
  | 4 => .asidDestroy (dw 0)
  | 5 => .map (dw 0) (dw 1) (dw 2) (dw 3)
  | 6 => .unmap (dw 0) (dw 1)
  | 7 => .queueBind (dw 0) (dw 1) (dw 2)
  | 8 => .handlerSet (dw 0) (dw 1) (dw 2)
  | 9 => .portBind (dw 0) (dw 1)
  | 10 => .regionAlloc (d.field 8 1) (d.field 9 1) (d.field 10 1 == 1) (d.field 11 1) (d.field 24 8) (d.field 12 1)
      (d.field 16 4) (d.field 32 8) (d.field 40 8)
  | 11 => .regionFree (dw 0)
  | 12 => .summary (dw 0) (d.field 16 4)
  | 13 => .dumpErrors (dw 0) (d.field 16 4) (d.field 20 4)
  | c => .mailboxReservedCode c

/-- Is an event a step of one of the engines, which the safe state stops (R443)? What the host, the root of trust, the links and
the sensors do goes on. -/
def engineStep (i : Instr) : Bool :=
  match i with
  | .issueConvoy _ => true
  | .elementPerform _ _ _ => true
  | .turnTicket _ _ _ => true
  | .writeBufferDrain _ _ => true
  | .spadHomeApply _ => true
  | .monitorWake _ => true
  | .fenceComplete _ => true
  | .pwaitComplete _ => true
  | .haltComplete _ => true
  | .allotComplete _ => true
  | .reseatApply _ => true
  | .launchHandoff _ => true
  | .wmpubApply _ => true
  | .streamAccept _ => true
  | .streamChunkPerform _ _ => true
  | .landingFlagStore _ => true
  | .hostReadReturn _ _ => true
  | .hostFlushReadReturn _ _ => true
  | .peerAcknowledgement _ _ => true
  | .chawickFrameReceive _ _ _ _ _ _ => true
  | .queryAccept _ => true
  | .queryQueueSend _ => true
  | .stackUnitTouch _ _ => true
  | .stackUnitWriteApply _ _ => true
  | .parityDeltaAccept _ => true
  | .parityDeltaApply _ _ => true
  | .fullStripeWrite _ _ => true
  | .reconstructingRead _ _ => true
  | .queryReplyChunk _ _ => true
  | .qcopyChunkPerform _ _ => true
  | .collectionItemStep _ => true
  | .sideCountRaise _ => true
  | .qmergeCopy _ => true
  | .qmergeSwitch _ => true
  | .qevalElement _ _ => true
  | .baseTableLoad _ => true
  | .matrixAccept _ => true
  | .mxattachSlotGrant _ => true
  | .mxattachLoadDone _ => true
  | .matrixArbiterCycle _ => true
  | .matrixChunkLand _ _ => true
  | .heldInstructionReaccept _ => true
  | .remapSwitch _ => true
  | .exportMarkSet => true
  | .translationWalk _ _ => true
  | .scrubRowVisit _ _ _ => true
  | .cleanRowExpiry _ _ _ => true
  | .degradedSwitch _ => true
  | .preemptionRequest _ _ => true
  | .preemptionTaken _ => true
  | .contextSave _ => true
  | .contextRestore _ _ => true
  | .worldSwitch _ _ => true
  | .worldSwitchClear _ => true
  | .contextRemoval _ => true
  | .removalStepDrained _ => true
  | .removalStall _ => true
  | .agingInterval _ _ _ => true
  | .launchPlacement => true
  | .packetHead _ => true
  | .packetFetchStart _ => true
  | .launchPacket _ => true
  | .mode _ => true
  | .cancel _ => true
  | .summaryPacket _ => true
  | .packetReservedOpcode _ => true
  | .moduleReady _ => true
  | .warmStartQuiesced => true
  | .portRetrain _ _ => true
  | _ => false

/-- The steps of every part but the current player's issue, in the order in which they are tried. In the safe state the
mailbox alone goes on (R443). -/
noncomputable def State.steps (s : State) : List Instr :=
  if s.dev.failed then (if s.dev.mbBell then [s.dev.command] else [])
  else
  (if s.mem.arrivals.isEmpty then [] else [.spadHomeApply 0]) ++
  ((s.players.map playerSteps).flatten) ++
  ((s.eng.xfers.map xferSteps).flatten) ++
  ((s.eng.queries.map querySteps).flatten) ++
  ((s.qm.deltas.map (fun d => [Instr.parityDeltaApply d.stack 0])).flatten) ++
  ((s.qm.held.map (fun w => [Instr.parityDeltaAccept w.delta.stack])).flatten) ++
  (match s.qm.losing with
    | some st => [.degradedSwitch st]
    | none => []) ++
  (if s.vm.exporting.isSome then [.exportMarkSet] else []) ++
  ((s.players.map (fun p => p.place.cluster)).eraseDups.map Instr.matrixArbiterCycle) ++
  (if s.dev.mbBell then [s.dev.command] else []) ++
  ((s.cp.launches.map (fun l => if l.removing.isSome || s.dev.warming then [Instr.contextRemoval l.id, .removalStepDrained l.id] else [])).flatten) ++
  (((List.range 64).map (fun q => queueSteps q (s.queueAt q))).flatten) ++
  ((s.cp.modules.filter (fun m => m.loading)).map (fun m => Instr.moduleReady m.handle)) ++
  [.launchPlacement] ++
  (s.cp.images.map (fun m => Instr.contextRestore m.context .intact)) ++
  (s.cp.switching.map (fun x => Instr.worldSwitchClear x.1)) ++
  (match s.switchChoice with
    | some (cl, w) => [.worldSwitch cl w]
    | none => []) ++
  (s.cp.parties.map (fun p => Instr.preemptionRequest p.launch p.index)) ++
  (if s.dev.warming then [.warmStartQuiesced] else [])

/-- With nothing else to do, time passes: every unblocked head and every saved party waits one more interval (R397). -/
noncomputable def State.waitSteps (s : State) : List Instr :=
  if s.dev.failed then []
  else
  ((List.range 64).filter (fun q => (s.openHead q).isSome)).map (fun q => .agingInterval q 0 0) ++
  (s.cp.parties.filter (fun p => p.saved = 2)).map (fun p => .agingInterval 0 p.launch p.index)

/-- The next player of the rotation that can issue (R403). -/
def State.nextPlayer? (s : State) : Option Nat := (s.others.find? (fun p => s.runnable p)).map (fun p => p.id)

/-! ### Turns (R403; notes/assumptions/4.md) -/

/-- Takes what was chosen. -/
def Choice.take (c : Choice) : Out :=
  match c with
  | .run i s => exec i s
  | .done o => o

/-- Would this step change anything? -/
def State.changes (s : State) (i : Instr) : Bool :=
  match exec i s with
  | .next t => decide (t ≠ s)
  | _ => true

/-- The first of the given steps that changes something. -/
def firstChange (s : State) : List Instr → Option Out
  | [] => none
  | i :: rest => if s.changes i then some (exec i s) else firstChange s rest

/-- A player has issued: between convoys the turn goes to the next ready player, unless `yield` has already given it away,
and each other part that can take a step is to take one. -/
noncomputable def State.handOver (t : State) (id : Nat) : State :=
  if t.me.conv.isSome then t
  else
    let u := if t.me.id = id && t.me.live then t.rotate else t
    { u with agenda := u.steps.filter u.changes }

noncomputable def afterIssue (id : Nat) (o : Out) : Out :=
  match o with
  | .next t => .next (t.handOver id)
  | o => o

/-- The current player issues. -/
noncomputable def State.issue (s : State) : Out := afterIssue s.me.id s.nextOfMe.take

/-- What happens when the current player cannot issue: a step of another part, else another player goes on, else time
passes. -/
noncomputable def State.stepOthers (s : State) : Out :=
  match firstChange s s.steps with
  | some o => o
  | none =>
    match s.nextPlayer? with
    | some id => (s.focus id).issue
    | none => (firstChange s s.waitSteps).getD (.next s)

end Sys2Proof.Machine
end

