-- ==== Sys2Proof/Machine/Ahead.lean ====
section
/-! DEFINITION. Scalar instructions that issue while the convoy before them is in flight (spec/10_tile_ordering_and_faults.md
R248, R463; notes/assumptions/74.md). -/

set_option Elab.async false

namespace Sys2Proof.Machine

/-- What of a scalar instruction the members of a convoy in flight can meet: the registers it names, those it writes, and its
scratchpad access as base register, offset, bytes and whether it is a release. -/
structure Early where
  regs : List SReg
  outs : List SReg
  access : Option (SReg × BitVec 15 × Nat × Bool)
  deriving DecidableEq, Repr

/-- The scalar arithmetic, branches, jumps, loads, stores and atomics may issue beside a convoy, every other word waits for it. -/
def early? (i : Instr) : Option Early :=
  match i with
  | .slui d _ => some ⟨[d], [d], none⟩
  | .spcrel d _ => some ⟨[d], [d], none⟩
  | .sjal d _ => some ⟨[d], [d], none⟩
  | .sjalr d a _ => some ⟨[d, a], [d], none⟩
  | .sbeq a b _ => some ⟨[a, b], [], none⟩
  | .sbne a b _ => some ⟨[a, b], [], none⟩
  | .sblt a b _ => some ⟨[a, b], [], none⟩
  | .sbge a b _ => some ⟨[a, b], [], none⟩
  | .sbltn a b _ => some ⟨[a, b], [], none⟩
  | .sbgen a b _ => some ⟨[a, b], [], none⟩
  | .saddi d a _ => some ⟨[d, a], [d], none⟩
  | .sandi d a _ => some ⟨[d, a], [d], none⟩
  | .sori d a _ => some ⟨[d, a], [d], none⟩
  | .sxori d a _ => some ⟨[d, a], [d], none⟩
  | .slti d a _ => some ⟨[d, a], [d], none⟩
  | .sltin d a _ => some ⟨[d, a], [d], none⟩
  | .sslli d a _ => some ⟨[d, a], [d], none⟩
  | .ssrli d a _ => some ⟨[d, a], [d], none⟩
  | .ssrai d a _ => some ⟨[d, a], [d], none⟩
  | .sadd d a b => some ⟨[d, a, b], [d], none⟩
  | .ssub d a b => some ⟨[d, a, b], [d], none⟩
  | .sand d a b => some ⟨[d, a, b], [d], none⟩
  | .sor d a b => some ⟨[d, a, b], [d], none⟩
  | .sxor d a b => some ⟨[d, a, b], [d], none⟩
  | .sandn d a b => some ⟨[d, a, b], [d], none⟩
  | .ssll d a b => some ⟨[d, a, b], [d], none⟩
  | .ssrl d a b => some ⟨[d, a, b], [d], none⟩
  | .ssra d a b => some ⟨[d, a, b], [d], none⟩
  | .sslt d a b => some ⟨[d, a, b], [d], none⟩
  | .ssltn d a b => some ⟨[d, a, b], [d], none⟩
  | .smin d a b => some ⟨[d, a, b], [d], none⟩
  | .smax d a b => some ⟨[d, a, b], [d], none⟩
  | .sminn d a b => some ⟨[d, a, b], [d], none⟩
  | .smaxn d a b => some ⟨[d, a, b], [d], none⟩
  | .smul d a b => some ⟨[d, a, b], [d], none⟩
  | .smulh d a b => some ⟨[d, a, b], [d], none⟩
  | .smulhn d a b => some ⟨[d, a, b], [d], none⟩
  | .smulhsu d a b => some ⟨[d, a, b], [d], none⟩
  | .sdiv d a b => some ⟨[d, a, b], [d], none⟩
  | .sdivn d a b => some ⟨[d, a, b], [d], none⟩
  | .srem d a b => some ⟨[d, a, b], [d], none⟩
  | .sremn d a b => some ⟨[d, a, b], [d], none⟩
  | .spopc d a => some ⟨[d, a], [d], none⟩
  | .sclz d a => some ⟨[d, a], [d], none⟩
  | .sctz d a => some ⟨[d, a], [d], none⟩
  | .sldD d a i => some ⟨[d, a], [d], some (a, i, 8, false)⟩
  | .sldW d a i => some ⟨[d, a], [d], some (a, i, 4, false)⟩
  | .sldnW d a i => some ⟨[d, a], [d], some (a, i, 4, false)⟩
  | .sldH d a i => some ⟨[d, a], [d], some (a, i, 2, false)⟩
  | .sldnH d a i => some ⟨[d, a], [d], some (a, i, 2, false)⟩
  | .sldB d a i => some ⟨[d, a], [d], some (a, i, 1, false)⟩
  | .sldnB d a i => some ⟨[d, a], [d], some (a, i, 1, false)⟩
  | .sstD v a i => some ⟨[v, a], [], some (a, i, 8, false)⟩
  | .sstW v a i => some ⟨[v, a], [], some (a, i, 4, false)⟩
  | .sstH v a i => some ⟨[v, a], [], some (a, i, 2, false)⟩
  | .sstB v a i => some ⟨[v, a], [], some (a, i, 1, false)⟩
  | .sfadd d a b _ _ => some ⟨[d, a, b], [d], none⟩
  | .sfsub d a b _ _ => some ⟨[d, a, b], [d], none⟩
  | .sfmul d a b _ _ => some ⟨[d, a, b], [d], none⟩
  | .sfdiv d a b _ _ => some ⟨[d, a, b], [d], none⟩
  | .sfsqrt d a _ _ => some ⟨[d, a], [d], none⟩
  | .sfmin d a b _ => some ⟨[d, a, b], [d], none⟩
  | .sfmax d a b _ => some ⟨[d, a, b], [d], none⟩
  | .sfma d a b _ _ => some ⟨[d, a, b], [d], none⟩
  | .sfsignc d a b _ => some ⟨[d, a, b], [d], none⟩
  | .sfsignn d a b _ => some ⟨[d, a, b], [d], none⟩
  | .sfsignx d a b _ => some ⟨[d, a, b], [d], none⟩
  | .sfeq d a b _ => some ⟨[d, a, b], [d], none⟩
  | .sflt d a b _ => some ⟨[d, a, b], [d], none⟩
  | .sfle d a b _ => some ⟨[d, a, b], [d], none⟩
  | .sfcvti d a _ _ => some ⟨[d, a], [d], none⟩
  | .sfcvtn d a _ _ => some ⟨[d, a], [d], none⟩
  | .sicvtf d a _ _ => some ⟨[d, a], [d], none⟩
  | .sncvtf d a _ _ => some ⟨[d, a], [d], none⟩
  | .sfcvtx d a _ _ => some ⟨[d, a], [d], none⟩
  | .samoAdd d a b _ o w => some ⟨[d, a, b], [d], some (a, 0, if w then 4 else 8, ordReleases o)⟩
  | .samoAnd d a b _ o w => some ⟨[d, a, b], [d], some (a, 0, if w then 4 else 8, ordReleases o)⟩
  | .samoOr d a b _ o w => some ⟨[d, a, b], [d], some (a, 0, if w then 4 else 8, ordReleases o)⟩
  | .samoXor d a b _ o w => some ⟨[d, a, b], [d], some (a, 0, if w then 4 else 8, ordReleases o)⟩
  | .samoSwap d a b _ o w => some ⟨[d, a, b], [d], some (a, 0, if w then 4 else 8, ordReleases o)⟩
  | .samoMin d a b _ o w => some ⟨[d, a, b], [d], some (a, 0, if w then 4 else 8, ordReleases o)⟩
  | .samoMax d a b _ o w => some ⟨[d, a, b], [d], some (a, 0, if w then 4 else 8, ordReleases o)⟩
  | .samoMinn d a b _ o w => some ⟨[d, a, b], [d], some (a, 0, if w then 4 else 8, ordReleases o)⟩
  | .samoMaxn d a b _ o w => some ⟨[d, a, b], [d], some (a, 0, if w then 4 else 8, ordReleases o)⟩
  | .samoCas d a b _ o w => some ⟨[d, a, b], [d], some (a, 0, if w then 4 else 8, ordReleases o)⟩
  | _ => none

/-- Does an open member stand in the way of a scalar register: one it writes, or one still to be read that the instruction
writes (R247, R248)? -/
def State.regsFree (cv : Convoy) (u : Early) : Bool :=
  cv.members.all (fun o => o.fin ||
    match tileDesc? o.instr with
    | none => true
    | some d => d.outs.all (fun r => decide (r = 0) || !u.regs.contains r) && d.regs.all (fun r => decide (r = 0) || !u.outs.contains r))

/-- Does an open member still access the same bytes? A release waits for every earlier scratchpad access (R198, R248). -/
def State.accessFree (s : State) (cv : Convoy) (u : Early) : Bool :=
  match u.access with
  | none => true
  | some (a, i, n, release) =>
    let va := s.rd a + imm15 i
    if release then cv.members.all (fun o => o.fin || (tileDesc? o.instr).all (fun d => !d.onSpad))
    else
      match s.vm.leaf s.me.place.asid (vaIndex va) with
      | some l => s.bytesClear cv cv.members.length [(l.phys va, n)]
      | none => false

/-- Would an element of the convoy trap if it performed now? -/
def State.convoyFails (s : State) (cv : Convoy) : Bool :=
  (List.range cv.members.length).any (fun k =>
    match cv.members[k]? with
    | none => false
    | some m => !m.fin &&
      match tileDesc? m.instr with
      | none => false
      | some d => (List.range cv.flim).any (fun f =>
          isOpen (cv.env s.me) s.me d.mode (m.t0 s.me) m.done f && (d.look k f s).fails))

/-- The state in which the current player issues the scalar instruction `i` beside its convoy: `i` is its next instruction in
program order, nothing in flight stands in its way and no element is about to trap. -/
noncomputable def State.beside (s : State) (i : Instr) : Option State :=
  match s.me.conv, early? i with
  | some cv, some u =>
    match fetchWord s s.me cv.next with
    | .error _ => none
    | .ok w =>
      if decodeWord w = some i ∧ s.mayWork s.me ∧ ¬(s.me.preempt ∧ ¬s.me.hold) ∧ State.regsFree cv u ∧ s.accessFree cv u ∧
          ¬s.convoyFails cv then
        some ((s.correctFetch cv.next).setPc cv.next)
      else none
  | _, _ => none

/-- Back to the convoy, behind which the player goes on where the scalar instruction has led it. An instruction that traps
waits for the convoy's end (R463): nothing has happened. -/
def State.rejoin (s : State) (o : Out) : Out :=
  match o with
  | .next t =>
    match t.me.conv with
    | some cv => .next { t with me := { t.me with pc := s.me.pc, conv := some { cv with next := t.me.pc } } }
    | none => .next s
  | o => o

end Sys2Proof.Machine
end

