-- ==== Sys2Proof/Machine/Step.lean ====
section
/-! DEFINITION. One step of the machine (notes/assumptions/4.md), and the state that runs a given word next
(notes/assumptions/3.md). -/

set_option Elab.async false

namespace Sys2Proof.Machine

/-- What an instruction of the agenda finds: before an `ISSUE_CONVOY` the convoy is fetched. -/
noncomputable def State.ready (s : State) (i : Instr) : State :=
  match i with
  | .issueConvoy p => s.fetchFor p
  | _ => s

/-- A step the agenda names: an event or another part's step; of a word, the current player issues it beside its convoy where
it may (R463), and nothing otherwise; in the safe state the engines take no step (R443). -/
noncomputable def State.due (s : State) (i : Instr) : Out :=
  if (encode i).isSome then
    match s.beside i with
    | some u => s.rejoin (exec i u)
    | none => .next s
  else if s.dev.failed && engineStep i then .next s
  else exec i (s.ready i)

/-- One step: the head of the agenda, else the current player's next instruction, else what is left to do. -/
noncomputable def step (s : State) : Out :=
  match s.agenda with
  | i :: rest => State.due { s with agenda := rest } i
  | [] => if s.runnable s.me then s.issue else s.stepOthers

/-- The address at which `State.withFetchWord` places its word. -/
def slotVa : Nat := 0x1000

/-- A launched player with one seat and every tile register whose next fetch is the given word: the word in the first page
of cluster 0, mapped executable, the code region exactly that word (notes/assumptions/3.md). -/
def State.withFetchWord (s : State) (nbits w : Nat) : State :=
  let h := s.cp.nextModule
  let id := s.cp.nextPlayer
  let text : Module := ⟨h, true, false, 0, 0, 0, [(slotVa, 4)], [], [(0, 0)]⟩
  let root : Vm := if (lookupNat 0 s.vm.roots).isSome then s.vm
    else { s.vm with roots := s.vm.roots ++ [(0, 0, s.vm.nextTable)], nextTable := s.vm.nextTable + 1 }
  let p : Player := { Player.vacant with
    id := id
    live := true
    place := { Place.reset with size := 1, module := h }
    pc := word slotVa
    shape := { Shape.reset with seat := 1, allot := 64 } }
  { s with
    me := p.fixVlmax
    others := if s.me.live then s.me :: s.others else s.others
    mem := { s.mem with spad := s.mem.spad.write 0 4 (w % 2 ^ nbits) }
    vm := root.map 0 slotVa 0 (spadEntry 0 0 false true)
    cp := { s.cp with nextModule := h + 1, nextPlayer := id + 1, modules := text :: s.cp.modules }
    agenda := [] }

end Sys2Proof.Machine
end

