-- ==== Sys2Proof/Safety.lean ====
section
/-! DEFINITION. What every step keeps and what a tile instruction leaves, in the terms the statements use: the canonical form
of the four byte memories, the limits of the bounded queues (spec/01_engines_and_their_ties.md R12;
spec/04_tile_programs.md R103; spec/24_start_errors_and_host.md R445), a strip that lies inside its registers
(spec/04_tile_programs.md R93), and the elements of a destination (R89, R91; spec/06_tile_arithmetic.md R134 to R139). -/

set_option Elab.async false

namespace Sys2Proof.Machine

/-! ### Invariants -/

/-- Scratchpad, host memory, peer memory and query memory are in their canonical form: equal memories are equal data
(notes/assumptions/2.md). -/
def State.canonicalMemory (s : State) : Prop :=
  s.mem.spad.wf ∧ s.mem.host.wf ∧ s.mem.peer.wf ∧ s.qm.cells.wf

/-- A strip inside its registers: `FLIM` ≤ RC·VL, VL ≤ `VLMAX` (R93), and a mask bit for every element (R86, R96). -/
def Player.stripOk (p : Player) : Prop :=
  p.env.flim ≤ p.env.rc * p.env.vl ∧ p.env.vl ≤ p.env.vlmax ∧ p.env.flim ≤ p.env.regBits

/-- The error log keeps the newest 4096 records (R445). -/
def State.logBounded (s : State) : Prop := s.dev.log.length ≤ 4096

/-! ### A tile instruction on its own -/

/-- The instruction passes the checks at issue of R47 as a convoy of its own; no register bit is in error, the strip lies
inside the registers, and under a pip mask no chunk has been lost. -/
structure Lone (i : Instr) (s : State) : Prop where
  idle : s.me.conv = none
  sound : s.me.tbad = []
  strip : s.me.stripOk
  checks : ∃ d c, tileDesc? i = some d ∧ checkMember s.me d Counts.zero = .ok c ∧
    (d.mode = .pip → ∀ k, s.me.lostChunk 0 k = false)

/-- The value of a group of registers. -/
def State.groupVal (s : State) (v : View) : Nat := s.me.env.read s.me.tregs v

/-- Element `f` of a group (R89), under the shape of the current player. -/
def State.el (s : State) (v : View) (f : Nat) : Nat := s.me.env.elem v (s.groupVal v) f

/-- Element `f` of the ordinary group that starts at a register. -/
def State.elAt (s : State) (r : TReg) (f : Nat) : Nat := s.el (s.me.env.view r) f

/-- What is left of the state when a tile instruction has completed: registers `tregs` and flags aside, the PC stands behind
its word and nothing else has changed, but for the register bits whose error it has corrected on the way, each counted
(R255, R447). -/
def State.after (s t : State) : State :=
  { s with
    me := { s.me with
      tregs := t.me.tregs, flags := t.me.flags, pc := s.me.pc + 4, queue := [], hold := false, started := true
      tsoft := t.me.tsoft }
    dev := (s.count 0 (s.me.tsoft.length - t.me.tsoft.length)).dev }

/-- The flags of the active elements, ORed into those there were. -/
def State.flagsOf (s : State) (m : MaskMode) (val : Nat → Res) : Flags :=
  ((List.range s.me.env.flim).filter (selected m s.me.tregs[0])).foldl (fun x f => x ||| (val f).flags) s.me.flags

/-- An element-wise instruction has performed on the group `v`: every active element has its value, every other element and
the tail follow the policies of R91, and nothing else has changed. With `FLIM` 0 it writes nothing (R137). -/
structure Performed (s t : State) (m : MaskMode) (v : View) (val : Nat → Res) : Prop where
  active : ∀ f < s.me.env.flim, selected m s.me.tregs[0] f = true → t.el v f = (val f).val % 2 ^ v.w
  inactive : ∀ f < s.me.env.flim, selected m s.me.tregs[0] f = false → t.el v f = if s.me.env.ma then ones v.w else s.el v f
  tail : 0 < s.me.env.flim → ∀ r < s.me.env.rc, ∀ c < s.me.env.vlmax,
    (s.me.env.vl ≤ c ∨ s.me.env.flim ≤ r * s.me.env.vl + c) →
      s.me.env.getSlot v (t.groupVal v) r c = if s.me.env.ta then ones v.w else s.me.env.getSlot v (s.groupVal v) r c
  empty : s.me.env.flim = 0 → t.me.tregs = s.me.tregs
  frame : ∀ (k : Nat) (h : k < 64), k < v.reg ∨ v.reg + v.regs ≤ k → t.me.tregs[k] = s.me.tregs[k]
  flags : t.me.flags = s.flagsOf m val
  soft : t.me.tsoft.Sublist s.me.tsoft
  rest : t = s.after t

/-- The same for a destination that is one mask register: element `f` is bit `f`, the tail is every bit from `FLIM` up. -/
structure PerformedMask (s t : State) (m : MaskMode) (d : TReg) (val : Nat → Res) : Prop where
  active : ∀ f < s.me.env.flim, selected m s.me.tregs[0] f = true → t.me.tregs[d].testBit f = (val f).val.testBit 0
  inactive : ∀ f < s.me.env.flim, selected m s.me.tregs[0] f = false →
    t.me.tregs[d].testBit f = (s.me.env.ma || s.me.tregs[d].testBit f)
  tail : 0 < s.me.env.flim → ∀ f, s.me.env.flim ≤ f → f < s.me.env.regBits →
    t.me.tregs[d].testBit f = (s.me.env.ta || s.me.tregs[d].testBit f)
  empty : s.me.env.flim = 0 → t.me.tregs = s.me.tregs
  frame : ∀ (k : Nat) (h : k < 64), k ≠ d.val → t.me.tregs[k] = s.me.tregs[k]
  flags : t.me.flags = s.flagsOf m val
  soft : t.me.tsoft.Sublist s.me.tsoft
  rest : t = s.after t

/-- The instruction completes with every element performed, where it may issue as a convoy of its own. -/
def Performs (i : Instr) (s : State) (m : MaskMode) (v : View) (val : Nat → Res) : Prop :=
  Lone i s → ∃ t, exec i s = .next t ∧ Performed s t m v val

def PerformsMask (i : Instr) (s : State) (m : MaskMode) (d : TReg) (val : Nat → Res) : Prop :=
  Lone i s → ∃ t, exec i s = .next t ∧ PerformedMask s t m d val

end Sys2Proof.Machine
end

