-- ==== Sys2Proof/Certificates/Slice0/Obligations.lean ====
section
/-! DEFINITION. The statements about the model: what every instruction and every step of another part does, as the numbered rules
of spec/ say it; that a step runs what the PC decodes to; that decoding is the inverse of encoding; that memory keeps its form. The
definitions in namespace Sys2Proof.Claims are the terms the statements use. -/

set_option Elab.async false

namespace Sys2Proof.Claims

open Sys2Proof Sys2Proof.Machine


/-- A scalar source: s0 reads zero (R34). -/
def src (s : State) (r : SReg) : Word := if r = 0 then 0 else s.me.sregs[r]

/-- Register `d` has received `v`, unless it is s0, and the PC stands at the next word. Nothing else has changed: no other
register, no flag, no special register, no byte of memory. -/
def wrote (s : State) (d : SReg) (v : Word) : State :=
  { s with me := { s.me with
      pc := s.me.pc + 4
      sregs := if d = 0 then s.me.sregs else s.me.sregs.set d v } }

/-- The PC stands at `a`; nothing else has changed. -/
def went (s : State) (a : Word) : State := { s with me := { s.me with pc := a } }

/-- 1 or 0. -/
def flag (c : Prop) [Decidable c] : Word := if c then 1 else 0

/-- Instruction `i` in state `s` goes on to state `t`. -/
def Goes (i : Instr) (s t : State) : Prop := Machine.exec i s = .next t

end Sys2Proof.Claims

open Sys2Proof Sys2Proof.Machine Sys2Proof.Claims

/-- R219, R220, R34: what the register forms without division write. -/
def Obligations.ScalarRegisterForms : Prop :=
  ∀ (s : State) (d a b : SReg),
    let x := src s a
    let y := src s b
    Goes (.sadd d a b) s (wrote s d (word (x.toNat + y.toNat))) ∧
    Goes (.ssub d a b) s (wrote s d (BitVec.ofInt 64 (x.toNat - y.toNat))) ∧
    Goes (.sand d a b) s (wrote s d (x &&& y)) ∧
    Goes (.sor d a b) s (wrote s d (x ||| y)) ∧
    Goes (.sxor d a b) s (wrote s d (x ^^^ y)) ∧
    Goes (.sandn d a b) s (wrote s d (x &&& ~~~y)) ∧
    Goes (.ssll d a b) s (wrote s d (word (x.toNat * 2 ^ (y.toNat % 64)))) ∧
    Goes (.ssrl d a b) s (wrote s d (word (x.toNat / 2 ^ (y.toNat % 64)))) ∧
    Goes (.ssra d a b) s (wrote s d (BitVec.ofInt 64 (x.toInt / 2 ^ (y.toNat % 64)))) ∧
    Goes (.sslt d a b) s (wrote s d (flag (x.toInt < y.toInt))) ∧
    Goes (.ssltn d a b) s (wrote s d (flag (x.toNat < y.toNat))) ∧
    Goes (.smin d a b) s (wrote s d (BitVec.ofInt 64 (min x.toInt y.toInt))) ∧
    Goes (.smax d a b) s (wrote s d (BitVec.ofInt 64 (max x.toInt y.toInt))) ∧
    Goes (.sminn d a b) s (wrote s d (word (min x.toNat y.toNat))) ∧
    Goes (.smaxn d a b) s (wrote s d (word (max x.toNat y.toNat))) ∧
    Goes (.smul d a b) s (wrote s d (word (x.toNat * y.toNat))) ∧
    Goes (.smulh d a b) s (wrote s d (BitVec.ofInt 64 (x.toInt * y.toInt / 2 ^ 64))) ∧
    Goes (.smulhn d a b) s (wrote s d (word (x.toNat * y.toNat / 2 ^ 64))) ∧
    Goes (.smulhsu d a b) s (wrote s d (BitVec.ofInt 64 (x.toInt * y.toNat / 2 ^ 64)))

/-- R220, R107: the two divisions and remainders, their exceptional cases among them. The general signed case fixes the
quotient and remainder by their defining property. R220: the counts of bits. -/
def Obligations.ScalarDivision : Prop :=
  (∀ (s : State) (d a b : SReg),
    let x := src s a
    let y := src s b
    (y = 0 →
      Goes (.sdivn d a b) s (wrote s d (BitVec.allOnes 64)) ∧ Goes (.sremn d a b) s (wrote s d x) ∧
      Goes (.sdiv d a b) s (wrote s d (-1)) ∧ Goes (.srem d a b) s (wrote s d x)) ∧
    (y ≠ 0 →
      Goes (.sdivn d a b) s (wrote s d (word (x.toNat / y.toNat))) ∧
      Goes (.sremn d a b) s (wrote s d (word (x.toNat % y.toNat)))) ∧
    (x = BitVec.intMin 64 → y = -1 →
      Goes (.sdiv d a b) s (wrote s d (BitVec.intMin 64)) ∧ Goes (.srem d a b) s (wrote s d 0)) ∧
    (y ≠ 0 → ¬(x = BitVec.intMin 64 ∧ y = -1) →
      ∃ q r : Word, x.toInt = q.toInt * y.toInt + r.toInt ∧ |r.toInt| < |y.toInt| ∧ 0 ≤ r.toInt * x.toInt ∧
        Goes (.sdiv d a b) s (wrote s d q) ∧ Goes (.srem d a b) s (wrote s d r))) ∧
  (∀ (s : State) (d a : SReg),
    let x := src s a
    Goes (.spopc d a) s (wrote s d (word ((List.range 64).filter (fun i => x.getLsbD i)).length)) ∧
    (∃ n ≤ 64, Goes (.sclz d a) s (wrote s d (word n)) ∧ (∀ i < n, x.getLsbD (63 - i) = false) ∧
      (n < 64 → x.getLsbD (63 - n) = true)) ∧
    (∃ n ≤ 64, Goes (.sctz d a) s (wrote s d (word n)) ∧ (∀ i < n, x.getLsbD i = false) ∧ (n < 64 → x.getLsbD n = true)))

/-- R221, R222, R223: the immediate forms. -/
def Obligations.ScalarImmediateForms : Prop :=
  ∀ (s : State) (d a : SReg) (i : BitVec 15) (n : BitVec 6) (u : BitVec 20),
    let x := src s a
    let k := i.signExtend 64
    Goes (.saddi d a i) s (wrote s d (BitVec.ofInt 64 (x.toInt + i.toInt))) ∧
    Goes (.sandi d a i) s (wrote s d (x &&& k)) ∧
    Goes (.sori d a i) s (wrote s d (x ||| k)) ∧
    Goes (.sxori d a i) s (wrote s d (x ^^^ k)) ∧
    Goes (.slti d a i) s (wrote s d (flag (x.toInt < i.toInt))) ∧
    Goes (.sltin d a i) s (wrote s d (flag (x.toNat < k.toNat))) ∧
    Goes (.sslli d a n) s (wrote s d (word (x.toNat * 2 ^ n.toNat))) ∧
    Goes (.ssrli d a n) s (wrote s d (word (x.toNat / 2 ^ n.toNat))) ∧
    Goes (.ssrai d a n) s (wrote s d (BitVec.ofInt 64 (x.toInt / 2 ^ n.toNat))) ∧
    Goes (.slui d u) s (wrote s d (BitVec.ofInt 64 (u.toInt * 2 ^ 15))) ∧
    Goes (.spcrel d u) s (wrote s d (BitVec.ofInt 64 (s.me.pc.toInt + u.toInt * 2 ^ 15)))

/-- R224, R225: where the branches and jumps go. The target of `sjalr` is computed before its link register is written;
a target that is no multiple of 4 is not checked by the jump. -/
def Obligations.BranchesAndJumps : Prop :=
  ∀ (s : State) (d a b : SReg) (o : BitVec 15) (u : BitVec 20),
    let x := src s a
    let y := src s b
    let there := BitVec.ofInt 64 (s.me.pc.toInt + o.toInt * 4)
    let next := s.me.pc + 4
    Goes (.sbeq a b o) s (went s (if x = y then there else next)) ∧
    Goes (.sbne a b o) s (went s (if x ≠ y then there else next)) ∧
    Goes (.sblt a b o) s (went s (if x.toInt < y.toInt then there else next)) ∧
    Goes (.sbge a b o) s (went s (if y.toInt ≤ x.toInt then there else next)) ∧
    Goes (.sbltn a b o) s (went s (if x.toNat < y.toNat then there else next)) ∧
    Goes (.sbgen a b o) s (went s (if y.toNat ≤ x.toNat then there else next)) ∧
    Goes (.sjal d u) s (went (wrote s d next) (BitVec.ofInt 64 (s.me.pc.toInt + u.toInt * 4))) ∧
    Goes (.sjalr d a o) s (went (wrote s d next) (BitVec.ofInt 64 (x.toInt + o.toInt)))

namespace Sys2Proof.Claims

open Sys2Proof Sys2Proof.Machine


/-- A floating-point result: the value zero-extended into `d`, the flags ORed into `FLAGS`; nothing else has changed. -/
def wroteF (s : State) (d : SReg) (r : Res) : State :=
  { wrote s d (word r.val) with me := { (wrote s d (word r.val)).me with flags := s.me.flags ||| r.flags } }

/-- An operand of the format: an `fp32` operand is bits [31:0] (R237). -/
def srcF (s : State) (r : SReg) (f : Bool) : Nat := if f then (src s r).toNat % 2 ^ 32 else (src s r).toNat

/-- The rounding mode of RM: 0 is `FRM`, 1 to 6 name a mode (R237). -/
def rmOf (s : State) (r : RmField) : Rm :=
  match r.val with
  | 0 => Rm.ofCode s.me.frm.toNat
  | 1 => .rne
  | 2 => .rtz
  | 3 => .rdn
  | 4 => .rup
  | 5 => .rmm
  | _ => .rod


/-- The player has trapped (R238): cause, return address, index, value and privilege are saved, it is at supervisor
privilege at `EVEC`; an interrupted convoy stands in the resume slot, in the form in which it continues (R36, R254). Nothing
else has changed. -/
def trapped (s : State) (c : Cause) (epc eidx etval : Word) (resume : Bool) (info : BitVec 22) : State :=
  { s with me := { s.me with
      pc := s.me.trap.evec
      queue := []
      waiting := none
      conv := none
      slot := match s.me.conv with
        | some c => some (c.setAside s.me.tregs[0])
        | none => s.me.slot
      trap := { s.me.trap with
        ecause := c.code, epc := epc, eidx := eidx, etval := etval, ppriv := s.me.trap.priv, resume := resume, priv := true
        etinfo := info, entering := true } } }

/-- A scalar instruction traps: `EPC` is its own address, `EIDX`, `ESTAT.RESUME` and `ETINFO` are 0. -/
def Traps (i : Instr) (s : State) (c : Cause) (etval : Word) : Prop := Goes i s (trapped s c s.me.pc 0 etval false 0)


/-- The trap of an access that fails a check: three of the causes leave an error record first (R428, R444). -/
def TrapsAccess (i : Instr) (s : State) (c : Cause) (va : Word) : Prop :=
  Goes i s (trapped (s.contained c 1 s.me.pc 0 va) c s.me.pc 0 va false 0)

/-- The dwords of `n` bytes at `pa` hold no correctable error any more, and each that was corrected is counted in counter 2;
nothing else has changed (R255, R447). -/
def corrected (s : State) (pa n : Nat) : State :=
  let hit := fun (d : Nat) => decide (pa / 8 ≤ d) && decide (d ≤ (pa + n - 1) / 8)
  { s with
    mem := { s.mem with spadSoft := s.mem.spadSoft.filter (fun d => !hit d) }
    dev := (s.count 2 (s.mem.spadSoft.filter hit).length).dev }

/-- The bits `read` of register `t` hold no correctable error any more, and each that was corrected is counted in counter 0;
nothing else has changed (R255, R447). -/
def mended (s : State) (t : TReg) (read : Nat → Bool) : State :=
  let hit := fun (b : Nat × Nat) => decide (b.1 = t.val) && read b.2
  { s with
    me := { s.me with tsoft := s.me.tsoft.filter (fun b => !hit b) }
    dev := (s.count 0 (s.me.tsoft.filter hit).length).dev }

/-- The effective address of a scalar access (R195). -/
def addrOf (s : State) (a : SReg) (i : BitVec 15) : Word := BitVec.ofInt 64 ((src s a).toInt + i.toInt)

/-- The byte at a scratchpad address as the current player's own read observes it (R19). -/
def sees (s : State) (a : Nat) : Byte := s.spadByte s.me a

/-- `n` bytes from `pa` as the current player's own read observes them, the first the least significant. -/
def seesAt (s : State) (pa n : Nat) : Nat := ((List.range n).map (fun i => (sees s (pa + i)).toNat * 2 ^ (8 * i))).sum

/-- Byte `k` of a value. -/
def byteOf (v k : Nat) : Byte := BitVec.ofNat 8 (v / 2 ^ (8 * k))

/-- The own view of scratchpad after `n` bytes of `v` have been stored from `pa`: every other byte reads as before. -/
def seesStored (s t : State) (pa n v : Nat) : Prop :=
  ∀ a, sees t a = if pa ≤ a ∧ a < pa + n then byteOf v (a - pa) else sees s a

/-- The bytes of a value sign- or zero-extended to 64 bits. -/
def widened (signed : Bool) (n v : Nat) : Word :=
  if signed then (BitVec.ofNat (8 * n) v).signExtend 64 else word v

/-- A scalar store has entered the write buffer; nothing else has changed, and the player's own view has its bytes. -/
def Stored (s t : State) (pa n v : Nat) : Prop :=
  t = { s with me := { s.me with pc := s.me.pc + 4, wbuf := t.me.wbuf } } ∧
    t.me.wbuf.take s.me.wbuf.length = s.me.wbuf ∧ seesStored s t pa n v

/-- Two players differ at most in the wake flag of their monitors (R27). -/
def sameButWake (p q : Player) : Prop := { p with wake := false } = { q with wake := false }

/-- The home has taken one atomic step (R197) on `n` bytes at `pa`: `d` has the old value, `new` has been written if there
is one, and the player's own view of every other byte is unchanged. Errors of dwords it touches may have been corrected and
counted in counter 2. No other register, flag, translation, engine, queue or device state has changed. -/
def Swapped (s t : State) (d : SReg) (w : Bool) (pa n : Nat) (new : Option Nat) : Prop :=
  t.me.sregs = (wrote s d (widened w n (seesAt s pa n))).me.sregs ∧
    sameButWake { t.me with wbuf := s.me.wbuf } { s.me with pc := s.me.pc + 4, sregs := t.me.sregs } ∧
    List.Forall₂ sameButWake t.others s.others ∧
    t.qm = s.qm ∧ t.vm = s.vm ∧ t.eng = s.eng ∧ t.cp = s.cp ∧ (∃ k, t.dev = (s.count 2 k).dev) ∧ t.agenda = s.agenda ∧
    t.fresh = s.fresh ∧ t.mem.spadBad.Sublist s.mem.spadBad ∧ t.mem.spadSoft.Sublist s.mem.spadSoft ∧
    t.mem.host = s.mem.host ∧ t.mem.peer = s.mem.peer ∧ t.mem.turn = s.mem.turn ∧
    (match new with
      | some v => seesStored s t pa n v ∧ ∀ k < n, t.mem.spad.get (pa + k) = byteOf v k
      | none => ∀ a, sees t a = sees s a)

end Sys2Proof.Claims

/-- R237: the scalar floating-point instructions; the arithmetic is that of Machine/Numbers.lean. -/
def Obligations.ScalarFloatingPoint : Prop :=
  ∀ (s : State) (d a b : SReg) (r : RmField) (f : Bool),
    let F := if f then FName.fp32.fmt else FName.fp64.fmt
    let t := ElemTy.flt (if f then FName.fp32 else FName.fp64)
    let u := ElemTy.flt (if f then FName.fp64 else FName.fp32)
    let x := srcF s a f
    let y := srcF s b f
    let m := rmOf s r
    Goes (.sfadd d a b r f) s (wroteF s d (fadd F m x y)) ∧
    Goes (.sfsub d a b r f) s (wroteF s d (fsub F m x y)) ∧
    Goes (.sfmul d a b r f) s (wroteF s d (fmul F m x y)) ∧
    Goes (.sfdiv d a b r f) s (wroteF s d (fdiv F m x y)) ∧
    Goes (.sfsqrt d a r f) s (wroteF s d (fsqrt F m x)) ∧
    Goes (.sfmin d a b f) s (wroteF s d (fminmax F false x y)) ∧
    Goes (.sfmax d a b f) s (wroteF s d (fminmax F true x y)) ∧
    Goes (.sfma d a b r f) s (wroteF s d (ffma F m false false x y (srcF s d f))) ∧
    Goes (.sfsignc d a b f) s (wroteF s d ⟨fsignc F x y, 0⟩) ∧
    Goes (.sfsignn d a b f) s (wroteF s d ⟨fsignn F x y, 0⟩) ∧
    Goes (.sfsignx d a b f) s (wroteF s d ⟨fsignx F x y, 0⟩) ∧
    Goes (.sfeq d a b f) s (wroteF s d ⟨(fcmp F .eq x y).1.toNat, (fcmp F .eq x y).2⟩) ∧
    Goes (.sflt d a b f) s (wroteF s d ⟨(fcmp F .lt x y).1.toNat, (fcmp F .lt x y).2⟩) ∧
    Goes (.sfle d a b f) s (wroteF s d ⟨(fcmp F .le x y).1.toNat, (fcmp F .le x y).2⟩) ∧
    Goes (.sfcvti d a r f) s (wroteF s d (convert (.int true 64) t m x)) ∧
    Goes (.sfcvtn d a r f) s (wroteF s d (convert (.int false 64) t m x)) ∧
    Goes (.sicvtf d a r f) s (wroteF s d (convert t (.int true 64) m (src s a).toNat)) ∧
    Goes (.sncvtf d a r f) s (wroteF s d (convert t (.int false 64) m (src s a).toNat)) ∧
    Goes (.sfcvtx d a r f) s (wroteF s d (convert t u m (srcF s a !f)))

/-- R195, R19, R34: what the seven loads write; sd = s0 performs the access and discards the value. R195, R19: the four
stores. The bytes lie at the address that the access checks translate; a load corrects what it can of them (R255). -/
def Obligations.ScalarLoadsAndStores : Prop :=
  (∀ (s : State) (d a : SReg) (i : BitVec 15) (pa : Nat),
    let ok := fun n => checkAccess s s.me (addrOf s a i) n n .load = .ok pa
    (ok 8 → Goes (.sldD d a i) s (wrote (corrected s pa 8) d (word (seesAt s pa 8)))) ∧
    (ok 4 → Goes (.sldW d a i) s (wrote (corrected s pa 4) d (widened true 4 (seesAt s pa 4))) ∧
      Goes (.sldnW d a i) s (wrote (corrected s pa 4) d (widened false 4 (seesAt s pa 4)))) ∧
    (ok 2 → Goes (.sldH d a i) s (wrote (corrected s pa 2) d (widened true 2 (seesAt s pa 2))) ∧
      Goes (.sldnH d a i) s (wrote (corrected s pa 2) d (widened false 2 (seesAt s pa 2)))) ∧
    (ok 1 → Goes (.sldB d a i) s (wrote (corrected s pa 1) d (widened true 1 (seesAt s pa 1))) ∧
      Goes (.sldnB d a i) s (wrote (corrected s pa 1) d (widened false 1 (seesAt s pa 1))))) ∧
  (∀ (s : State) (v a : SReg) (i : BitVec 15) (pa : Nat),
    let ok := fun n => checkAccess s s.me (addrOf s a i) n n .store = .ok pa
    let x := (src s v).toNat
    (ok 8 → ∃ t, Goes (.sstD v a i) s t ∧ Stored s t pa 8 x) ∧
    (ok 4 → ∃ t, Goes (.sstW v a i) s t ∧ Stored s t pa 4 x) ∧
    (ok 2 → ∃ t, Goes (.sstH v a i) s t ∧ Stored s t pa 2 x) ∧
    (ok 1 → ∃ t, Goes (.sstB v a i) s t ∧ Stored s t pa 1 x))

/-- R196, R197: the ten atomics, for every ORD and SCOPE and both widths. -/
def Obligations.ScalarAtomics : Prop :=
  ∀ (s : State) (d a b : SReg) (sc o : Fin 4) (w : Bool) (pa : Nat),
    let n := if w then 4 else 8
    let old := seesAt s pa n
    let x := (src s b).toNat % 2 ^ (8 * n)
    let e := (src s d).toNat % 2 ^ (8 * n)
    let i := fun (v : Nat) => (BitVec.ofNat (8 * n) v).toInt
    let does := fun (ins : Instr) (new : Option Nat) => ∃ t, Goes ins s t ∧ Swapped s t d w pa n new
    s.canonicalMemory → checkAccess s s.me (src s a) n n .atomic = .ok pa →
      does (.samoAdd d a b sc o w) (some ((old + x) % 2 ^ (8 * n))) ∧
      does (.samoAnd d a b sc o w) (some (old &&& x)) ∧
      does (.samoOr d a b sc o w) (some (old ||| x)) ∧
      does (.samoXor d a b sc o w) (some (old ^^^ x)) ∧
      does (.samoSwap d a b sc o w) (some x) ∧
      does (.samoMin d a b sc o w) (some (if i x < i old then x else old)) ∧
      does (.samoMax d a b sc o w) (some (if i old < i x then x else old)) ∧
      does (.samoMinn d a b sc o w) (some (min old x)) ∧
      does (.samoMaxn d a b sc o w) (some (max old x)) ∧
      does (.samoCas d a b sc o w) (if old = e then some x else none)

/-- R193, R194: the checks of a scratchpad access in their order; the first that fails fixes the cause. R193, R238: a
scalar access that fails a check traps with the cause of that check, the address in `ETVAL` and 0 in `EIDX`, and has no
other effect than the record of three of the causes. R255: a dword in error faults a read and a store of part of it. -/
def Obligations.AccessChecks : Prop :=
  (∀ (s : State) (va : Word) (align n : Nat) (use : Use),
    let r := checkAccess s s.me va align n use
    let top := va.toNat / 2 ^ 56
    (¬(top = 0 ∨ top = 255) → r = .error .spadRange) ∧
    ((top = 0 ∨ top = 255) → va.toNat % align ≠ 0 → r = .error .misaligned) ∧
    ((top = 0 ∨ top = 255) → va.toNat % align = 0 → s.vm.leaf s.me.place.asid (va.toNat % 2 ^ 57) = none →
      r = .error .pageFault) ∧
    ∀ l, (top = 0 ∨ top = 255) → va.toNat % align = 0 → s.vm.leaf s.me.place.asid (va.toNat % 2 ^ 57) = some l →
      (l.space = .qm → r = .error .qmLoad) ∧
      (l.space = .host ∨ l.space = .peer → r = .error .spadRange) ∧
      (l.space = .spad → l.wtag ≠ s.me.place.wid → r = .error .worldViolation) ∧
      (l.space = .spad → l.wtag = s.me.place.wid → use ≠ .load → l.w = false → r = .error .pageFault) ∧
      (l.space = .spad → l.wtag = s.me.place.wid → (use = .load ∨ l.w = true) →
        let bad := ∃ d ∈ s.mem.spadBad, l.phys va / 8 ≤ d ∧ d ≤ (l.phys va + n - 1) / 8
        (bad → use ≠ .store ∨ n < 8 → r = .error .dataError) ∧ (¬bad → r = .ok (l.phys va)) ∧
        (use = .store → 8 ≤ n → r = .ok (l.phys va)))) ∧
  (∀ (s : State) (d a b : SReg) (i : BitVec 15) (sc o : Fin 4) (w : Bool) (c : Cause),
    let va := addrOf s a i
    let no := fun n use => checkAccess s s.me va n n use = .error c
    let n := if w then 4 else 8
    (no 8 .load → TrapsAccess (.sldD d a i) s c va) ∧
    (no 4 .load → TrapsAccess (.sldW d a i) s c va ∧ TrapsAccess (.sldnW d a i) s c va) ∧
    (no 2 .load → TrapsAccess (.sldH d a i) s c va ∧ TrapsAccess (.sldnH d a i) s c va) ∧
    (no 1 .load → TrapsAccess (.sldB d a i) s c va ∧ TrapsAccess (.sldnB d a i) s c va) ∧
    (no 8 .store → TrapsAccess (.sstD d a i) s c va) ∧ (no 4 .store → TrapsAccess (.sstW d a i) s c va) ∧
    (no 2 .store → TrapsAccess (.sstH d a i) s c va) ∧ (no 1 .store → TrapsAccess (.sstB d a i) s c va) ∧
    (checkAccess s s.me (src s a) n n .atomic = .error c →
      ∀ ins ∈ [Instr.samoAdd d a b sc o w, .samoAnd d a b sc o w, .samoOr d a b sc o w, .samoXor d a b sc o w,
          .samoSwap d a b sc o w, .samoMin d a b sc o w, .samoMax d a b sc o w, .samoMinn d a b sc o w,
          .samoMaxn d a b sc o w, .samoCas d a b sc o w], TrapsAccess ins s c (src s a)))

namespace Sys2Proof.Claims

open Sys2Proof Sys2Proof.Machine

/-- A scalar operand of a tile instruction, cut to the element width (R135). -/
def cutTo (s : State) (b : SReg) : Nat := (src s b).toNat % 2 ^ s.me.env.w

/-- The quotient of R107 on elements of `w` bits. -/
def quotient (signed : Bool) (w x y : Nat) : Nat :=
  if y = 0 then 2 ^ w - 1
  else if signed then wrap w ((toSigned w x).tdiv (toSigned w y)) else x / y

/-- The remainder of R107. -/
def remainder (signed : Bool) (w x y : Nat) : Nat :=
  if y = 0 then x
  else if signed then wrap w ((toSigned w x).tmod (toSigned w y)) else x % y

/-- The integer operations of R142 and R143 on two elements, by name. -/
structure IntOps where
  add : Nat → Nat → Nat
  sub : Nat → Nat → Nat
  and : Nat → Nat → Nat
  or : Nat → Nat → Nat
  xor : Nat → Nat → Nat
  andn : Nat → Nat → Nat
  min : Nat → Nat → Nat
  max : Nat → Nat → Nat
  sll : Nat → Nat → Nat
  srl : Nat → Nat → Nat
  sra : Nat → Nat → Nat
  mul : Nat → Nat → Nat
  mulh : Nat → Nat → Nat
  mulhsu : Nat → Nat → Nat
  div : Nat → Nat → Nat
  rem : Nat → Nat → Nat

/-- What they give on elements of the current type; the destination keeps the low w bits. -/
def intOps (e : Env) : IntOps where
  add x y := x + y
  sub x y := x + (2 ^ e.w - y)
  and x y := x &&& y
  or x y := x ||| y
  xor x y := x ^^^ y
  andn x y := x &&& (2 ^ e.w - 1 - y)
  min x y := if e.val x ≤ e.val y then x else y
  max x y := if e.val x ≤ e.val y then y else x
  sll x y := x * 2 ^ (y % e.w)
  srl x y := x / 2 ^ (y % e.w)
  sra x y := wrap e.w (toSigned e.w x / 2 ^ (y % e.w))
  mul x y := x * y
  mulh x y := wrap e.w (e.val x * e.val y / 2 ^ e.w)
  mulhsu x y := wrap e.w (toSigned e.w x * y / 2 ^ e.w)
  div x y := quotient e.ty.signed e.w x y
  rem x y := remainder e.ty.signed e.w x y

/-- A value without flags. -/
def quiet (f : Nat → Nat) : Nat → Res := fun k => ⟨f k, 0⟩

end Sys2Proof.Claims

/-- R134, R141 to R143, R91: the integer instructions on two groups. R134, R135, R141 to R143, R145: the integer
instructions on a group and a scalar. R134, R135, R146: the integer instructions on a group and an immediate; shift
amounts are unsigned. -/
def Obligations.TileInteger : Prop :=
  (∀ (s : State) (c : Bool) (d a b : TReg) (m : MaskMode),
    let e := s.me.env
    let o := intOps e
    let A := s.elAt a
    let B := s.elAt b
    Performs (.tadd c d a b m) s m (e.view d) (quiet fun f => o.add (A f) (B f)) ∧
    Performs (.tsub c d a b m) s m (e.view d) (quiet fun f => o.sub (A f) (B f)) ∧
    Performs (.tand c d a b m) s m (e.view d) (quiet fun f => o.and (A f) (B f)) ∧
    Performs (.tor c d a b m) s m (e.view d) (quiet fun f => o.or (A f) (B f)) ∧
    Performs (.txor c d a b m) s m (e.view d) (quiet fun f => o.xor (A f) (B f)) ∧
    Performs (.tandn c d a b m) s m (e.view d) (quiet fun f => o.andn (A f) (B f)) ∧
    Performs (.tmin c d a b m) s m (e.view d) (quiet fun f => o.min (A f) (B f)) ∧
    Performs (.tmax c d a b m) s m (e.view d) (quiet fun f => o.max (A f) (B f)) ∧
    Performs (.tsll c d a b m) s m (e.view d) (quiet fun f => o.sll (A f) (B f)) ∧
    Performs (.tsrl c d a b m) s m (e.view d) (quiet fun f => o.srl (A f) (B f)) ∧
    Performs (.tsra c d a b m) s m (e.view d) (quiet fun f => o.sra (A f) (B f)) ∧
    Performs (.tmul c d a b m) s m (e.view d) (quiet fun f => o.mul (A f) (B f)) ∧
    Performs (.tmulh c d a b m) s m (e.view d) (quiet fun f => o.mulh (A f) (B f)) ∧
    Performs (.tmulhsu c d a b m) s m (e.view d) (quiet fun f => o.mulhsu (A f) (B f)) ∧
    Performs (.tdiv c d a b m) s m (e.view d) (quiet fun f => o.div (A f) (B f)) ∧
    Performs (.trem c d a b m) s m (e.view d) (quiet fun f => o.rem (A f) (B f))) ∧
  (∀ (s : State) (c : Bool) (d a : TReg) (b : SReg) (m : MaskMode),
    let e := s.me.env
    let o := intOps e
    let A := s.elAt a
    let y := cutTo s b
    Performs (.taddS c d a b m) s m (e.view d) (quiet fun f => o.add (A f) y) ∧
    Performs (.tsubS c d a b m) s m (e.view d) (quiet fun f => o.sub (A f) y) ∧
    Performs (.tandS c d a b m) s m (e.view d) (quiet fun f => o.and (A f) y) ∧
    Performs (.torS c d a b m) s m (e.view d) (quiet fun f => o.or (A f) y) ∧
    Performs (.txorS c d a b m) s m (e.view d) (quiet fun f => o.xor (A f) y) ∧
    Performs (.tandnS c d a b m) s m (e.view d) (quiet fun f => o.andn (A f) y) ∧
    Performs (.tminS c d a b m) s m (e.view d) (quiet fun f => o.min (A f) y) ∧
    Performs (.tmaxS c d a b m) s m (e.view d) (quiet fun f => o.max (A f) y) ∧
    Performs (.tsllS c d a b m) s m (e.view d) (quiet fun f => o.sll (A f) y) ∧
    Performs (.tsrlS c d a b m) s m (e.view d) (quiet fun f => o.srl (A f) y) ∧
    Performs (.tsraS c d a b m) s m (e.view d) (quiet fun f => o.sra (A f) y) ∧
    Performs (.tmulS c d a b m) s m (e.view d) (quiet fun f => o.mul (A f) y) ∧
    Performs (.tmulhS c d a b m) s m (e.view d) (quiet fun f => o.mulh (A f) y) ∧
    Performs (.tmulhsuS c d a b m) s m (e.view d) (quiet fun f => o.mulhsu (A f) y) ∧
    Performs (.tdivS c d a b m) s m (e.view d) (quiet fun f => o.div (A f) y) ∧
    Performs (.tremS c d a b m) s m (e.view d) (quiet fun f => o.rem (A f) y) ∧
    Performs (.trsubS c d a b m) s m (e.view d) (quiet fun f => o.sub y (A f))) ∧
  (∀ (s : State) (c : Bool) (d a : TReg) (i : BitVec 6) (m : MaskMode),
    let e := s.me.env
    let o := intOps e
    let A := s.elAt a
    let y := wrap e.w i.toInt
    Performs (.taddI c d a i m) s m (e.view d) (quiet fun f => o.add (A f) y) ∧
    Performs (.tandI c d a i m) s m (e.view d) (quiet fun f => o.and (A f) y) ∧
    Performs (.torI c d a i m) s m (e.view d) (quiet fun f => o.or (A f) y) ∧
    Performs (.txorI c d a i m) s m (e.view d) (quiet fun f => o.xor (A f) y) ∧
    Performs (.tminI c d a i m) s m (e.view d) (quiet fun f => o.min (A f) y) ∧
    Performs (.tmaxI c d a i m) s m (e.view d) (quiet fun f => o.max (A f) y) ∧
    Performs (.tsllI c d a i m) s m (e.view d) (quiet fun f => o.sll (A f) i.toNat) ∧
    Performs (.tsrlI c d a i m) s m (e.view d) (quiet fun f => o.srl (A f) i.toNat) ∧
    Performs (.tsraI c d a i m) s m (e.view d) (quiet fun f => o.sra (A f) i.toNat) ∧
    Performs (.trsubI c d a i m) s m (e.view d) (quiet fun f => o.sub y (A f)))

/-- R148 to R153: the floating-point instructions on groups; the arithmetic is that of Machine/Numbers.lean. R148 to
R154: the floating-point instructions on a group and a scalar. -/
def Obligations.TileFloat : Prop :=
  (∀ (s : State) (c : Bool) (d a b : TReg) (m : MaskMode),
    let e := s.me.env
    let A := s.elAt a
    let B := s.elAt b
    let D := s.elAt d
    Performs (.tfadd c d a b m) s m (e.view d) (fun f => fadd e.fmt e.frm (A f) (B f)) ∧
    Performs (.tfsub c d a b m) s m (e.view d) (fun f => fsub e.fmt e.frm (A f) (B f)) ∧
    Performs (.tfmul c d a b m) s m (e.view d) (fun f => fmul e.fmt e.frm (A f) (B f)) ∧
    Performs (.tfdiv c d a b m) s m (e.view d) (fun f => fdiv e.fmt e.frm (A f) (B f)) ∧
    Performs (.tfmin c d a b m) s m (e.view d) (fun f => fminmax e.fmt false (A f) (B f)) ∧
    Performs (.tfmax c d a b m) s m (e.view d) (fun f => fminmax e.fmt true (A f) (B f)) ∧
    Performs (.tfsignc c d a b m) s m (e.view d) (fun f => ⟨fsignc e.fmt (A f) (B f), 0⟩) ∧
    Performs (.tfsignn c d a b m) s m (e.view d) (fun f => ⟨fsignn e.fmt (A f) (B f), 0⟩) ∧
    Performs (.tfsignx c d a b m) s m (e.view d) (fun f => ⟨fsignx e.fmt (A f) (B f), 0⟩) ∧
    Performs (.tfma c d a b m) s m (e.view d) (fun f => ffma e.fmt e.frm false false (A f) (B f) (D f)) ∧
    Performs (.tfms c d a b m) s m (e.view d) (fun f => ffma e.fmt e.frm false true (A f) (B f) (D f)) ∧
    Performs (.tfnma c d a b m) s m (e.view d) (fun f => ffma e.fmt e.frm true false (A f) (B f) (D f)) ∧
    Performs (.tfnms c d a b m) s m (e.view d) (fun f => ffma e.fmt e.frm true true (A f) (B f) (D f)) ∧
    Performs (.tfsqrt c d a m) s m (e.view d) (fun f => fsqrt e.fmt e.frm (A f)) ∧
    Performs (.tfrsqe c d a m) s m (e.view d) (fun f => frsqe e.fmt (A f)) ∧
    Performs (.tfrece c d a m) s m (e.view d) (fun f => frece e.fmt (A f))) ∧
  (∀ (s : State) (c : Bool) (d a : TReg) (b : SReg) (m : MaskMode),
    let e := s.me.env
    let A := s.elAt a
    let D := s.elAt d
    let y := cutTo s b
    Performs (.tfaddS c d a b m) s m (e.view d) (fun f => fadd e.fmt e.frm (A f) y) ∧
    Performs (.tfsubS c d a b m) s m (e.view d) (fun f => fsub e.fmt e.frm (A f) y) ∧
    Performs (.tfmulS c d a b m) s m (e.view d) (fun f => fmul e.fmt e.frm (A f) y) ∧
    Performs (.tfdivS c d a b m) s m (e.view d) (fun f => fdiv e.fmt e.frm (A f) y) ∧
    Performs (.tfminS c d a b m) s m (e.view d) (fun f => fminmax e.fmt false (A f) y) ∧
    Performs (.tfmaxS c d a b m) s m (e.view d) (fun f => fminmax e.fmt true (A f) y) ∧
    Performs (.tfsigncS c d a b m) s m (e.view d) (fun f => ⟨fsignc e.fmt (A f) y, 0⟩) ∧
    Performs (.tfsignnS c d a b m) s m (e.view d) (fun f => ⟨fsignn e.fmt (A f) y, 0⟩) ∧
    Performs (.tfsignxS c d a b m) s m (e.view d) (fun f => ⟨fsignx e.fmt (A f) y, 0⟩) ∧
    Performs (.tfmaS c d a b m) s m (e.view d) (fun f => ffma e.fmt e.frm false false (A f) y (D f)) ∧
    Performs (.tfmsS c d a b m) s m (e.view d) (fun f => ffma e.fmt e.frm false true (A f) y (D f)) ∧
    Performs (.tfnmaS c d a b m) s m (e.view d) (fun f => ffma e.fmt e.frm true false (A f) y (D f)) ∧
    Performs (.tfnmsS c d a b m) s m (e.view d) (fun f => ffma e.fmt e.frm true true (A f) y (D f)) ∧
    Performs (.tfrsubS c d a b m) s m (e.view d) (fun f => frsub e.fmt e.frm (A f) y) ∧
    Performs (.tfrdivS c d a b m) s m (e.view d) (fun f => frdiv e.fmt e.frm (A f) y))

/-- The bit a compare of two elements gives, with its flag (R156). -/
def Sys2Proof.Claims.compared (e : Env) (c : Cmp) (x y : Nat) : Res :=
  match e.ty with
  | .flt n => ⟨(fcmp n.fmt c x y).1.toNat, (fcmp n.fmt c x y).2⟩
  | _ => ⟨(c.onInt (e.val x) (e.val y)).toNat, 0⟩

/-- R144, R147: moves, splats, the index and the selects; `tsel` takes t0 as its selector and runs unmasked. R155, R156,
R91: the compares leave a mask register. -/
def Obligations.TileMovesAndCompares : Prop :=
  (∀ (s : State) (c : Bool) (d a b : TReg) (x : SReg) (i : BitVec 6) (m : MaskMode),
    let e := s.me.env
    let A := s.elAt a
    let B := s.elAt b
    Performs (.tmov c d a m) s m (e.view d) (quiet A) ∧
    Performs (.tiota c d m) s m (e.view d) (quiet id) ∧
    Performs (.tsplat c d x m) s m (e.view d) (quiet fun _ => cutTo s x) ∧
    Performs (.tsplatI c d i m) s m (e.view d) (quiet fun _ => wrap e.w i.toInt) ∧
    Performs (.tsel c d a b) s .unmasked (e.view d) (quiet fun f => if s.me.tregs[0].testBit f then A f else B f) ∧
    Performs (.tselS c d a x) s .unmasked (e.view d) (quiet fun f => if s.me.tregs[0].testBit f then A f else cutTo s x)) ∧
  (∀ (s : State) (c : Bool) (d a b : TReg) (x : SReg) (m : MaskMode),
    let e := s.me.env
    let A := s.elAt a
    let B := s.elAt b
    let y := cutTo s x
    PerformsMask (.tceq c d a b m) s m d (fun f => compared e .eq (A f) (B f)) ∧
    PerformsMask (.tcne c d a b m) s m d (fun f => compared e .ne (A f) (B f)) ∧
    PerformsMask (.tclt c d a b m) s m d (fun f => compared e .lt (A f) (B f)) ∧
    PerformsMask (.tcle c d a b m) s m d (fun f => compared e .le (A f) (B f)) ∧
    PerformsMask (.tcgt c d a b m) s m d (fun f => compared e .gt (A f) (B f)) ∧
    PerformsMask (.tcge c d a b m) s m d (fun f => compared e .ge (A f) (B f)) ∧
    PerformsMask (.tcun c d a b m) s m d (fun f => compared e .un (A f) (B f)) ∧
    PerformsMask (.tceqS c d a x m) s m d (fun f => compared e .eq (A f) y) ∧
    PerformsMask (.tcneS c d a x m) s m d (fun f => compared e .ne (A f) y) ∧
    PerformsMask (.tcltS c d a x m) s m d (fun f => compared e .lt (A f) y) ∧
    PerformsMask (.tcleS c d a x m) s m d (fun f => compared e .le (A f) y) ∧
    PerformsMask (.tcgtS c d a x m) s m d (fun f => compared e .gt (A f) y) ∧
    PerformsMask (.tcgeS c d a x m) s m d (fun f => compared e .ge (A f) y) ∧
    PerformsMask (.tcunS c d a x m) s m d (fun f => compared e .un (A f) y))

/-- R157 to R161, R116: saturating, averaging and fractional arithmetic, widening and narrowing; a halved difference that does
not fit its type saturates. R163 to R165: the instructions of sliced types. -/
def Obligations.TileFixedPoint : Prop :=
  (∀ (s : State) (c : Bool) (d a b : TReg) (m : MaskMode),
    let e := s.me.env
    let v := e.view d
    let A := fun f => e.val (s.elAt a f)
    let B := fun f => e.val (s.elAt b f)
    Performs (.tsadd c d a b m) s m v (fun f => sat e.ty.signed e.w (A f + B f)) ∧
    Performs (.tssub c d a b m) s m v (fun f => sat e.ty.signed e.w (A f - B f)) ∧
    Performs (.tavg c d a b m) s m v (quiet fun f => wrap e.w (xround (A f + B f) 1 e.xrm)) ∧
    Performs (.tavgsub c d a b m) s m v (fun f => sat e.ty.signed e.w (xround (A f - B f) 1 e.xrm)) ∧
    Performs (.tsmul c d a b m) s m v (fun f =>
      sat true e.w (xround (toSigned e.w (s.elAt a f) * toSigned e.w (s.elAt b f)) (e.w - 1) e.xrm)) ∧
    Performs (.twadd c d a b m) s m (e.wide d) (quiet fun f => wrap (2 * e.w) (A f + B f)) ∧
    Performs (.twsub c d a b m) s m (e.wide d) (quiet fun f => wrap (2 * e.w) (A f - B f)) ∧
    Performs (.twmul c d a b m) s m (e.wide d) (quiet fun f => wrap (2 * e.w) (A f * B f)) ∧
    Performs (.twmacc c d a b m) s m (e.wide d) (quiet fun f => wrap (2 * e.w) (s.el (e.wide d) f + A f * B f)) ∧
    Performs (.tnshr c d a b m) s m (e.narrow d) (fun f => sat e.ty.signed (e.w / 2) (xround (A f) (s.elAt b f % e.w) e.xrm))) ∧
  (∀ (s : State) (c : Bool) (d a b : TReg) (m : MaskMode),
    let e := s.me.env
    let A := s.elAt a
    let B := s.elAt b
    let D := s.elAt d
    let agree := fun f => ((List.range e.w).filter (fun k => (A f).testBit k == (B f).testBit k)).length
    Performs (.txnorpop c d a b m) s m (e.view d) (fun f => sat false e.w (D f + agree f)) ∧
    Performs (.tpext c d a b m) s m (e.view d) (quiet fun f => ((A f).testBit (B f % e.w)).toNat) ∧
    Performs (.tpins c d a b m) s m (e.view d) (quiet fun f => setBits (D f) (B f % e.w) 1 (A f)))

/-- R180 to R185: the element-wise permutes. `tslideup` keeps the elements below the amount. -/
def Obligations.TilePermutes : Prop :=
  ∀ (s : State) (c : Bool) (d a b : TReg) (x : SReg) (i : BitVec 6) (m : MaskMode),
    let e := s.me.env
    let A := s.elAt a
    let B := s.elAt b
    let up := fun (n f : Nat) => if n ≤ f then A (f - n) else s.elAt d f
    let down := fun (n f : Nat) => if f + n < e.flim then A (f + n) else 0
    Performs (.texpand c d a m) s m (e.view d)
      (quiet fun f => A ((List.range f).filter (selected m s.me.tregs[0])).length) ∧
    Performs (.tslideup c d a i m) s m (e.view d) (quiet (up i.toNat)) ∧
    Performs (.tslidedn c d a i m) s m (e.view d) (quiet (down i.toNat)) ∧
    Performs (.tslideupS c d a x m) s m (e.view d) (quiet (up (src s x).toNat)) ∧
    Performs (.tslidednS c d a x m) s m (e.view d) (quiet (down (src s x).toNat)) ∧
    Performs (.trgather c d a b m) s m (e.view d) (quiet fun f => if B f < e.flim then A (B f) else 0) ∧
    Performs (.ttrans c d a m) s m (e.view d) (quiet fun f =>
      let r := f / e.vl
      let k := f % e.vl
      let es := e.rc * (k / e.rc) + r
      let j := k % e.rc
      if es < e.vl ∧ j * e.vl + es < e.flim then A (j * e.vl + es) else 0) ∧
    Performs (.trowbc c d a m) s m (e.view d) (quiet fun f => A (f % e.vl)) ∧
    Performs (.tcolbc c d a m) s m (e.view d) (quiet fun f => A (f / e.vl * e.vl))

namespace Sys2Proof.Claims

open Sys2Proof Sys2Proof.Machine

/-- The active elements of a group of registers, in ascending order. -/
def activeOf (s : State) (m : MaskMode) : List Nat :=
  (List.range s.me.env.flim).filter (selected m s.me.tregs[0])

/-- The position list of a reduction: padding where an element is inactive (R128). -/
def positions (s : State) (m : MaskMode) (a : TReg) (n : Nat) : List Part :=
  (List.range n).map (fun f => if selected m s.me.tregs[0] f then some (s.elAt a f) else none)

/-- Position `k` of the ordinary group at a register (R168). -/
def posAt (s : State) (r : TReg) (k : Nat) : Nat := s.me.env.posGet (s.me.env.view r) (s.groupVal (s.me.env.view r)) k

/-- A tile instruction completes on its own having written the listed positions of the group at `d`: every other slot of
the group and every other register keeps its bits, the flags `fl` have been ORed in, nothing else has changed. -/
def Leaves (i : Instr) (s : State) (d : TReg) (new : List (Nat × Nat)) (fl : Flags) : Prop :=
  Lone i s → 2 ≤ s.me.env.vlmax →
    ∃ t, Goes i s t ∧ t.me.tsoft.Sublist s.me.tsoft ∧
      t = { s.after t with me := { (s.after t).me with flags := s.me.flags ||| fl } } ∧
      (∀ p ∈ new, posAt t d p.1 = p.2 % 2 ^ s.me.env.w) ∧
      (∀ r < s.me.env.rc, ∀ c < s.me.env.vlmax, (∀ p ∈ new, s.me.env.pos p.1 ≠ (r, c)) →
        s.me.env.getSlot (s.me.env.view d) (t.groupVal (s.me.env.view d)) r c =
          s.me.env.getSlot (s.me.env.view d) (s.groupVal (s.me.env.view d)) r c) ∧
      ∀ (k : Nat) (h : k < 64), k < d.val ∨ d.val + s.me.env.g ≤ k → t.me.tregs[k] = s.me.tregs[k]

/-- The tail of a group: all ones under TA, unchanged otherwise; with `FLIM` 0 nothing is written (R91, R137). -/
def TailLeft (s t : State) (v : View) : Prop :=
  (0 < s.me.env.flim → ∀ r < s.me.env.rc, ∀ c < s.me.env.vlmax,
    (s.me.env.vl ≤ c ∨ s.me.env.flim ≤ r * s.me.env.vl + c) →
      s.me.env.getSlot v (t.groupVal v) r c = if s.me.env.ta then ones v.w else s.me.env.getSlot v (s.groupVal v) r c) ∧
  (s.me.env.flim = 0 → t.me.tregs = s.me.tregs)

/-- A tile instruction completes on its own with a scalar result; no tile register and no flag has changed. -/
def LeavesScalar (i : Instr) (s : State) (d : SReg) (v : Word) : Prop :=
  Lone i s → ∃ t, Goes i s t ∧ t.me.tsoft.Sublist s.me.tsoft ∧ t = { s.after t with me := { (s.after t).me with
    tregs := s.me.tregs, flags := s.me.flags, sregs := if d = 0 then s.me.sregs else s.me.sregs.set d v } }

/-- The best candidate of a maximum or minimum (R133): the carry has index -1. -/
def chosen (s : State) (m : MaskMode) (wantMax : Bool) (a b : TReg) : Sel :=
  (activeOf s m).foldl (fun x f => x.offer s.me.env.ty wantMax (s.elAt a f) f)
    (Sel.empty.offer s.me.env.ty wantMax (posAt s b 0) (-1))

/-- The running sum before group `g`, and the sum at element `f` of it (R177). -/
def sumBefore (s : State) (m : MaskMode) (a b : TReg) (g : Nat) : Acc :=
  canonSum s.me.env.ty s.me.env.frm ⟨some (posAt s b 0), 0⟩ (positions s m a (64 * g))
def prefixAt (s : State) (m : MaskMode) (a b : TReg) (f : Nat) : Part × Flags :=
  partAdd s.me.env.ty s.me.env.frm ((sumBefore s m a b (f / 64)).part, 0)
    (tree64 s.me.env.ty s.me.env.frm ((positions s m a (f + 1)).drop (64 * (f / 64))))

/-- The first active element whose bit in register `a` is set (R187). -/
def firstSet (s : State) (m : MaskMode) (a : TReg) : Option Nat := (activeOf s m).find? (fun f => s.me.tregs[a].testBit f)

end Sys2Proof.Claims

/-- R128 to R131, R174, R175, R178, R179: sums and logic reductions write position 0 and nothing else. The canonical sum
is the fixed tree of R128, the ordered one takes the elements one by one (R130). With `FLIM` 0 the carry is the result.
R132, R133, R178, R179: maxima and minima, and the forms that leave the index in position 1. With `FLIM` 0 the carry is
the result, unchanged, and the index is all ones. -/
def Obligations.TileReductions : Prop :=
  (∀ (s : State) (c : Bool) (d a b : TReg) (m : MaskMode),
    let e := s.me.env
    let carry := posAt s b 0
    let xs := positions s m a e.flim
    let A := (activeOf s m).map (s.elAt a)
    let sum := canonSum e.ty e.frm ⟨some carry, 0⟩ xs
    let ordered := orderedSum e.ty e.frm ⟨some carry, 0⟩ xs
    let groups := (List.range ((e.flim + 63) / 64)).map (fun g => (g, tree64 e.ty e.frm ((xs.drop (64 * g)).take 64)))
    Leaves (.tredsum c d a b m) s d [(0, sum.part.getD 0)] sum.flags ∧
    Leaves (.tredosum c d a b m) s d [(0, ordered.part.getD 0)] ordered.flags ∧
    Leaves (.tredand c d a b m) s d [(0, A.foldl (· &&& ·) carry)] 0 ∧
    Leaves (.tredor c d a b m) s d [(0, A.foldl (· ||| ·) carry)] 0 ∧
    Leaves (.tredxor c d a b m) s d [(0, A.foldl (· ^^^ ·) carry)] 0 ∧
    Leaves (.tredgsum c d a m) s d (groups.map (fun g => (g.1, g.2.1.getD (padValue e.ty))))
      (groups.foldl (fun x g => x ||| g.2.2) 0)) ∧
  (∀ (s : State) (c : Bool) (d a b : TReg) (m : MaskMode),
    let e := s.me.env
    let best := fun mx => if e.flim = 0 then (posAt s b 0, (-1 : Int)) else (chosen s m mx a b).result e.ty
    let fl := fun mx => if e.flim = 0 then 0 else (chosen s m mx a b).flags
    Leaves (.tredmax c d a b m) s d [(0, (best true).1)] (fl true) ∧
    Leaves (.tredmin c d a b m) s d [(0, (best false).1)] (fl false) ∧
    Leaves (.tredmaxi c d a b m) s d [(0, (best true).1), (1, wrap e.w (best true).2)] (fl true) ∧
    Leaves (.tredmini c d a b m) s d [(0, (best false).1), (1, wrap e.w (best false).2)] (fl false))

/-- R187: logic on mask registers. R187, R91: the searches set the bits before, up to, or at the first set active bit;
with none there is no bit before which to stop. -/
def Obligations.MaskOperations : Prop :=
  (∀ (s : State) (c : Bool) (d a b : TReg) (m : MaskMode),
    let A := fun f => s.me.tregs[a].testBit f
    let B := fun f => s.me.tregs[b].testBit f
    let bit := fun (g : Nat → Bool) => quiet fun f => (g f).toNat
    PerformsMask (.tmand c d a b m) s m d (bit fun f => A f && B f) ∧
    PerformsMask (.tmor c d a b m) s m d (bit fun f => A f || B f) ∧
    PerformsMask (.tmxor c d a b m) s m d (bit fun f => A f != B f) ∧
    PerformsMask (.tmandn c d a b m) s m d (bit fun f => A f && !B f) ∧
    PerformsMask (.tmnot c d a m) s m d (bit fun f => !A f)) ∧
  (∀ (s : State) (c : Bool) (d a : TReg) (m : MaskMode),
    let k := firstSet s m a
    let bit := fun (g : Nat → Bool) => quiet fun f => (g f).toNat
    PerformsMask (.tmbefore c d a m) s m d (bit fun f => k.all (fun j => decide (f < j))) ∧
    PerformsMask (.tmthrough c d a m) s m d (bit fun f => k.all (fun j => decide (f ≤ j))) ∧
    PerformsMask (.tmonly c d a m) s m d (bit fun f => k == some f))

/-- R177: each active element of a scan receives the canonical sum of the carry and the active elements up to it; the
flags of every sum are ORed in. R182: `tcompress` packs the active elements into the first elements of td; those behind
them keep their bits, or are all ones under TA. R186, R188: the instructions with a scalar result. `textr` reads
position 0 whatever `FLIM` holds and extends it by the sign of the type. -/
def Obligations.TileScanCompressAndScalarResults : Prop :=
  (∀ (s : State) (c : Bool) (d a b : TReg) (m : MaskMode),
    let e := s.me.env
    let v := e.view d
    Lone (.tscan c d a b m) s →
      ∃ t, Goes (.tscan c d a b m) s t ∧ t.me.tsoft.Sublist s.me.tsoft ∧ t = s.after t ∧
        (∀ f ∈ activeOf s m, t.el v f = ((prefixAt s m a b f).1.getD 0) % 2 ^ e.w) ∧
        (∀ f < e.flim, f ∉ activeOf s m → t.el v f = if e.ma then ones e.w else s.el v f) ∧ TailLeft s t v ∧
        (∀ (k : Nat) (h : k < 64), k < d.val ∨ d.val + e.g ≤ k → t.me.tregs[k] = s.me.tregs[k]) ∧
        t.me.flags = (activeOf s m).foldl (fun x f => x ||| (prefixAt s m a b f).2)
          (s.me.flags ||| (sumBefore s m a b ((e.flim + 63) / 64)).flags)) ∧
  (∀ (s : State) (c : Bool) (d a : TReg) (m : MaskMode),
    let e := s.me.env
    let v := e.view d
    let xs := activeOf s m
    Lone (.tcompress c d a m) s →
      ∃ t, Goes (.tcompress c d a m) s t ∧ t.me.tsoft.Sublist s.me.tsoft ∧
        t = { s.after t with me := { (s.after t).me with flags := s.me.flags } } ∧
        (∀ (k : Nat) (h : k < xs.length), t.el v k = s.elAt a xs[k]) ∧
        (∀ k < e.flim, xs.length ≤ k → t.el v k = if e.ta then ones e.w else s.el v k) ∧ TailLeft s t v ∧
        ∀ (k : Nat) (h : k < 64), k < d.val ∨ d.val + e.g ≤ k → t.me.tregs[k] = s.me.tregs[k]) ∧
  (∀ (s : State) (c : Bool) (d : SReg) (a : TReg) (m : MaskMode),
    let e := s.me.env
    let x := posAt s a 0
    LeavesScalar (.tmpop c d a m) s d (word ((activeOf s m).filter (fun f => s.me.tregs[a].testBit f)).length) ∧
    LeavesScalar (.tmfirst c d a m) s d (match firstSet s m a with
      | some k => word k
      | none => BitVec.allOnes 64) ∧
    LeavesScalar (.textr c d a) s d (if e.ty.signed then BitVec.ofInt 64 (toSigned e.w x) else word x))

/-- R170 to R172: the element-wise conversions; dt is the type that the word names. R173: the scale byte of every block
of 32 that holds an active element, in one register from byte 0 or byte 128 L; every other byte keeps its bits. -/
def Obligations.TileConversions : Prop :=
  (∀ (s : State) (c : Bool) (d a : TReg) (t : TypeCode) (m : MaskMode),
    let e := s.me.env
    let A := s.elAt a
    let dt := dtOf t
    let grp := fun (n : Nat) (ty : ElemTy) => (⟨d.val, n, ty.width, false⟩ : View)
    let code := fun f => getBits s.me.tregs[1] (8 * (f / 32)) 8
    Performs (.tcvt c d a t m) s m (grp e.g dt) (fun f => convert dt e.ty e.frm (A f)) ∧
    Performs (.tcvtn c d a t m) s m (grp (e.g / 2) dt) (fun f => convert dt e.ty e.frm (A f)) ∧
    Performs (.tcvtw c d a t m) s m (grp (2 * e.g) dt) (fun f => convert dt e.ty e.frm (A f)) ∧
    Performs (.tcvte c d a m) s m (grp (e.g / 8) (.flt .e2m1)) (fun f => convert (.flt .e2m1) e.ty e.frm (A f)) ∧
    Performs (.tscale c d a m) s m (grp e.g (.flt e.fname)) (fun f => scaled e.fname.fmt e (code f) (code f - 127) (A f)) ∧
    Performs (.tcvtns c d a t m) s m (grp (e.g / 2) dt) (fun f => scaled (fnameOf t).fmt e (code f) (127 - code f) (A f)) ∧
    Performs (.tcvtes c d a m) s m (grp (e.g / 8) (.flt .e2m1)) (fun f => scaled FName.e2m1.fmt e (code f) (127 - code f) (A f))) ∧
  (∀ (s : State) (c : Bool) (d a : TReg) (t : TypeCode) (m : MaskMode),
    let e := s.me.env
    let block := fun k => ((activeOf s m).filter (fun f => decide (f / 32 = k))).map (fun f => elemVal e.ty (s.elAt a f))
    let byte := fun (x : State) (n : Nat) => getBits x.me.tregs[d] (8 * n) 8
    let does := fun (i : Instr) (off : Nat) => Lone i s → ∃ u, Goes i s u ∧ u.me.tsoft.Sublist s.me.tsoft ∧ u = s.after u ∧
      (∀ n < e.regBits / 8, byte u n = if off ≤ n ∧ block (n - off) ≠ [] then blockCode (dtOf t) (block (n - off)) % 256
        else byte s n) ∧
      (∀ (k : Nat) (h : k < 64), k ≠ d.val → u.me.tregs[k] = s.me.tregs[k]) ∧
      u.me.flags = s.me.flags ||| snanFlag ((activeOf s m).map (fun f => elemVal e.ty (s.elAt a f)))
    does (.tmxscale c d a t m) 0 ∧ does (.tmxscaleB c d a t m) (128 * e.lanes))

namespace Sys2Proof.Claims

open Sys2Proof Sys2Proof.Machine

/-- The scratchpad address behind a virtual address. -/
def behind (s : State) (va : Word) : Nat :=
  match s.vm.leaf s.me.place.asid (va.toNat % 2 ^ 57) with
  | some l => l.phys va
  | none => 0

/-- Every listed address passes the checks of R193. -/
def Passes (s : State) (vas : List Word) (align n : Nat) (use : Use) : Prop :=
  ∀ va ∈ vas, checkAccess s s.me va align n use = .ok (behind s va)

/-- A bit of scratchpad as the player's own read observes it: bit `k % 8` of byte `k / 8`. -/
def seesBit (s : State) (k : Nat) : Bool := (sees s (k / 8)).getLsbD (k % 8)

/-- `n` bits from bit address `k`, as a number. -/
def seesBits (s : State) (k n : Nat) : Nat := ((List.range n).map (fun i => (seesBit s (k + i)).toNat * 2 ^ i)).sum

/-- Runs of bits written one after the other: bit address, number of bits, value. The last that covers a bit gives it. -/
def overlaid (ws : List (Nat × Nat × Nat)) (k : Nat) (b : Bool) : Bool :=
  ws.foldl (fun b w => if w.1 ≤ k ∧ k < w.1 + w.2.1 then w.2.2.testBit (k - w.1) else b) b

/-- Where element `f` lies in the unit-stride, strided and indexed forms of whole-byte types (R200). -/
def unitAt (s : State) (a : SReg) (f : Nat) : Word := BitVec.ofInt 64 ((src s a).toInt + f * (s.me.env.w / 8 : Nat))
def strideAt (s : State) (a x : SReg) (f : Nat) : Word := BitVec.ofInt 64 ((src s a).toInt + f * (src s x).toInt)
def indexAt (s : State) (a : SReg) (x : TReg) (f : Nat) : Word := word ((src s a).toNat + s.elAt x f)

/-- Where bit `p` of element `f` of a sliced type lies (R200): the address of its byte; the bit is column mod 8. -/
def planeAt (s : State) (a : SReg) (f p : Nat) : Word :=
  let e := s.me.env
  word ((src s a).toNat + (f / e.vl * e.w + p) * (e.vlmax / 8) + f % e.vl / 8)

/-- A type whose elements are whole bytes. -/
def wholeBytes (e : Env) : Prop := e.ty.isSlice = false ∧ 8 ≤ e.w

/-- The store of a tile instruction has entered the write buffer: the player's own view has the listed runs of bits, one
after the other, every other bit is unchanged, and so is everything else but the flags and the register bits corrected. -/
def Buffered (s t : State) (ws : List (Nat × Nat × Nat)) (fl : Flags) : Prop :=
  (∀ k, seesBit t k = overlaid ws k (seesBit s k)) ∧ t.me.wbuf.take s.me.wbuf.length = s.me.wbuf ∧
    t.me.tsoft.Sublist s.me.tsoft ∧ t = { s.after t with me := { (s.after t).me with
      tregs := s.me.tregs, flags := s.me.flags ||| fl, wbuf := t.me.wbuf } }

/-- Some correctable errors of scratchpad have been corrected in place, each counted in counter 2; nothing else has changed
(R255, R447). -/
def SpadCorrected (s u : State) : Prop :=
  u.mem.spadSoft.Sublist s.mem.spadSoft ∧ u = { s with
    mem := { s.mem with spadSoft := u.mem.spadSoft }
    dev := (s.count 2 (s.mem.spadSoft.length - u.mem.spadSoft.length)).dev }

/-- A load completes with every element performed, the errors that it met in scratchpad corrected. -/
def PerformsLoad (i : Instr) (s : State) (m : MaskMode) (v : View) (val : Nat → Res) : Prop :=
  Lone i s → ∃ u t, Goes i s t ∧ SpadCorrected s u ∧ Performed u t m v val

/-- What a load from the listed addresses leaves, and what a store to them leaves, in whole-byte types. -/
def Loads (i : Instr) (s : State) (v : TReg) (m : MaskMode) (va : Nat → Word) : Prop :=
  let n := s.me.env.w / 8
  wholeBytes s.me.env → Passes s ((activeOf s m).map va) n n .load →
    PerformsLoad i s m (s.me.env.view v) (quiet fun f => seesBits s (8 * behind s (va f)) s.me.env.w)

def Stores (i : Instr) (s : State) (v : TReg) (m : MaskMode) (va : Nat → Word) : Prop :=
  let n := s.me.env.w / 8
  wholeBytes s.me.env → Passes s ((activeOf s m).map va) n n .store → Lone i s →
    ∃ t, Goes i s t ∧ Buffered s t ((activeOf s m).map (fun f => (8 * behind s (va f), s.me.env.w, s.elAt v f))) 0

/-- A lone load or store has stopped at element `f` (R204, R251, R252): the handler has been entered with the cause and the
address of the check that failed, the convoy stands in the resume slot, and of the active elements exactly `ps` are in DONE.
Nothing outside the player's record and the errors corrected and counted has changed, but for the record of the error. -/
structure StoppedAt (s t : State) (m : MaskMode) (ps : List Nat) (f : Nat) (c : Cause) (va : Word) : Prop where
  trap : t.me.trap = { s.me.trap with
    ecause := c.code, epc := s.me.pc, eidx := word f, etval := va, ppriv := s.me.trap.priv, resume := !ps.isEmpty
    priv := true, etinfo := t.me.trap.etinfo, entering := true }
  info : c ≠ .dataError → t.me.trap.etinfo = 16
  handler : t.me.pc = s.me.trap.evec ∧ t.me.conv = none ∧ t.me.waiting = none
  slot : ∃ cv x, t.me.slot = some cv ∧ cv.start = s.me.pc ∧ cv.members = [x] ∧ x.fin = false ∧
    ∀ g ∈ activeOf s m, x.done.testBit g = decide (g ∈ ps)
  kept : t.me.shape = s.me.shape ∧ t.me.sregs = s.me.sregs ∧ t.me.afq = s.me.afq ∧ t.me.owners = s.me.owners
  soft : t.me.tsoft.Sublist s.me.tsoft ∧ t.mem.spadSoft.Sublist s.mem.spadSoft
  rest : t = { s with me := t.me, mem := { s.mem with spadSoft := t.mem.spadSoft }, dev := t.dev }
  counted : ∃ i j spot, t.dev = (({ s with dev := ((s.count 2 i).count 0 j).dev } : State).contained c 1 s.me.pc (word f) va spot).dev

/-- The accesses of an element at `vas`, of `n` bytes aligned to `al`: the first that fails a check fails at `va`. -/
def FailsAt (s : State) (vas : List Word) (al n : Nat) (use : Use) (c : Cause) (va : Word) : Prop :=
  ∃ l r, vas = l ++ va :: r ∧ Passes s l al n use ∧ checkAccess s s.me va al n use = .error c

/-- The active elements below `f`. -/
def below (s : State) (m : MaskMode) (f : Nat) : List Nat := (activeOf s m).filter (fun g => decide (g < f))

/-- Is the element group of `g` complete when a load stops at element `f`: it lies before that of `f`, or, in a gather that
takes its groups in any order (R14), holds no active element from `f` on? -/
def groupDone (s : State) (m : MaskMode) (free : Bool) (f g : Nat) : Prop :=
  if free then ∀ h ∈ activeOf s m, h / 64 = g / 64 → h < f else g / 64 < f / 64

/-- A load of one group traps at the lowest active element that fails, every active element below it performed and no other
one (R204); inactive elements of groups that are complete have followed R91. -/
def LoadStops (free : Bool) (i : Instr) (s : State) (v : TReg) (m : MaskMode) (parts : Nat → List Word) (al n : Nat)
    (val : Nat → Nat) : Prop :=
  let e := s.me.env
  ∀ f c va, f ∈ activeOf s m → (∀ g ∈ below s m f, Passes s (parts g) al n .load) → FailsAt s (parts f) al n .load c va →
    Lone i s → ∃ t, Goes i s t ∧ StoppedAt s t m (below s m f) f c va ∧ t.me.flags = s.me.flags ∧ t.me.wbuf = s.me.wbuf ∧
      (∀ g ∈ below s m f, t.el (e.view v) g = val g % 2 ^ e.w) ∧
      (∀ g < e.flim, g ∉ below s m f →
        (e.ma = true → groupDone s m free f g → t.el (e.view v) g = ones e.w) ∧
        (¬(e.ma = true ∧ groupDone s m free f g) → t.el (e.view v) g = s.el (e.view v) g)) ∧
      ∀ (k : Nat) (h : k < 64), k < v.val ∨ v.val + e.g ≤ k → t.me.tregs[k] = s.me.tregs[k]

/-- The same of a store: the runs of bits of the elements below have entered the write buffer. -/
def StoreStops (i : Instr) (s : State) (m : MaskMode) (parts : Nat → List Word) (al n : Nat)
    (runs : Nat → List (Nat × Nat × Nat)) (fl : Nat → Flags) : Prop :=
  ∀ f c va, f ∈ activeOf s m → (∀ g ∈ below s m f, Passes s (parts g) al n .store) → FailsAt s (parts f) al n .store c va →
    Lone i s → ∃ t, Goes i s t ∧ StoppedAt s t m (below s m f) f c va ∧ t.me.tregs = s.me.tregs ∧
      (∀ k, seesBit t k = overlaid ((below s m f).flatMap runs) k (seesBit s k)) ∧
      t.me.wbuf.take s.me.wbuf.length = s.me.wbuf ∧ t.me.flags = (below s m f).foldl (fun x g => x ||| fl g) s.me.flags

/-- A load that trims (R205): where the lowest active element that fails does so by `spad-range` or `page-fault` and is not the
lowest active one, `FLIM` becomes its number and the load completes on the elements below; otherwise it traps there and has
written nothing. -/
def LoadTrims (i : Instr) (s : State) (v : TReg) (m : MaskMode) (parts : Nat → List Word) (al n : Nat) (val : Nat → Nat) : Prop :=
  ∀ f c va, f ∈ activeOf s m → (∀ g ∈ below s m f, Passes s (parts g) al n .load) → FailsAt s (parts f) al n .load c va →
    Lone i s →
      ((c = .spadRange ∨ c = .pageFault) ∧ below s m f ≠ [] →
        ∃ u t, Goes i s t ∧ SpadCorrected { s with me := { s.me with shape := { s.me.shape with flim := f } } } u ∧
          Performed u t m (s.me.env.view v) (quiet val)) ∧
      (¬((c = .spadRange ∨ c = .pageFault) ∧ below s m f ≠ []) →
        ∃ t, Goes i s t ∧ StoppedAt s t m [] f c va ∧ t.me.tregs = s.me.tregs ∧ t.me.flags = s.me.flags ∧ t.mem = s.mem)

/-- Is the player's link tag on a line intact (R209)? -/
def tagged (s : State) (l : Nat) : Prop := ⟨l, s.me.id⟩ ∈ s.mem.tags

/-- What an access that performs at the homes may have changed besides tile registers, flags and the bytes it stores:
the player's stores have drained, tickets were drawn, tags broken, monitors woken (R18, R20, R27, R208), errors corrected
and counted (R255). -/
def AtHomes (s t : State) (ws : List (Nat × Nat × Nat)) (tickets : Nat) : Prop :=
  (∀ k, seesBit t k = overlaid ws k (seesBit s k)) ∧ t.mem.turn = s.mem.turn + tickets ∧
    sameButWake { t.me with wbuf := [] } { (s.after t).me with wbuf := [] } ∧ List.Forall₂ sameButWake t.others s.others ∧
    t.qm = s.qm ∧ t.vm = s.vm ∧ t.eng = s.eng ∧ t.cp = s.cp ∧ t.agenda = s.agenda ∧ t.fresh = s.fresh ∧
    (∃ k, t.dev = ((s.count 2 k).count 0 (s.me.tsoft.length - t.me.tsoft.length)).dev) ∧
    t.me.tsoft.Sublist s.me.tsoft ∧ t.mem.spadSoft.Sublist s.mem.spadSoft ∧ t.mem.spadBad.Sublist s.mem.spadBad ∧
    t.mem.arrivals.Sublist s.mem.arrivals ∧ t.mem.host = s.mem.host ∧ t.mem.peer = s.mem.peer ∧ ∀ x ∈ t.mem.tags, x ∈ s.mem.tags ∨ x.player = s.me.id

end Sys2Proof.Claims

/-- R199, R200, R202, R205: the loads. When every active element passes the checks of R193, the first-fault load and,
under `LSPOL.GTRIM`, the indexed ones leave what a plain load does. R199, R200, R202: the stores. Elements that meet
leave the value of the highest; no other bit changes. R199, R200, R203: segment loads and stores; field i lies in the
group at tv + i·G, and a field whose memory type is not the register type is converted. R204, R205: where an element fails
a check, every form stops at the lowest one that does, and the loads that trim do so. Which of several failing fields of one
element a trap names is the model's choice, the lowest (notes/assumptions/30.md). -/
def Obligations.TileLoadsAndStores : Prop :=
  (∀ (s : State) (c : Bool) (v x : TReg) (a y : SReg) (m : MaskMode),
    let e := s.me.env
    Loads (.tld c v a m) s v m (unitAt s a) ∧
    Loads (.tldff c v a m) s v m (unitAt s a) ∧
    Loads (.tlds c v a y m) s v m (strideAt s a y) ∧
    Loads (.tldx c v a x m) s v m (indexAt s a x) ∧
    Loads (.tldxo c v a x m) s v m (indexAt s a x) ∧
    (e.ty = .flt .e2m1 → Passes s ((activeOf s m).map (fun f => src s a + word (f / 2))) 1 1 .load →
      let val := quiet fun f => seesBits s (8 * behind s (src s a + word (f / 2)) + 4 * (f % 2)) 4
      PerformsLoad (.tld c v a m) s m (e.view v) val ∧ PerformsLoad (.tldff c v a m) s m (e.view v) val) ∧
    (e.ty.isSlice = true → (src s a).toNat % 8 = 0 →
      (∀ f ∈ activeOf s m, Passes s ((List.range e.w).map (planeAt s a f)) 1 1 .load) →
      PerformsLoad (.tld c v a m) s m (e.view v) (quiet fun f => ((List.range e.w).map (fun p =>
        (seesBit s (8 * behind s (planeAt s a f p) + f % e.vl % 8)).toNat * 2 ^ p)).sum))) ∧
  (∀ (s : State) (c : Bool) (v x : TReg) (a y : SReg) (m : MaskMode),
    let e := s.me.env
    Stores (.tst c v a m) s v m (unitAt s a) ∧
    Stores (.tsts c v a y m) s v m (strideAt s a y) ∧
    Stores (.tstx c v a x m) s v m (indexAt s a x) ∧
    Stores (.tstxo c v a x m) s v m (indexAt s a x) ∧
    (e.ty = .flt .e2m1 → Passes s ((activeOf s m).map (fun f => src s a + word (f / 2))) 1 1 .store → Lone (.tst c v a m) s →
      ∃ t, Goes (.tst c v a m) s t ∧ Buffered s t ((activeOf s m).map (fun f =>
        (8 * behind s (src s a + word (f / 2)) + 4 * (f % 2), 4, s.elAt v f))) 0) ∧
    (e.ty.isSlice = true → (src s a).toNat % 8 = 0 →
      (∀ f ∈ activeOf s m, Passes s ((List.range e.w).map (planeAt s a f)) 1 1 .store) → Lone (.tst c v a m) s →
      ∃ t, Goes (.tst c v a m) s t ∧ Buffered s t ((activeOf s m).flatMap (fun f => (List.range e.w).map (fun p =>
        (8 * behind s (planeAt s a f p) + f % e.vl % 8, 1, s.elAt v f / 2 ^ p)))) 0)) ∧
  (∀ (s : State) (c : Bool) (v : TReg) (a : SReg) (mt : TypeCode) (m : MaskMode) (n : Fin 8),
    let e := s.me.env
    let nf := n.val + 1
    let ty := dtOf mt
    let mw := ty.width / 8
    let va := fun (f i : Nat) => word ((src s a).toNat + (f * nf + i) * mw)
    let field := fun (i : Nat) => (⟨v.val + i * e.g, e.g, e.w, e.ty.isSlice⟩ : View)
    let all := (activeOf s m).flatMap (fun f => (List.range nf).map (fun i => (f, i)))
    let ld := fun (f i : Nat) =>
      let y := seesBits s (8 * behind s (va f i)) ty.width
      if ty = e.ty then (⟨y, 0⟩ : Res) else convert e.ty ty e.frm y
    let st := fun (f i : Nat) =>
      let y := s.el (field i) f
      if ty = e.ty then (⟨y, 0⟩ : Res) else convert ty e.ty e.frm y
    (Passes s (all.map (fun p => va p.1 p.2)) mw mw .load → Lone (.tldseg c v a mt m n) s →
      ∃ u t, Goes (.tldseg c v a mt m n) s t ∧ SpadCorrected s u ∧ t.me.tsoft.Sublist s.me.tsoft ∧ t = u.after t ∧
        (∀ p ∈ all, t.el (field p.2) p.1 = (ld p.1 p.2).val % 2 ^ e.w) ∧
        (∀ i < nf, ∀ f < e.flim, f ∉ activeOf s m → t.el (field i) f = if e.ma then ones e.w else s.el (field i) f) ∧
        (∀ i < nf, TailLeft s t (field i)) ∧
        (∀ (k : Nat) (h : k < 64), k < v.val ∨ v.val + nf * e.g ≤ k → t.me.tregs[k] = s.me.tregs[k]) ∧
        t.me.flags = all.foldl (fun x p => x ||| (ld p.1 p.2).flags) s.me.flags) ∧
    (Passes s (all.map (fun p => va p.1 p.2)) mw mw .store → Lone (.tstseg c v a mt m n) s →
      ∃ t, Goes (.tstseg c v a mt m n) s t ∧
        Buffered s t (all.map (fun p => (8 * behind s (va p.1 p.2), ty.width, (st p.1 p.2).val)))
          (all.foldl (fun x p => x ||| (st p.1 p.2).flags) 0)) ∧
    (∀ f x w, f ∈ activeOf s m → (∀ g ∈ below s m f, Passes s ((List.range nf).map (va g)) mw mw .load) →
      FailsAt s ((List.range nf).map (va f)) mw mw .load x w → Lone (.tldseg c v a mt m n) s →
      ∃ t, Goes (.tldseg c v a mt m n) s t ∧ StoppedAt s t m (below s m f) f x w ∧
        (∀ g ∈ below s m f, ∀ i < nf, t.el (field i) g = (ld g i).val % 2 ^ e.w) ∧
        (∀ g < e.flim, g ∉ below s m f → ∀ i < nf,
          t.el (field i) g = if e.ma = true ∧ g / 64 < f / 64 then ones e.w else s.el (field i) g) ∧
        (∀ (k : Nat) (h : k < 64), k < v.val ∨ v.val + nf * e.g ≤ k → t.me.tregs[k] = s.me.tregs[k]) ∧
        t.me.flags = (all.filter (fun p => decide (p.1 < f))).foldl (fun x p => x ||| (ld p.1 p.2).flags) s.me.flags) ∧
    StoreStops (.tstseg c v a mt m n) s m (fun f => (List.range nf).map (va f)) mw mw
      (fun f => (List.range nf).map (fun i => (8 * behind s (va f i), ty.width, (st f i).val)))
      (fun f => (List.range nf).foldl (fun x i => x ||| (st f i).flags) 0)) ∧
  (∀ (s : State) (c : Bool) (v x : TReg) (a y : SReg) (m : MaskMode),
    let e := s.me.env
    let n := e.w / 8
    let one := fun (va : Nat → Word) (f : Nat) => [va f]
    let got := fun (va : Nat → Word) (f : Nat) => seesBits s (8 * behind s (va f)) e.w
    let put := fun (va : Nat → Word) (f : Nat) => [(8 * behind s (va f), e.w, s.elAt v f)]
    let nib := fun (f : Nat) => src s a + word (f / 2)
    let nibble := fun (f : Nat) => seesBits s (8 * behind s (nib f) + 4 * (f % 2)) 4
    (wholeBytes e →
      LoadStops false (.tld c v a m) s v m (one (unitAt s a)) n n (got (unitAt s a)) ∧
      LoadStops false (.tlds c v a y m) s v m (one (strideAt s a y)) n n (got (strideAt s a y)) ∧
      (s.me.gtrim = false →
        LoadStops true (.tldx c v a x m) s v m (one (indexAt s a x)) n n (got (indexAt s a x)) ∧
        LoadStops false (.tldxo c v a x m) s v m (one (indexAt s a x)) n n (got (indexAt s a x))) ∧
      (s.me.gtrim = true →
        LoadTrims (.tldx c v a x m) s v m (one (indexAt s a x)) n n (got (indexAt s a x)) ∧
        LoadTrims (.tldxo c v a x m) s v m (one (indexAt s a x)) n n (got (indexAt s a x))) ∧
      LoadTrims (.tldff c v a m) s v m (one (unitAt s a)) n n (got (unitAt s a)) ∧
      StoreStops (.tst c v a m) s m (one (unitAt s a)) n n (put (unitAt s a)) (fun _ => 0) ∧
      StoreStops (.tsts c v a y m) s m (one (strideAt s a y)) n n (put (strideAt s a y)) (fun _ => 0) ∧
      StoreStops (.tstx c v a x m) s m (one (indexAt s a x)) n n (put (indexAt s a x)) (fun _ => 0) ∧
      StoreStops (.tstxo c v a x m) s m (one (indexAt s a x)) n n (put (indexAt s a x)) (fun _ => 0)) ∧
    (e.ty = .flt .e2m1 →
      LoadStops false (.tld c v a m) s v m (one nib) 1 1 nibble ∧ LoadTrims (.tldff c v a m) s v m (one nib) 1 1 nibble ∧
      StoreStops (.tst c v a m) s m (one nib) 1 1 (fun f => [(8 * behind s (nib f) + 4 * (f % 2), 4, s.elAt v f)]) (fun _ => 0)) ∧
    (e.ty.isSlice = true → (src s a).toNat % 8 = 0 →
      let planes := fun (f : Nat) => (List.range e.w).map (planeAt s a f)
      let at' := fun (f p : Nat) => 8 * behind s (planeAt s a f p) + f % e.vl % 8
      LoadStops false (.tld c v a m) s v m planes 1 1
        (fun f => ((List.range e.w).map (fun p => (seesBit s (at' f p)).toNat * 2 ^ p)).sum) ∧
      StoreStops (.tst c v a m) s m planes 1 1
        (fun f => (List.range e.w).map (fun p => (at' f p, 1, s.elAt v f / 2 ^ p))) (fun _ => 0)))

/-- R207 to R210, R18: the accesses that perform at their homes. `tldsc` and `tstsc` draw a ticket for each active
element; `tgll` reads and tags each line; `tscc` stores in the lines whose tag is intact, says so in t0, and drops every
tag it looked at; where tv is t0 itself, an element of a later line is read after the results of an earlier one. -/
def Obligations.TileHomeAccesses : Prop :=
  ∀ (s : State) (c : Bool) (v x : TReg) (a : SReg) (m : MaskMode) (k : Bool),
    let e := s.me.env
    let n := e.w / 8
    let pa := fun f => behind s (indexAt s a x f)
    let km := if k then MaskMode.masked else .unmasked
    let ld := quiet fun f => seesBits s (8 * pa f) e.w
    let run := fun f => (8 * pa f, e.w, s.elAt v f)
    wholeBytes e → s.canonicalMemory →
    (Passes s ((activeOf s m).map (indexAt s a x)) n n .load → Lone (.tldsc c v a x m) s →
      ∃ t, Goes (.tldsc c v a x m) s t ∧ AtHomes s t [] (activeOf s m).length ∧
        ∃ u, Performed s u m (e.view v) ld ∧ t.me.tregs = u.me.tregs ∧ t.me.flags = s.me.flags) ∧
    (Passes s ((activeOf s m).map (indexAt s a x)) n n .store → Lone (.tstsc c v a x m) s →
      ∃ t, Goes (.tstsc c v a x m) s t ∧ AtHomes s t ((activeOf s m).map run) (activeOf s m).length ∧
        t.me.tregs = s.me.tregs ∧ t.me.flags = s.me.flags ∧
        ∀ f ∈ activeOf s m, ∀ j < n, t.mem.spad.get (pa f + j) = sees t (pa f + j)) ∧
    (Passes s ((activeOf s m).map (indexAt s a x)) n n .atomic → Lone (.tgll c v a x m) s →
      ∃ t, Goes (.tgll c v a x m) s t ∧
        (∃ u w, SpadCorrected s u ∧ Performed u w m (e.view v) ld ∧ t = { w with mem := { u.mem with tags := t.mem.tags } }) ∧
        (∀ f ∈ activeOf s m, tagged t (pa f / 64)) ∧ ∀ y ∈ t.mem.tags, y ∈ s.mem.tags ∨ y.player = s.me.id) ∧
    (Passes s ((activeOf s km).map (indexAt s a x)) n n .store → Lone (.tscc c v a x k) s →
      ∃ t, Goes (.tscc c v a x k) s t ∧
        (∀ (ok : Nat → Bool), (∀ l, ok l = true ↔ tagged s l) →
          (v ≠ 0 → AtHomes s t (((activeOf s km).filter (fun f => ok (pa f / 64))).map run) 0) ∧
          (∀ f ∈ activeOf s km, t.me.tregs[0].testBit f = ok (pa f / 64))) ∧
        (∀ f ∉ activeOf s km, t.me.tregs[0].testBit f = s.me.tregs[0].testBit f) ∧
        (∀ (j : Nat) (h : j < 64), 0 < j → t.me.tregs[j] = s.me.tregs[j]) ∧ t.me.flags = s.me.flags ∧
        ∀ f ∈ activeOf s km, ¬tagged t (pa f / 64))

namespace Sys2Proof.Claims

open Sys2Proof Sys2Proof.Machine

/-- The state after a tile instruction of an engine: as after any tile instruction, with the player's record and the
engines' tables changed as given. No tile register, scalar register, flag or memory has changed. -/
def engaged (s : State) (f : Player → Player) (g : Eng → Eng) : State :=
  { s.after s with me := f (s.after s).me, eng := g s.eng }

/-- The same for one that reads tile registers at its acceptance, from a state `u` that differs from the first at most in
corrected scratchpad errors: the register bits whose error it has corrected have gone, each counted (R255, R447). -/
def Engages (i : Instr) (s u : State) (f : Player → Player) (g : Eng → Eng) : Prop :=
  ∃ t, Goes i s t ∧ t.me.tsoft.Sublist u.me.tsoft ∧
    t = { u.after t with me := f { (u.after t).me with tregs := u.me.tregs, flags := u.me.flags }, eng := g u.eng }

/-- Changes the attached accumulator of a player (R265). -/
def onAttached (f : Accum → Accum) (p : Player) : Player :=
  { p with accum := p.accum.map (fun a => if a.detached then a else f a) }

/-- Register `r` lies in the accumulator group of the grant. -/
def inGroup (g : Grant) (r : TReg) : Prop := g.acc.toNat ≤ r.val ∧ r.val < g.acc.toNat + g.asize.toNat

/-- No attachment of the current player's cluster waits (R266). -/
def noneAttaching (s : State) : Prop := ∀ x ∈ s.eng.arrivals, x.2 = 2 → s.coreOf x.1 / 4 ≠ s.me.place.cluster

/-- An attached grant on the group at `d` (R267). -/
def attachedAt (s : State) (d : TReg) : Prop := s.me.grant.att = true ∧ s.me.grant.acc.toNat = d.val

/-- `mxop` and `mxopn`: the step that the array has accepted (R272), with what it read at acceptance. -/
def StepAccepted (i : Instr) (neg : Bool) (s : State) (d a b : TReg) (m : MaskMode) (e : Bool) : Prop :=
  let g := s.me.grant
  let scaled := g.family.scaled
  attachedAt s d → ¬inGroup g a → ¬inGroup g b → (m ≠ .unmasked → ¬inGroup g 0) → (e = true → ¬inGroup g 1) →
    (scaled = false → e = false) → (scaled = true → g.bstep = 31 → e = true) → s.me.env.code = g.afmt.toNat → Lone i s →
    ∃ act : Nat, (∀ k, act.testBit k =
        (decide (k < s.me.env.flim) && decide (k < max g.rows.toNat g.cols.toNat) && selected m s.me.tregs[0] k)) ∧
      Engages i s s (fun p => onAttached (fun x => { x with work := x.work ++
        [.op neg e s.me.tregs[a] s.me.tregs[b] act (if e then s.me.tregs[1] else 0) s.me.frm] })
        { p with grant := { g with bstep := if scaled then (if e then 0 else g.bstep + 1) else g.bstep } }) id

end Sys2Proof.Claims

/-- R266, R267, R271 to R276, R40: what the six matrix instructions leave when the array accepts them. `mxattach` writes
`GRANT` and begins the load of the group when no attachment of the player's cluster waits and the store has room for it. -/
def Obligations.MatrixInstructions : Prop :=
  ∀ (s : State) (c : Bool) (d a b p : TReg) (m : MaskMode) (e : Bool),
    (∀ F, Family.ofCodes a.val b.val = some F → s.me.grant.att = false → noneAttaching s →
      s.slotsUsed s.me.place.cluster + s.me.lanes * F.slots ≤ 1024 → Lone (.mxattach c d a b) s →
      let g : Grant := ⟨true, 0, BitVec.ofNat 6 d.val, BitVec.ofNat 4 F.asize, BitVec.ofNat 6 a.val, BitVec.ofNat 6 b.val,
        BitVec.ofNat 10 s.me.lanes, BitVec.ofNat 10 F.n⟩
      Engages (.mxattach c d a b) s s (fun q => { q with
        waiting := none
        grant := g
        accum := q.accum ++ [⟨g, groupOf s.me.tregs (2048 * s.me.lanes) d.val F.asize, 0, 0, 0, 0, 0, 0, [], 0, false⟩] }) id) ∧
    StepAccepted (.mxop c d a b m e) false s d a b m e ∧
    StepAccepted (.mxopn c d a b m e) true s d a b m e ∧
    (attachedAt s d → Lone (.mxzero c d) s →
      Goes (.mxzero c d) s (engaged s (fun q => onAttached (fun x => { x with work := x.work ++ [.zero] })
        { q with grant := { s.me.grant with bstep := 0 } }) id)) ∧
    (attachedAt s d → s.me.grant.bstep = 0 → ¬inGroup s.me.grant p →
      let back := fun (det : Bool) (q : Player) => onAttached (fun x => { x with work := x.work ++
          [.back det p.val s.eng.nextItem 0 s.me.pc] })
        { q with owners := ⟨p.val, s.me.grant.size / 64, s.eng.nextItem, false⟩ :: q.owners }
      (Lone (.mxsync c d p) s → Goes (.mxsync c d p) s
        (engaged s (back false) (fun x => { x with nextItem := x.nextItem + 1 }))) ∧
      (Lone (.mxdetach c d p) s → Goes (.mxdetach c d p) s
        (engaged s (fun q => { back true q with grant := Grant.none }) (fun x => { x with nextItem := x.nextItem + 1 }))))

namespace Sys2Proof.Claims

open Sys2Proof Sys2Proof.Machine

/-- The transfer that a stream instruction becomes: its operands and registers as they stand (R286, R302). -/
def transfer (s : State) (op : XOp) (dst from' len : Word) (pip : TReg) : Xfer :=
  let p := s.me
  let n := p.x.chunk.toNat % 2 ^ 32
  let x : Xfer := {
    id := s.eng.nextItem, owner := p.id, op := op, dst := dst, src := from', len := len
    dim1 := p.x.dim1, dim2 := p.x.dim2, str1 := p.x.str1, str2 := p.x.str2
    size := if n = 0 then 64 else n, np := p.x.chunk.getLsbD 32, flagA := p.x.flagA, flagV := p.x.flagV
    pip := pip.val, wid := p.place.wid, asid := p.place.asid, pc := p.pc, chunks := 0, done := 0
    reading := [], flushing := [], acking := [], flagOwed := decide (p.x.flagA ≠ 0), fault := false, ending := none, stopped := false }
  { x with chunks := x.count }

/-- An engine has a slot for the current player, and no instruction of its core waits for one (R291, R333). -/
def roomAt (s : State) (eng : Nat) : Prop :=
  s.slotFree eng s.me.id = true ∧ ∀ x ∈ s.eng.arrivals, x.2 = eng → s.coreOf x.1 ≠ s.coreOf s.me.id

/-- The stream engine accepts: it holds the transfer, which owns its pip chunks unless NP is set; an instruction without
chunks and without a landing flag is complete and leaves nothing (R290, R291, R292). -/
def StreamAccepts (i : Instr) (s : State) (x : Xfer) : Prop :=
  Lone i s → x.check s.me.lanes = none → roomAt s 3 →
    let keep : Bool := decide (x.chunks ≠ 0) || x.flagOwed
    Goes i s (engaged s
      (fun p => { p with waiting := none, owners := if x.np = false ∧ x.chunks ≠ 0 then
        ⟨x.pip, x.chunks, x.id, false⟩ :: p.owners else p.owners })
      (fun e => { e with
        arrivals := e.arrivals.filter (fun a => !(a.1 == s.me.id && a.2 == 3))
        nextItem := e.nextItem + 1
        xfers := if keep then e.xfers ++ [x] else e.xfers }))

end Sys2Proof.Claims

/-- R286, R287, R290 to R292, R295, R296, R302: what an accepted stream instruction leaves, and `xcancel` where none of
the transfers it names has a chunk in progress: each has gone, with a record of subcode 7. Each checks `XFLAGA`. That a transfer without
pip owns no chunk of its pip tile (notes/assumptions/60.md) and that `xcancel` checks `XFLAGA` too (71.md) are the model's readings. -/
def Obligations.StreamInstructions : Prop :=
  ∀ (s : State) (c : Bool) (d a b : SReg) (p : TReg),
    let x := fun op => transfer s op (src s d) (src s a) (src s b) p
    StreamAccepts (.xcopy c d a b p) s (x .copy) ∧
    StreamAccepts (.xcopy2 c d a b p) s (x .copy2) ∧
    StreamAccepts (.xcopy3 c d a b p) s (x .copy3) ∧
    StreamAccepts (.xgath c d a b p) s (x .gath) ∧
    StreamAccepts (.xput c d a b p) s (x .put) ∧
    StreamAccepts (.xseal c d a p) s (transfer s .xseal (src s d) (src s a) 0 p) ∧
    StreamAccepts (.xunseal c d a p) s (transfer s .xunseal (src s d) (src s a) 0 p) ∧
    StreamAccepts (.xbar c p) s (transfer s .bar 0 0 0 p) ∧
    (Lone (.xcancel c p) s → s.me.x.flagA.toNat % 8 ≠ 0 → ∃ t, Goes (.xcancel c p) s t ∧
      t.me.trap.ecause = Cause.misaligned.code ∧ t.me.pc = s.me.trap.evec ∧ t.eng = s.eng) ∧
    (Lone (.xcancel c p) s → s.me.x.flagA.toNat % 8 = 0 →
      (∀ l ∈ s.cp.launches, s.inLaunch l.id s.me.id = true → l.removing = none) →
      (∀ y ∈ s.eng.xfers, y.owner = s.me.id → y.pip = p.val →
        y.reading = [] ∧ y.flushing = [] ∧ y.acking = [] ∧ y.ending = none) →
      ∃ t, Goes (.xcancel c p) s t ∧
        (∀ y ∈ t.eng.xfers, y ∈ s.eng.xfers ∧ ¬(y.owner = s.me.id ∧ y.pip = p.val)) ∧
        (∀ y ∈ s.eng.xfers, (∀ z ∈ s.eng.xfers, z.id = y.id → ¬(z.owner = s.me.id ∧ z.pip = p.val)) → y ∈ t.eng.xfers) ∧
        t.me.sregs = s.me.sregs ∧ t.me.tregs = s.me.tregs ∧ t.me.flags = s.me.flags ∧ t.me.pc = s.me.pc + 4 ∧
        t.mem = s.mem ∧ t.qm = s.qm ∧ t.vm = s.vm ∧ t.cp = s.cp ∧ t.eng.queries = s.eng.queries ∧
        let gone := s.eng.xfers.filter (fun y => decide (y.owner = s.me.id) && decide (y.pip = p.val))
        (s.me.afq.length + gone.length ≤ 16 → t.me.afq.length = s.me.afq.length + gone.length ∧
          ∀ r ∈ t.me.afq.drop s.me.afq.length, r.cause = 0x13 ∧ r.eng = 3 ∧ r.ptile.toNat = p.val ∧ r.sub = 7 ∧ r.held = none))

/-- R288 to R290: the checks of a transfer in their order. Order 1: what each form must have aligned, the two halves of a stride
in use among it. Order 2: the sizes of `xput`, and T. Order 3: `np` frees a transfer of the limit on pip chunks. Order 4: the
rows and planes of a strided copy must not meet at the destination, and no source byte of a copy may lie between two
destination bytes or the other way round. An `xput` of size 0 fails order 1 or order 2 (notes/assumptions/71.md). -/
def Obligations.StreamChecks : Prop :=
  ∀ (x : Xfer) (lanes : Nat),
    let r := x.check lanes
    let by' := fun (n : Nat) (w : Word) => w.toNat % n = 0
    let halves := fun (w : Word) => w.toNat % 2 ^ 32 % 8 = 0 ∧ w.toNat / 2 ^ 32 % 8 = 0
    let src := fun (w : Word) => (w.setWidth 32).toInt
    let dst := fun (w : Word) => ((w >>> 32).setWidth 32).toInt
    let strided : Prop := x.op = .copy2 ∨ x.op = .copy3
    let sb := x.len.toNat
    let R := if x.op ∈ [XOp.copy2, .copy3, .gath] then x.dim1.toNat else 1
    let P := if x.op = .copy3 then x.dim2.toNat else 1
    let T := if x.op ∈ [XOp.xseal, .xunseal, .bar] then 0 else P * R * sb
    let chunks := if x.op ∈ [XOp.put, .xseal, .xunseal, .bar] then 1 else (T + x.size - 1) / x.size
    let order1 : Prop :=
      (x.op ∈ [XOp.copy, .copy2, .copy3, .gath] → by' 8 x.dst ∧ by' 8 x.src ∧ by' 8 x.len) ∧ (strided → halves x.str1) ∧
      (x.op = .copy3 → halves x.str2) ∧ (x.op = .put → by' sb x.dst) ∧
      (x.op = .xseal ∨ x.op = .xunseal → by' (2 ^ 21) x.dst ∧ by' (2 ^ 21) x.src) ∧ by' 8 x.flagA
    let order2 : Prop := (x.op = .put → sb ∈ [1, 2, 4, 8]) ∧ T < 2 ^ 40
    let order3 : Prop := x.np = true ∨ chunks ≤ 2048 * lanes
    let d1 := |dst x.str1|
    let e1 : Int := if R = 1 then sb else ((R : Int) - 1) * d1 + sb
    let s1 := if x.op = .copy then 0 else src x.str1
    let t1 := if x.op = .copy then 0 else dst x.str1
    let from' := fun (k j i : Nat) => (x.src.toNat : Int) + k * src x.str2 + j * s1 + i
    let onto := fun (k j i : Nat) => (x.dst.toNat : Int) + k * dst x.str2 + j * t1 + i
    let apart := fun (a b : Nat → Nat → Nat → Int) =>
      ∀ k j i k' j' i' : Nat, k < P → j < R → i < sb → k' < P → j' < R → i' < sb → a k j i < b k' j' i'
    let order4 : Prop := x.op ∈ [XOp.copy, .copy2, .copy3] →
      (strided → 1 < R → (sb : Int) ≤ d1) ∧ (x.op = .copy3 → 1 < P → e1 ≤ |dst x.str2|) ∧ (apart from' onto ∨ apart onto from')
    (x.op = .put → sb = 0 → r = some (.misaligned, 0) ∨ r = some (.streamFault, 3)) ∧
    ((x.op = .put → sb ≠ 0) →
      (¬order1 → r = some (.misaligned, 0)) ∧
      (order1 → ¬order2 → r = some (.streamFault, 3)) ∧
      (order1 → order2 → ¬order3 → r = some (.streamFault, 2)) ∧
      (order1 → order2 → order3 → ¬order4 → r = some (.streamFault, 4)) ∧
      (order1 → order2 → order3 → order4 → r = none))

namespace Sys2Proof.Claims

open Sys2Proof Sys2Proof.Machine

/-- What an accepted instruction of the query engine names besides its operands: groups as read at acceptance. -/
structure Named where
  tv : Nat := 0
  tq : Nat := 0
  dregs : Nat := 0
  pip : Nat := 0
  vec : Nat := 0
  idx : Nat := 0
  exp : Nat := 0
  prog : List Byte := []
  item : Option Nat := none

/-- The item that an accepted instruction becomes: what R333 says is captured. -/
def queryItem (s : State) (op : QOp) (sa sd : Word) (n : Named) : Query :=
  let p := s.me
  { id := s.eng.nextItem, owner := p.id, op := op, sa := sa, sd := sd
    tty := p.shape.tty, flim := p.shape.flim, vl := p.shape.vl, frm := p.frm, lanes := p.lanes, qratio := p.q.qratio.toNat
    qlen := p.q.qlen, qstride := p.q.qstride, qk := p.q.qk, qlo := p.q.qlo, qhi := p.q.qhi
    vec := n.vec, idx := n.idx, exp := n.exp, tv := n.tv, tq := n.tq, dregs := n.dregs, pip := n.pip
    wid := p.place.wid, asid := p.place.asid, pc := p.pc, prog := n.prog, sent := false, item := n.item
    touched := [], chunks := 0, done := 0, ok := 0, applied := 0, flags := 0, fault := false, stopped := false
    acking := [], ending := none }

/-- The query engine holds the item, which owns its pip chunks if it names a pip tile; an item without elements is complete
and leaves nothing (R333, R349). What the checks before have read stands corrected in `u`. -/
def QueryTakenFrom (i : Instr) (s u : State) (q : Query) (piped : Bool) : Prop :=
  Engages i s u
    (fun p => { p with waiting := none, owners := if piped = true ∧ q.count ≠ 0 then
      ⟨q.pip, q.nchunks, q.id, false⟩ :: p.owners else p.owners })
    (fun e => { e with
      arrivals := e.arrivals.filter (fun a => !(a.1 == s.me.id && a.2 == 4))
      nextItem := e.nextItem + 1
      queries := if q.count = 0 then e.queries else e.queries ++ [q] })

/-- The query engine accepts, having a slot free. -/
def QueryTaken (i : Instr) (s : State) (q : Query) (piped : Bool) : Prop :=
  Lone i s → s.qm.unav = false → roomAt s 4 → QueryTakenFrom i s s q piped

/-- The value of `n` registers from `r` up, the first lowest. -/
def regs (s : State) (r n : Nat) : Nat := groupOf s.me.tregs (2048 * s.me.lanes) r n

/-- A query or QM write whose checks of R335 pass. -/
def QueryAccepts (i : Instr) (s : State) (q : Query) (srcs : List (Nat × Nat)) (piped : Bool) : Prop :=
  q.check s.me srcs s.me.pc = none → QueryTaken i s q piped

end Sys2Proof.Claims

/-- R329 to R333: what the ten queries on plain rows capture when the engine accepts them. R335, R330, R334: the checks
of a query or QM write in their order. A trap carries the element that fails, and the bytes it touches where the reply
bound breaks. -/
def Obligations.QueryInstructions : Prop :=
  (∀ (s : State) (c : Bool) (v t p : TReg) (st : TypeCode) (a : SReg),
    let e := s.me.env
    let ig := max 1 (64 * e.g / e.w)
    let sa := src s a
    let T := t.val
    let vector : Named := { tv := v.val, tq := T, dregs := e.g, pip := p.val, vec := regs s T e.g }
    let mask : Named := { tv := v.val, tq := T, dregs := e.g, pip := p.val, vec := regs s T 1 }
    let extreme : Named := { mask with dregs := ig + e.g }
    let go := fun i op n srcs => QueryAccepts i s (queryItem s op sa 0 n) (srcs ++ [(p.val, 1)]) true
    go (.qdot c v t p a) .dot vector [(T, e.g)] ∧
    go (.qdotm c v t p a) .dotm vector [(T, e.g)] ∧
    go (.qdotx c v t p a) .dotx { vector with vec := regs s (T + ig) e.g, idx := regs s T ig } [(T, ig), (T + ig, e.g)] ∧
    go (.qgsum c v t p a) .gsum { vector with vec := 0, idx := regs s T ig } [(T, ig)] ∧
    go (.qsum c v t p a) .sum mask [(T, 1)] ∧
    go (.qcount c v t p a) .count mask [(T, 1)] ∧
    go (.qmax c v t p a) .max extreme [(T, 1)] ∧
    go (.qmin c v t p a) .min extreme [(T, 1)] ∧
    go (.qbest c v p a) .best { tv := v.val, dregs := ig + e.g, pip := p.val } [] ∧
    go (.qnarrow c v st p a) .narrow { tv := v.val, tq := st.val, dregs := e.g, pip := p.val } []) ∧
  (∀ (q : Query) (p : Player) (srcs : List (Nat × Nat)) (addr : Word),
    let r := q.check p srcs addr
    let strided : Prop := q.op ∉ [QOp.best, .st, .stx, .raddAdd, .raddMax, .raddMin, .raddOr, .raddAnd, .cas]
    let aligned := q.sa.toNat % q.ew = 0 ∧ (strided → q.qstride.toNat % q.ew = 0)
    let named : Prop := q.op = .stx ∨ q.op = .cas ∨
      (q.op ∈ [QOp.raddAdd, .raddMax, .raddMin, .raddOr, .raddAnd] ∧ q.tq ≠ 0)
    q.op ∉ [QOp.append, .eval, .copy, .merge, .hamm, .code] →
    (¬aligned → r = some ⟨.misaligned, 0, none⟩) ∧
    (aligned → ∀ f < q.flim, named → q.idxAt f % q.ew ≠ 0 → (∀ g < f, q.idxAt g % q.ew = 0) →
      r = some ⟨.misaligned, f, none⟩) ∧
    (aligned → (named → ∀ f < q.flim, q.idxAt f % q.ew = 0) → q.tooBig = true → r = some ⟨.illegalType, 0, none⟩) ∧
    (aligned → (named → ∀ f < q.flim, q.idxAt f % q.ew = 0) → q.tooBig = false → q.wide = false →
      let bounded := q.op = .cas ∨ q.op.isWrite = false
      (bounded → q.touched? < q.replySize * q.qratio → r = some ⟨.replyBound, 0, some q.touched?⟩) ∧
      (¬bounded ∨ q.replySize * q.qratio ≤ q.touched? → r = none)))

/-- R329, R330, R333, R342, R345, R346: what the accepted QM writes capture: the data group, and an offset group where
tq is not t0. R333, R347, R351 to R358, R360, R361, R366 to R368: acceptance of the searches, the append and the
management instructions. That a search or an append whose page does not translate, or whose header cannot be read, is accepted
all the same, without its count, and meets that after acceptance, is the model's reading of R367 beside R348
(notes/assumptions/54.md). -/
def Obligations.QueryWritesAndManagement : Prop :=
  (∀ (s : State) (c : Bool) (v t p : TReg) (a : SReg),
    let e := s.me.env
    let ig := max 1 (64 * e.g / e.w)
    let V := v.val
    let T := t.val
    let data : Named := { tv := V, tq := T, vec := regs s V e.g, idx := if T = 0 then 0 else regs s T ig }
    let cas : Named := ⟨V, T, 1, p.val, regs s (T + ig + e.g) e.g, regs s T ig, regs s (T + ig) e.g, [], none⟩
    let srcs := (V, e.g) :: (if T = 0 then [] else [(T, ig)])
    let go := fun i op => QueryAccepts i s (queryItem s op (src s a) 0 data) srcs false
    QueryAccepts (.qst c v a) s (queryItem s .st (src s a) 0 { data with tq := 0, idx := 0 }) [(V, e.g)] false ∧
    (t ≠ 0 → go (.qstx c v t a) .stx) ∧
    go (.qraddAdd c v t a) .raddAdd ∧
    go (.qraddMax c v t a) .raddMax ∧
    go (.qraddMin c v t a) .raddMin ∧
    go (.qraddOr c v t a) .raddOr ∧
    go (.qraddAnd c v t a) .raddAnd ∧
    QueryAccepts (.qcas c v t p a) s (queryItem s .cas (src s a) 0 cas) [(T, ig), (T + ig, e.g), (T + ig + e.g, e.g), (p.val, 1)] true) ∧
  (∀ (s : State) (c : Bool) (v t p : TReg) (d a b : SReg),
    let e := s.me.env
    let ig := max 1 (64 * e.g / e.w)
    let sa := src s a
    let search := fun op n (cnt : Option Nat) => queryItem s op sa 0
      { tv := v.val, tq := t.val, dregs := ig + e.g, pip := p.val, vec := regs s t.val n, item := cnt }
    (∀ o ∈ [(QOp.hamm, 1, Instr.qhamm c v t p a), (.code, e.g, .qcode c v t p a)],
      let q := search o.1 o.2.1
      Lone o.2.2 s → s.ownWriteAhead s.me.id s.me.place.asid sa = false →
        (∀ cnt u, s.searchCheck (q none) = .ok (some (cnt, u)) → u.qm.unav = false → roomAt u 4 →
          QueryTakenFrom o.2.2 s u (q (some cnt)) true) ∧
        (s.searchCheck (q none) = .ok none → QueryTaken o.2.2 s (q none) true)) ∧
    (let q := queryItem s .append sa 0 { tv := v.val, tq := t.val, dregs := 1, pip := p.val, vec := regs s v.val e.g }
     (∀ r, s.regionOf q sa = some r → r.isCollection = true →
        s.me.q.qlen.toNat % 2 ^ 48 * r.rowBytes * 8 ≤ e.g * (2048 * e.lanes)) → sa.toNat % 8 = 0 →
      QueryTaken (.qappend c v t p a) s q true) ∧
    (∀ prog : List Byte, (src s b).toNat % 32 = 0 → refusedByte prog = none → prog.length = 96 →
      (∀ k < 12, ∃ pa, checkAccess s s.me (src s b + word (8 * k)) 8 8 .load = .ok pa ∧
        ∀ j < 8, sees s (pa + j) = prog.getD (8 * k + j) 0) →
      sa.toNat % evalSw prog = 0 → s.me.q.loading = false →
      let q := queryItem s .eval sa (src s b) { prog := prog }
      (q.n = 0 ∨ s.windowOk s.me q (evalSw prog) = true) → Lone (.qeval c b a) s → s.qm.unav = false → roomAt s 4 →
      ∃ u, SpadCorrected s u ∧ QueryTakenFrom (.qeval c b a) s u q false) ∧
    (let q := queryItem s .copy sa (src s d) { pip := p.val }
     sa.toNat % 1024 = 0 → (src s d).toNat % 1024 = 0 → q.n % 1024 = 0 → (q.n + 65535) / 65536 ≤ 2048 * s.me.lanes →
     (sa.toNat + q.n ≤ (src s d).toNat ∨ (src s d).toNat + q.n ≤ sa.toNat ∨ q.n = 0) →
     QueryTaken (.qcopy c d p a) s q true) ∧
    (let q := queryItem s .merge sa (src s d) { tq := t.val, dregs := 1, pip := p.val }
     s.mergeOk q ≠ some false → QueryTaken (.qmerge c d t p a) s q true))

namespace Sys2Proof.Claims

open Sys2Proof Sys2Proof.Machine

/-- Changes the current player's record; nothing else has changed. -/
def mine (s : State) (f : Player → Player) : State := { s with me := f s.me }

/-- The current player waits in `i`; nothing else has changed. -/
def Waits (i : Instr) (s : State) : Prop := Goes i s (mine s (fun p => { p with waiting := some i }))

/-- The plain writable registers of R235 and the bits they hold; `EAFQA` shows what is written while a record is shown. -/
def writable : List (Nat × Nat) :=
  [(0x08, 3), (0x09, 2), (0x0C, 64), (0x0D, 64), (0x0E, 49), (0x0F, 64), (0x10, 34), (0x12, 64), (0x13, 64), (0x16, 1),
    (0x18, 64), (0x19, 64), (0x1A, 64), (0x1B, 64), (0x1C, 33), (0x1D, 64), (0x1E, 64)]
def superWritable : List (Nat × Nat) :=
  [(0x21, 8), (0x22, 64), (0x23, 64), (0x24, 64), (0x25, 64), (0x26, 64), (0x28, 2), (0x2A, 64), (0x34, 64)]

/-- The registers that only supervisor privilege may name (R235). -/
def privileged (n : Nat) : Prop :=
  n ∈ [0x21, 0x22, 0x23, 0x24, 0x25, 0x26, 0x28, 0x29, 0x2A, 0x2B, 0x2C, 0x2D, 0x33, 0x34, 0x35]

/-- The values that the owning rules take (R112, R234, R286, R332). -/
def taken (n : Nat) (v : Word) : Prop :=
  (n = 0x08 → v.toNat ≤ 5) ∧ (n = 0x09 → v.toNat ≤ 3) ∧ (n = 0x0E → v.toNat < 2 ^ 49) ∧ (n = 0x10 → v.toNat < 2 ^ 34) ∧
    (n = 0x1C → ∃ np : Fin 2, v.toNat = np.val * 2 ^ 32 ∨ ∃ k, 6 ≤ k ∧ k ≤ 21 ∧ v.toNat = np.val * 2 ^ 32 + 2 ^ k) ∧
    (n = 0x25 → v.toNat % 4 = 0)

/-- A `putsr` has changed the register `n` to `v` cut to `w` bits: every other register reads as before, and nothing outside
the current player's status registers has changed. -/
def Put (s t : State) (n w : Nat) (v : Word) : Prop :=
  (t.statusOf n).toNat = v.toNat % 2 ^ w ∧ (∀ m ≠ n, t.statusOf m = s.statusOf m) ∧ t = { s with me := t.me } ∧
    t.me.pc = s.me.pc + 4 ∧ t.me.sregs = s.me.sregs ∧ t.me.tregs = s.me.tregs ∧ t.me.trap.priv = s.me.trap.priv ∧
    t.me.wbuf = s.me.wbuf ∧ t.me.place = s.me.place ∧ t.me.afq.length = s.me.afq.length

end Sys2Proof.Claims

/-- R238, R241: `trap n` saves the address of the word after it and enters the handler. R241: `eret` restores privilege
and PC, and continues the convoy in the resume slot only under `ESTAT.RESUME` and at its address; at user privilege it
traps privileged. -/
def Obligations.TrapsAndReturn : Prop :=
  (∀ (s : State) (n : BitVec 6),
    Goes (.trap n) s (trapped s .trapInstruction (s.me.pc + 4) 0 (n.setWidth 64) false 0)) ∧
  (∀ (s : State),
    (s.me.trap.priv = true → Goes .eret s (mine s (fun p => { p with
      pc := p.trap.epc
      queue := []
      conv := if p.trap.resume = true ∧ p.slot.any (fun c => decide (c.start = p.trap.epc)) = true then p.slot else none
      slot := none
      trap := { p.trap with priv := p.trap.ppriv } }))) ∧
    (s.me.trap.priv = false → Traps .eret s .privileged s.me.pc))

/-- R234 to R236, R102, R253: `getsr` writes the register's value; deterministic mode hides the clock and the place of a
player and raises CLK. -/
def Obligations.StatusReads : Prop :=
  ∀ (s : State) (d : SReg) (n : BitVec 12),
    let k := n.toNat
    let t := s.me.trap
    let x := s.me.x
    let q := s.me.q
    let g := s.me.grant
    let grant := g.att.toNat + g.bstep.toNat * 2 ^ 2 + g.acc.toNat * 2 ^ 8 + g.asize.toNat * 2 ^ 16 + g.afmt.toNat * 2 ^ 24 +
      g.bfmt.toNat * 2 ^ 32 + g.rows.toNat * 2 ^ 40 + g.cols.toNat * 2 ^ 52
    let shown := match s.me.afq with
      | [] => 0
      | r :: _ => r.cause.toNat + r.eng.toNat * 2 ^ 8 + r.ptile.toNat * 2 ^ 12 + r.sub.toNat * 2 ^ 18 + 2 ^ 24 + r.chunk.toNat * 2 ^ 32
    let at' := match s.me.afq with
      | [] => 0
      | r :: _ => r.addr
    let hide := fun (v : Word) => Goes (.getsr d n) s { wrote s d v with me := { (wrote s d v).me with
      flags := s.me.flags ||| flagCLK } }
    let plain : List (Nat × Word) := [(0x00, word s.me.shape.vl), (0x01, word s.me.shape.flim), (0x02, word s.me.shape.vlmax),
      (0x03, s.me.shape.tty.setWidth 64), (0x04, s.me.shape.seat.setWidth 64), (0x05, word s.me.shape.allot), (0x06, word grant),
      (0x07, s.me.flags.setWidth 64), (0x08, s.me.frm.setWidth 64), (0x09, s.me.xrm.setWidth 64), (0x0A, flag (s.me.det = true)),
      (0x0B, word (s.me.place.rank + s.me.place.size * 2 ^ 16)), (0x0C, s.me.wmk), (0x0D, s.me.barp),
      (0x0E, q.qlen.setWidth 64), (0x0F, q.qstride), (0x10, q.qk.setWidth 64), (0x11, q.qratio.setWidth 64), (0x12, q.qlo),
      (0x13, q.qhi), (0x14, word s.me.shape.gbase), (0x15, word s.me.shape.gstep), (0x16, flag (s.me.gtrim = true)),
      (0x18, x.dim1), (0x19, x.dim2), (0x1A, x.str1), (0x1B, x.str2), (0x1C, x.chunk.setWidth 64), (0x1D, x.flagA),
      (0x1E, x.flagV), (0x20, word (s.me.place.wid + t.priv.toNat * 2 ^ 8)),
      (0x27, word (s.me.parked.length + s.me.joins.length * 2 ^ 4)), (0x2F, q.qewin),
      (0x2E, word (s.qm.lost.isSome.toNat + s.qm.lost.getD 15 * 2 + s.qm.unav.toNat * 2 ^ 5 + s.qm.warm.toNat * 2 ^ 6))]
    let super : List (Nat × Word) := [(0x21, t.ecause.setWidth 64), (0x22, t.epc), (0x23, t.eidx), (0x24, t.etval), (0x25, t.evec),
      (0x26, t.escratch), (0x28, word (t.ppriv.toNat + t.resume.toNat * 2)), (0x29, word (t.level.toNat + t.nspill.toNat * 2 ^ 8)),
      (0x2A, t.efspc), (0x2C, word (shown + s.me.afqOvf.toNat * 2 ^ 25)), (0x2D, at'), (0x33, flag (q.act = true)), (0x34, q.qrmt), (0x35, q.qrmv)]
    let placed : List (Nat × Word) := [(0x31, word s.me.place.slot), (0x32, word (s.me.place.core + s.me.place.cluster * 4))]
    (∀ y ∈ plain, k = y.1 → Goes (.getsr d n) s (wrote s d y.2)) ∧
    (∀ y ∈ super, k = y.1 → t.priv = true → Goes (.getsr d n) s (wrote s d y.2)) ∧
    (privileged k → t.priv = false → Traps (.getsr d n) s .privileged s.me.pc) ∧
    (∀ y ∈ placed, k = y.1 → (s.me.det = false → Goes (.getsr d n) s (wrote s d y.2)) ∧ (s.me.det = true → hide 0)) ∧
    (k = 0x2B → t.priv = true → (s.me.det = false → Goes (.getsr d n) s (wrote s d (t.etinfo.setWidth 64))) ∧
      (s.me.det = true → hide (t.etinfo.setWidth 64 &&& 0x3F00FF))) ∧
    (k = 0x30 → ∃ u, Goes (.getsr d n) s u ∧ s.dev.clock ≤ u.dev.clock ∧
      (s.me.det = false → u.me = (wrote s d (word u.dev.clock)).me) ∧
      (s.me.det = true → u.me = { (wrote s d 0).me with flags := s.me.flags ||| flagCLK }) ∧
      u.mem = s.mem ∧ u.others = s.others ∧ u.cp = s.cp ∧ u.eng = s.eng)

/-- R234, R235, R2: `putsr` writes a plain writable register; a value that the owning rule refuses traps illegal-opcode,
and a supervisor register at user privilege traps privileged, with no effect. R117, R297, R356, R375, R376, R379, R380:
the registers whose writes do more. Resuming is stated for a held instruction that finds a slot free; where it does not,
it waits behind those that arrived before it. What a write of `EAFQA` changes is the model's reading (notes/assumptions/13.md). -/
def Obligations.StatusWrites : Prop :=
  (∀ (s : State) (a : SReg) (n : BitVec 12),
    let k := n.toNat
    let v := src s a
    let i := Instr.putsr a n
    (∀ r ∈ writable, k = r.1 → taken k v → ∃ t, Goes i s t ∧ Put s t k r.2 v) ∧
    (∀ r ∈ superWritable, k = r.1 → s.me.trap.priv = true → taken k v → ∃ t, Goes i s t ∧ Put s t k r.2 v) ∧
    (k = 0x29 → s.me.trap.priv = true → ∃ t, Goes i s t ∧ Put s t k 64 (v &&& 0xFF0F)) ∧
    (k = 0x2B → s.me.trap.priv = true → ∃ t, Goes i s t ∧ Put s t k 22 (v &&& 0x3FFFF7)) ∧
    (k = 0x2D → s.me.trap.priv = true → ∃ t, Goes i s t ∧ Put s t k 64 (if s.me.afq = [] then 0 else v)) ∧
    (privileged k → s.me.trap.priv = false → Traps i s .privileged s.me.pc) ∧
    (¬taken k v → (privileged k → s.me.trap.priv = true) → Traps i s .illegalOpcode s.me.pc)) ∧
  (∀ (s : State) (a : SReg),
    let v := src s a
    let sup := s.me.trap.priv = true
    let on := fun (f : Player → Player) => mine s (fun p => { f p with pc := s.me.pc + 4 })
    Goes (.putsrFlags a) s (on (fun p => { p with flags := v.setWidth 7 })) ∧
    Goes (.putsrQewin a) s (on (fun p => { p with q := { p.q with qewin := v, window := none, loading := true } })) ∧
    (sup → Goes (.putsrEafq a) s (on (fun p => { p with
      afq := p.afq.tail
      afqOvf := p.afqOvf && v.getLsbD 25 }))) ∧
    (∀ i ∈ [Instr.putsrEafqrResume a, .putsrEafqrDiscard a], sup →
      (v = 0 ∨ (v = 1 ∧ s.me.oldestHeld = none) → Goes i s (on (fun p => { p with
        afq := p.afq.tail, q := { p.q with act := v.getLsbD 0 } }))) ∧
      (∀ h, v = 1 → s.me.oldestHeld = some h → roomAt s h.eng → (h.eng = 4 → s.qm.unav = false) →
        Goes i s ((on (fun p => { p with afq := p.afq.tail, q := { p.q with act := true } })).reaccept h)) ∧
      (2 ≤ v.toNat → Traps i s .illegalOpcode s.me.pc)) ∧
    (sup → s.remapStatus s.me.place.asid v s.me.q.qrmt ≠ 0 → Goes (.putsrQrmv a) s (on (fun p => { p with
      q := { p.q with qrmv := word (s.remapStatus s.me.place.asid v s.me.q.qrmt) } }))) ∧
    (sup → s.remapStatus s.me.place.asid v s.me.q.qrmt = 0 → s.remapBusy s.me.place.asid v s.me.q.qrmt = false →
      ∃ t, Goes (.putsrQrmv a) s t ∧ t.vm = (s.remap s.me.place.asid v s.me.q.qrmt).vm ∧
        t = { on (fun p => { p with q := { p.q with qrmv := 0 } }) with vm := t.vm }) ∧
    (¬sup → ∀ i ∈ [Instr.putsrEafq a, .putsrEafqrResume a, .putsrEafqrDiscard a, .putsrQrmv a],
      Traps i s .privileged s.me.pc))

namespace Sys2Proof.Claims

open Sys2Proof Sys2Proof.Machine

/-- Earlier accesses of the listed kinds have performed at a scope (R25, R212): bit 0 SPAD, 1 QMW, 2 QRY, 3 STRM; none is held
by a fault record (R377). At HART a store has performed once it is buffered (R19); a `qcas` counts as a QM write until its
elements have performed (R370). -/
def performedAt (s : State) (sc : Fin 4) (kinds : Nat) : Prop :=
  s.me.heldOf kinds = none ∧ (∀ r ∈ s.eng.resumed, r.1 = s.me.id → r.2.inKinds kinds = false) ∧
    (kinds.testBit 0 = true → sc ≠ 0 → s.me.wbuf = [] ∧ ∀ x ∈ s.mem.arrivals, x.1 ≠ s.me.id) ∧
    (kinds.testBit 1 = true → ∀ q ∈ s.eng.queries, q.owner = s.me.id → q.op.isWrite = true →
      q.op = .cas ∧ ∀ f < q.flim, q.done.testBit f = true) ∧
    (kinds.testBit 2 = true → ∀ q ∈ s.eng.queries, q.owner = s.me.id → q.op.isQuery = false) ∧
    (kinds.testBit 3 = true → ∀ x ∈ s.eng.xfers, x.owner ≠ s.me.id)

/-- The same at DEVICE. -/
def performed (s : State) (kinds : Nat) : Prop := performedAt s 2 kinds

/-- What one step at a home may have changed (R20, R27): `n` bytes at `pa` hold `v`, tags of other players on the line are
gone, monitors on it wake; errors met on the way are corrected and counted (R255). -/
def HomeStep (s t : State) (pa n v : Nat) : Prop :=
  seesStored s t pa n v ∧ (∀ k < n, t.mem.spad.get (pa + k) = byteOf v k) ∧
    List.Forall₂ sameButWake t.others s.others ∧ t.me.tregs = s.me.tregs ∧ t.me.flags = s.me.flags ∧
    t.me.trap = s.me.trap ∧ t.me.shape = s.me.shape ∧ t.me.afq = s.me.afq ∧
    t.qm = s.qm ∧ t.vm = s.vm ∧ t.eng = s.eng ∧ t.cp = s.cp ∧ (∃ k, t.dev = (s.count 2 k).dev) ∧ t.agenda = s.agenda ∧
    t.fresh = s.fresh ∧ t.mem.spadBad.Sublist s.mem.spadBad ∧ t.mem.spadSoft.Sublist s.mem.spadSoft ∧
    (∀ g ∈ t.mem.tags, g ∈ s.mem.tags ∧ (g.line = pa / 64 → g.player = s.me.id)) ∧
    t.mem.host = s.mem.host ∧ t.mem.peer = s.mem.peer ∧ t.mem.turn = s.mem.turn

/-- The chunks that a `pwait` names have been read (R215, R255). -/
def chunksRead (s : State) (a b : SReg) (p : TReg) : State :=
  mended s p (fun k => decide ((src s a).toNat ≤ k) && (src s b).getLsbD (k - (src s a).toNat))

/-- A `wait` under its condition: it completes with the dword, or sleeps on its line. -/
def WaitsFor (i : Instr) (s : State) (d a : SReg) (cond : Word → Bool) : Prop :=
  ∀ pa, checkAccess s s.me (src s a) 8 8 .load = .ok pa →
    let v := word (seesAt s pa 8)
    let u := corrected s pa 8
    (cond v = true → Goes i s (mine (wrote u d v) (fun p => { p with armed := none, wake := false }))) ∧
    (cond v = false → Goes i s (mine u (fun p => { p with waiting := some i, armed := some (pa / 64), wake := false })))

end Sys2Proof.Claims

/-- R25 to R27, R101, R211 to R216: the synchronisation instructions complete when what they wait for holds, and wait
otherwise. -/
def Obligations.Synchronisation : Prop :=
  ∀ (s : State) (d a b : SReg) (p : TReg) (sc : Fin 4) (k : BitVec 4),
    (performedAt s sc k.toNat → Goes (.fence sc k) s (went s (s.me.pc + 4))) ∧
    (s.me.heldOf k.toNat = none → ¬performedAt s sc k.toNat → Waits (.fence sc k) s) ∧
    WaitsFor (.waitEq d a b) s d a (fun v => v == src s b) ∧
    WaitsFor (.waitNe d a b) s d a (fun v => v != src s b) ∧
    WaitsFor (.waitGeu d a b) s d a (fun v => decide ((src s b).toNat ≤ v.toNat)) ∧
    WaitsFor (.waitAny d a b) s d a (fun v => v &&& src s b != 0) ∧
    (let c0 := (src s a).toNat
     let named := (List.range 64).filter (fun i => (src s b).getLsbD i)
     let lost := fun i => s.me.lostChunk p (c0 + i)
     let set := fun i => (s.me.tregs[p]).testBit (c0 + i)
     let u := chunksRead s a b p
     p.val < s.me.shape.allot → c0 % 64 = 0 → c0 < 2048 * s.me.lanes →
     ((∀ i ∈ named, set i = true) → Goes (.pwait a b p) s (went u (s.me.pc + 4))) ∧
     ((∀ i ∈ named, lost i = false) → (∃ i ∈ named, set i = false) →
       Goes (.pwait a b p) s (mine u (fun q => { q with waiting := some (.pwait a b p) }))) ∧
     (∀ i ∈ named, lost i = true → (∀ j ∈ named, j < i → lost j = false) →
       Goes (.pwait a b p) s (trapped u .partnerFault s.me.pc (word (64 * (c0 + i))) s.me.pc false 0))) ∧
    (∀ pa, s.canonicalMemory → checkAccess s s.me s.me.wmk 8 8 .atomic = .ok pa → performed s 3 →
      let old := seesAt s pa 8
      ∃ t, Goes (.wmpub d a) s t ∧ HomeStep s t pa 8 (max old (src s a).toNat) ∧ t.me.pc = s.me.pc + 4 ∧
        t.me.sregs = (wrote s d (word old)).me.sregs) ∧
    (∀ pa, s.canonicalMemory → checkAccess s s.me s.me.barp 8 8 .atomic = .ok pa → s.me.barGen = none →
      let old := seesAt s pa 8
      let gen := old / 2 ^ 32
      let cnt := old % 2 ^ 32 + 1
      let last := s.liveCount s.me.place.launch s.me.place.party ≤ cnt
      ∃ t, Goes .bar s t ∧ t.me.sregs = s.me.sregs ∧
        (last → HomeStep s t pa 8 ((gen + 1) % 2 ^ 32 * 2 ^ 32) ∧ t.me.pc = s.me.pc + 4 ∧ t.me.waiting = none) ∧
        (¬last → HomeStep s t pa 8 (gen * 2 ^ 32 + cnt % 2 ^ 32) ∧ t.me.pc = s.me.pc ∧ t.me.waiting = some .bar ∧
          t.me.barGen = some (gen, s.me.barp) ∧ t.me.armed = some (pa / 64)))

namespace Sys2Proof.Claims

open Sys2Proof Sys2Proof.Machine

/-- No player number occurs twice. -/
def distinctPlayers (s : State) : Prop := (s.players.map (fun p => p.id)).Nodup

/-- The dwords of the record at `a` (R244): where they lie, and what the player's own reads observe there. -/
def recordAt (s : State) (a : Word) (ds : List Nat) : Prop :=
  ds.length = 10 ∧ ∀ k < 10, ∃ pa, checkAccess s s.me (a + word (8 * k)) 8 8 .load = .ok pa ∧ seesAt s pa 8 = ds.getD k 0

/-- A party's cut of `n` elements (R94): what a member with the given number of elements before it receives. -/
def cut (n before room : Nat) : Nat × Nat := (min n before, min room (n - before))

/-- Shape after a strip of `lim` elements (R93, R96): VL, FLIM. -/
def stripOf (vlmax rc lim : Nat) : Nat × Nat :=
  let vl := min vlmax ((lim + rc - 1) / rc)
  (vl, min lim (rc * vl))

/-- The strip of `setvl` and `setvlw` on a player (R93). -/
def withStrip (lim : Nat) (p : Player) : Player :=
  let r := stripOf p.shape.vlmax (2 ^ (p.shape.tty.toNat / 2 ^ 8 % 8)) lim
  { p with shape := { p.shape with limit := lim, vl := r.1, flim := r.2, gbase := 0, gstep := r.2 } }

/-- The limit that `setvl` takes from its two operands (R93). -/
def stripLimit (det : Bool) (a b : Nat) : Nat :=
  if b = 0 ∨ a ≤ b then a else if det then min a (max 64 (64 * (b / 64))) else b

/-- A player whose registers start afresh: all zero, without errors, and `VLMAX` as its seats give it. -/
def afresh (p : Player) : Player :=
  { p with tregs := Vector.replicate 64 0, tbad := [], tsoft := [], shape := { p.shape with
    vlmax := vlmaxOf p.shape.tty p.lanes } }

/-- A pending reseat as R80 applies it: the seats asked for that the player holds or that are free, retired ones left out;
registers start afresh when that changes the seats. -/
def seated (s : State) : State :=
  match s.me.shape.pending with
  | none => s
  | some req =>
    let core := s.me.place.coreIx
    let m : BitVec 16 := BitVec.ofNat 16 (req.toNat &&& (s.me.shape.seat.toNat ||| s.freeSeats core) &&&
      (0xFFFF - s.retiredSeats core % 2 ^ 16))
    let p := { s.me with shape := { s.me.shape with pending := none } }
    if m = 0 ∨ m = s.me.shape.seat then { s with me := p }
    else { s with me := afresh { p with shape := { p.shape with seat := m } } }

/-- The same, and the registers start afresh after a seat has retired (R82). -/
def reseated (s : State) : State :=
  let u := seated s
  if u.me.shape.await then { u with me := afresh { u.me with shape := { u.me.shape with await := false } } } else u

/-- A configuration instruction may go on at once: a pending reseat finds nothing in flight and no grant, and after a seat has
retired one is left (R80, R82). -/
def mayConfigure (s : State) : Prop :=
  (s.me.shape.pending ≠ none → s.tileQuiet s.me = true ∧ s.me.grant.att = false) ∧
    (s.me.shape.await = true → (seated s).me.shape.seat ≠ 0)

end Sys2Proof.Claims

/-- R242, R243, R244, R396: `yield` only hands the turn on; `halt` ends its player once nothing of it is in flight;
`launch` hands its record over and returns the first status that applies. That the handler region counts at supervisor privilege
(notes/assumptions/24.md) and a MODE paired with its LAUNCH as a packet (40.md) are the model's readings. -/
def Obligations.PlayerControl : Prop :=
  ∀ (s : State) (d a b : SReg),
    (distinctPlayers s → ∃ t, Goes .yield s t ∧ t.players.Perm ({ s.me with pc := s.me.pc + 4 } :: s.others) ∧
      t = { s with me := t.me, others := t.others } ∧
      ((∃ p ∈ s.others, s.runnable p = true) → t.others.getLast? = some { s.me with pc := s.me.pc + 4 })) ∧
    (s.me.grant.att = true → Traps .halt s .matrixGrant s.me.pc) ∧
    (distinctPlayers s → s.me.grant.att = false → s.me.heldOf 15 = none → s.haltReady = true →
      ∃ t, Goes .halt s t ∧ (∀ p ∈ t.players, p.id = s.me.id → p.live = false) ∧ ∀ g ∈ t.mem.tags, g.player ≠ s.me.id) ∧
    (∀ ds, performed s 3 → recordAt s (src s a) ds →
      let q := (src s b).toNat % 64
      let h := s.queueAt q
      let r := descOfRecord ds
      let st : Nat := if h.world ≠ s.me.place.wid then 4 else if r.2 = false then 2
        else if r.1.entry.toNat % 4 ≠ 0 ∨ inRegion (codeRegion s s.me) r.1.entry.toNat = false then 3
        else if h.enable = false ∨ 256 ≤ h.filled then 1 else 0
      ∃ u t, SpadCorrected s u ∧ Goes (.launch d a b) s t ∧ t = { wrote u d (word st) with cp := t.cp } ∧
        (st ≠ 0 → t.cp = s.cp) ∧
        (st = 0 → ∃ k, (t.queueAt q).pending = h.pending ++ [k] ∧ k.kind = .launch ∧
          k.device = some (s.me.place.module, s.me.place.asid, r.1)))

/-- R93 to R98, R80, R83: what the configuration instructions leave. `setvl.g` is stated for the member that arrives
last, no member having a reseat pending: every member receives its strip in rank order. R84 to R86, R93, R96: a
configuration instruction that completes leaves a strip that lies inside its registers, with `VLMAX` as the type, the
lanes and the shape give it. -/
def Obligations.Configuration : Prop :=
  (∀ (s : State) (d a b : SReg),
    let A := (src s a).toNat
    let B := (src s b).toNat
    let u := reseated s
    (mayConfigure s → let t := mine u (withStrip (stripLimit s.me.det A B))
      Goes (.setvl d a b) s (wrote t d (word t.me.shape.flim))) ∧
    (∀ pa, checkAccess s s.me s.me.wmk 8 8 .load = .ok pa → mayConfigure s →
      let t := mine u (withStrip A)
      let w := corrected t pa 8
      (B + t.me.shape.flim ≤ seesAt s pa 8 → Goes (.setvlw d a b) s
        (mine (wrote w d (word t.me.shape.flim)) (fun p => { p with armed := none, wake := false }))) ∧
      (seesAt s pa 8 < B + t.me.shape.flim → Goes (.setvlw d a b) s
        (mine w (fun p => { p with waiting := some (.setvlw d a b), armed := some (pa / 64), wake := false })))) ∧
    (let ty := ElemTy.ofCode (A % 64)
      let ok : Prop := A < 2 ^ 13 ∧ A / 2 ^ 8 % 8 < 6 ∧ ∃ e, ty = some e ∧ 2 ^ (A / 2 ^ 6 % 4) ≤ e.width
      (ok → let vm := vlmaxOf (BitVec.ofNat 13 A) s.me.lanes
            let r := stripOf vm (2 ^ (A / 2 ^ 8 % 8)) s.me.shape.limit
        Goes (.settype d a) s (wrote (mine s (fun p => { p with shape := { p.shape with
          tty := BitVec.ofNat 13 A, vlmax := vm, vl := r.1, flim := r.2 } })) d (word vm))) ∧
      (¬ok → Traps (.settype d a) s .illegalType s.me.pc)) ∧
    ((A = 0 ∨ 2 ^ 16 ≤ A) → Goes (.reseat d a) s (wrote s d 0)) ∧
    (0 < A → A < 2 ^ 16 → Goes (.reseat d a) s (wrote (mine s (fun p => { p with shape := { p.shape with
      pending := some (BitVec.ofNat 16 A) } })) d 1)) ∧
    (let held : Prop := A < s.me.shape.allot ∧ s.me.grant.att = true ∧ A < s.me.grant.acc.toNat + s.me.grant.asize.toNat
      let ok : Prop := A % 8 = 0 ∧ 8 ≤ A ∧ A ≤ 64
      (¬ok ∨ held → Traps (.allot d a) s .registerAllotment s.me.pc) ∧
      (ok → ¬held → (A < s.me.shape.allot → s.namesFrom s.me A = false) → ∃ t, Goes (.allot d a) s t ∧
        t = wrote (mine s (fun p => { p with
          tregs := t.me.tregs, tbad := t.me.tbad, tsoft := t.me.tsoft, shape := { p.shape with allot := A } })) d (word A) ∧
        (∀ b, b ∈ t.me.tbad ↔ b ∈ s.me.tbad ∧ (A < s.me.shape.allot → b.1 < A)) ∧
        (∀ b, b ∈ t.me.tsoft ↔ b ∈ s.me.tsoft ∧ (A < s.me.shape.allot → b.1 < A)) ∧
        ∀ (k : Nat) (h : k < 64), t.me.tregs[k] = if A ≤ k ∧ A < s.me.shape.allot then 0 else s.me.tregs[k])) ∧
    (distinctPlayers s → s.me.live = true → s.me.waiting = none →
      let party := fun (p : Player) => p.live = true ∧ p.place.launch = s.me.place.launch ∧ p.place.party = s.me.place.party
      let ms := s.members s.me.place.launch s.me.place.party
      (∀ p ∈ s.others, party p → ∃ x y, p.waiting = some (.setvlG x y)) →
      s.liveCount s.me.place.launch s.me.place.party = ms.length → (ms.map (fun p => p.place.rank)).Nodup →
      (∀ p ∈ ms, p.shape.pending = none ∧ p.shape.await = false) →
      ∃ t, Goes (.setvlG d a) s t ∧
        let regs := fun (p : Player) => if p.id = s.me.id then (d, a) else (p.inSetvlG).getD (0, 0)
        let room := fun (p : Player) => 2 ^ (p.shape.tty.toNat / 2 ^ 8 % 8) * p.shape.vlmax
        ∀ low ∈ ms, (∀ p ∈ ms, low.place.rank ≤ p.place.rank) →
          let n := (if (regs low).2 = 0 then 0 else low.sregs[(regs low).2]).toNat
          let total := (ms.map room).sum
          ∀ p ∈ ms, ∃ q ∈ t.players, q.id = p.id ∧ q.waiting = none ∧ q.pc = p.pc + 4 ∧
            let c := cut n ((ms.filter (fun x => x.place.rank < p.place.rank)).map room).sum (room p)
            q.shape.gbase = c.1 ∧ q.shape.flim = c.2 ∧ q.shape.gstep = min n total ∧
            q.shape.vl = (stripOf p.shape.vlmax (2 ^ (p.shape.tty.toNat / 2 ^ 8 % 8)) c.2).1 ∧
            q.sregs = (if (regs p).1 = 0 then p.sregs else p.sregs.set (regs p).1 (word c.2)) ∧ q.tregs = p.tregs ∧ q.flags = p.flags)) ∧
  (∀ (s t : State) (d a b : SReg),
    let shaped := fun (p : Player) => ttyOk p.shape.tty.toNat = true ∧ p.shape.vlmax = vlmaxOf p.shape.tty p.lanes
    shaped s.me → s.me.trap.entering = false →
      ∀ i ∈ [Instr.setvl d a b, .setvlw d a b, .settype d a],
        Goes i s t → t.me.pc = s.me.pc + 4 → t.me.trap = s.me.trap → t.me.stripOk ∧ shaped t.me)

/-- R229 to R233, R103: the tile branches look at the bits of a mask below `FLIM` only. `tbdiv` parks the fragment that
does not branch, `tjoin` goes on with a parked fragment of its level or leaves the level. What a branch has read of a mask is
corrected and counted (R255). R82, R252, R268: they are tile instructions that stand alone: while a retired seat awaits a
configuration instruction, or where the register they may write is of the accumulator group of an attached grant, they trap with
none of their effect. Those two traps, and that an uncorrectable bit of the mask stops no branch, are the model's reading
(notes/assumptions/28.md). -/
def Obligations.TileBranches : Prop :=
  ∀ (s : State) (k : Fin 8) (o : BitVec 19),
    let tm : TReg := ⟨k.val, by omega⟩
    let n := s.me.shape.flim
    let c := s.me.tregs[tm] % 2 ^ n
    let m := s.me.tregs[0] % 2 ^ n
    let there := BitVec.ofInt 64 (s.me.pc.toInt + o.toInt * 4)
    let next := s.me.pc + 4
    let high := s.me.tregs[0] - m
    let level := s.me.joins.length
    let sup := s.me.trap.priv = true
    let seated := s.me.shape.await = false
    let granted := fun (t : Nat) => s.me.grant.att = true ∧ s.me.grant.acc.toNat ≤ t ∧ t < s.me.grant.acc.toNat + s.me.grant.asize.toNat
    let low := fun (b : Nat) => decide (b < n)
    let u := mended s tm low
    let v := mended (mended s 0 low) tm low
    let branch := fun (i : Instr) (p : Prop) => (p → Goes i s (went u there)) ∧ (¬p → Goes i s (went u next))
    (seated → branch (.tbany k o) (c ≠ 0) ∧ branch (.tball k o) (c = 2 ^ n - 1) ∧ branch (.tbnone k o) (c = 0)) ∧
    (seated → ¬granted 0 →
      (m &&& c = 0 → Goes (.tbdiv k o) s (went v next)) ∧
      (m &&& c ≠ 0 → m &&& c = m → Goes (.tbdiv k o) s (went v there)) ∧
      (m &&& c ≠ 0 → m &&& c ≠ m →
        (level = 8 ∨ s.me.parked.length = 8 →
          Goes (.tbdiv k o) s (trapped v .fragmentOverflow s.me.pc 0 s.me.pc false 0)) ∧
        (level ≠ 8 → s.me.parked.length ≠ 8 → Goes (.tbdiv k o) s (mine (mended v 0 (fun _ => true)) (fun p => { p with
          pc := there
          joins := p.tregs[0] :: p.joins
          parked := ⟨high + (m - (m &&& c)), next, level + 1⟩ :: p.parked
          tregs := p.tregs.set 0 (high + (m &&& c)) })))) ∧
      (s.me.joins = [] → Goes .tjoin s (went s next)) ∧
      (∀ f l r, s.me.joins ≠ [] → s.me.parked = l ++ f :: r → f.level = level → (∀ g ∈ l, g.level ≠ level) →
        Goes .tjoin s (mine s (fun p => { p with pc := f.pc, parked := l ++ r, tregs := p.tregs.set 0 f.mask }))) ∧
      (∀ top rest, s.me.joins = top :: rest → (∀ g ∈ s.me.parked, g.level ≠ level) →
        (s.me.trap.nspill ≠ 0 → Traps .tjoin s .fragmentOverflow s.me.pc) ∧
        (s.me.trap.nspill = 0 → Goes .tjoin s (mine s (fun p => { p with
          pc := next, joins := rest, tregs := p.tregs.set 0 top }))))) ∧
    (sup → seated →
      (¬granted k.val →
        (s.me.parked = [] → Goes (.tfspill k) s (went s next)) ∧
        (∀ l f, s.me.parked = l ++ [f] → Goes (.tfspill k) s (mine s (fun p => { p with
          pc := next
          parked := l
          tregs := p.tregs.set tm f.mask
          trap := { p.trap with efspc := f.pc, level := BitVec.ofNat 4 f.level, nspill := p.trap.nspill + 1 } })))) ∧
      (level < s.me.trap.level.toNat → Traps (.tffill k) s .illegalType s.me.pc) ∧
      (s.me.trap.level.toNat ≤ level → 8 ≤ s.me.parked.length → Traps (.tffill k) s .fragmentOverflow s.me.pc) ∧
      (s.me.trap.level.toNat ≤ level → s.me.parked.length < 8 → Goes (.tffill k) s (mine (mended s tm (fun _ => true)) (fun p => { p with
        pc := next
        parked := p.parked ++ [⟨p.tregs[tm], p.trap.efspc, p.trap.level.toNat⟩]
        trap := { p.trap with nspill := p.trap.nspill - if p.trap.nspill = 0 then 0 else 1 } })))) ∧
    (¬sup → Traps (.tfspill k) s .privileged s.me.pc ∧ Traps (.tffill k) s .privileged s.me.pc) ∧
    (¬seated →
      (∀ i ∈ [Instr.tbany k o, .tball k o, .tbnone k o, .tbdiv k o, .tjoin], Traps i s .dataError s.me.pc) ∧
      (sup → ∀ i ∈ [Instr.tfspill k, .tffill k], Traps i s .dataError s.me.pc)) ∧
    (seated →
      (granted 0 → Traps (.tbdiv k o) s .matrixGrant s.me.pc ∧ Traps .tjoin s .matrixGrant s.me.pc) ∧
      (sup → granted k.val → Traps (.tfspill k) s .matrixGrant s.me.pc))

namespace Sys2Proof.Claims

open Sys2Proof Sys2Proof.Machine

/-- The current player may go on with what it has in flight: no request to pre-empt it, no removal (R256, R426). -/
def working (s : State) : Prop :=
  s.me.live = true ∧ s.me.frozen = false ∧ s.dev.failed = false ∧ s.me.preempt = false ∧
    ∀ l ∈ s.cp.launches, l.id = s.me.place.launch → l.removing = none

/-- Player `p` waits in instruction `i`. -/
def WaitsIn (s : State) (p : Nat) (i : Instr) : Prop := (s.player? p).isSome ∧ (s.focus p).me.waiting = some i

/-- Player `p` has become the current one and no longer waits. -/
def resumed (s : State) (p : Nat) : State := mine (s.focus p) (fun q => { q with waiting := none })

/-- The step of the other player has left `t`; the current player is again the one it was. -/
def back (s t : State) : State := t.focus s.me.id

/-- Do two stores touch a common byte? -/
def touches (a b : Store) : Prop := a.addr < b.addr + b.len ∧ b.addr < a.addr + a.len

/-- Steps taken one after another. -/
def Runs : List Instr → State → State → Prop
  | [], s, t => s = t
  | i :: rest, s, t => ∃ u, Goes i s u ∧ Runs rest u t

/-- A tile instruction has left the issue queue as a convoy of its own and has performed no element. -/
def startedAs (i : Instr) (s : State) : State :=
  s.startConvoy s.me.pc [freshMember i s.me.pc (((tileDesc? i).map (fun d => d.regs.map s.me.rd)).getD [])]

/-- The same instruction waits for its engine; `eng` names the engine in whose order of arrival it stands. -/
def heldUp (i : Instr) (eng : Option Nat) (s : State) : State :=
  let t := mine (startedAs i s) (fun p => { p with waiting := some i })
  match eng with
  | none => t
  | some e => { t with eng := { t.eng with arrivals := t.eng.arrivals ++ [(s.me.id, e)] } }

end Sys2Proof.Claims

/-- R16, R19, R20, R27, R209: an entry of a write buffer leaves for its home past older ones only where they share no
byte; the home applies it, breaks the links of other players to the line and wakes its monitors. The player's own view
of scratchpad is the same before and after. R25 to R27, R80, R95, R98, R212 to R216, R242, R244: what ends the wait of a
scalar instruction. It runs again on its player, and completes as it would have at once. R27, R95, R101, R213, R214: a
monitor that a write has woken. The player reads again; it goes on where its condition holds, and arms its line again
where it does not. -/
def Obligations.WaitsEnd : Prop :=
  (∀ (s : State) (p k : Nat) (st : Store),
    (∀ q, s.player? p = some q → q.wbuf[k]? = some st → (∀ o ∈ q.wbuf.take k, ¬touches o st) →
      ∃ t, Goes (.writeBufferDrain p k) s t ∧ t.mem = { s.mem with arrivals := s.mem.arrivals ++ [(p, st)] } ∧
        t.players = s.players.map (fun r => if r.id = p then { r with wbuf := r.wbuf.eraseIdx k } else r) ∧
        t = { s with me := t.me, others := t.others, mem := t.mem } ∧
        ∀ a, t.spadByte { q with wbuf := q.wbuf.eraseIdx k } a = s.spadByte q a) ∧
    (s.canonicalMemory → s.mem.arrivals[k]? = some (p, st) → (∀ o ∈ s.mem.arrivals.take k, o.1 = p → ¬touches o.2 st) →
      ∃ t, Goes (.spadHomeApply k) s t ∧ (∀ a, t.mem.spad.get a = st.onByte a (s.mem.spad.get a)) ∧
        t.mem.arrivals = s.mem.arrivals.eraseIdx k ∧
        t.mem.tags = s.mem.tags.filter (fun g => decide (g.line ≠ st.addr / 64) || decide (g.player = p)) ∧
        t.players = s.players.map (fun r => if r.armed = some (st.addr / 64) then { r with wake := true } else r) ∧
        (∀ d ∈ t.mem.spadBad, d ∈ s.mem.spadBad) ∧
        t = { s with me := t.me, others := t.others, mem := { t.mem with
          host := s.mem.host, peer := s.mem.peer, turn := s.mem.turn } } ∧
        ∀ q, q.id = p → ∀ a, t.spadByte q a = s.spadByte q a)) ∧
  (∀ (s : State) (p : Nat) (d a b : SReg) (r : TReg) (sc : Fin 4) (k : BitVec 4),
    let u := resumed s p
    let next := u.me.pc + 4
    let again := fun (e i : Instr) => ∃ t, Goes i u t ∧ Goes e s (back s t)
    (WaitsIn s p (.fence sc k) → again (.fenceComplete p) (.fence sc k) ∧
      (performedAt u sc k.toNat → Goes (.fenceComplete p) s (back s (went u next)))) ∧
    (WaitsIn s p (.pwait a b r) → again (.pwaitComplete p) (.pwait a b r) ∧
      (r.val < u.me.shape.allot → (src u a).toNat % 64 = 0 → (src u a).toNat < 2048 * u.me.lanes →
        (∀ i < 64, (src u b).getLsbD i = true → u.me.tregs[r].testBit ((src u a).toNat + i) = true) →
        Goes (.pwaitComplete p) s (back s (went (chunksRead u a b r) next)))) ∧
    (WaitsIn s p .halt → again (.haltComplete p) .halt ∧
      (distinctPlayers u → u.me.grant.att = false → u.me.heldOf 15 = none → u.haltReady = true →
        ∃ t, Goes (.haltComplete p) s (back s t) ∧ ∀ q ∈ t.players, q.id = u.me.id → q.live = false)) ∧
    (WaitsIn s p (.allot d a) → again (.allotComplete p) (.allot d a) ∧
      (let A := (src u a).toNat
       A % 8 = 0 → 8 ≤ A → A ≤ 64 → u.me.grant.att = false → u.namesFrom u.me A = false →
        ∃ t, Goes (.allotComplete p) s (back s t) ∧ t.me.shape = { u.me.shape with allot := A } ∧ t.me.pc = next ∧
          t.me.sregs = (wrote u d (word A)).me.sregs)) ∧
    (WaitsIn s p (.setvl d a b) → again (.reseatApply p) (.setvl d a b) ∧
      (mayConfigure u →
        let t := mine (reseated u) (withStrip (stripLimit u.me.det (src u a).toNat (src u b).toNat))
        Goes (.reseatApply p) s (back s (wrote t d (word t.me.shape.flim))))) ∧
    (WaitsIn s p (.launch d a b) → again (.launchHandoff p) (.launch d a b) ∧
      (∀ ds, performed u 3 → recordAt u (src u a) ds →
        ∃ t, Goes (.launchHandoff p) s (back s t) ∧ t.me.pc = next ∧ t.me.waiting = none)) ∧
    (WaitsIn s p (.wmpub d a) → again (.wmpubApply p) (.wmpub d a) ∧
      (∀ pa, checkAccess u u.me u.me.wmk 8 8 .atomic = .ok pa → performed u 3 → u.canonicalMemory →
        let old := seesAt u pa 8
        ∃ t, Goes (.wmpubApply p) s (back s t) ∧ HomeStep u t pa 8 (max old (src u a).toNat) ∧ t.me.pc = next ∧
          t.me.sregs = (wrote u d (word old)).me.sregs)) ∧
    ((s.player? p).isSome → (s.focus p).me.q.loading = true → ∃ t, Goes (.baseTableLoad p) s (back s t) ∧
      t.me.q.loading = false ∧ t = mine (s.focus p) (fun _ => { (s.focus p).me with q := t.me.q }))) ∧
  (∀ (s : State) (p : Nat) (d a b : SReg),
    let u := mine (resumed s p) (fun q => { q with armed := none, wake := false })
    let e := Instr.monitorWake p
    let waits := fun (i : Instr) (cond : Word → Prop) => WaitsIn s p i → (s.focus p).me.wake = true →
      ∀ pa, checkAccess u u.me (src u a) 8 8 .load = .ok pa →
        let v := word (seesAt u pa 8)
        let w := corrected u pa 8
        (cond v → Goes e s (back s (wrote w d v))) ∧
        (¬cond v → Goes e s (back s (mine w (fun q => { q with waiting := some i, armed := some (pa / 64) }))))
    waits (.waitEq d a b) (fun v => v = src u b) ∧
    waits (.waitNe d a b) (fun v => v ≠ src u b) ∧
    waits (.waitGeu d a b) (fun v => (src u b).toNat ≤ v.toNat) ∧
    waits (.waitAny d a b) (fun v => v &&& src u b ≠ 0) ∧
    (WaitsIn s p .bar → (s.focus p).me.wake = true → ∀ gen va pa, u.me.barGen = some (gen, va) →
      checkAccess u u.me va 8 8 .load = .ok pa →
      let w := corrected u pa 8
      (seesAt u pa 8 / 2 ^ 32 ≠ gen → Goes e s (back s (mine (went w (u.me.pc + 4)) (fun q => { q with barGen := none })))) ∧
      (seesAt u pa 8 / 2 ^ 32 = gen →
        Goes e s (back s (mine w (fun q => { q with waiting := some .bar, armed := some (pa / 64) }))))) ∧
    (WaitsIn s p (.setvlw d a b) → (s.focus p).me.wake = true → mayConfigure u →
      ∀ pa, checkAccess u u.me u.me.wmk 8 8 .load = .ok pa →
        let t := mine (reseated u) (withStrip (src u a).toNat)
        let w := corrected t pa 8
        ((src u b).toNat + t.me.shape.flim ≤ seesAt u pa 8 → Goes e s (back s (wrote w d (word t.me.shape.flim)))) ∧
        (seesAt u pa 8 < (src u b).toNat + t.me.shape.flim → Goes e s (back s (mine w (fun q => { q with
          waiting := some (.setvlw d a b), armed := some (pa / 64) }))))) ∧
    ((s.player? p).isSome → (s.focus p).me.wake = false → Goes e s (back s (s.focus p))))

/-- R14, R16 to R18, R208, R247 to R249: a convoy leaves the issue queue whole; the elements of a `tadd` may then
perform in any order within their groups, those of `tldsc` and `tstsc` in ascending order with a ticket each, and either way the player ends
where the instruction alone would have left it. R8, R266, R276, R291, R333: an instruction that waited for its engine is
accepted with the outcome it would have had at once; a stream or query instruction has then left the order of arrival.
-/
def Obligations.ConvoysInSteps : Prop :=
  (∀ (s : State) (c : Bool) (d a b x : TReg) (r : SReg) (m : MaskMode),
    working s → s.me.waiting = none →
    let id := s.me.id
    let inSteps := fun (i : Instr) (e : Nat → Instr) (order : List Nat) =>
      Lone i s → activeOf s m ≠ [] → ∃ t, Goes i s t ∧ Runs (order.map e) (startedAs i s) t
    (∀ i w, Lone i s → Goes (.issueConvoy id) (mine s (fun p => { p with queue := [⟨p.pc, w, some i⟩] })) (startedAs i s)) ∧
    (∀ order, order.Perm (activeOf s m) → order.Pairwise (fun f g => f / 64 ≤ g / 64) → inSteps (.tadd c d a b m) (.elementPerform id 0) order) ∧
    (wholeBytes s.me.env →
      (Passes s ((activeOf s m).map (indexAt s r x)) (s.me.env.w / 8) (s.me.env.w / 8) .load →
        inSteps (.tldsc c d r x m) (.turnTicket id 0) (activeOf s m)) ∧
      (Passes s ((activeOf s m).map (indexAt s r x)) (s.me.env.w / 8) (s.me.env.w / 8) .store →
        inSteps (.tstsc c d r x m) (.turnTicket id 0) (activeOf s m)))) ∧
  (∀ (s : State) (i : Instr) (d : TileDesc),
    working s → s.me.waiting = none → (∀ x ∈ s.eng.arrivals, x.1 ≠ s.me.id) → Lone i s → tileDesc? i = some d → d.cls = .async →
    let id := s.me.id
    let alike := fun (e : Instr) (w : State) => ∃ t, Goes i s t ∧ t.me.waiting = none ∧ Goes e w t
    (∀ c p, i = .xcancel c p → (∀ y ∈ s.eng.xfers, y.owner = id → y.pip = p.val →
        y.reading = [] ∧ y.flushing = [] ∧ y.acking = [] ∧ y.ending = none) → alike (.streamAccept id) (heldUp i none s)) ∧
    (isStream i = true → (∀ c p, i ≠ .xcancel c p) → roomAt s 3 → alike (.streamAccept id) (heldUp i (some 3) s)) ∧
    (d.matrix = false → isStream i = false → s.qm.unav = false → roomAt s 4 → s.me.q.loading = false →
      (∀ q ∈ s.eng.queries, q.owner = id → q.op.isWrite = false) → (∀ y ∈ s.eng.resumed, y.1 ≠ id) →
      alike (.queryAccept id) (heldUp i (some 4) s)) ∧
    (∀ c r a b, i = .mxattach c r a b → noneAttaching s →
      (∀ F, Family.ofCodes a.val b.val = some F → s.slotsUsed s.me.place.cluster + s.me.lanes * F.slots ≤ 1024) →
      alike (.mxattachSlotGrant id) (heldUp i (some 2) s)) ∧
    (d.matrix = true → (∀ c r a b, i ≠ .mxattach c r a b) → alike (.matrixAccept id) (heldUp i none s)))

namespace Sys2Proof.Claims

open Sys2Proof Sys2Proof.Machine

/-- A delta of element `f` of item `id` is on its way to its parity unit, or waits for room in its queue (R314, R315). -/
def owes (s : State) (id f : Nat) : Prop :=
  (∃ d ∈ s.qm.deltas, d.item = id ∧ d.elem = f) ∨ ∃ w ∈ s.qm.held, w.delta.item = id ∧ w.delta.elem = f

/-- Nothing that a step on query memory would settle is due: an element that is applied and has not performed still owes a
delta, an item that a fault ends has still something to complete, a `qcopy` the answer of its peer, and no stack has had more than
16 units reconstructed (R23, R322, R348). -/
def settled (s : State) : Prop :=
  (∀ q ∈ s.allQueries, ∀ f, q.applied.testBit f = true → q.done.testBit f = false → owes s q.id f) ∧
    (∀ q ∈ s.eng.queries, q.ending ≠ none → q.op = .copy ∨ s.finishing q = true) ∧ ∀ r ∈ s.qm.recon, r.2 ≤ 16

/-- No fault is about to end an item, but for a `qcopy` that waits for its peer (R348). -/
def unfaulted (s : State) : Prop := ∀ q ∈ s.eng.queries, q.ending ≠ none → q.op = .copy

/-- Query memory answers: no stack is lost or being lost, no unit has a wrong symbol (R320, R323, R325). -/
def sound (s : State) : Prop :=
  s.qm.lost = none ∧ s.qm.losing = none ∧ s.qm.unav = false ∧ s.qm.bad = [] ∧ s.qm.soft = []

/-- The `n` bytes at offset `o` of a unit. -/
def inUnit (s : State) (u o n : Nat) : Nat := s.qm.raw u / 2 ^ (8 * o) % 2 ^ (8 * n)

/-- The exclusive or of the stripe of a unit (R308). -/
def stripeXor (s : State) (u : Nat) : Nat := xorAll ((stripeUnits u).map s.qm.raw)

/-- Unit `u` is a data unit of the twelve of its stripe. -/
def dataUnit (u : Nat) : Prop := u ∈ stripeUnits u ∧ u ≠ parityUnit u

/-- The parity queues of query memory are empty, nothing owes a delta, and no fault is about to end an item. -/
def still (s : State) : Prop :=
  sound s ∧ s.canonicalMemory ∧ s.qm.deltas = [] ∧ s.qm.held = [] ∧ unfaulted s ∧
    (∀ q ∈ s.allQueries, ∀ f, q.applied.testBit f = true → q.done.testBit f = true) ∧ ∀ r ∈ s.qm.recon, r.2 ≤ 16

/-- Every unit of the region is a data unit, no two are the same (R308, R311). -/
def placed (r : Region) : Prop :=
  ∀ j < r.units, dataUnit (r.unit j) ∧ ∀ k < r.units, r.unit j = r.unit k → j = k

/-- The `n` bytes at region offset `o`, of one unit. -/
def inRegionAt (s : State) (r : Region) (o n : Nat) : Nat := inUnit s (r.unit (o / 1024)) (o % 1024) n

/-- The value of a source byte. -/
def srcByte (s : State) : SLoc → Byte
  | .imm b => b
  | .spad a => s.mem.spad.get a
  | .host a => s.mem.host.get a

/-- Every piece goes to scratchpad, no two to a common byte. -/
def toSpad (ps : List Piece') : Prop :=
  (∀ p ∈ ps, ∃ a, p.dst = .spad a) ∧ ps.Pairwise (fun p q => ∀ a b, p.dst = .spad a → q.dst = .spad b →
    a + p.srcs.length ≤ b ∨ b + q.srcs.length ≤ a)

/-- Every byte of the pieces has the value read at its source; every other byte of scratchpad is unchanged. -/
def moved (s t : State) (ps : List Piece') : Prop :=
  (∀ p ∈ ps, ∀ a, p.dst = .spad a → ∀ (k : Nat) (h : k < p.srcs.length), t.mem.spad.get (a + k) = srcByte s p.srcs[k].1) ∧
    ∀ a, (∀ p ∈ ps, ∀ b, p.dst = .spad b → a < b ∨ b + p.srcs.length ≤ a) → t.mem.spad.get a = s.mem.spad.get a

/-- Every piece goes to query memory, into data units, no two to a common byte; the sources lie in scratchpad or in the word. -/
def toQm (ps : List Piece') : Prop :=
  (∀ p ∈ ps, (∃ l, p.dst = .qm l ∧ dataUnit l.unit ∧ l.inUnit + p.srcs.length ≤ 1024) ∧ ∀ b ∈ p.srcs, ∀ a, b.1 ≠ .host a) ∧
    ps.Pairwise (fun p q => ∀ k l, p.dst = .qm k → q.dst = .qm l → k.unit = l.unit →
      k.inUnit + p.srcs.length ≤ l.inUnit ∨ l.inUnit + q.srcs.length ≤ k.inUnit)

/-- Every byte of the pieces stands in query memory; every other byte of a unit that is no parity unit of theirs is unchanged. -/
def storedInQm (s t : State) (ps : List Piece') : Prop :=
  (∀ p ∈ ps, ∀ l, p.dst = .qm l → ∀ (k : Nat) (h : k < p.srcs.length),
    inUnit t l.unit (l.inUnit + k) 1 = (srcByte s p.srcs[k].1).toNat) ∧
    ∀ u o, o < 1024 → (∀ p ∈ ps, ∀ l, p.dst = .qm l → u ≠ parityUnit l.unit ∧
      (l.unit = u → o < l.inUnit ∨ l.inUnit + p.srcs.length ≤ o)) → inUnit t u o 1 = inUnit s u o 1

/-- Every piece goes to a peer, no two to a common byte; the sources lie in scratchpad or in the word. -/
def toPeer (ps : List Piece') : Prop :=
  (∀ p ∈ ps, (∃ port a, p.dst = .peer port a) ∧ ∀ b ∈ p.srcs, ∀ a, b.1 ≠ .host a) ∧
    ps.Pairwise (fun p q => ∀ x a y b, p.dst = .peer x a → q.dst = .peer y b → a + p.srcs.length ≤ b ∨ b + q.srcs.length ≤ a)

/-- `n` bytes of scratchpad from `off` on lie under entries that carry the world bound to the port's session (R301, R409). -/
def ownPages (s : State) (port off n : Nat) : Prop :=
  ∀ i < n, ∃ w ∈ s.pageTags (off + i), (s.portAt port).world = some w

/-- Registers that an engine writes, those from `ALLOT` up keeping their zeros (R83). -/
def belowAllot (p : Player) (t : Vector Nat 64) : Vector Nat 64 :=
  Vector.ofFn (fun i => if i.val < p.shape.allot then t[i] else p.tregs[i])

/-- A pip bit is set in the first register of the tile; a bit beyond the register is discarded (R10, R292), and so is one of a
register from `ALLOT` up (R83). -/
def pipSet (p : Player) (tile c : Nat) : Player :=
  if c < 2048 * p.lanes ∧ tile < p.shape.allot then
    { p with tregs := Vector.ofFn (fun i => if i.val = tile then p.tregs[i] ||| 2 ^ c else p.tregs[i]) }
  else p

/-- The owner's record changes by `f`, the others' not at all but for wake flags. -/
def owners (s t : State) (owner : Nat) (f : Player → Player) : Prop :=
  List.Forall₂ (fun q r => sameButWake q (if r.id = owner then f r else r)) t.players s.players

/-- What stays as it is when a transfer takes a step, but for errors of scratchpad corrected and counted. -/
def restOfStream (s t : State) : Prop :=
  t.qm = s.qm ∧ t.vm = s.vm ∧ t.cp = s.cp ∧ (∃ k, t.dev = (s.count 2 k).dev) ∧ t.agenda = s.agenda ∧ t.fresh = s.fresh ∧
    t.eng = { s.eng with xfers := t.eng.xfers } ∧ t.mem.turn = s.mem.turn

/-- Chunk `c` of a transfer has performed (R292): its pip bit is set unless NP holds, and a transfer without anything left to
do leaves its slot (R291). -/
def Landed (s t : State) (x : Xfer) (c : Nat) : Prop :=
  let y := { x with
    done := x.done ||| 2 ^ c
    reading := x.reading.filter (fun k => k ≠ c)
    flushing := x.flushing.filter (fun k => k ≠ c)
    acking := x.acking.filter (fun k => k ≠ c) }
  let ended : Prop := (∀ k < y.chunks, y.done.testBit k = true) ∧ y.reading = [] ∧ y.flushing = [] ∧ y.acking = [] ∧ y.flagOwed = false
  owners s t x.owner (fun p => if x.np then p else pipSet p x.pip c) ∧ restOfStream s t ∧
    (ended → t.eng.xfers = s.eng.xfers.filter (fun z => z.id ≠ x.id)) ∧
    (¬ended → t.eng.xfers = s.eng.xfers.map (fun z => if z.id = x.id then y else z))

/-- The transfer is in the engine, not stopped; its owner has no store on its way to a home. -/
def inEngine (s : State) (x : Xfer) : Prop :=
  s.xfer? x.id = some x ∧ x.fault = false ∧ x.ending = none ∧ x.stopped = false ∧ x.pip < 64 ∧
    (∀ p ∈ s.players, p.id = x.owner → p.wbuf = []) ∧ ∀ a ∈ s.mem.arrivals, a.1 ≠ x.owner

/-- The player's QM writes accepted before the transfer have performed (R299, R370). -/
def writesBefore (s : State) (x : Xfer) : Prop :=
  ∀ q ∈ s.allQueries, q.owner = x.owner → q.id < x.id → q.op.isWrite = true → q.settledCas = true

/-- Chunk `c` may begin (R290, R295, R299, R302): it has neither performed nor begun, no pre-emption holds the player's engines,
no `xbar` of the player is in the engine, and an `xput` finds the player's earlier QM writes performed. -/
def mayStart (s : State) (x : Xfer) (c : Nat) : Prop :=
  c < x.chunks ∧ x.done.testBit c = false ∧ c ∉ x.reading ∧ c ∉ x.flushing ∧ c ∉ x.acking ∧ s.vm.closed = [] ∧
    s.heldUp x.owner = false ∧ (∀ y ∈ s.eng.xfers, y.owner = x.owner → y.op ≠ .bar) ∧ (x.op = .put → writesBefore s x)

/-- No removal of its context ends the transfer (R302, R426). -/
def unremoved (s : State) (x : Xfer) : Prop := ∀ l ∈ s.cp.launches, s.inLaunch l.id x.owner = true → l.removing = none

end Sys2Proof.Claims

/-- R284, R290, R292, R297, R298, R300: a chunk between scratchpad pages moves every byte and sets its bit in one step;
a chunk from HOST does so when its read returns; one into query memory leaves its bytes there with the parity of every stripe
kept; one to a peer waits for its acknowledgement; a chunk that does not translate puts its transfer into a fault record.
R293, R294, R382, R418: `xseal` leaves the header, the sealed page and the tag in host memory; `xunseal` writes the page back
and clears its export mark where the blob passes every check, and writes it to zero with a stream-fault where it does not.
R295, R297, R299 to R301, R436: the end of a transfer. A flushing read or an acknowledgement lands its chunk; the landing flag
is stored when every chunk has performed, and an `xbar` sets its bit after it; a frame from a peer reaches the homes of
a page of the port's world, or a region of it, unless it would be the 2³⁰th under its key; one whose tag fails ends the session,
with a record. -/
def Obligations.StreamSteps : Prop :=
  (∀ (s : State) (x : Xfer) (c : Nat),
    inEngine s x → settled s → s.canonicalMemory → x.op ≠ .xseal → x.op ≠ .xunseal → x.op ≠ .bar →
    (∀ ps, mayStart s x c → s.pieces x c = .ok ps → toSpad ps → (∀ p ∈ ps, ∀ l ∈ p.srcs, ∀ a, l.1 ≠ .host a) →
      ∃ t, Goes (.streamChunkPerform x.id c) s t ∧ moved s t ps ∧ Landed s t x c ∧ t.mem.host = s.mem.host ∧
        t.mem.peer = s.mem.peer) ∧
    (∀ ps, mayStart s x c → s.dev.linkUp = true → s.pieces x c = .ok ps →
      (∃ p ∈ ps, ∃ l ∈ p.srcs, ∃ a, l.1 = .host a) → ∃ t, Goes (.streamChunkPerform x.id c) s t ∧
        t = { s with eng := { s.eng with xfers := s.eng.xfers.map (fun z =>
          if z.id = x.id then { x with reading := c :: x.reading } else z) } }) ∧
    (∀ ps, c ∈ x.reading → c ∉ x.flushing → c ∉ x.acking → s.pieces x c = .ok ps → toSpad ps →
      ∃ t, Goes (.hostReadReturn x.id c) s t ∧ moved s t ps ∧ Landed s t x c ∧ t.mem.host = s.mem.host ∧
        t.mem.peer = s.mem.peer) ∧
    (∀ p a, mayStart s x c → x.op = .put → s.dev.linkUp = true → s.pieces x c = .ok [p] → p.dst = .host a →
      ∃ t, Goes (.streamChunkPerform x.id c) s t ∧
        (∀ b, t.mem.host.get b = if a ≤ b ∧ b < a + x.len.toNat then byteOf x.src.toNat (b - a) else s.mem.host.get b) ∧
        t = { s with mem := { s.mem with host := t.mem.host }, eng := { s.eng with xfers := s.eng.xfers.map (fun z =>
          if z.id = x.id then { x with flushing := c :: x.flushing } else z) } }) ∧
    (∀ e, distinctPlayers s → unremoved s x → mayStart s x c → x.reading = [] → x.flushing = [] → x.acking = [] → s.pieces x c = .error e →
      ∃ t low, Goes (.streamChunkPerform x.id c) s t ∧ t.mem = s.mem ∧ t.eng.xfers = s.eng.xfers.filter (fun z => z.id ≠ x.id) ∧
        low ≤ c ∧ x.done.testBit low = false ∧ (∀ k < low, x.done.testBit k = true) ∧
        ∀ p ∈ t.players, p.id = x.owner → ∀ r ∈ s.players, r.id = x.owner → r.afq.length < 16 →
          p.afq = r.afq ++ [⟨e.1.cause.code, 3, BitVec.ofNat 6 x.pip, BitVec.ofNat 6 e.1.sub, BitVec.ofNat 20 low, e.2,
            if e.1.cause = .pageFault ∨ e.1.cause = .worldViolation ∨ e.1.cause = .dataError ∨
              (e.1.cause = .streamFault ∧ e.1.sub = 8) then some (.xfer { x with fault := true }) else none⟩] ∧
    (∀ ps, still s → mayStart s x c → writesBefore s x → s.pieces x c = .ok ps → toQm ps →
      ∃ t, Goes (.streamChunkPerform x.id c) s t ∧ storedInQm s t ps ∧ (∀ u, stripeXor s u = 0 → stripeXor t u = 0) ∧
        t.qm.deltas = [] ∧ Landed { s with qm := t.qm } t x c ∧ t.mem.spad = s.mem.spad ∧ t.mem.host = s.mem.host ∧
        t.mem.peer = s.mem.peer) ∧
    (∀ ps, mayStart s x c → s.pieces x c = .ok ps → toPeer ps → ps ≠ [] →
      ∃ t, Goes (.streamChunkPerform x.id c) s t ∧
        (∀ p ∈ ps, ∀ port a, p.dst = .peer port a → ∀ (k : Nat) (h : k < p.srcs.length), t.mem.peer.get (a + k) = srcByte s p.srcs[k].1) ∧
        t.mem.spad = s.mem.spad ∧ t.mem.host = s.mem.host ∧ t.players = s.players ∧ restOfStream s t ∧
        t.eng.xfers = s.eng.xfers.map (fun z => if z.id = x.id then { x with acking := c :: x.acking } else z))) ∧
  (∀ (s : State) (x : Xfer) (us ps : List Nat),
    inEngine s x → still s → distinctPlayers s → unremoved s x → x.wid < 65 → x.chunks = 1 → x.done = 0 → s.sealPlan x = .ok (us, ps) →
    us.Nodup → (∀ u ∈ us, dataUnit u) → ps.Pairwise (fun a b => a + 4096 ≤ b ∨ b + 4096 ≤ a) →
    let page := (us.map (fun u => natToBytes (s.qm.raw u) 1024)).flatten
    let key := s.sealKey x.wid
    let held := fun (m : Memory) => (List.range blobBytes).map (fun j => m.get (ps.getD (j / 4096) 0 + j % 4096))
    (x.op = .xseal → mayStart s x 0 → s.dev.linkUp = true →
      let n := (s.worldAt x.wid).exports + 1
      let head := sealHeader x.wid n x.src
      let body := gcmCombine key (sealNonce x.wid n) page
      ∃ t, Goes (.streamChunkPerform x.id 0) s t ∧
        held t.mem.host = head ++ body ++ gcmTag key (sealNonce x.wid n) head body ∧
        (∀ a, (∀ p ∈ ps, a < p ∨ p + 4096 ≤ a) → t.mem.host.get a = s.mem.host.get a) ∧ (t.worldAt x.wid).exports = n ∧
        t = { s with mem := { s.mem with host := t.mem.host }, cp := { s.cp with worlds := t.cp.worlds }
                     eng := { s.eng with xfers := s.eng.xfers.map (fun z => if z.id = x.id then { x with flushing := [0] } else z) } }) ∧
    (x.op = .xunseal → mayStart s x 0 → s.dev.linkUp = true → ∃ t, Goes (.streamChunkPerform x.id 0) s t ∧
      t = { s with eng := { s.eng with xfers := s.eng.xfers.map (fun z => if z.id = x.id then { x with reading := [0] } else z) } }) ∧
    (x.op = .xunseal → x.reading = [0] → x.flushing = [] → x.acking = [] → writesBefore s x → s.vm.closed = [] →
      let blob := held s.mem.host
      let head := blob.take 64
      let body := (blob.drop 64).take pageBytes
      let nonce := bytesToNat ((head.drop 0x20).take 12)
      let good : Prop := sealHeaderOk x.wid head = true ∧ blob.drop (64 + pageBytes) = gcmTag key nonce head body
      let clear := gcmCombine key nonce body
      (good → ∃ t, Goes (.hostReadReturn x.id 0) s t ∧
        (∀ (k : Nat) (h : k < us.length), t.qm.raw us[k] = bytesToNat ((clear.drop (1024 * k)).take 1024)) ∧
        (∀ u, stripeXor s u = 0 → stripeXor t u = 0) ∧ t.qm.deltas = [] ∧ t.vm = (s.clearExport x.asid x.dst).vm ∧
        Landed { s with qm := t.qm, vm := t.vm } t x 0 ∧ t.mem = s.mem) ∧
      (¬good → ∃ t, Goes (.hostReadReturn x.id 0) s t ∧ (∀ u ∈ us, t.qm.raw u = 0) ∧ t.vm = s.vm ∧ t.mem = s.mem ∧
        t.eng.xfers = s.eng.xfers.filter (fun z => z.id ≠ x.id) ∧
        ∀ p ∈ t.players, p.id = x.owner → ∀ r ∈ s.players, r.id = x.owner → r.afq.length < 16 →
          p.afq = r.afq ++ [⟨Cause.streamFault.code, 3, BitVec.ofNat 6 x.pip, 6, 0, x.src, none⟩]))) ∧
  (∀ (s : State) (x : Xfer) (c : Nat),
    (inEngine s x → settled s →
      (c ∈ x.flushing → c ∉ x.acking → ∃ t, Goes (.hostFlushReadReturn x.id c) s t ∧ Landed s t x c ∧ t.mem = s.mem) ∧
      (c ∈ x.acking → c ∉ x.flushing → s.query? x.id = none →
        ∃ t, Goes (.peerAcknowledgement x.id (.taken c)) s t ∧ Landed s t x c ∧ t.mem = s.mem) ∧
      (x.acking = [c] → x.reading = [] → (∀ k ∈ x.flushing, k = c) → s.query? x.id = none → distinctPlayers s → unremoved s x →
        ∃ t, Goes (.peerAcknowledgement x.id (.refused c)) s t ∧ t.mem = s.mem ∧
          t.eng.xfers = s.eng.xfers.filter (fun z => z.id ≠ x.id) ∧
          ∀ p ∈ t.players, p.id = x.owner → ∀ r ∈ s.players, r.id = x.owner → r.afq.length < 16 →
            ∃ y, p.afq = r.afq ++ [y] ∧ y.cause = Cause.worldViolation.code ∧ y.eng = 3) ∧
      (x.op = .bar → x.chunks = 1 → x.done = 0 → x.flagOwed = false → x.reading = [] → x.flushing = [] → x.acking = [] →
        s.heldUp x.owner = false → (∀ y ∈ s.eng.xfers, y.owner = x.owner → y.id = x.id) →
        ∃ t, Goes (.streamChunkPerform x.id 0) s t ∧ Landed s t x 0 ∧ t.mem = s.mem) ∧
      (∀ l, s.canonicalMemory → x.flagOwed = true → (∀ k < x.chunks, x.done.testBit k = true) → x.reading = [] →
        x.flushing = [] → x.acking = [] → writesBefore s x →
        (∀ l, s.vm.leaf x.asid (vaIndex x.dst) = some l → x.op ≠ .bar → l.space = .spad ∨ l.space = .qm) →
        canonicalVa x.flagA = true → s.vm.leaf x.asid (vaIndex x.flagA) = some l → l.space = .spad → l.wtag = x.wid → l.w = true →
        let pa := l.phys x.flagA
        ∃ t, Goes (.landingFlagStore x.id) s t ∧
          (∀ a, t.mem.spad.get a = if pa ≤ a ∧ a < pa + 8 then byteOf x.flagV.toNat (a - pa) else s.mem.spad.get a) ∧
          owners s t x.owner (fun p => if x.op = .bar ∧ x.np = false then pipSet p x.pip 0 else p) ∧ restOfStream s t ∧
          t.eng.xfers = s.eng.xfers.filter (fun z => z.id ≠ x.id) ∧ t.mem.host = s.mem.host ∧ t.mem.peer = s.mem.peer)) ∧
    (∀ (port region off : Nat) (data : List Byte), port < 12 → (s.portAt port).keyed = true → (s.portAt port).lost = false →
      s.canonicalMemory →
      ((s.portAt port).frames + 1 < 2 ^ 30 →
        (ownPages s port off data.length →
          ∃ t, Goes (.chawickFrameReceive port false region off data true) s t ∧
            (∀ a, t.mem.spad.get a = if off ≤ a ∧ a < off + data.length then data.getD (a - off) 0 else s.mem.spad.get a) ∧
            (t.portAt port).frames = (s.portAt port).frames + 1 ∧ List.Forall₂ sameButWake t.players s.players ∧
            t.qm = s.qm ∧ t.eng = s.eng ∧ t.vm = s.vm ∧ ∃ k, t.dev = (s.count 2 k).dev) ∧
        (¬ownPages s port off data.length →
          ∃ t, Goes (.chawickFrameReceive port false region off data true) s t ∧ t = { s with cp := t.cp } ∧
            (t.portAt port).frames = (s.portAt port).frames + 1) ∧
        (∀ r, still s → s.qm.region? region = some r → placed r → (s.portAt port).world = some r.world → r.retired = false →
          r.merging = false → (r.isCollection = true → 1024 ≤ off) → off + data.length ≤ r.units * 1024 →
          ∃ t, Goes (.chawickFrameReceive port true region off data true) s t ∧
            (∀ k < r.units * 1024, inRegionAt t r k 1 = if off ≤ k ∧ k < off + data.length then (data.getD (k - off) 0).toNat
              else inRegionAt s r k 1) ∧
            (∀ u, stripeXor s u = 0 → stripeXor t u = 0) ∧ t.qm.deltas = [] ∧ t.mem = s.mem ∧ t.eng = s.eng ∧
            t.players = s.players ∧ (t.portAt port).frames = (s.portAt port).frames + 1)) ∧
      (2 ^ 30 ≤ (s.portAt port).frames + 1 → ∀ qm ok, Goes (.chawickFrameReceive port qm region off data ok) s s) ∧
      ((s.portAt port).frames + 1 < 2 ^ 30 → ∀ qm, ∃ t, Goes (.chawickFrameReceive port qm region off data false) s t ∧
        (let p := t.portAt port
         p.keyed = false ∧ p.rekey = true ∧ p.fails = 0 ∧ p.frames = 0) ∧
        (s.dev.counters[14] < 2 ^ 64 - 1 → t.dev.counters[14] = s.dev.counters[14] + 1) ∧
        (∃ r, t.dev.log.getLast? = some r ∧ r.cause = 0x13 ∧ r.engine = 8 ∧ r.sub = 8 ∧ r.memPlace = port * 2 ^ 10) ∧
        t.mem = s.mem ∧ t.qm = s.qm ∧ t.vm = s.vm ∧ ∀ y ∈ t.cp.sessions, y.port ≠ some port))))

namespace Sys2Proof.Claims

open Sys2Proof Sys2Proof.Machine

/-- The item is in the engine and may touch units: it has left the query queue, no pre-emption holds it, no fault ends it, no
removal discards its replies, and the item step of a collection has been taken (R22, R348, R365, R426). -/
def atStack (s : State) (q : Query) : Prop :=
  s.query? q.id = some q ∧ q.sent = true ∧ q.stopped = false ∧ q.ending = none ∧ s.discards q.owner = false ∧
    (q.item = none → s.namesCollection q = false)

/-- The record of a unit that was corrected or rebuilt (R428, R444): data-error, its engine, the corrected flag, its stack and PC
unless a protected world hides them. -/
def RebuiltUnit (r : ErrRec) (u : Nat) : Prop :=
  r.cause = 0x0D ∧ r.engine = 6 ∧ r.flags.testBit 2 = true ∧ (r.world = 0 → r.memPlace = unitStack u + unitPc u * 2 ^ 4)

/-- A query of R337 to R341 on plain rows. -/
def plainQuery (q : Query) : Prop := q.op ∈ [QOp.dot, .dotm, .dotx, .sum, .count, .max, .min, .best, .narrow, .gsum]

/-- The addresses of the elements that reply position `f` is computed from; `qbest` reads one row for all positions. -/
def rowOfReply (q : Query) (f : Nat) : List Word := q.reads (if q.op = .best then 0 else f)

/-- Every listed byte translates for a read (R312). -/
def Found (s : State) (q : Query) (vas : List Word) : Prop :=
  ∀ va ∈ vas, ∃ l, s.locate q.asid q.wid va false false = .ok l

/-- The state of a unit in which the item sees it: the one it touched, or the present one (R23). -/
def unitFor (s : State) (q : Query) (n : Nat) : Nat := ((q.touched.find? (fun e => e.1 = n)).map Prod.snd).getD (s.qm.raw n)

/-- The element at an address as the item sees it. -/
def elementAt (s : State) (q : Query) (va : Word) : Nat :=
  match s.locate q.asid q.wid va false false with
  | .ok l => unitFor s q l.unit / 2 ^ (8 * l.inUnit) % 2 ^ (8 * q.ew)
  | .error _ => 0

/-- Replaces the item in the engine. -/
def withItem (s : State) (q : Query) : State :=
  { s with eng := { s.eng with queries := s.eng.queries.map (fun y => if y.id = q.id then q else y) } }

/-- The item has touched unit `u` in state `v`, or had touched it before. -/
def touching (q : Query) (u v : Nat) : Query :=
  if u ∈ q.touched.map Prod.fst then q else { q with touched := (u, v) :: q.touched }

/-- A reply has been written to the owner's registers as `regs` says, its flags ORed in, the pip bit of chunk `c` set; the item
leaves with its last chunk (R119, R343). Nothing else has changed. -/
def Replied (s t : State) (q : Query) (c : Nat) (fl : Flags) (regs : Player → Vector Nat 64) : Prop :=
  t = { s with me := t.me, others := t.others, eng := { s.eng with queries := t.eng.queries } } ∧
    t.players = s.players.map (fun p => if p.id = q.owner then
      pipSet { p with tregs := belowAllot p (regs p), flags := p.flags ||| fl } q.pip c else p) ∧
    ((∀ k < q.nchunks, k ≠ c → q.chunks.testBit k = true) → t.eng.queries = s.eng.queries.filter (fun y => y.id ≠ q.id)) ∧
    ((∃ k < q.nchunks, k ≠ c ∧ q.chunks.testBit k = false) → ∃ units,
      t.eng.queries = (withItem s { q with chunks := q.chunks ||| 2 ^ c, touched := units }).eng.queries)

end Sys2Proof.Claims

/-- R22, R23, R317, R320, R322, R330, R337 to R343, R371: a query leaves the queue behind its player's earlier writes,
sees each unit in the one state in which it touched it, rebuilds a unit it cannot read from the other eleven of the
stripe, with a record (notes/assumptions/101.md), and its reply chunk writes exactly its positions, its flags and its pip bit. -/
def Obligations.QueryReplies : Prop :=
  ∀ (s : State) (q : Query) (u c : Nat),
    settled s → s.qm.lost = none → s.qm.losing = none → s.qm.unav = false → s.qm.soft = [] →
    (s.query? q.id = some q → q.sent = false → q.stopped = false → s.vm.closed = [] →
      ((∀ o ∈ s.allQueries, o.owner = q.owner → o.id < q.id → o.op.isWrite = false) →
        Goes (.queryQueueSend q.id) s (withItem s { q with sent := true })) ∧
      (∀ o ∈ s.allQueries, ∀ x y n m, o.owner = q.owner → o.id < q.id → o.op.isWrite = true → o.settledCas = false →
        .bytes x n ∈ o.writeRanges → .bytes y m ∈ q.ranges → x.toNat < y.toNat + m → y.toNat < x.toNat + n → Goes (.queryQueueSend q.id) s s)) ∧
    (atStack s q → plainQuery q → c < q.nchunks → q.chunks.testBit c = false →
      let fs := q.positions c
      Found s q (fs.flatMap (rowOfReply q)) →
      (∀ va l, va ∈ fs.flatMap (rowOfReply q) → s.locate q.asid q.wid va false false = .ok l → l.unit = u →
        (s.qm.bad = [] → Goes (.stackUnitTouch q.id u) s (withItem s (touching q u (s.qm.raw u)))) ∧
        (s.canonicalMemory → unfaulted s → s.qm.bad = [u] → u ∉ q.touched.map Prod.fst → unitStack u < 12 →
          (∀ d ∈ s.qm.deltas, d.pc ≠ unitPc u ∨ d.row ≠ unitRow u) → (∀ r ∈ s.qm.recon, r.2 < 16) →
          let v := xorAll ((stripeUnits u).map (fun m => if m = u then 0 else s.qm.raw m))
          ∃ t, Goes (.reconstructingRead q.id u) s t ∧ t.qm.raw u = v ∧ t.qm.bad = [] ∧ (∀ m ≠ u, t.qm.raw m = s.qm.raw m) ∧
            t.eng = (withItem s (touching q u v)).eng ∧ t.players = s.players ∧
            (s.dev.counters[7] < 2 ^ 64 - 1 → t.dev.counters[7] = s.dev.counters[7] + 1) ∧
            ∃ r, t.dev.log.getLast? = some r ∧ RebuiltUnit r u)) ∧
      (s.qm.bad = [] → ¬(q.op = .narrow ∧ q.env.ty ∈ [ElemTy.flt .e4m3, .flt .e5m2, .flt .e2m1]) → q.flags = 0 → q.env.ty.isSlice = false →
        q.env.flim ≤ q.env.rc * q.env.vl → q.env.vl ≤ q.env.vlmax → q.valueReg + q.rregs ≤ 64 → q.pip < 64 →
        let slot := fun f => q.slot f ((rowOfReply q f).map (elementAt s q))
        ∃ t regs, Goes (.queryReplyChunk q.id c) s t ∧
          Replied s t q c (fs.foldl (fun x f => x ||| (slot f).flags) 0) regs ∧
          ∀ p ∈ s.players, p.id = q.owner → p.lanes = q.lanes →
            (∀ (k : Nat) (h : k < 64), k < q.tv ∨ q.valueReg + q.rregs ≤ k → (regs p)[k] = p.tregs[k]) ∧
            (∀ f ∈ fs, q.env.posGet q.rview (q.env.read (regs p) q.rview) f = (slot f).val % 2 ^ q.rty.width) ∧
            (q.op.indexed = true → ∀ f ∈ fs,
              flatElem (q.env.read (regs p) ⟨q.tv, q.env.ig, 64, false⟩) 64 f = (slot f).idx % 2 ^ 64)))

namespace Sys2Proof.Claims

open Sys2Proof Sys2Proof.Machine

/-- An element write of R342, R345 or R346. -/
def elementWrite (q : Query) : Prop := q.op ∈ [QOp.st, .stx, .raddAdd, .raddMax, .raddMin, .raddOr, .raddAnd, .cas]

/-- The engine holds the item once, no fault record and no instruction about to be accepted again holds it. -/
def alone (s : State) (q : Query) : Prop :=
  (∀ y ∈ s.eng.queries, y.id = q.id → y = q) ∧ (∀ x ∈ s.eng.resumed, x.2.item ≠ q.id) ∧
    ∀ p ∈ s.players, ∀ r ∈ p.afq, ∀ y, r.held = some (.query y) → y.id ≠ q.id

/-- Bytes [o, o + n) of unit `u` hold `v`; every other byte of it is unchanged. -/
def unitWritten (s t : State) (u o n v : Nat) : Prop :=
  ∀ k < 1024, inUnit t u k 1 = if o ≤ k ∧ k < o + n then (byteOf v (k - o)).toNat else inUnit s u k 1

/-- The item's elements cover every data unit of the stripe of unit `u` entirely (R316). -/
def coveredBy (s : State) (q : Query) (u : Nat) : Prop :=
  ∀ m ∈ stripeUnits u, m ≠ parityUnit u → ∀ o < 1024, ∃ g < q.count, ∃ k, s.locateElem q g = .ok k ∧
    k.unit = m ∧ k.inUnit ≤ o ∧ o < k.inUnit + q.ew

/-- The stripe of unit `u` is one that a `qst` or `qstx` writes whole (R316): the item covers it, none of its elements there
written. -/
def wholly (s : State) (q : Query) (u : Nat) : Prop :=
  (q.op = .st ∨ q.op = .stx) ∧ coveredBy s q u ∧
    ∀ g < q.count, ∀ k, s.locateElem q g = .ok k → k.unit ∈ stripeUnits u → q.applied.testBit g = false ∧ q.done.testBit g = false

/-- Every element of the chunk of element `f` that is still to be written translates (R313, R348). -/
def chunkFound (s : State) (q : Query) (f : Nat) : Prop :=
  ∀ g ∈ q.positions (f / 64), q.done.testBit g = true ∨ q.applied.testBit g = true ∨ ∃ k, s.locateElem q g = .ok k

/-- Only query memory and the record of the item have changed. -/
def onlyItem (s t : State) (q : Query) : Prop :=
  t = { withItem s q with qm := t.qm }

/-- The item has ended: it is gone, its owner's flags have its flags (R119). -/
def ended (s t : State) (q : Query) : Prop :=
  (∀ y ∈ t.eng.queries, y.id ≠ q.id) ∧
    t.players = s.players.map (fun p => if p.id = q.owner then { p with flags := p.flags ||| q.flags } else p)

end Sys2Proof.Claims

/-- R306, R308, R314 to R316, R342, R345, R346: an element write changes its bytes and sends a delta; the element
performs when its parity unit has absorbed it, and the exclusive or of the stripe is what it was. A write whose parity
queue is full waits at its unit. A stripe that one item covers whole is not for these steps (O37 states its write). `qcas` writes
only where the old value is the expected one. R23, R119, R308, R314, R315: a parity queue takes a waiting delta when it has
room, and absorbs deltas in any order but to one parity unit in theirs; the last delta of an element performs it. -/
def Obligations.QueryElementWrites : Prop :=
  (∀ (s : State) (q : Query) (f : Nat) (l : QLoc),
    settled s → unfaulted s → sound s → s.canonicalMemory → atStack s q → elementWrite q → f < q.count → q.applied.testBit f = false →
    q.done.testBit f = false → s.locateElem q f = .ok l → dataUnit l.unit → l.inUnit + q.ew ≤ 1024 → s.qm.held = [] →
    chunkFound s q f → ¬wholly s q l.unit →
    let u := l.unit
    let old := inUnit s u l.inUnit q.ew
    let st := parityStack (unitPc u) (unitRow u)
    let first := ∀ g < f, s.locateElem q g = .ok l → q.applied.testBit g = true ∨ q.done.testBit g = true
    (∀ r, q.newValue f old = some r → first →
      let delta := fun (x : Nat) => Delta.mk st (unitPc u) (unitRow u) l.inUnit q.ew x q.id f
      let taken := { q with
        applied := q.applied ||| 2 ^ f, flags := q.flags ||| r.flags, ok := if q.op = .cas then q.ok ||| 2 ^ f else q.ok }
      ∃ t x, Goes (.stackUnitWriteApply q.id f) s t ∧ onlyItem s t taken ∧
        x = old ^^^ (r.val % 2 ^ (8 * q.ew)) ∧ (∀ m ≠ u, t.qm.raw m = s.qm.raw m) ∧
        ((s.qm.deltas.filter (fun d => d.stack = st)).length < 4096 →
          unitWritten s t u l.inUnit q.ew r.val ∧ t.qm.deltas = s.qm.deltas ++ [delta x] ∧ t.qm.held = []) ∧
        (4096 ≤ (s.qm.deltas.filter (fun d => d.stack = st)).length →
          t.qm.raw u = s.qm.raw u ∧ t.qm.deltas = s.qm.deltas ∧
            t.qm.held = [⟨delta x, u, r.val % 2 ^ (8 * q.ew)⟩])) ∧
    (q.newValue f old = none → q.op = .cas → first → alone s q →
      Goes (.stackUnitWriteApply q.id f) s (withItem s { q with applied := q.applied ||| 2 ^ f, done := q.done ||| 2 ^ f })) ∧
    (∀ g < f, s.locateElem q g = .ok l → q.applied.testBit g = false → q.done.testBit g = false →
      Goes (.stackUnitWriteApply q.id f) s s)) ∧
  (∀ (s : State) (st : Nat) (l r : List Delta) (d : Delta),
    s.canonicalMemory → (∀ x ∈ s.qm.recon, x.2 ≤ 16) →
    let at' := unitNo st d.pc d.row
    unfaulted s →
    (settled s → ∀ h w k, s.qm.held = h ++ w :: k → w.delta.stack = st → (∀ x ∈ h, x.delta.stack ≠ st) → w ∉ h →
      w.delta.off + w.delta.len ≤ 1024 →
      ((s.qm.deltas.filter (fun x => x.stack = st)).length < 4096 →
        ∃ t, Goes (.parityDeltaAccept st) s t ∧ unitWritten s t w.unit w.delta.off w.delta.len w.bytes ∧
          (∀ m ≠ w.unit, t.qm.raw m = s.qm.raw m) ∧ t.qm.held = h ++ k ∧ t = { s with qm := t.qm } ∧
          t.qm.deltas = s.qm.deltas ++
            [{ w.delta with val := inUnit s w.unit w.delta.off w.delta.len ^^^ w.bytes }]) ∧
      (4096 ≤ (s.qm.deltas.filter (fun x => x.stack = st)).length → Goes (.parityDeltaAccept st) s s)) ∧
    (s.qm.deltas = l ++ d :: r → d.stack = st → d.off + d.len ≤ 1024 →
      let k := (l.filter (fun x => x.stack = st)).length
      ((∀ x ∈ l, x.stack = st → x.pc ≠ d.pc ∨ x.row ≠ d.row) →
        (∀ q ∈ s.allQueries, ∀ f, q.applied.testBit f = true → q.done.testBit f = false →
          owes s q.id f ∧ (q.id = d.item ∧ f = d.elem → ∃ x ∈ l ++ r, x.item = d.item ∧ x.elem = d.elem)) →
        ∃ t, Goes (.parityDeltaApply st k) s t ∧ t = { s with qm := t.qm } ∧ t.qm.deltas = l ++ r ∧
          (∀ m ≠ at', t.qm.raw m = s.qm.raw m) ∧
          unitWritten s t at' d.off d.len (inUnit s at' d.off d.len ^^^ d.val)) ∧
      (∀ q, (∀ x ∈ l, x.stack = st → x.pc ≠ d.pc ∨ x.row ≠ d.row) → (∀ x ∈ l ++ r, x.item ≠ d.item ∨ x.elem ≠ d.elem) →
        s.qm.held = [] → s.allQueries = [q] → s.eng.queries = [q] → q.id = d.item → q.op ∈ [QOp.st, .stx, .raddAdd] →
        d.elem < q.count → q.applied.testBit d.elem = true → q.done.testBit d.elem = false →
        (∀ f ≠ d.elem, q.applied.testBit f = true → q.done.testBit f = false → owes s q.id f) →
        ∃ t, Goes (.parityDeltaApply st k) s t ∧ t.qm.deltas = l ++ r ∧
          ((∀ f < q.count, f ≠ d.elem → q.done.testBit f = true) → ended s t q) ∧
          ((∃ f < q.count, f ≠ d.elem ∧ q.done.testBit f = false) →
            t.eng.queries = [{ q with done := q.done ||| 2 ^ d.elem }] ∧ t.players = s.players)) ∧
      (∀ x ∈ l, x.stack = st → x.pc = d.pc → x.row = d.row → Goes (.parityDeltaApply st k) s s)))

namespace Sys2Proof.Claims

open Sys2Proof Sys2Proof.Machine

/-- The state after a step of an item that takes it no further than `q`: query memory may have changed, its parity queues are
empty again. -/
def Went (s t : State) (q : Query) : Prop := onlyItem s t q ∧ t.qm.deltas = [] ∧ t.qm.held = []

/-- The low 64 bits of a register replaced. -/
def lowSet (p : Player) (reg v : Nat) : Vector Nat 64 :=
  Vector.ofFn (fun i => if i.val = reg then p.tregs[i] / 2 ^ 64 * 2 ^ 64 + v % 2 ^ 64 else p.tregs[i])

/-- The item is an item of a collection `r` and stands before its item step. -/
def beforeItemStep (s : State) (q : Query) (r : Region) : Prop :=
  s.query? q.id = some q ∧ q.sent = true ∧ q.stopped = false ∧ q.item = none ∧ s.regionAt q.asid q.sa = some r ∧
    r.isCollection = true

/-- Every page of a collection, seen from an address in it, translates (R312, R365). -/
def allPages (s : State) (q : Query) (r : Region) (va : Word) (write : Bool) : Prop :=
  ∀ k, k * 2 ^ 21 < r.units * 1024 → ∃ l, s.locate q.asid q.wid (s.regionBase q.asid va + word (k * 2 ^ 21)) write false = .ok l

/-- The collection's header unit takes a write of the item's world (R312). -/
def headerFound (s : State) (q : Query) : Prop :=
  ∃ l, s.locate q.asid q.wid (s.regionBase q.asid q.sa) true false = .ok l

end Sys2Proof.Claims

/-- R316, R342, R352 to R358, R360, R361: the writes that carry their parity with them. A stripe that one write covers
is written whole; a copy chunk leaves every destination unit with the value of its source, with it those units of other chunks
that complete a stripe the item covers, and sets its bit at once, or when the peer that its units go to has acknowledged it; an
element of `qeval` leaves what its program computes (here: add a constant); `qcas` writes its success bits. That the partial
writes of `qcopy` and `qeval` change data and parity in one step is the model's reading (notes/assumptions/57.md). -/
def Obligations.WholeUnitWrites : Prop :=
  ∀ (s : State) (q : Query) (f c : Nat),
    still s → alone s q → atStack s q → q.flags = 0 → q.pip < 64 →
    (q.op = .st ∨ q.op = .stx → ∀ l, f < q.count → s.locateElem q f = .ok l → dataUnit l.unit →
      let inStripe := fun g => ∃ k, s.locateElem q g = .ok k ∧ k.unit ∈ stripeUnits l.unit
      coveredBy s q l.unit → (∀ g < q.count, inStripe g → chunkFound s q g) →
      (∀ g < q.count, ∀ k, s.locateElem q g = .ok k → k.unit ∈ stripeUnits l.unit → q.done.testBit g = false ∧
        k.unit ≠ parityUnit l.unit ∧ k.inUnit + q.ew ≤ 1024 ∧
        ∀ h < q.count, ∀ j, s.locateElem q h = .ok j → j.unit = k.unit → g = h ∨ j.inUnit + q.ew ≤ k.inUnit ∨
          k.inUnit + q.ew ≤ j.inUnit) →
      ∃ t, Goes (.fullStripeWrite q.id f) s t ∧ stripeXor t l.unit = 0 ∧ t.qm.deltas = [] ∧
        (∀ g < q.count, ∀ k, s.locateElem q g = .ok k → k.unit ∈ stripeUnits l.unit →
          inUnit t k.unit k.inUnit q.ew = q.vecAt g % 2 ^ (8 * q.ew)) ∧
        (∀ m, m ∉ stripeUnits l.unit → t.qm.raw m = s.qm.raw m) ∧
        ((∀ g < q.count, q.done.testBit g = true ∨ inStripe g) → ended s t q) ∧
        (∀ y ∈ t.eng.queries, y.id = q.id → ∀ g < q.count, y.done.testBit g = true ↔ q.done.testBit g = true ∨ inStripe g)) ∧
    (q.op = .copy → c < q.nchunks → q.chunks.testBit c = false → c ∉ q.acking → ∀ (from' to' : Nat → Nat),
      let chunks := (List.range q.nchunks).filter (fun k => !q.chunks.testBit k && !q.acking.contains k)
      let all := (chunks.flatMap q.copyUnits).filter (fun o => !q.done.testBit (o / 1024))
      let own := fun o => o ∈ q.copyUnits c ∧ o ∈ all
      -- with the chunk go the units of other chunks that complete a stripe which the item covers whole (R316)
      let ahead := fun o => o ∈ all ∧ o ∉ q.copyUnits c ∧ (∃ x, own x ∧ to' o ∈ stripeUnits (to' x)) ∧
        ∀ m ∈ stripeUnits (to' o), m = parityUnit (to' o) ∨ ∃ x ∈ all, to' x = m
      (∀ o ∈ chunks.flatMap q.copyUnits, (∃ a, s.locate q.asid q.wid (q.sa + word o) false false = .ok a ∧ a.unit = from' o) ∧
        s.copyDst q (q.sd + word o) = .ok (.here (to' o)) ∧ dataUnit (to' o) ∧
        ∀ o' ∈ chunks.flatMap q.copyUnits, to' o = to' o' → o = o') →
      ∃ t d, Goes (.qcopyChunkPerform q.id c) s t ∧ (∀ o, own o ∨ ahead o → t.qm.raw (to' o) = s.qm.raw (from' o)) ∧
        (∀ m, (∀ o, own o ∨ ahead o → m ≠ to' o ∧ m ≠ parityUnit (to' o)) → t.qm.raw m = s.qm.raw m) ∧
        (∀ u, stripeXor s u = 0 → stripeXor t u = 0) ∧ t.qm.deltas = [] ∧
        (∀ k, d.testBit k = true ↔ q.done.testBit k = true ∨ ahead (1024 * k)) ∧
        Replied s { t with qm := s.qm } { q with done := d } c 0 (fun p => p.tregs)) ∧
    (q.op = .copy → c < q.nchunks → q.chunks.testBit c = false → c ∉ q.acking → q.copyUnits c ≠ [] → ∀ (from' key : Nat → Nat),
      (∀ o ∈ q.copyUnits c, (∃ a, s.locate q.asid q.wid (q.sa + word o) false false = .ok a ∧ a.unit = from' o) ∧
        (∃ port, s.copyDst q (q.sd + word o) = .ok (.peer port (key o))) ∧
        ∀ o' ∈ q.copyUnits c, o ≠ o' → key o + 1024 ≤ key o' ∨ key o' + 1024 ≤ key o) →
      ∃ t, Goes (.qcopyChunkPerform q.id c) s t ∧
        (∀ o ∈ q.copyUnits c, ∀ k < 1024, t.mem.peer.get (key o + k) = byteOf (s.qm.raw (from' o)) k) ∧
        t = { withItem s { q with acking := c :: q.acking } with mem := { s.mem with peer := t.mem.peer } }) ∧
    (q.op = .copy → c < q.nchunks → c ∈ q.acking → ∃ t, Goes (.peerAcknowledgement q.id (.taken c)) s t ∧
      Replied s t { q with acking := q.acking.filter (fun k => k ≠ c) } c 0 (fun p => p.tregs)) ∧
    (q.op = .eval → ∀ r l, s.regionAt q.asid q.sa = some r → r.isCollection = false → r.merging = false →
      q.prog.length = 96 → evalTy q.prog = some (.int true 64) → evalOff q.prog 0 = 0 →
      evalOps q.prog = [0x44, 0x70, 0x01, 0x80] ++ List.replicate 20 0 →
      f < q.count → q.done.testBit f = false → (f ≠ 0 → q.done.testBit (f - 1) = true) →
      let o := (q.sa - s.regionBase q.asid q.sa).toNat + 8 * f
      q.sa.toNat % 8 = 0 → o % 8 = 0 → o + 8 ≤ r.units * 1024 → 12 ≤ r.rows →
      s.locate q.asid q.wid (s.regionBase q.asid q.sa + word o) true false = .ok l → l.region = r → dataUnit l.unit →
      l.inUnit + 8 ≤ 1024 →
      ∃ t, Goes (.qevalElement q.id f) s t ∧
        unitWritten s t l.unit l.inUnit 8 (inUnit s l.unit l.inUnit 8 + evalConst q.prog 0) ∧
        (∀ m, m ≠ l.unit → m ≠ parityUnit l.unit → t.qm.raw m = s.qm.raw m) ∧ stripeXor t l.unit = stripeXor s l.unit ∧
        t.qm.deltas = [] ∧ (∀ y ∈ t.eng.queries, y.id = q.id → y.done = q.done ||| 2 ^ f) ∧
        ((∀ g < q.count, g ≠ f → q.done.testBit g = true) → ended s t q)) ∧
    (q.op = .cas → c < q.nchunks → q.chunks.testBit c = false → (∀ g ∈ q.positions c, q.done.testBit g = true) →
      q.tv < 64 → ∃ t regs, Goes (.queryReplyChunk q.id c) s t ∧ Replied s t q c 0 regs ∧ ∀ p ∈ s.players, p.id = q.owner →
        (∀ (k : Nat) (h : k < 64), k ≠ q.tv → (regs p)[k] = p.tregs[k]) ∧
        ∀ (h : q.tv < 64) (g : Nat), (regs p)[q.tv].testBit g = if g ∈ q.positions c then q.ok.testBit g else p.tregs[q.tv].testBit g)

/-- R347, R362 to R368: the steps of an item that names a collection. The item step reserves the rows of `qappend` in
the header, closes the collection to writes for `qmerge`, reads the side count for a search, and is a mere step for the
others; rows appended stand in the side list, those of a stripe that the item covers written together, and the count rises in the
order of reservation; `qmerge` copies the live rows in order and gives the region at sa the target's band. That rows and header
are written with their parity in one step, and that an accepted search that had met a fault reads its count at this step, are the
model's readings (notes/assumptions/57.md, notes/assumptions/54.md). -/
def Obligations.CollectionSteps : Prop :=
  ∀ (s : State) (q : Query) (r : Region),
    still s → placed r → 1 ≤ r.units → q.flags = 0 → q.pip < 64 →
    (beforeItemStep s q r → q.op ≠ .append → q.op ≠ .merge → q.op ≠ .hamm → q.op ≠ .code →
      (q.op.isWrite = true → ∀ w ∈ s.qm.regions, w.merging = false) →
      Goes (.collectionItemStep q.id) s (withItem s { q with item := some 0 })) ∧
    (beforeItemStep s q r → q.op = .hamm ∨ q.op = .code → allPages s q r q.sa false →
      Goes (.collectionItemStep q.id) s (withItem s { q with item := some (inRegionAt s r 0x20 8) })) ∧
    (beforeItemStep s q r → q.op = .merge → r.merging = false → ∀ b, s.regionAt q.asid q.sd = some b → b.merging = false →
      b.isCollection = true → b.cls = r.cls → b.width = r.width → b.world = r.world → placed b →
      allPages s q r q.sa false → allPages s q b q.sd true → Goes (.collectionItemStep q.id) s
      { withItem s { q with item := some 0 } with qm := { s.qm with
        regions := s.qm.regions.map (fun x => if x.id = r.id then { r with merging := true } else x) } }) ∧
    (beforeItemStep s q r → q.op = .append → r.merging = false → headerFound s q →
      let cnt := inRegionAt s r 0x28 8
      (cnt + q.n ≤ r.side → cnt + q.n < 2 ^ 64 → ∃ t, Goes (.collectionItemStep q.id) s t ∧
        Went s t { q with item := some (r.body + cnt) } ∧ unitWritten s t (r.unit 0) 0x28 8 (cnt + q.n) ∧
        (∀ m, m ≠ r.unit 0 → m ≠ parityUnit (r.unit 0) → t.qm.raw m = s.qm.raw m) ∧ stripeXor t (r.unit 0) = stripeXor s (r.unit 0)) ∧
      (r.side < cnt + q.n → ∃ t, Goes (.collectionItemStep q.id) s t ∧ t.qm = s.qm ∧
        t.eng.queries = s.eng.queries.filter (fun y => y.id ≠ q.id) ∧
        ∀ p ∈ t.players, p.id = q.owner → ∀ p' ∈ s.players, p'.id = p.id → distinctPlayers s → p'.afq.length < 16 →
          p.afq = p'.afq ++ [⟨0x07, 4, BitVec.ofNat 6 q.pip, 0x09, 0, q.sa,
            some (.query { q with fault := true, sent := false, touched := [], flags := 0, acking := [], ending := none })⟩])) ∧
    (atStack s q → s.regionAt q.asid q.sa = some r → q.op = .append → ∀ first f, q.item = some first → f < q.count →
      q.done.testBit f = false →
      let b := r.rowBytes
      let at' := fun (g j : Nat) => r.rowOff (first + g) + j
      let left := fun (g : Nat) => g < q.count ∧ q.done.testBit g = false
      -- a stripe that the rows still to be written cover whole is written with every row that reaches into it (R316)
      let full := fun (u : Nat) => ∀ m ∈ stripeUnits u, m ≠ parityUnit u → ∀ o < 1024, ∃ g j, left g ∧ j < b ∧
        r.unit (at' g j / 1024) = m ∧ at' g j % 1024 = o
      let reaches := fun (g : Nat) => ∃ j < b, full (r.unit (at' g j / 1024))
      let now := fun (g : Nat) => left g ∧ (g = f ∨ (reaches f ∧ reaches g))
      0 < b → (∀ g, left g → at' g b ≤ r.units * 1024 ∧
        ∀ j < b, s.locate q.asid q.wid (s.regionBase q.asid q.sa + word (at' g j)) true false = .ok ⟨r, at' g j⟩) →
      ∃ t d a, Goes (.stackUnitWriteApply q.id f) s t ∧ Went s t { q with done := d, applied := a } ∧
        (∀ g, d.testBit g = true ↔ q.done.testBit g = true ∨ now g) ∧
        (∀ g, a.testBit g = true ↔ q.applied.testBit g = true ∨ now g) ∧
        (∀ g, now g → ∀ j < b, inRegionAt t r (at' g j) 1 = (byteOf q.vec (b * g + j)).toNat) ∧
        (∀ k < r.units * 1024, (∀ g, now g → k < at' g 0 ∨ at' g b ≤ k) → inRegionAt t r k 1 = inRegionAt s r k 1) ∧
        ∀ u, stripeXor s u = 0 → stripeXor t u = 0) ∧
    (atStack s q → s.regionAt q.asid q.sa = some r → q.op = .append → ∀ first, q.item = some first → q.count ≠ 0 →
      q.chunks.testBit 0 = false → (∀ f < q.count, q.done.testBit f = true) → q.tq < 64 → r.body ≤ first + q.n →
      headerFound s q →
      ((∀ x ∈ s.allQueries, x.id ≠ q.id → x.op = .append → ∀ w, s.regionAt x.asid x.sa = some w → w.id = r.id →
          ∀ g, x.item = some g → first ≤ g) →
        ∃ t, Goes (.sideCountRaise q.id) s t ∧ unitWritten s t (r.unit 0) 0x20 8 (first + q.n - r.body) ∧
          Replied s { t with qm := s.qm } q 0 0 (fun p => lowSet p q.tq first) ∧ t.qm.deltas = [])) ∧
    (atStack s q → s.regionAt q.asid q.sa = some r → q.op = .merge → q.item.isSome = true → q.done = 0 → ∀ b,
      s.regionAt q.asid q.sd = some b → placed b → 1 ≤ b.units → (∀ i j, i < r.units → j < b.units →
        unitRow (r.unit i) ≠ unitRow (b.unit j)) →
      (∀ x ∈ s.allQueries, x.id ≠ q.id → x.op.isWrite = true → x.item.isSome = true →
        s.reaches x.asid x.writeRanges r = false) →
      let rows := List.range (r.body + inRegionAt s r 0x20 8)
      let live := rows.filter (fun i => !(inRegionAt s r (r.tombOff + i / 8) 1).testBit (i % 8))
      let bytes := r.rowBytes
      b.rowBytes = bytes → live.length ≤ b.body → live.length < 2 ^ 64 → 1024 + b.body * bytes ≤ b.units * 1024 →
      (∀ i ∈ rows, r.rowOff i + bytes ≤ r.units * 1024 ∧ r.tombOff + i / 8 < r.units * 1024) →
      ∃ t, Goes (.qmergeCopy q.id) s t ∧ t.qm.deltas = [] ∧ inRegionAt t b 0x10 8 = live.length ∧
        inRegionAt t b 0x20 8 = 0 ∧ inRegionAt t b 0x28 8 = 0 ∧
        (∀ j (h : j < live.length), ∀ k < bytes, inRegionAt t b (1024 + j * bytes + k) 1 = inRegionAt s r (r.rowOff live[j] + k) 1) ∧
        t.qm.regions = s.qm.regions.map (fun x => if x.id = b.id then { b with body := live.length } else x) ∧
        onlyItem s t { q with done := 1, applied := 1, ok := live.length }) ∧
    (atStack s q → s.regionAt q.asid q.sa = some r → q.op = .merge → q.done = 1 → q.tq < 64 → ∀ b,
      s.regionAt q.asid q.sd = some b →
      (∀ x ∈ s.allQueries, x.id ≠ q.id → x.item.isSome = true → s.reaches x.asid x.readRanges r = false ∧
        (x.op.isQuery = true → s.reaches x.asid x.writeRanges r = false)) →
      ∃ t, Goes (.qmergeSwitch q.id) s t ∧ t.qm = { s.qm with regions := s.qm.regions.map (fun x =>
          if x.id = r.id then { b with id := r.id, merging := false }
          else if x.id = b.id then { r with id := b.id, merging := false, retired := true } else x) } ∧
        t.eng.queries = s.eng.queries.filter (fun y => y.id ≠ q.id) ∧
        t.players = s.players.map (fun p => if p.id = q.owner then pipSet { p with tregs := belowAllot p (lowSet p q.tq q.ok) } q.pip 0 else p) ∧
        t.mem = s.mem ∧ t.vm = s.vm ∧ t.dev = s.dev)

namespace Sys2Proof.Claims

open Sys2Proof Sys2Proof.Machine

/-- Player `p` is the only one of its cluster with a step that the arbiter may serve, the oldest of its accumulator `a`. -/
def OnlyStep (s : State) (p : Player) (a : Accum) (later : List Accum) : Prop :=
  distinctPlayers s ∧ p ∈ s.players ∧ p.live = true ∧ p.frozen = false ∧ p.accum = a :: later ∧ a.loaded = true ∧
    ∀ q ∈ s.players, q.place.cluster = p.place.cluster → q.id ≠ p.id → q.accum = []

/-- The record of player `id` changes; nothing else does but the engines' tables. -/
def onRecord (s t : State) (id : Nat) (f : Player → Player) : Prop :=
  t = { s with me := t.me, others := t.others, eng := t.eng } ∧ t.players = s.players.map (fun q => if q.id = id then f q else q)

/-- Element `k` of a packed list of `w`-bit values. -/
def item (x w k : Nat) : Nat := x / 2 ^ (k * w) % 2 ^ w

/-- The geometry rows of a family group (R277). -/
def rowsOf (group : Nat) : Nat := [256, 256, 128, 32].getD group 32

/-- An accumulator whose store has been read: what could be corrected is, a row that could not is poisoned (R279). -/
def scanned (a : Accum) : Accum := { a with soft := 0, hard := 0, poison := a.poison ||| a.hard }

/-- The two kinds of errors of a store of accumulators are counted, row by row (R447), and every correction enters the log
(R444; notes/assumptions/101.md). -/
def tallied (s : State) (p : Player) (a : Accum) : State :=
  let rows := fun (m : Nat) => ((List.range 256).filter (fun i => m.testBit i)).length
  (List.range (rows a.soft)).foldl (fun (t : State) _ => t.report { blankRec 0x0D 2 4 p with pc := 0 } none)
    ((s.count 4 (rows a.soft)).count 5 (rows a.hard))

/-- The accumulator group of a grant as one number. -/
def accGroup (g : Grant) (t : Vector Nat 64) : Nat := groupOf t (2048 * g.rows.toNat) g.acc.toNat g.asize.toNat

end Sys2Proof.Claims

/-- R264, R265, R271 to R274, R277 to R279, R282: the load ends; a cycle of the arbiter serves the rows that the
geometry has and completes the oldest step (its arithmetic for the integer family exactly, for the unscaled
floating-point families by one rounded multiply-add, for the scaled ones by an exact sum of the open block); a chunk of
a write-back lands in its place of the group. What the close of a block (E = 1) computes is left out here. Whatever reads the
store of an accumulator corrects what it can of it, and poisons a row it cannot; each error is counted. That a cycle and a landing
are the moments at which the store is read, all of it, is the model's reading (notes/assumptions/14.md). -/
def Obligations.MatrixSteps : Prop :=
  ∀ (s : State) (p : Player) (a : Accum) (later : List Accum) (c : Nat),
    (distinctPlayers s → p ∈ s.players → ∃ t, Goes (.mxattachLoadDone p.id) s t ∧ t.eng = s.eng ∧
      onRecord s t p.id (fun q => { q with accum := q.accum.map (fun x => { x with loaded := true }) })) ∧
    (OnlyStep s p a later →
      let g := a.grant
      let F := g.family
      let room := rowsOf F.group
      let need := g.rows.toNat - a.served
      let a0 := scanned a
      let cycle := fun (x : Accum) => ∃ t, Goes (.matrixArbiterCycle p.place.cluster) s t ∧
        onRecord (tallied s p a) t p.id (fun q => { q with accum := x :: later }) ∧ t.eng = { s.eng with arbiters := t.eng.arbiters }
      (∀ w, a.work = .zero :: w → cycle { a0 with work := w, vals := 0, blk := 0, used := 0, poison := 0 }) ∧
      ∀ neg e va vb act scales frm w, a.work = .op neg e va vb act scales frm :: w →
        (room < need → cycle { a0 with served := a.served + room }) ∧
        (need ≤ room →
          let n := g.cols.toNat
          let x := fun k => item va g.aTy.width (k / n)
          let y := fun k => item vb g.bTy.width (k % n)
          let on := fun k => act.testBit (k / n) && act.testBit (k % n)
          let aw := F.acc.width
          ∃ b, cycle b ∧ b = { a0 with work := w, served := 0, vals := b.vals, blk := b.blk, used := b.used, flags := b.flags } ∧
            ∀ k < g.size,
              (on k = false → (F.scaled = false ∨ e = false) → item b.vals aw k = item a.vals aw k) ∧
              (on k = true → F.acc = .int true 32 →
                let prod := toSigned 8 (x k) * toSigned 8 (y k)
                (g.aTy = .int true 8 → g.bTy = .int true 8 →
                  (item b.vals 32 k : Int) = (item a.vals 32 k + if neg then -prod else prod) % 2 ^ 32) ∧
                (g.aTy = .int false 8 → g.bTy = .int false 8 →
                  (item b.vals 32 k : Int) = (item a.vals 32 k + if neg then -(x k * y k : Int) else x k * y k) % 2 ^ 32)) ∧
              (∀ f, on k = true → F.scaled = false → F.acc = .flt f →
                let r := (fmaVal (Rm.ofCode frm.toNat) neg false (elemVal g.aTy (x k)) (elemVal g.bTy (y k))
                  (unpack f.fmt (item a.vals aw k))).round f.fmt (Rm.ofCode frm.toNat)
                item b.vals aw k = r.val % 2 ^ aw ∧ r.flags &&& b.flags = r.flags) ∧
              (on k = true → F.scaled = true → e = false →
                let r := signTerm neg (mulVal (elemVal g.aTy (x k)) (elemVal g.bTy (y k)))
                item b.blk 128 k = blkAdd (item a.blk 128 k) (blkTerm r.v) % 2 ^ 128 ∧ b.used.testBit k = true ∧
                  item b.vals aw k = item a.vals aw k))) ∧
    (distinctPlayers s → p ∈ s.players → p.frozen = false → p.accum = a :: later → a.loaded = true →
      ∀ det tp id pc w, a.work = .back det tp id c pc :: w → tp < 64 →
        let g := a.grant
        let aw := g.family.acc.width
        let last := g.size / 64 ≤ c + 1
        let a0 := scanned a
        let left := if last then { a0 with work := w, flags := 0 } else { a0 with work := .back det tp id (c + 1) pc :: w, flags := 0 }
        let kept := if last ∧ det = true then later else left :: later
        let clean := ∀ k < 64, a0.poison.testBit ((64 * c + k) / g.cols.toNat) = false
        (clean → g.acc.toNat + g.asize.toNat ≤ 64 → (64 * c + 64) * aw ≤ g.asize.toNat * (2048 * g.rows.toNat) →
          (∀ (r : Nat) (h : r < 64), p.tregs[r] < 2 ^ (2048 * g.rows.toNat)) → g.rows.toNat = p.lanes →
          ∃ t regs, Goes (.matrixChunkLand p.id c) s t ∧ t.eng = s.eng ∧ onRecord (tallied s p a) t p.id (fun q => pipSet { q with
              accum := kept, flags := q.flags ||| a.flags, tregs := regs } tp c) ∧
            (∀ (r : Nat) (h : r < 64), r < g.acc.toNat ∨ g.acc.toNat + g.asize.toNat ≤ r → regs[r] = p.tregs[r]) ∧
            ∀ k, (k + 1) * aw ≤ g.asize.toNat * (2048 * g.rows.toNat) → item (accGroup g regs) aw k =
              if 64 * c ≤ k ∧ k < 64 * c + 64 then item a.vals aw k else item (accGroup g p.tregs) aw k) ∧
        (¬clean → p.afq.length < 16 → ∃ t addr, Goes (.matrixChunkLand p.id c) s t ∧ t.eng = s.eng ∧ t.mem = s.mem ∧
          t.players = s.players.map (fun q => if q.id = p.id then { q with
            accum := kept
            flags := q.flags ||| a.flags
            afq := q.afq ++ [⟨0x0D, 2, BitVec.ofNat 6 tp, 0, BitVec.ofNat 20 c, addr, none⟩]
            owners := q.owners.map (fun o => if o.item = id then { o with fault := true } else o) } else q)))

namespace Sys2Proof.Claims

open Sys2Proof Sys2Proof.Machine

/-- Table entry `ix` of table `slot` points at table `t` (R409, R410: V set, L clear). -/
def points (v : Vm) (slot ix t : Nat) : Prop :=
  ix < 512 ∧ (v.entry slot ix).getLsbD 0 = true ∧ (v.entry slot ix).getLsbD 1 = false ∧ (v.entry slot ix).toNat / 2 ^ 12 % 2 ^ 45 = t

/-- The tables form trees: no table is named twice, no root is named at all, tables not yet handed out are empty; an entry that
names a table obeys R411; a cached copy is that of the leaf its addresses walk to (R413). -/
def trees (v : Vm) : Prop :=
  (∀ a i b j t, points v a i t → points v b j t → a = b ∧ i = j) ∧ (∀ a i t, points v a i t → entryOk (v.entry a i) = true) ∧
    (∀ a i t, points v a i t → t < v.nextTable ∧ ∀ r ∈ v.roots, r.2.2 ≠ t) ∧ (v.roots.map (fun r => r.1)).Nodup ∧
    (v.roots.map (fun r => r.2.2)).Nodup ∧ (∀ r ∈ v.roots, r.2.2 < v.nextTable) ∧
    (∀ a i, v.nextTable ≤ a → i < 512 → v.entry a i = 0) ∧ v.nextTable < 2 ^ 44 ∧
    ∀ c ∈ v.cache, c.2.1 < 2 ^ 57 ∧ ∃ r ∈ v.roots, r.1 = c.1 ∧ ∀ va, va / leafSize c.2.2.1 * leafSize c.2.2.1 = c.2.1 →
      v.walk va 4 r.2.2 = some (Leaf.ofEntry c.2.2.1 c.2.2.2)

/-- The base of the page at an address. -/
def pageOf (l : Leaf) (va : Nat) : Nat := va % 2 ^ 57 / leafSize l.level * leafSize l.level

/-- Nothing of the address space has translated and not yet performed (R380, R413). -/
def drained (s : State) (asid : Nat) : Prop :=
  (∀ x ∈ s.eng.xfers, x.asid = asid → x.reading = [] ∧ x.flushing = [] ∧ x.acking = []) ∧
    (∀ q ∈ s.eng.queries, q.asid = asid → q.sent = false ∧ q.acking = []) ∧
    ∀ p ∈ s.players, p.place.asid = asid → s.ownStores p = []

/-- A query-engine item of the address space has left the query queue and reaches a byte of the page at `va` (R380). -/
def reachedBy (s : State) (asid : Nat) (l : Leaf) (va : Nat) : Prop :=
  ∃ q ∈ s.eng.queries, ∃ a n, q.asid = asid ∧ q.sent = true ∧ .bytes a n ∈ q.ranges ∧
    pageOf l va < vaIndex a + n ∧ vaIndex a < pageOf l va + leafSize l.level

/-- Stack, PC and row exist (R306). -/
def rowExists (st pc row : Nat) : Prop := st < 12 ∧ pc < 64 ∧ row < 1310720

end Sys2Proof.Claims

/-- R374 to R376: a resumed instruction takes a slot of its engine as the first of its order of arrival, goes on from
what it had done, its fault bit clears, and its `putsr` completes. R379, R380, R382,
R409 to R413, R415: a remap waits until nothing translated against one of the two pages is under way; then V names the page
that T named, T is invalid and every other page is as it was. An export mark is set in the same way. A walk that ends at
a leaf is cached, and the cache changes no translation: what is cached of a page goes when the page is remapped or marked. -/
def Obligations.ResumeAndTranslation : Prop :=
  (∀ (s : State) (p : Nat) (h : Held) (l r : List (Nat × Held)) (rest : List (Nat × Nat)),
    (s.player? p).isSome → distinctPlayers s → s.eng.resumed = l ++ (p, h) :: r → (∀ x ∈ l ++ r, x.1 ≠ p) →
    s.eng.arrivals = (p, h.eng) :: rest → (p, h.eng) ∉ rest →
    let u := s.focus p
    let slot := fun (n : Nat) => u.slotFree n p = true
    let comesBack := fun (id : Nat) (g : Eng → Eng) => ∃ t, Goes (.heldInstructionReaccept p) s (back s t) ∧
      t = { u with
        me := { u.me with
          pc := u.me.pc + 4
          waiting := none
          owners := u.me.owners.map (fun o => if o.item = id then { o with fault := false } else o) }
        eng := g { u.eng with resumed := l ++ r, arrivals := rest } }
    (∀ x, h = .xfer x → x.owner = p → slot 3 → comesBack x.id (fun e => { e with xfers := e.xfers ++
      [{ x with fault := false, ending := none }] })) ∧
    (∀ y, h = .query y → y.owner = p → slot 4 → s.qm.unav = false → comesBack y.id (fun e => { e with queries := e.queries ++
      [{ y with fault := false, sent := false }] })) ∧
    (h.eng = 4 → s.qm.unav = true → Goes (.heldInstructionReaccept p) s (back s u))) ∧
  (∀ (s : State) (p : Nat) (a : SReg),
    trees s.vm →
    (WaitsIn s p (.putsrQrmv a) →
      let u := s.focus p
      let asid := u.me.place.asid
      let V := src u a
      let T := u.me.q.qrmt
      (∀ x r, canonicalVa V = true → s.vm.leaf asid (vaIndex V) = some x → x.space = .qm →
        s.qm.region? (x.frame / 2 ^ 20 % 2 ^ 16) = some r → r.retired = false → reachedBy s asid x V.toNat →
        Goes (.remapSwitch p) s (back s u)) ∧
      (∀ x y r w, drained s asid → canonicalVa V = true → canonicalVa T = true → s.vm.leaf asid (vaIndex V) = some x →
        s.vm.leaf asid (vaIndex T) = some y → x.space = .qm → y.space = .qm → x.level = y.level →
        s.qm.region? (x.frame / 2 ^ 20 % 2 ^ 16) = some r → s.qm.region? (y.frame / 2 ^ 20 % 2 ^ 16) = some w →
        r.retired = false → w.retired = false → pageOf x V.toNat ≠ pageOf y T.toNat →
        ∃ t, Goes (.remapSwitch p) s (back s t) ∧ t.me.waiting = none ∧ t.me.pc = u.me.pc + 4 ∧ t.me.q.qrmv = 0 ∧
          t.mem = s.mem ∧ t.qm = s.qm ∧ t.eng = s.eng ∧
          ∀ b va, t.vm.leaf b va = if b = asid ∧ pageOf x va = pageOf x V.toNat then some { x with frame := y.frame }
            else if b = asid ∧ pageOf y va = pageOf y T.toNat then none else s.vm.leaf b va)) ∧
    (∀ asid va, s.vm.exporting = some (asid, va) →
      (∀ x, s.vm.leaf asid va = some x → va < 2 ^ 57 → reachedBy s asid x va → Goes .exportMarkSet s s) ∧
      (∀ x, drained s asid → s.vm.leaf asid va = some x → va < 2 ^ 57 → ∃ t, Goes .exportMarkSet s t ∧
        t = { s with vm := t.vm, dev := t.dev } ∧ t.vm.exporting = none ∧ t.dev.mbStatus = 0 ∧ t.dev.mbBell = false ∧
        t.dev.msix = s.dev.msix ++ [65] ∧
        ∀ b va', t.vm.leaf b va' = if b = asid ∧ pageOf x va' = pageOf x va then some { x with exp := true } else s.vm.leaf b va')) ∧
    (∀ asid va l, sound s → va < 2 ^ 57 → s.vm.leaf asid va = some l → ∃ t, Goes (.translationWalk asid va) s t ∧
      t = { s with vm := { s.vm with cache := t.vm.cache } } ∧ t.vm.cached asid va = some l ∧
      ∀ b va', t.vm.leaf b va' = s.vm.leaf b va'))

/-- R306, R308, R319, R320, R322 to R325, R440, R444, R448: the scrubber certifies a row it can read, its wrong symbols
corrected and counted, and rewrites one it can rebuild, with a record of either; a certificate expires; the first stack declared
lost is served from the other eleven once the parity queues have drained, a second one makes query memory unavailable: every item
has then gone, but one that still owes a delta for an element applied before. That the visit of row 0 of PC 0 begins a new interval,
with its counts, is the model's reading (notes/assumptions/63.md); the stop at a row that does not exist is the model's own, R306
giving the range alone. -/
def Obligations.StacksAndRows : Prop :=
  ∀ (s : State) (st pc row : Nat),
    let n := unitNo st pc row
    let visits := fun (t : State) => t.qm.visited = setNat st
      (if pc = 0 ∧ row = 0 then 1 else (lookupNat st s.qm.visited).getD 0 + 1) s.qm.visited
    (¬rowExists st pc row → exec (.scrubRowVisit st pc row) s = .fault (.noSuchRow n) ∧
      exec (.cleanRowExpiry st pc row) s = .fault (.noSuchRow n)) ∧
    (rowExists st pc row → ∃ t, Goes (.cleanRowExpiry st pc row) s t ∧
      t = { s with qm := { s.qm with clean := t.qm.clean } } ∧
        ∀ m, t.qm.isClean m = true ↔ s.qm.isClean m = true ∧ m ≠ n) ∧
    (rowExists st pc row → s.qm.unav = false → s.qm.lost ≠ some st → settled s → unfaulted s →
      (n ∉ s.qm.bad → ∃ t, Goes (.scrubRowVisit st pc row) s t ∧ visits t ∧ t.qm.isClean n = true ∧
        lookupNat n t.qm.soft = none ∧
        (∀ k, lookupNat n s.qm.soft = some k → lookupNat st t.qm.corrected =
          some ((if pc = 0 ∧ row = 0 then 0 else (lookupNat st s.qm.corrected).getD 0) + k)) ∧
        t = { s with qm := { s.qm with
          clean := t.qm.clean, visited := t.qm.visited, recon := t.qm.recon, soft := t.qm.soft
          corrected := t.qm.corrected }, dev := t.dev } ∧ t.dev.counters = s.dev.counters ∧
        (lookupNat n s.qm.soft = none → t.dev = s.dev) ∧
        (lookupNat n s.qm.soft ≠ none → ∃ r, t.dev.log.getLast? = some r ∧ RebuiltUnit r n)) ∧
      (n ∈ s.qm.bad → s.canonicalMemory → s.qm.lost = none → (∀ m ∈ stripeUnits n, m ≠ n → m ∉ s.qm.bad) →
        (∀ d ∈ s.qm.deltas, d.pc ≠ pc ∨ d.row ≠ row) → (∀ x ∈ s.qm.recon, x.2 < 16) →
        ∃ t, Goes (.scrubRowVisit st pc row) s t ∧ visits t ∧ t.qm.isClean n = true ∧ n ∉ t.qm.bad ∧
          t.qm.raw n = xorAll ((stripeUnits n).map (fun m => if m = n then 0 else s.qm.raw m)) ∧
          (∀ m ≠ n, t.qm.raw m = s.qm.raw m) ∧ ∃ r, t.dev.log.getLast? = some r ∧ RebuiltUnit r n)) ∧
    (st < 12 → st ∉ s.dev.lostStacks →
      ∃ t, Goes (.stackFatalError st) s t ∧ t.dev.lostStacks = s.dev.lostStacks ++ [st] ∧ t.mem = s.mem ∧ t.vm = s.vm ∧
        (s.qm.lost = none → s.qm.losing = none → t.qm = { s.qm with losing := some st } ∧ t.eng = s.eng ∧
          t.players = s.players ∧ t.dev.msix = s.dev.msix ++ [64]) ∧
        (s.qm.lost ≠ none ∨ s.qm.losing ≠ none → t.qm.unav = true ∧
          ∀ y ∈ t.eng.queries, y.ending ≠ none ∧ ∃ f, y.applied.testBit f = true ∧ y.done.testBit f = false)) ∧
    (s.qm.losing = some st →
      ((∃ d ∈ s.qm.deltas, d.stack ≠ st) → Goes (.degradedSwitch st) s s) ∧
      ((∀ d ∈ s.qm.deltas, d.stack = st) → s.qm.held = [] → s.qm.bad = [] → s.qm.unav = false → (∀ x ∈ s.qm.recon, x.2 ≤ 16) →
        unfaulted s → (∀ q ∈ s.allQueries, ∀ f, q.applied.testBit f = true → q.done.testBit f = true) →
        ∃ t, Goes (.degradedSwitch st) s t ∧ t = { s with qm := { s.qm with deltas := [], lost := some st, losing := none }
                                                          dev := { s.dev with msix := s.dev.msix ++ [64] } } ∧
          ∀ u, u ∈ stripeUnits u → stripeXor s u = 0 → t.unitValue u = s.qm.raw u))

namespace Sys2Proof.Claims

open Sys2Proof Sys2Proof.Machine

/-- A counter grows by `n` up to its largest value (R447). -/
def counted (s t : State) (i n : Nat) : Prop :=
  s.dev.counters[i]! < 2 ^ 64 → t.dev.counters[i]! = min (2 ^ 64 - 1) (s.dev.counters[i]! + n)

/-- The newest record of the log has this cause, engine and flags (R428). -/
def Logged (t : State) (cause engine flags : Nat) : Prop :=
  ∃ r, t.dev.log.getLast? = some r ∧ r.cause = cause ∧ r.engine = engine ∧ r.flags = flags

/-- A player belongs to a party. -/
def ofParty (q : Party) (p : Player) : Prop := p.place.launch = q.launch ∧ p.place.party = q.index

/-- The party is in the table once. -/
def theParty (s : State) (q : Party) : Prop :=
  q ∈ s.cp.parties ∧ ∀ x ∈ s.cp.parties, x.launch = q.launch → x.index = q.index → x = q

/-- The party's record changed by `f`. -/
def partyChanged (s t : State) (q : Party) (f : Party → Party) : Prop :=
  t.cp.parties = s.cp.parties.map (fun x => if x.launch = q.launch ∧ x.index = q.index then f x else x)

/-- The launch is not being removed. -/
def staying (s : State) (launch : Nat) : Prop := ∀ l ∈ s.cp.launches, l.id = launch → l.removing = none

/-- The bytes of a player's window as its pages hold them (R400). -/
def windowOf (s : State) (q : Party) (rank : Nat) : List Byte :=
  (q.frames.filter (fun f => f.1 = rank)).flatMap (fun f =>
    (List.range 4096).map (fun i => s.mem.spad.get ((q.cluster * 4096 + f.2) * 4096 + i)))

/-- The waits that a pre-emption request abandons (R256). -/
def brokenOff (i : Instr) : Prop :=
  (∃ d a b, i = .waitEq d a b ∨ i = .waitNe d a b ∨ i = .waitGeu d a b ∨ i = .waitAny d a b ∨ i = .setvlw d a b) ∨
    (∃ a b r, i = .pwait a b r) ∨ (∃ d a, i = .setvlG d a) ∨ i = .bar

/-- What an item of a stopped player is: at a chunk boundary, not sent, no unit touched; a merge goes on (R302, R359, R377), and
for a warm start what has left the query queue (R441). -/
def stoppedQuery (id : Nat) (warm : Bool) (y : Query) : Query :=
  if y.owner = id ∧ y.op ≠ .merge ∧ ¬(warm = true ∧ y.sent = true) then { y with stopped := true, sent := false, touched := [] }
  else y

/-- Every element that an item has applied has performed, every chunk at a peer has been acknowledged. -/
def rested (y : Query) : Prop := (∀ f, y.applied.testBit f = true → y.done.testBit f = true) ∧ y.acking = []

/-- What an image keeps of a player (R257, R282, R356): the queue, the buffers, monitors and requests go, of the tile registers
those below `ALLOT` stay, of a block value its 99 bits, a convoy in flight as the resume slot would hold it, and the window's table
entry is to be loaded again. -/
def keptOf (x : Player) : Player :=
  { x with
    tregs := Vector.ofFn (fun i => if i.val < x.shape.allot then x.tregs[i] else 0)
    accum := x.accum.map Accum.kept
    conv := x.conv.map (fun c => c.setAside x.tregs[0])
    queue := [], wbuf := [], waiting := none, armed := none, wake := false, tbad := [], tsoft := []
    preempt := false, hold := false, frozen := false
    q := { x.q with window := none, loading := decide (x.q.qewin ≠ 0) } }

/-- The scalar instructions that complete although their player issues nothing more (R426). -/
def finishing (i : Instr) : Prop :=
  (∃ a b, i = .fence a b) ∨ (∃ a b, i = .wmpub a b ∨ i = .allot a b) ∨ (∃ a b c, i = .launch a b c ∨ i = .setvl a b c) ∨ i = .halt ∨
    ∃ a, i = .putsrQrmv a ∨ i = .putsrEafqrResume a ∨ i = .putsrEafqrDiscard a

/-- The completion entry of a queue (R392) is written at its tail with the phase of the pass and its vector sent, or waits while
the link is down (R458). -/
def Entered (s t : State) (q : Nat) (tag : BitVec 32) (status cause : Nat) : Prop :=
  let h := s.queueAt q
  let h' := t.queueAt q
  let phase := 1 - h.compTail.toNat / h.compEntries % 2
  let at' := h.compBase + h.compTail.toNat % h.compEntries * 16
  (s.dev.linkUp = true → h.entries = [] → (h.compTail - h.compHead).toNat < h.compEntries →
    h'.compTail = h.compTail + 1 ∧ h'.entries = [] ∧ t.dev.msix = s.dev.msix ++ [q] ∧
      ∀ a, t.mem.host.get a = if at' ≤ a ∧ a < at' + 16 then
        byteOf (tag.toNat + status % 2 ^ 16 * 2 ^ 32 + q % 256 * 2 ^ 48 + phase * 2 ^ 56 + cause % 256 * 2 ^ 64) (a - at')
      else s.mem.host.get a) ∧
    (s.dev.linkUp = false → h'.entries = h.entries ++ [⟨tag, status, q, cause⟩] ∧ h'.compTail = h.compTail ∧
      t.mem.host = s.mem.host ∧ t.dev.msix = s.dev.msix)

/-- What stays as it is when only queues, launches and the like change. -/
def restOfCp (s t : State) : Prop :=
  t = { s with mem := { s.mem with host := t.mem.host }, cp := t.cp, dev := { s.dev with msix := t.dev.msix } }

/-- A launch under removal at step `k` (R426). -/
def inRemoval (s : State) (l : Launch) (k : Nat) : Prop :=
  (∃ x y, l.removing = some (k, x, y)) ∧ s.cp.launches.find? (fun x => x.id = l.id) = some l

end Sys2Proof.Claims

/-- R256, R302, R377, R405 to R407, R423: a party is asked to stop for a world switch of its cluster, never for a queue
of its own base level or a lower one; each player then stops with its stores at their homes, its waits broken off, its
tags gone and its items at a boundary. R257, R258, R327, R398, R406, R419 to R422: the image of a stopped player holds what
R257 lists, its items and its window, lies in a CONTEXT region and counts the world's saves; without room the save waits;
with the last image the party's seats and windows are free. Whatever has befallen its units by then, an image that cannot be read or
fails its checks is destroyed and its launch removed; the last good one lets the party go on. The model's choices here: one CONTEXT
region for each image (notes/assumptions/18.md), how it lays out its sections (89.md), that the world's save count is that of its images
(42.md), the windows of halted ranks in the last image of the party (99.md), status 4 with cause 0x0D for an image that cannot be read
(45.md), and which waits complete before the player stops (92.md). -/
def Obligations.Preemption : Prop :=
  (∀ (s : State) (q : Party) (p : Nat),
    (theParty s q → q.saved = 0 → staying s q.launch →
      ((lookupNat q.cluster s.cp.switching).isSome → ∃ t, Goes (.preemptionRequest q.launch q.index) s t ∧
        partyChanged s t q (fun x => { x with saved := 1 }) ∧ t = { s with me := t.me, others := t.others, cp := t.cp } ∧
        t.cp = { s.cp with parties := t.cp.parties } ∧ ∀ (k : Nat) (h : k < s.players.length), ∃ h' : k < t.players.length,
          (ofParty q s.players[k] → t.players[k] = { s.players[k] with preempt := true }) ∧
          (¬ofParty q s.players[k] → t.players[k] = s.players[k])) ∧
      (lookupNat q.cluster s.cp.switching = none → (∀ k, k < 64 → q.level ≤ (s.queueAt k).level) →
        Goes (.preemptionRequest q.launch q.index) s s)) ∧
    ((s.player? p).isSome →
      let u := s.focus p
      let free := u.me.live = true ∧ u.me.preempt = true ∧ u.me.hold = false ∧ u.me.frozen = false ∧
        (∀ a ∈ u.me.accum, a.served = 0) ∧ (∀ x ∈ u.eng.resumed, x.1 ≠ u.me.id) ∧
        (∀ y ∈ u.me.heldQueries, rested y) ∧ (∀ y ∈ u.eng.queries, y.owner = u.me.id → y.op = .merge ∨ rested y) ∧
        ∀ x ∈ u.eng.xfers, x.owner = u.me.id → x.reading = [] ∧ x.flushing = [] ∧ x.acking = []
      (s.canonicalMemory → free → u.me.conv = none →
        (∀ i, u.me.waiting = some i → brokenOff i ∨ (tileDesc? i).isSome = true) →
        ∃ t, Goes (.preemptionTaken p) s (back s t) ∧
          t.me = { u.me with wbuf := [], waiting := none, armed := none, wake := false, frozen := true } ∧
          List.Forall₂ sameButWake t.others u.others ∧ (∀ a, t.mem.spad.get a = u.spadByte u.me a) ∧
          (∀ a ∈ t.mem.arrivals, a ∈ s.mem.arrivals ∧ a.1 ≠ u.me.id) ∧ (∀ g ∈ t.mem.tags, g ∈ s.mem.tags ∧ g.player ≠ u.me.id) ∧
          t.eng = { s.eng with
            xfers := s.eng.xfers.map (fun x => if x.owner = u.me.id then { x with stopped := true } else x)
            queries := s.eng.queries.map (stoppedQuery u.me.id s.dev.warming)
            arrivals := s.eng.arrivals.filter (fun x => x.1 ≠ u.me.id) } ∧
          t.qm = s.qm ∧ t.vm = s.vm ∧ t.cp = s.cp ∧ ∃ k, t.dev = (s.count 2 k).dev) ∧
      (∀ i, u.me.waiting = some i → ¬brokenOff i → (tileDesc? i).isSome = false → Goes (.preemptionTaken p) s (back s u)))) ∧
  (∀ (s : State) (q : Party) (x : Player) (m : Image),
    (distinctPlayers s → theParty s q → x ∈ s.players → ofParty q x → x.live = true → x.frozen = true → q.saved = 1 →
      s.dev.warming = false → x.place.wid < 65 → (∀ y ∈ s.cp.images, y.player.id ≠ x.id) →
      let w := s.worldAt x.place.wid
      let mine := fun (stopped : Bool) (owner : Nat) => stopped && decide (owner = x.id)
      let others := ∃ y ∈ s.players, ofParty q y ∧ y.live = true ∧ y.id ≠ x.id ∧ ∀ i ∈ s.cp.images, i.player.id ≠ y.id
      ∀ window,
      let image := fun (region : Nat) => Image.mk (keptOf x) (s.eng.xfers.filter (fun y => mine y.stopped y.owner))
        (s.eng.queries.filter (fun y => mine y.stopped y.owner)) window s.cp.nextContext (w.saves + 1) region
      (others → window = windowOf s q x.place.rank) →
      (¬others → window = windowOf s q x.place.rank ++ (s.haltedRanks q x.place.size).flatMap (windowOf s q)) →
      (s.storeImage (image 0) = none → Goes (.contextSave x.id) s s) ∧
      ∀ m u, s.storeImage (image 0) = some (m, u) →
        m = image m.region ∧ (∃ r, u.qm.region? m.region = some r ∧ r.cls = 3 ∧ r.slab = false ∧ r.home = 15 ∧ r.world = 127) ∧
        ∃ t, Goes (.contextSave x.id) s t ∧ t.qm = u.qm ∧ t.cp.images = s.cp.images ++ [m] ∧
        t.cp.nextContext = s.cp.nextContext + 1 ∧ (t.worldAt x.place.wid).saves = w.saves + 1 ∧ t.mem = s.mem ∧
        t.eng = { s.eng with
          xfers := s.eng.xfers.filter (fun y => !mine y.stopped y.owner)
          queries := s.eng.queries.filter (fun y => !mine y.stopped y.owner) } ∧
        t.dev = { s.dev with counters := t.dev.counters, log := t.dev.log, seq := t.dev.seq } ∧
        (others → t.players = s.players ∧ t.vm = s.vm ∧ t.cp.parties = s.cp.parties) ∧
        (¬others → t.vm = s.vm.unmapWindows q x.place.asid ∧
          (∀ y ∈ t.players, y.live = true → ¬ofParty q y) ∧ partyChanged s t q (fun y => { y with saved := 2, frames := [], aged := 0 }) ∧
          (∀ y ∈ s.players, ¬ofParty q y → y.live = true → y ∈ t.players))) ∧
    (theParty s q → q.saved = 3 → staying s q.launch → s.dev.warming = false → m ∈ s.cp.images → ofParty q m.player →
      (∀ y ∈ s.cp.images, y.context = m.context → y = m) → ∀ (d : Damage) (r : Reading) (u : State), (s.damage m d).readImage m = (r, u) →
      let gone := fun (t : State) => t.cp.images = s.cp.images.filter (fun y => y.context ≠ m.context) ∧
        t.qm.region? m.region = none ∧ t.mem = s.mem ∧ t.vm = s.vm
      (r = .clean ∨ r = .corrected → (∃ y ∈ s.cp.images, y ≠ m ∧ ofParty q y.player) →
        ∃ t, Goes (.contextRestore m.context d) s t ∧ gone t ∧ t.players = s.players ∧ t.cp.parties = s.cp.parties ∧
          t.eng = { s.eng with xfers := s.eng.xfers ++ m.xfers, queries := s.eng.queries ++ m.queries }) ∧
      (r = .clean ∨ r = .corrected → (∀ y ∈ s.cp.images, ofParty q y.player → y = m) →
        let ms := s.members q.launch q.index
        let theirs := fun (owner : Nat) => ms.any (fun z => decide (z.id = owner))
        s.slotsUsed q.cluster + (ms.map (fun z => (z.accum.map (fun a => a.grant.slots)).sum)).sum ≤ 1024 →
        s.attachBefore q (ms.map (fun z => z.id)) = false →
        s.eng.xfers.length + m.xfers.length ≤ 256 → s.eng.queries.length + m.queries.length ≤ 512 → distinctPlayers s →
        ∃ t, Goes (.contextRestore m.context d) s t ∧ gone t ∧ partyChanged s t q (fun y => { y with saved := 0 }) ∧
          t.players = s.players.map (fun y => if theirs y.id = true then { y with frozen := false, preempt := false } else y) ∧
          t.eng.xfers = (s.eng.xfers ++ m.xfers).map (fun y => if theirs y.owner = true then { y with stopped := false } else y) ∧
          t.eng.queries = (s.eng.queries ++ m.queries).map (fun y =>
            if theirs y.owner = true then { y with stopped := false } else y)) ∧
      (r = .unreadable ∨ r = .refused → ∃ t, Goes (.contextRestore m.context d) s t ∧ gone t ∧ t.players = s.players ∧
        t.eng = s.eng ∧ ∀ l ∈ s.cp.launches, l.id = q.launch → ∃ l' ∈ t.cp.launches, l'.id = l.id ∧ l'.removing = some (0, 4, 0x0D))))

/-- R414, R423, R424: one cluster at a time passes to another world, only for the foremost candidate, which fits nowhere; it has an
owner of another world and running parties, and no allowed cluster with fewer players could pass. It changes hands when
no player is left on it and no engine holds an item of one, with no cached translation. R242, R281, R392, R404, R426, R427: the seven steps of a removal,
each begun when the count of the one before is zero; after the last the launch and its images are gone and its entry
carries status and cause. A count that does not reach zero is made zero by a reset of the core, or at step 5 takes the
stack for lost; a core or an array so reset stays so until the removal has ended (notes/assumptions/102.md). Which waits complete at
step 1 (notes/assumptions/92.md) and that a cluster all of whose parties are saved changes hands at a placement (65.md) are the model's
choices. -/
def Obligations.WorldSwitchesAndRemoval : Prop :=
  (∀ (s : State) (cl w : Nat),
    (s.switchChoice = some (cl, w) → ∃ t, Goes (.worldSwitch cl w) s t ∧
      t = { s with cp := { s.cp with switching := s.cp.switching ++ [(cl, w)] } } ∧
      (∃ o, lookupNat cl s.cp.owners = some o ∧ o ≠ w) ∧ lookupNat cl s.cp.switching = none ∧
      (∃ q ∈ s.cp.parties, q.cluster = cl ∧ q.saved ≤ 1) ∧ (∀ x ∈ s.cp.switching, x.2 ≠ w) ∧
      ∃ c rest, s.candidates = c :: rest ∧ s.candFits c = false ∧ ∀ k < 64, s.switchable c w k = true →
        (s.players.filter (fun p => p.live && decide (p.place.cluster = cl))).length ≤
          (s.players.filter (fun p => p.live && decide (p.place.cluster = k))).length) ∧
    (s.switchChoice ≠ some (cl, w) → Goes (.worldSwitch cl w) s s) ∧
    (lookupNat cl s.cp.switching = some w →
      let on := fun (owner : Nat) => ∃ p, s.owner? owner = some p ∧ p.place.cluster = cl
      ((∃ p ∈ s.players, p.place.cluster = cl ∧ (p.live = true ∨ p.accum ≠ [])) ∨ (∃ x ∈ s.eng.xfers, on x.owner) ∨
        (∃ x ∈ s.eng.queries, on x.owner) → Goes (.worldSwitchClear cl) s s) ∧
      ((∀ p ∈ s.players, p.place.cluster = cl → p.live = false ∧ p.accum = []) → (∀ x ∈ s.eng.xfers, ¬on x.owner) →
        (∀ x ∈ s.eng.queries, ¬on x.owner) → ∃ t, Goes (.worldSwitchClear cl) s t ∧
        t = { s with vm := { s.vm with cache := [] }, cp := { s.cp with owners := t.cp.owners, switching := t.cp.switching } } ∧
        lookupNat cl t.cp.owners = some w ∧ lookupNat cl t.cp.switching = none ∧
        ∀ k ≠ cl, lookupNat k t.cp.owners = lookupNat k s.cp.owners ∧ lookupNat k t.cp.switching = lookupNat k s.cp.switching))) ∧
  (∀ (s : State) (l : Launch),
    let theirs := fun (id : Nat) => s.inLaunch l.id id = true
    let next := fun (k : Nat) (t : State) => ∃ x y, l.removing = some (k, x, y) ∧ Goes (.removalStepDrained l.id) s t ∧
      t.cp.launches = s.cp.launches.map (fun z => if z.id = l.id then { z with removing := some (k + 1, x, y) } else z)
    (inRemoval s l 0 → distinctPlayers s → s.canonicalMemory → ∃ t, Goes (.contextRemoval l.id) s t ∧
      (∃ x y, l.removing = some (0, x, y) ∧
        t.cp.launches = s.cp.launches.map (fun z => if z.id = l.id then { z with removing := some (1, x, y) } else z)) ∧
      (∀ p ∈ t.players, p.live = true → p.place.launch = l.id → p.wbuf = [] ∧ p.conv = none ∧ p.queue = [] ∧
        ∀ i, p.waiting = some i → finishing i) ∧
      (∀ a ∈ t.mem.arrivals, ∀ p ∈ s.players, p.live = true → p.place.launch = l.id → a.1 ≠ p.id) ∧ t.qm = s.qm ∧ t.eng = s.eng) ∧
    (∀ p ∈ s.players, inRemoval s l 1 → p.live = true → p.place.launch = l.id → p.waiting ≠ none →
      Goes (.removalStepDrained l.id) s s) ∧
    (inRemoval s l 1 → (∀ a ∈ s.mem.arrivals, ¬theirs a.1) →
      (∀ p ∈ s.players, p.live = true → p.place.launch = l.id → p.waiting = none) → ∃ t, next 1 t ∧
      (∀ x ∈ t.eng.xfers, theirs x.owner → x.fault = true ∧ x.flagOwed = false ∧
        ∃ y ∈ s.eng.xfers, y.id = x.id ∧ ¬(y.reading = [] ∧ y.flushing = [] ∧ y.acking = [])) ∧
      (∀ x ∈ s.eng.xfers, ¬theirs x.owner → x ∈ t.eng.xfers) ∧ t.mem = s.mem ∧ t.players = s.players) ∧
    (inRemoval s l 2 → (∀ x ∈ s.eng.xfers, theirs x.owner → x.reading = [] ∧ x.flushing = [] ∧ x.acking = []) → ∃ t, next 2 t ∧
      (∀ q ∈ t.eng.queries, q ∈ s.eng.queries ∧ (theirs q.owner → q.sent = true ∨ q.op = .merge)) ∧
      (∀ q ∈ s.eng.queries, ¬theirs q.owner → q ∈ t.eng.queries) ∧ t.mem = s.mem ∧ t.players = s.players) ∧
    (inRemoval s l 3 → distinctPlayers s → (∀ q ∈ s.eng.queries, theirs q.owner → q.op.isWrite = true) → ∃ t, next 3 t ∧
      ∀ p ∈ t.players, p.live = true → p.place.launch = l.id → p.grant = Grant.none ∧ p.accum = []) ∧
    (inRemoval s l 4 → (∀ p ∈ s.players, p.live = true → p.place.launch = l.id → p.accum = []) → ∃ t, next 4 t ∧
      t.mem = s.mem ∧ t.qm = s.qm ∧ t.players = s.players) ∧
    (inRemoval s l 5 → (∀ q ∈ s.eng.queries, ¬theirs q.owner) → ∃ t, next 5 t ∧
      ((∀ p ∈ s.players, p.live = true → p.place.asid = l.asid → p.place.launch = l.id) → ∀ c ∈ t.vm.cache, c.1 ≠ l.asid)) ∧
    (inRemoval s l 6 → distinctPlayers s → ∃ t, next 6 t ∧ (∀ p ∈ t.players, p.live = true → p.place.launch ≠ l.id) ∧
      (∀ q ∈ t.cp.parties, q.launch ≠ l.id) ∧ (∀ p ∈ s.others, p.place.launch ≠ l.id → p ∈ t.others)) ∧
    (∀ x y, inRemoval s l 7 → l.removing = some (7, x, y) → l.device = false → l.cancels = [] → l.cqe = true → l.queue < 64 →
      s.canonicalMemory → ∃ t, Goes (.removalStepDrained l.id) s t ∧ (∀ z ∈ t.cp.launches, z.id ≠ l.id) ∧
        (∀ i ∈ t.cp.images, i.player.place.launch ≠ l.id) ∧ (∀ r ∈ t.cp.resets, r.1 ≠ l.id) ∧ Entered s t l.queue l.tag x y ∧
        restOfCp { s with qm := t.qm } t) ∧
    (∀ a ∈ s.mem.arrivals, inRemoval s l 1 → theirs a.1 → Goes (.removalStepDrained l.id) s s ∧
      ∃ t, Goes (.removalStall l.id) s t ∧ counted s t 17 1 ∧ (∀ b ∈ t.mem.arrivals, b ∈ s.mem.arrivals ∧ ¬theirs b.1) ∧
        ∀ p ∈ s.players, p.live = true → p.place.launch = l.id → p.id = a.1 → (l.id, false, p.place.coreIx) ∈ t.cp.resets) ∧
    (∀ q ∈ s.eng.queries, ∀ w, inRemoval s l 5 → theirs q.owner → s.qm.held.find? (fun h =>
        (s.eng.queries.filter (fun y => s.inLaunch l.id y.owner)).any (fun y => decide (y.id = h.delta.item))) = some w →
      Goes (.removalStepDrained l.id) s s ∧ ∃ t, Goes (.removalStall l.id) s t ∧ unitStack w.unit ∈ t.dev.lostStacks))

namespace Sys2Proof.Claims

open Sys2Proof Sys2Proof.Machine

/-- `n` bytes of host memory, the first the least significant. -/
def hostAt (s : State) (a n : Nat) : Nat := ((List.range n).map (fun i => (s.mem.host.get (a + i)).toNat * 2 ^ (8 * i))).sum

/-- Field of `n` bytes at offset `o` of the packet of count head + `k` (R390, R391). -/
def packetField (s : State) (q k o n : Nat) : Nat :=
  let h := s.queueAt q
  hostAt s (h.ringBase + (h.head.toNat + k) % 2 ^ 32 % h.ringEntries * 128 + o) n

/-- The packet at the head has arrived, with opcode `op`. -/
def Arrived (s : State) (q op : Nat) : Prop :=
  q < 64 ∧ s.dev.linkUp = true ∧ 0 < (s.queueAt q).fetching ∧ packetField s q 0 0 1 = op

/-- One queue changes by `f`; nothing else does. -/
def queueChanged (s t : State) (q : Nat) (f : HostQueue → HostQueue) : Prop :=
  t = { s with cp := { s.cp with queues := t.cp.queues } } ∧ t.queueAt q = f (s.queueAt q) ∧
    ∀ r ≠ q, t.queueAt r = s.queueAt r

/-- The packet enters the pending list and the head moves on by `k`. -/
def Pended (i : Instr) (s : State) (q k : Nat) (p : Packet) : Prop :=
  ∃ t, Goes i s t ∧ queueChanged s t q (fun h => { h with
    pending := h.pending ++ [p], head := h.head + BitVec.ofNat 32 k, fetching := h.fetching - k })

/-- A LAUNCH packet's fields (R391). -/
def isLaunch (s : State) (q k : Nat) (p : Packet) : Prop :=
  let f := packetField s q k
  p.kind = .launch ∧ p.cqe = (f 1 1).testBit 0 ∧ p.order = (f 1 1).testBit 1 ∧ p.tag.toNat = f 4 4 ∧ p.operand.toNat = f 8 8 ∧
    p.descIx = f 0x10 4 ∧ p.dies = f 0x14 1 % 16 ∧ p.window = f 0x16 2 ∧ p.waitA.toNat = f 0x18 8 ∧ p.waitV.toNat = f 0x20 8 ∧
    p.doneA.toNat = f 0x28 8 ∧ p.doneV.toNat = f 0x30 8 ∧ p.argMask = f 0x38 1 ∧
    (∀ (i : Nat) (h : i < 8), p.args[i].toNat = f (0x40 + 8 * i) 8) ∧ p.device = none ∧ p.started = none ∧ p.checked = false ∧
    (p.malformed = true ↔ 4 ≤ f 1 1 ∨ f 2 2 ≠ 0 ∨ 16 ≤ f 0x14 1 ∨ f 0x15 1 ≠ 0 ∨ 1024 < f 0x16 2 ∨ f 0x39 7 ≠ 0)

/-- The entry of a packet of another kind. -/
def isPlain (s : State) (q : Nat) (k : PKind) (bad : Prop) (p : Packet) : Prop :=
  p.kind = k ∧ p.cqe = (packetField s q 0 1 1).testBit 0 ∧ p.tag.toNat = packetField s q 0 4 4 ∧
    p.operand.toNat = packetField s q 0 8 8 ∧ p.descIx = packetField s q 0 0x10 4 ∧ (p.malformed = true ↔ bad)

/-- The pending list has room for `n` more packets, a paired MODE counted (R390). -/
def hasPlace (s : State) (q n : Nat) : Prop :=
  let h := s.queueAt q
  h.pending.length + (h.pending.filter (fun p => p.mode.isSome)).length + n ≤ 256

/-- The module that the LAUNCH of count head + `k` names is still being loaded (R75). -/
def stillLoading (s : State) (q k : Nat) : Prop := ∃ m ∈ s.cp.modules, m.handle = packetField s q k 8 8 ∧ m.loading = true

/-- The completion ring has room for one more entry, reservations counted (R390). -/
def hasRoom (s : State) (q : Nat) : Prop :=
  let h := s.queueAt q
  (h.compTail - h.compHead).toNat + h.reserved + h.entries.length < h.compEntries

/-- The head has left the pending list of `q` and its entry is due. -/
def HeadEnds (i : Instr) (s : State) (q : Nat) (tag : BitVec 32) (status : Nat) : Prop :=
  ∃ t, Goes i s t ∧ Entered s t q tag status 0 ∧ (t.queueAt q).pending = (s.queueAt q).pending.drop 1 ∧ restOfCp s t ∧
    ∀ r ≠ q, t.queueAt r = s.queueAt r

/-- The device serves (R439, R443). -/
def serves (s : State) : Prop := s.dev.ready = true ∧ s.dev.failed = false ∧ s.dev.warming = false

end Sys2Proof.Claims

/-- R75, R389 to R391, R394, R452: packets. A fetch starts while the pending list has room; a packet that has arrived enters
the pending list, while that has room, with the fields of its 128 bytes; a MODE joins the LAUNCH behind it; a LAUNCH from a
module that is still being loaded is rejected at once. R392, R394, R395: CANCEL acts when
it is fetched and the completion ring has room: a running launch is removed with status 5, one that waits leaves with
status 5, and any other tag receives status 7. The model's choices: a malformed MODE enters alone (notes/assumptions/33.md), which launch
or packet a CANCEL meets (36.md), and that a MODE paired with its LAUNCH counts as a packet of the list (40.md). -/
def Obligations.Packets : Prop :=
  (∀ (s : State) (q : Nat),
    let h := s.queueAt q
    let f := packetField s q 0
    (serves s → q < 64 → s.dev.linkUp = true → h.enable = true → (s.worldAt h.world).st = .live →
      h.fetching < (h.tail - h.head).toNat →
      let full := 256 ≤ h.pending.length + (h.pending.filter (fun p => p.mode.isSome)).length + h.fetching
      (¬full → ∃ t, Goes (.packetFetchStart q) s t ∧ queueChanged s t q (fun h => { h with fetching := h.fetching + 1 })) ∧
      (full → Goes (.packetFetchStart q) s s)) ∧
    (Arrived s q 1 →
      (¬stillLoading s q 0 → hasPlace s q 1 → ∃ p, isLaunch s q 0 p ∧ p.mode = none ∧ Pended (.launchPacket q) s q 1 p) ∧
      (¬stillLoading s q 0 → ¬hasPlace s q 1 → Goes (.launchPacket q) s s) ∧
      (stillLoading s q 0 → hasRoom s q → ∃ t, Goes (.launchPacket q) s t ∧ (t.queueAt q).pending = h.pending ∧
        (t.queueAt q).head = h.head + 1 ∧ (t.queueAt q).fetching = h.fetching - 1 ∧
        Entered s t q (BitVec.ofNat 32 (f 4 4)) 1 0 ∧ restOfCp s t)) ∧
    (Arrived s q 2 → 2 ≤ (h.tail - h.head).toNat →
      let bad := 1 < f 1 1 ∨ f 2 2 ≠ 0 ∨ 1 < f 8 8 ∨ f 0x10 112 ≠ 0
      (packetField s q 1 0 1 = 1 → ¬bad → ¬stillLoading s q 1 → hasPlace s q 2 → ∃ p m, isLaunch s q 1 p ∧ p.mode = some m ∧
        m.1 = (f 8 8).testBit 0 ∧ m.2.1 = (f 1 1).testBit 0 ∧ m.2.2.toNat = f 4 4 ∧ Pended (.mode q) s q 2 p) ∧
      (packetField s q 1 0 1 ≠ 1 ∨ bad → hasPlace s q 1 → ∃ p, isPlain s q .mode bad p ∧ Pended (.mode q) s q 1 p)) ∧
    (Arrived s q 16 → hasPlace s q 1 → ∃ p, isPlain s q .summary (1 < f 1 1 ∨ f 2 2 ≠ 0 ∨ f 0x14 108 ≠ 0) p ∧
      Pended (.summaryPacket q) s q 1 p) ∧
    (∀ op, Arrived s q op → op ∉ [1, 2, 3, 16] → hasPlace s q 1 → ∃ p, isPlain s q .reserved True p ∧
      Pended (.packetReservedOpcode q) s q 1 p)) ∧
  (∀ (s : State) (q : Nat),
    Arrived s q 3 → s.canonicalMemory →
    let f := packetField s q 0
    let tag := BitVec.ofNat 32 (f 4 4)
    let target := BitVec.ofNat 32 (f 8 4)
    let moved := fun (t : State) => (t.queueAt q).head = (s.queueAt q).head + 1 ∧
      (t.queueAt q).fetching = (s.queueAt q).fetching - 1
    let bad := 1 < f 1 1 ∨ f 2 2 ≠ 0 ∨ f 12 4 ≠ 0 ∨ f 0x10 112 ≠ 0
    let running := fun (l : Launch) => l.queue = q ∧ l.device = false ∧ l.tag = target
    let waiting := fun (p : Packet) => p.kind = .launch ∧ p.device = none ∧ p.tag = target ∧ p.started = none
    let refused := fun (st : Nat) => ∃ t, Goes (.cancel q) s t ∧ moved t ∧ Entered s t q tag st 0 ∧ restOfCp s t ∧
      t.cp.launches = s.cp.launches ∧ (t.queueAt q).pending = (s.queueAt q).pending
    (¬hasRoom s q → Goes (.cancel q) s s) ∧
    (hasRoom s q → bad → refused 2) ∧
    (hasRoom s q → ¬bad → (∀ l ∈ s.cp.launches, ¬running l) → (∀ p ∈ (s.queueAt q).pending, ¬waiting p) → refused 7) ∧
    (∀ l, hasRoom s q → ¬bad → l ∈ s.cp.launches → running l → l.removing = none →
      (∀ x ∈ s.cp.launches, running x ∨ x.id = l.id → x = l) → ∃ t, Goes (.cancel q) s t ∧ moved t ∧
        t.mem = s.mem ∧ t.dev = s.dev ∧ ∃ l' ∈ t.cp.launches, l'.id = l.id ∧
          l'.removing = some (0, if s.dev.warming = true then (8, 0) else (5, 0)) ∧
          l'.cancels = if (f 1 1).testBit 0 then l.cancels ++ [tag] else l.cancels) ∧
    (∀ l p r, hasRoom s q → ¬bad → (f 1 1).testBit 0 = false → (∀ l ∈ s.cp.launches, ¬running l) →
      (s.queueAt q).pending = l ++ p :: r → waiting p → (∀ x ∈ l, ¬waiting x) → p.mode = none →
      ∃ t, Goes (.cancel q) s t ∧ moved t ∧ (t.queueAt q).pending = l ++ r ∧ Entered s t q p.tag 5 0 ∧ restOfCp s t))

/-- R392 to R394, R452, R453, R458: the head of a pending list. Its checks are made once: a LAUNCH that fails one leaves with the status
of the check, one that passes them is not checked again; a MODE alone and a reserved opcode leave with their status, a SUMMARY writes
its record, and waits for the link to do so. R389, R390, R397, R437, R447, R459: what
the host writes. Doorbells and bases set the counts of a queue, the entry's fields take values of their ranges only, the
mailbox takes bytes and a doorbell; an interval ages a head or a saved party. That a value with bits above `WATTS` leaves
the cap is the model's choice (notes/assumptions/85.md), and so are the order of the checks (43.md) and the status of a malformed MODE
(33.md). -/
def Obligations.HeadsAndHostWrites : Prop :=
  (∀ (s : State) (q : Nat) (p : Packet) (rest : List Packet),
    serves s → q < 64 → s.canonicalMemory → (s.queueAt q).pending = p :: rest → hasRoom s q → s.dev.linkUp = true →
    let h := s.queueAt q
    let ends := fun (st : Nat) => HeadEnds (.packetHead q) s q p.tag st
    (p.kind = .launch → p.started ≠ none ∨ p.checked = true → Goes (.packetHead q) s s) ∧
    (p.kind = .launch → p.started = none → p.checked = false → p.device = none → p.mode = none →
      let named := fun (m : Module) => s.cp.modules.find? (fun x => x.handle = p.operand.toNat) = some m
      (p.malformed = true → ends 2) ∧
      (p.malformed = false → (∀ m ∈ s.cp.modules, m.handle ≠ p.operand.toNat) → ends 2) ∧
      (∀ m, p.malformed = false → named m → m.ready = false → ends 1) ∧
      (∀ m, p.malformed = false → named m → m.ready = true → m.world ≠ h.world ∨ m.asid ≠ h.asid → ends 6) ∧
      (∀ m, p.malformed = false → named m → m.ready = true → m.world = h.world → m.asid = h.asid →
        (m.descs.length ≤ p.descIx → ends 2) ∧
        ∀ (hd : p.descIx < m.descs.length),
          let d := m.descs[p.descIx]
          let whole := 1 ≤ d.parties ∧ d.parties ≤ 65535 ∧ 1 ≤ d.players ∧ d.players ≤ 64 ∧ 1 ≤ d.seats ∧ d.seats ≤ 16 ∧
            d.allot % 8 = 0 ∧ 8 ≤ d.allot ∧ d.allot ≤ 64 ∧ d.players * d.seats ≤ 64
          let dword := fun (a : Word) => a = 0 ∨ (s.dwordAt h.asid h.world a).isSome = true
          (¬whole → ends 2) ∧
          (whole → ¬(dword p.waitA ∧ dword p.doneA) → ends 6) ∧
          (whole → dword p.waitA → dword p.doneA → s.couldFit p.dies p.window d.players d.seats = true →
            ∃ t, Goes (.packetHead q) s t ∧ queueChanged s t q (fun h => { h with pending := { p with checked := true } :: rest })))) ∧
    (p.kind = .mode → ends (if p.malformed then 2 else 3)) ∧
    (p.kind = .reserved → ends 2) ∧
    (p.kind = .summary →
      let a := p.operand.toNat
      (h.world ≠ 0 → ends 6) ∧
      (h.world = 0 → p.malformed = true ∨ a % 4096 ≠ 0 ∨ p.descIx < 0x2000 → ends 2) ∧
      (h.world = 0 → p.malformed = false → a % 4096 = 0 → 0x2000 ≤ p.descIx → p.cqe = false →
        ∃ t, Goes (.packetHead q) s t ∧ (t.queueAt q).pending = rest ∧ hostAt t a 4 = 0x4D4D5553 ∧ hostAt t (a + 4) 2 = 1 ∧
          (∀ b, b < a ∨ a + p.descIx ≤ b → t.mem.host.get b = s.mem.host.get b) ∧ t.mem.spad = s.mem.spad ∧ t.qm = s.qm ∧
          t.players = s.players ∧ t.eng = s.eng ∧ t.vm = s.vm))) ∧
  (∀ (s : State) (q : Nat) (p : Packet) (rest : List Packet),
    serves s → q < 64 → (s.queueAt q).pending = p :: rest → s.dev.linkUp = false → p.kind = .summary → (s.queueAt q).world = 0 →
    p.malformed = false → p.operand.toNat % 4096 = 0 → 0x2000 ≤ p.descIx → Goes (.packetHead q) s s) ∧
  (∀ (s : State) (q v : Nat),
    q < 64 → s.dev.linkUp = false → ∀ i ∈ [Instr.queueTailDoorbell q v, .completionHeadWrite q v, .ringBaseWrite q v,
      .completionBaseWrite q v, .dpcapWrite v], Goes i s s) ∧
  (∀ (s : State) (q v : Nat),
    q < 64 → s.dev.linkUp = true →
    let h := s.queueAt q
    let sets := fun (i : Instr) (f : HostQueue → HostQueue) => ∃ t, Goes i s t ∧ queueChanged s t q f
    let entry := 0x10000 + 64 * q
    let ring := v ∈ [16, 32, 64, 128, 256, 512, 1024, 2048, 4096, 8192, 16384, 32768, 65536]
    let writes := fun (off size : Nat) (ok : Prop) (f : HostQueue → HostQueue) =>
      (ok → sets (.hostBarWrite (entry + off) size v) f) ∧ (¬ok → Goes (.hostBarWrite (entry + off) size v) s s)
    ((BitVec.ofNat 32 v - h.head).toNat ≤ h.ringEntries →
      sets (.queueTailDoorbell q v) (fun h => { h with tail := BitVec.ofNat 32 v })) ∧
    (h.ringEntries < (BitVec.ofNat 32 v - h.head).toNat → Goes (.queueTailDoorbell q v) s s) ∧
    (h.entries = [] → sets (.completionHeadWrite q v) (fun h => { h with compHead := BitVec.ofNat 32 v })) ∧
    (v % 4096 = 0 → v < 2 ^ 64 →
      sets (.ringBaseWrite q v) (fun h => { h with ringBase := v, head := 0, tail := 0, fetching := 0 }) ∧
      sets (.completionBaseWrite q v) (fun h => { h with compBase := v, compTail := 0, compHead := 0 })) ∧
    (v % 4096 ≠ 0 → Goes (.ringBaseWrite q v) s s ∧ Goes (.completionBaseWrite q v) s s) ∧
    (v < 2 ^ 32 →
      writes 0x08 4 ring (fun h => { h with ringEntries := v }) ∧
      (v < 256 → writes 0x0C 1 (v ≤ 7) (fun h => { h with level := v }) ∧
        writes 0x0D 1 (v ≤ 20) (fun h => { h with ageShift := v }) ∧
        writes 0x0F 1 (v ≤ 1) (fun h => { h with enable := decide (v = 1) })) ∧
      writes 0x18 4 ring (fun h => { h with compEntries := v }) ∧
      (s.dev.mbBell = false → ∀ k < 16, ∃ t, Goes (.hostBarWrite (0x100 + 4 * k) 4 v) s t ∧ t = { s with dev := { s.dev with mbCmd := t.dev.mbCmd } } ∧
        t.dev.mbCmd / 2 ^ (32 * k) % 2 ^ 32 = v ∧ ∀ j ≠ k, t.dev.mbCmd / 2 ^ (32 * j) % 2 ^ 32 = s.dev.mbCmd / 2 ^ (32 * j) % 2 ^ 32) ∧
      (v % 2 = 1 → s.dev.mbBell = false →
        Goes (.hostBarWrite 0x140 4 v) s { s with dev := { s.dev with mbBell := true, mbTaken := s.serving } })) ∧
    (600 ≤ v ∧ v ≤ 2600 → Goes (.dpcapWrite v) s { s with dev := { s.dev with cap := v } }) ∧
    (¬(600 ≤ v ∧ v ≤ 2600) → Goes (.dpcapWrite v) s s) ∧
    ((s.openHead q).isSome → sets (.agingInterval q 0 0) (fun h => { h with aged := h.aged + 1 })) ∧
    (∀ party, 0 < v → ∃ t, Goes (.agingInterval q v party) s t ∧ t = { s with cp := { s.cp with parties := t.cp.parties } } ∧
      t.cp.parties = s.cp.parties.map (fun x => if x.launch = v ∧ x.index = party ∧ x.saved = 2 then
        { x with aged := x.aged + 1 } else x)))

namespace Sys2Proof.Claims

open Sys2Proof Sys2Proof.Machine

/-- Placement's choice (R399): the party fits the cluster, on these seats; no other cluster that it fits has fewer seats left, nor as
many and a lower number. -/
def ChosenCluster (s : State) (w : Nat) (p : Packet) (d : Desc) (cl : Nat) (seats : List (Nat × Nat × Nat)) : Prop :=
  let fits := fun (k : Nat) => s.fits w p.dies p.window d.players d.seats k
  cl < 64 ∧ ∃ left, fits cl = some (seats, left) ∧ ∀ k < 64, ∀ y, fits k = some y → left < y.2 ∨ (left = y.2 ∧ cl ≤ k)

/-- Party `k` of launch `l` has started on its seats of the cluster (R100, R101, R245, R393, R400): every player as R245 says, on seats
and a slot that were free, windows and barrier dword zero, the cluster its world's. -/
def PartyStarts (s t : State) (p : Packet) (l : Launch) (level k cl : Nat) (seats : List (Nat × Nat × Nat)) (q : Party) : Prop :=
  let d := l.desc
  let arg := fun (i : Nat) => if p.device.isSome ∨ p.argMask.testBit i = false then d.args[i]! else p.args[i]!
  ∃ olds new, t.others = olds ++ new ∧ List.Forall₂ sameButWake olds s.others ∧ sameButWake t.me s.me ∧ new.length = d.players ∧
    t.cp.parties = s.cp.parties ++ [q] ∧ q.launch = l.id ∧ q.index = k ∧ q.cluster = cl ∧ q.level = level ∧ q.saved = 0 ∧
    lookupNat cl t.cp.owners = some l.world ∧ (∀ o, lookupNat cl s.cp.owners = some o → o ≠ l.world → t.vm.cache = []) ∧
    (∀ k < 8, t.mem.spad.get (q.bar + k) = 0) ∧
    (∀ r < d.players, (windowOf t q r).length = 4096 * p.window ∧ ∀ b ∈ windowOf t q r, b = 0) ∧
    (∀ (r : Nat) (hr : r < new.length) (hs : r < seats.length),
      let n := new[r]
      n.id = s.cp.nextPlayer + r ∧ n.live = true ∧ n.pc = d.entry ∧ n.place.launch = l.id ∧ n.place.party = k ∧
      n.place.rank = r ∧ n.place.size = d.players ∧ n.place.cluster = cl ∧ n.place.core = seats[r].1 ∧ n.place.wid = l.world ∧
      (∀ y ∈ s.players, y.live = true → y.place.coreIx = n.place.coreIx → y.shape.seat &&& n.shape.seat = 0 ∧
        y.place.slot % 16 ≠ n.place.slot % 16) ∧
      (∀ i < 8, n.sregs[i + 1]! = arg i) ∧ n.sregs[9] = word r ∧ n.sregs[10] = word d.players ∧ n.sregs[30] = n.window ∧
      (∀ i < 32, i = 0 ∨ 10 < i → i ≠ 30 → n.sregs[i]! = 0) ∧ n.tregs = Vector.replicate 64 0 ∧ n.flags = 0 ∧
      n.trap = { Trap.reset with evec := (s.worldAt l.world).vector } ∧ n.shape.allot = d.allot ∧
      n.shape.seat = BitVec.ofNat 16 seats[r].2.1 ∧ n.shape.tty = 0x00A ∧ n.shape.vl = 0 ∧ n.shape.flim = 0 ∧
      n.shape.vlmax = vlmaxOf 0x00A n.lanes ∧ n.det = l.det ∧ n.frm = 0 ∧ n.xrm = 0 ∧ n.q.qratio.toNat = (s.worldAt l.world).qratio % 512 ∧
      n.hold = p.mode.isSome ∧ n.wbuf = [] ∧ n.afq = [] ∧ n.grant = Grant.none ∧ n.conv = none ∧ n.waiting = none)

end Sys2Proof.Claims

/-- R100, R101, R245, R393, R397 to R400: the head whose turn it is starts its next party on the cluster that placement
chose. No head of a better effective level fits, nor a starving one; every player starts as R245 says, windows and
barrier dword are zero. The first party of a head makes its launch; a later one joins it, and the head leaves with the last. -/
def Obligations.LaunchPlacement : Prop :=
  ∀ (s : State) (c : Cand) (p : Packet) (cl : Nat) (seats : List (Nat × Nat × Nat)),
    s.nextCand = some c → c.party = none → s.openHead c.queue = some p → s.headSeats c.queue p = some (cl, seats) → c.queue < 64 →
    let h := s.queueAt c.queue
    (c.starving = false → ∀ x ∈ s.candidates, x.party = none → s.candFits x = true →
      x.starving = false ∧ s.effLevel c ≤ s.effLevel x) ∧
    (∀ m d, s.moduleOf p = some m → s.descOf p = some d → p.started = none → (∀ x, p.mode = some x → x.2.1 = false) →
      (∀ x ∈ s.cp.launches, x.id ≠ s.cp.nextLaunch) → (∀ x ∈ s.cp.parties, x.launch ≠ s.cp.nextLaunch) →
      ChosenCluster s h.world p d cl seats ∧
      ∃ t l q, Goes .launchPlacement s t ∧ PartyStarts s t p l h.level 0 cl seats q ∧
        t.cp.launches = s.cp.launches ++ [l] ∧ l.id = s.cp.nextLaunch ∧ l.queue = c.queue ∧ l.tag = p.tag ∧ l.cqe = p.cqe ∧
        l.world = h.world ∧ l.module = m.handle ∧ l.desc = d ∧ l.parties = d.parties ∧ l.placed = 1 ∧ l.removing = none ∧
        l.doneA = p.doneA ∧ l.doneV = p.doneV ∧ l.window = p.window ∧
        l.det = (match p.mode with | some x => x.1 | none => d.det)) ∧
    (∀ l, p.started = some l.id → s.cp.launches.find? (fun x => x.id = l.id) = some l → l.window = p.window → l.world = h.world →
      (∀ x ∈ s.cp.launches, x.id = l.id → x = l) → (∀ x ∈ s.cp.parties, x.launch = l.id → x.index < l.placed) →
      ChosenCluster s h.world p l.desc cl seats ∧
      ∃ t q, Goes .launchPlacement s t ∧ PartyStarts s t p l h.level l.placed cl seats q ∧
        t.cp.launches = s.cp.launches.map (fun x => if x.id = l.id then { x with placed := x.placed + 1 } else x) ∧
        (t.queueAt c.queue).pending = if l.parties ≤ l.placed + 1 then h.pending.drop 1 else h.pending)

namespace Sys2Proof.Claims

open Sys2Proof Sys2Proof.Machine

/-- A command's answer (R415, R446): its status, the doorbell cleared, vector 65. -/
def answered (s : State) (status : Nat) : State :=
  { s with dev := { s.dev with mbStatus := status, mbBell := false, mbTaken := false, msix := s.dev.msix ++ [65] } }

/-- A command is answered at once and has no other effect. -/
def OnlyAnswers (i : Instr) (s : State) (status : Nat) : Prop := Goes i s (answered s status)

/-- One world changes by `f`; nothing else in the command processor does. -/
def worldChanged (s t : State) (w : Nat) (f : World → World) : Prop :=
  t = { s with cp := { s.cp with worlds := t.cp.worlds } } ∧ t.worldAt w = f (s.worldAt w) ∧ ∀ k ≠ w, t.worldAt k = s.worldAt k

/-- The host has rung the doorbell for the command of this code with these operands, and the link is up. Where the operands lie
is the model's choice (notes/assumptions/47.md). -/
def rang (s : State) (code : Nat) (ops : List Operand) : Prop := s.dev.linkUp = true ∧ s.rung code ops = true

/-- The command was rung while the device served, which is not in the safe state (R415, R441, R443). -/
def accepting (s : State) : Prop := s.dev.mbTaken = true ∧ s.dev.failed = false

/-- A command of R415 with its code and its operands: without the doorbell nothing happens, and a command that was not rung
while the device served is answered with 5. -/
def commands (s : State) (l : List (Instr × Nat × List Operand)) : Prop :=
  ∀ x ∈ l, (¬rang s x.2.1 x.2.2 → Goes x.1 s s) ∧ (rang s x.2.1 x.2.2 → ¬accepting s → OnlyAnswers x.1 s 5)

/-- The command in the mailbox is due. -/
def asked (s : State) (code : Nat) (ops : List Operand) : Prop := rang s code ops ∧ accepting s

/-- The world of an address space. -/
def worldOf (s : State) (asid : Nat) : Option Nat := (s.vm.roots.find? (fun r => r.1 = asid)).map (fun r => r.2.1)

/-- Every unit of the rows [lo, lo + n) reads zero. -/
def rowsZero (s : State) (lo n : Nat) : Prop := ∀ st < 12, ∀ pc < 64, ∀ row, lo ≤ row → row < lo + n → row < 1310720 →
  s.qm.raw (unitNo st pc row) = 0

/-- A world that is in use. -/
def inUse (s : State) (w : Nat) : Prop := w < 65 ∧ (s.worldAt w).st ≠ .free

/-- A change of the tables ends: the table store grows by whole CONTEXT regions, or has no room for one, and the command is
answered with 4 (R412, R415). `v` is the table store as the command leaves it. -/
def TablesGrow (i : Instr) (s : State) (v : Vm) (then' : State → Prop) : Prop :=
  (State.growTables { s with vm := v } = none → OnlyAnswers i s 4) ∧
    ∀ u, State.growTables { s with vm := v } = some u → Goes i s (answered u 0) ∧ u = { s with vm := u.vm, qm := u.qm } ∧ then' u

end Sys2Proof.Claims

/-- R408, R409, R412, R414 to R417: worlds and address spaces. A command answers 5 while the device does not serve. A new
world is pending, one of more generation; a destroyed one has no region, address space, module or queue, and its rows
read zero. A new address space translates nothing. R409 to R413, R415, R417: MAP and UNMAP. In world 0 the leaf is what
the page translates to from then on, and no other page changes; a backing of another protected world's is refused, and a
fresh one of a protected world is zeroed; a change waits until nothing translated in the page is under way.
Where the operands lie in the mailbox is the model's choice (notes/assumptions/47.md), and so are the removal of running launches by
WORLD_DESTROY (46.md), that an entry stays as it is while a change waits (48.md), and the growth of the table store by 176 tables (91.md).
-/
def Obligations.WorldCommands : Prop :=
  (∀ (s : State) (w asid va lvl leaf q : Nat),
    commands s [(.worldCreate w, 1, dwords [w]), (.worldDestroy w, 2, dwords [w]), (.asidCreate w asid, 3, dwords [w, asid]),
      (.asidDestroy asid, 4, dwords [asid]), (.map asid va lvl leaf, 5, dwords [asid, va, lvl, leaf]),
      (.unmap asid va, 6, dwords [asid, va]), (.queueBind q w asid, 7, dwords [q, w, asid])] ∧
    (asked s 1 (dwords [w]) →
      (w = 0 ∨ 65 ≤ w → OnlyAnswers (.worldCreate w) s 1) ∧
      (1 ≤ w → w < 65 → (s.worldAt w).st ≠ .free → OnlyAnswers (.worldCreate w) s 2) ∧
      (1 ≤ w → w < 65 → (s.worldAt w).st = .free → ∃ t, Goes (.worldCreate w) s (answered t 0) ∧
        worldChanged s t w (fun x => { World.reset with st := .pending, gen := x.gen + 1 }))) ∧
    (asked s 2 (dwords [w]) →
      (w = 0 ∨ ¬inUse s w → OnlyAnswers (.worldDestroy w) s 1) ∧
      (1 ≤ w → inUse s w → (∀ l ∈ s.cp.launches, l.world ≠ w) →
        (∀ k < 64, (s.queueAt k).world = w → (s.queueAt k).pending = []) →
        ∃ t, Goes (.worldDestroy w) s (answered t 0) ∧ t.worldAt w = { World.reset with gen := (s.worldAt w).gen } ∧
          (∀ k ≠ w, t.worldAt k = s.worldAt k) ∧ (∀ r ∈ t.qm.regions, r ∈ s.qm.regions ∧ r.world ≠ w) ∧
          (∀ r ∈ t.vm.roots, r ∈ s.vm.roots ∧ r.2.1 ≠ w) ∧ (∀ m ∈ t.cp.modules, m.world ≠ w) ∧
          (∀ k < 64, ((s.queueAt k).world = w → (t.queueAt k).world = 0 ∧ (t.queueAt k).enable = false) ∧
            ((s.queueAt k).world ≠ w → t.queueAt k = s.queueAt k)) ∧
          (∀ k, (t.portAt k).world ≠ some w) ∧ ∀ r ∈ s.qm.regions, r.world = w → rowsZero t r.ubase r.rows) ∧
      (∀ l ∈ s.cp.launches, 1 ≤ w → inUse s w → l.world = w → (s.cp.launches.map (fun x => x.id)).Nodup →
        ∃ t, Goes (.worldDestroy w) s t ∧ (t.worldAt w).st = .pending ∧ t.dev = s.dev ∧
          (∀ x ∈ t.cp.launches, x.world = w → x.removing ≠ none) ∧ t.mem = s.mem ∧ t.qm = s.qm ∧ t.players = s.players)) ∧
    (asked s 3 (dwords [w, asid]) →
      (2 ^ 14 ≤ asid ∨ ¬inUse s w → OnlyAnswers (.asidCreate w asid) s 1) ∧
      ((worldOf s asid).isSome → inUse s w → asid < 2 ^ 14 → OnlyAnswers (.asidCreate w asid) s 2) ∧
      (trees s.vm → worldOf s asid = none → inUse s w → asid < 2 ^ 14 → TablesGrow (.asidCreate w asid) s
        { s.vm with roots := s.vm.roots ++ [(asid, w, s.vm.nextTable)], nextTable := s.vm.nextTable + 1 } (fun t =>
          worldOf t asid = some w ∧ (∀ x, t.vm.leaf asid x = none) ∧ ∀ b ≠ asid, ∀ x, t.vm.leaf b x = s.vm.leaf b x))) ∧
    (asked s 4 (dwords [asid]) →
      (worldOf s asid = none → OnlyAnswers (.asidDestroy asid) s 1) ∧
      ((worldOf s asid).isSome → (∃ k < 64, (s.queueAt k).asid = asid) ∨ (∃ l ∈ s.cp.launches, l.asid = asid) ∨
          (∃ k < 64, ∃ p ∈ (s.queueAt k).pending, ∃ y, p.device = some y ∧ y.2.1 = asid) ∨
          (∃ x ∈ s.allLeaves, x.2.1 = asid ∧ x.2.2.2.space = .qm) →
        OnlyAnswers (.asidDestroy asid) s 2) ∧
      ((worldOf s asid).isSome → (∀ k < 64, (s.queueAt k).asid ≠ asid) → (∀ l ∈ s.cp.launches, l.asid ≠ asid) →
        (∀ k < 64, ∀ p ∈ (s.queueAt k).pending, ∀ y, p.device = some y → y.2.1 ≠ asid) → (∀ x ∈ s.allLeaves, x.2.1 = asid → x.2.2.2.space ≠ .qm) →
        ∃ t, Goes (.asidDestroy asid) s (answered t 0) ∧ t = { s with vm := t.vm } ∧ worldOf t asid = none ∧
          (∀ x, t.vm.leaf asid x = none) ∧ ∀ b ≠ asid, ∀ x, t.vm.leaf b x = s.vm.leaf b x)) ∧
    (asked s 7 (dwords [q, w, asid]) →
      let launching := ∃ p ∈ (s.queueAt q).pending, p.kind = .launch
      (64 ≤ q ∨ worldOf s asid ≠ some w → OnlyAnswers (.queueBind q w asid) s 1) ∧
      (q < 64 → worldOf s asid = some w → launching ∨ (∃ l ∈ s.cp.launches, l.queue = q) →
        OnlyAnswers (.queueBind q w asid) s 2) ∧
      (q < 64 → worldOf s asid = some w → ¬launching → (∀ l ∈ s.cp.launches, l.queue ≠ q) →
        ∃ t, Goes (.queueBind q w asid) s (answered t 0) ∧ queueChanged s t q (fun h => { h with world := w, asid := asid })))) ∧
  (∀ (s : State) (asid va lvl leaf w : Nat),
    trees s.vm →
    let e := BitVec.ofNat 64 leaf
    let l := Leaf.ofEntry lvl e
    let size := 4096 * 512 ^ lvl
    let ok := leaf < 2 ^ 64 ∧ lvl ≤ 2 ∧ canonicalVa (word va) = true ∧ va < 2 ^ 64 ∧ va % size = 0 ∧ entryOk e = true ∧
      e.getLsbD 1 = true ∧ l.valid = true ∧ (l.space = .qm → ∃ r, s.qm.region? (l.frame / 2 ^ 20 % 2 ^ 16) = some r ∧ r.world = l.wtag)
    let there := s.vm.leaf asid (vaIndex (word va))
    let only := fun (u : State) => ∀ b x, (b = asid ∧ pageOf l x = pageOf l va → u.vm.leaf b x = some l) ∧
      (¬(b = asid ∧ pageOf l x = pageOf l va) → u.vm.leaf b x = s.vm.leaf b x)
    (asked s 5 (dwords [asid, va, lvl, leaf]) →
      (worldOf s asid = none → OnlyAnswers (.map asid va lvl leaf) s 1) ∧
      (worldOf s asid = some w →
        (¬ok → leaf < 2 ^ 64 → OnlyAnswers (.map asid va lvl leaf) s 1) ∧
        (∀ x ∈ s.allLeaves, ok → w ≠ 0 → x.1 ≠ w → backingsMeet x.2.2.2.backing l.backing = true →
          OnlyAnswers (.map asid va lvl leaf) s 2) ∧
        (ok → w = 0 → there = none →
          (reachedBy s asid l va → Goes (.map asid va lvl leaf) s s) ∧
          (drained s asid → TablesGrow (.map asid va lvl leaf) s (s.vm.map asid (vaIndex (word va)) lvl e) only)) ∧
        (ok → w ≠ 0 → there = none → drained s asid → s.canonicalMemory → lvl = 0 → l.space = .spad →
          (∀ x ∈ s.allLeaves, backingsMeet l.backing x.2.2.2.backing = false) →
          (s.vm.map asid (vaIndex (word va)) lvl e).nextTable ≤ 176 * s.vm.store.length →
          ∃ t, Goes (.map asid va lvl leaf) s (answered t 0) ∧ only t ∧ t.qm = s.qm ∧ t.cp = s.cp ∧ t.eng = s.eng ∧
            ∀ a, t.mem.spad.get a = if l.frame * 4096 ≤ a ∧ a < l.frame * 4096 + 4096 then 0 else s.mem.spad.get a) ∧
        (∀ o, ok → there = some o → o.space = .qm → o.exp = false → l.exp = true → o.level = lvl → o.frame = l.frame →
          l.space = .qm → w = 0 → s.vm.exporting = none → ∃ t, Goes (.map asid va lvl leaf) s t ∧
            t.vm.exporting = some (asid, va % 2 ^ 57) ∧ t.dev = s.dev ∧ t.isClosed asid (word va) = true ∧
            (∀ b x, t.vm.leaf b x = s.vm.leaf b x) ∧ t.mem = s.mem ∧ t.qm = s.qm))) ∧
    (asked s 6 (dwords [asid, va]) →
      (worldOf s asid = none ∨ there = none → OnlyAnswers (.unmap asid va) s 1) ∧
      (∀ o, there = some o → worldOf s asid = some 0 →
        (reachedBy s asid o va → Goes (.unmap asid va) s s) ∧
        (drained s asid → ∃ t, Goes (.unmap asid va) s (answered t 0) ∧ t = { s with vm := t.vm } ∧
          ∀ b x, t.vm.leaf b x = if b = asid ∧ pageOf o x = pageOf o va then none else s.vm.leaf b x))))

namespace Sys2Proof.Claims

open Sys2Proof Sys2Proof.Machine

/-- The rows of a band (R310). -/
def bandOf (slab : Bool) (home units : Nat) : Nat :=
  if slab then 12 * ((units + 8447) / 8448) else if home = 15 then (units + 703) / 704 else (units + 175) / 176

/-- The operands of `REGION_ALLOC`. -/
def allocOperands (w cls : Nat) (slab : Bool) (home size ety width body side : Nat) : List Operand :=
  [(8, 1, w), (9, 1, cls), (10, 1, slab.toNat), (11, 1, home), (12, 1, ety), (16, 4, width), (24, 8, size), (32, 8, body), (40, 8, side)]

/-- The device answers SPDM (R432, R443). -/
def answersSpdm (s : State) : Prop := s.dev.identity = true ∧ s.dev.failed = false

/-- One response has been sent on session `n`; nothing else has changed but what `f` changes. -/
def Responds (i : Instr) (s : State) (n : Nat) (u : State) : Prop :=
  ∃ bytes, Goes i s { u with cp := { u.cp with responses := s.cp.responses ++ [(n, bytes)] } }

/-- The response to a request: version and response code, then what SPDM 1.3 puts before and behind the fields that the spec states
(R433; notes/assumptions/6.md). -/
def Answers (i : Instr) (s : State) (n code : Nat) (req body : List Byte) : Prop :=
  let version : Byte := if code = 0x84 then 0x10 else 0x13
  Goes i s { s with cp := { s.cp with responses := s.cp.responses ++
    [(n, [version, BitVec.ofNat 8 (code % 128)] ++ (if code = 0x7F then [] else Config.spdmHead code n req) ++ body ++
      Config.spdmTail code n req body)] } }

/-- A session. -/
def theSession (s : State) (x : Session) : Prop := s.cp.sessions.find? (fun y => y.id = x.id) = some x

/-- One port changes by `f`. -/
def portChanged (s t : State) (n : Nat) (f : Port → Port) : Prop :=
  t = { s with cp := { s.cp with ports := t.cp.ports } } ∧ t.portAt n = f (s.portAt n) ∧ ∀ k ≠ n, t.portAt k = s.portAt k

/-- No transfer and no copy of query memory has a chunk outstanding. -/
def noTraffic (s : State) : Prop :=
  (∀ x ∈ s.eng.xfers, x.reading = [] ∧ x.flushing = [] ∧ x.acking = []) ∧ ∀ q ∈ s.eng.queries, q.acking = []

end Sys2Proof.Claims

/-- R309, R310, R362, R363, R415, R416, R436, R446, R452: handlers, ports, regions and reports by mailbox. A region's
band is free of every other, its units read zero and a collection begins with its header; a region in use stays. SUMMARY
and DUMP_ERRORS are answered whenever the link is up, with the replays of the host link seen by then counted and recorded.
Where the operands lie in the mailbox is the model's choice (notes/assumptions/47.md), and so are HANDLER_SET's test of the module's
digest (32.md), PORT_BIND of a port that is bound already (39.md) and that a replay is seen at a report (100.md; their number is free). -/
def Obligations.RegionAndReportCommands : Prop :=
  ∀ (s : State) (w m vec port id addr len first n code cls home size ety width body side : Nat) (slab : Bool),
    let alloc := Instr.regionAlloc w cls slab home size ety width body side
    let ops := allocOperands w cls slab home size ety width body side
    let sumOps : List Operand := [(8, 8, addr), (16, 4, len)]
    let dumpOps : List Operand := [(8, 8, addr), (16, 4, first), (20, 4, n)]
    commands s [(.handlerSet w m vec, 8, dwords [w, m, vec]), (.portBind port w, 9, dwords [port, w]), (.regionFree id, 0x0B, dwords [id])] ∧
    (rang s 0x0A ops → ¬accepting s → OnlyAnswers alloc s 5) ∧
    (¬rang s 0x0C sumOps → Goes (.summary addr len) s s) ∧ (¬rang s 0x0D dumpOps → Goes (.dumpErrors addr first n) s s) ∧
    (s.canonicalMemory →
      (rang s 0x0C sumOps → addr % 4096 ≠ 0 ∨ len < 0x2000 → OnlyAnswers (.summary addr len) s 1) ∧
      (rang s 0x0C sumOps → addr % 4096 = 0 → 0x2000 ≤ len → ∃ t, Goes (.summary addr len) s (answered t 0) ∧ hostAt t addr 4 = 0x4D4D5553 ∧
        hostAt t (addr + 4) 2 = 1 ∧ (∀ b, b < addr ∨ addr + len ≤ b → t.mem.host.get b = s.mem.host.get b) ∧
        t.mem.spad = s.mem.spad ∧ t.qm = s.qm ∧ t.players = s.players ∧ t.cp = s.cp) ∧
      (rang s 0x0D dumpOps → addr % 64 ≠ 0 → OnlyAnswers (.dumpErrors addr first n) s 1) ∧
      (rang s 0x0D dumpOps → addr % 64 = 0 → ∃ t, Goes (.dumpErrors addr first n) s (answered t 0) ∧
        let rs := (t.dev.log.filter (fun r => decide (first ≤ r.seq))).take n
        let seen := Config.freeReplays s.fresh
        counted s t 12 seen ∧ t.dev.seq = s.dev.seq + seen ∧ (∃ new k, new.length = seen ∧ t.dev.log = (s.dev.log ++ new).drop k ∧
          ∀ r ∈ new, r.cause = 0x13 ∧ r.engine = 7 ∧ r.flags = 4) ∧
        t.dev.mbResult = rs.length ∧ (∀ (k : Nat) (h : k < rs.length), hostAt t (addr + 64 * k) 4 = rs[k].seq % 2 ^ 32 ∧
          hostAt t (addr + 64 * k + 4) 1 = rs[k].cause % 256 ∧ hostAt t (addr + 64 * k + 0x38) 8 = rs[k].time % 2 ^ 64) ∧
        (∀ b, b < addr ∨ addr + 64 * rs.length ≤ b → t.mem.host.get b = s.mem.host.get b) ∧
        t = { s with
          mem := { s.mem with host := t.mem.host }
          dev := { s.dev with mbResult := t.dev.mbResult, counters := t.dev.counters, log := t.dev.log, seq := t.dev.seq }
          fresh := s.fresh + 1 })) ∧
    (code = 0 ∨ 0x0D < code → commands s [(.mailboxReservedCode code, code, [])] ∧
      (asked s code [] → OnlyAnswers (.mailboxReservedCode code) s 1)) ∧
    (asked s 8 (dwords [w, m, vec]) →
      ((∀ x ∈ s.cp.modules, x.handle ≠ m) → OnlyAnswers (.handlerSet w m vec) s 1) ∧
      (∀ x, s.cp.modules.find? (fun x => x.handle = m) = some x →
        (¬inUse s w ∨ x.world ≠ w → OnlyAnswers (.handlerSet w m vec) s 1) ∧
        (inUse s w → x.world = w → w ≠ 0 → x.digest ∉ (s.worldAt w).modules → OnlyAnswers (.handlerSet w m vec) s 3) ∧
        (inUse s w → x.world = w → w = 0 ∨ x.digest ∈ (s.worldAt w).modules → ∃ t, Goes (.handlerSet w m vec) s (answered t 0) ∧
          worldChanged s t w (fun y => { y with handler := x.text, handlerSet := true, vector := word vec })))) ∧
    (asked s 9 (dwords [port, w]) →
      (12 ≤ port ∨ ¬inUse s w → OnlyAnswers (.portBind port w) s 1) ∧
      (port < 12 → inUse s w → w = 0 → ∃ t, Goes (.portBind port w) s (answered t 0) ∧
        portChanged s t port (fun p => { p with world := some 0, peerWorld := 0 })) ∧
      (port < 12 → inUse s w → w ≠ 0 →
        ((∀ a ∈ (s.worldAt w).ports, a.1 = port → a.2.1 ≠ (s.portAt port).peerTag) → OnlyAnswers (.portBind port w) s 3) ∧
        (∀ a, (s.worldAt w).ports.find? (fun a => decide (a.1 = port) && decide (a.2.1 = (s.portAt port).peerTag)) = some a →
          ∃ t, Goes (.portBind port w) s (answered t 0) ∧
            portChanged s t port (fun p => { p with world := some w, peerWorld := a.2.2 })))) ∧
    (asked s 0x0A ops →
      (¬inUse s w ∨ size % 1024 ≠ 0 ∨ size = 0 ∨ 3 ≤ cls ∨ ¬(home = 15 ∨ (slab = false ∧ home < 4)) → OnlyAnswers alloc s 1) ∧
      (inUse s w → home = 15 ∨ (slab = false ∧ home < 4) → shapeFits cls size width body side = true →
        s.qm.freeBand (bandOf slab home (size / 1024)) = none → OnlyAnswers alloc s 4) ∧
      (∀ u r, inUse s w → home = 15 ∨ (slab = false ∧ home < 4) → shapeFits cls size width body side = true → still s →
        s.qm.freeBand (bandOf slab home (size / 1024)) = some u → s.qm.freeRegion = some r →
        ∃ t x, Goes alloc s (answered t 0) ∧ t.dev.mbResult = x.id ∧
          t.qm.regions = s.qm.regions ++ [x] ∧ (∀ y ∈ s.qm.regions, y.id ≠ x.id) ∧ x.cls = cls ∧ x.slab = slab ∧ x.home = home ∧
          x.world = w ∧ x.units = size / 1024 ∧ x.ety = ety ∧ x.width = width ∧ x.body = body ∧ x.side = side ∧
          x.merging = false ∧ x.retired = false ∧ x.rows = bandOf slab home (size / 1024) ∧ x.ubase + x.rows ≤ 1310720 ∧
          (∀ y ∈ s.qm.regions, x.ubase + x.rows ≤ y.ubase ∨ y.ubase + y.rows ≤ x.ubase) ∧
          (cls = 0 → rowsZero t x.ubase x.rows) ∧
          (cls ≠ 0 → dataUnit (x.unit 0) → unitRow (x.unit 0) < x.ubase + x.rows → x.ubase ≤ unitRow (x.unit 0) →
            inUnit t (x.unit 0) 0 4 = 0x4C4C4F43 ∧ inUnit t (x.unit 0) 4 1 = cls ∧ inUnit t (x.unit 0) 8 4 = width ∧
            inUnit t (x.unit 0) 0x10 8 = body ∧ inUnit t (x.unit 0) 0x18 8 = side ∧ inUnit t (x.unit 0) 0x20 8 = 0 ∧
            inUnit t (x.unit 0) 0x28 8 = 0))) ∧
    (asked s 0x0B (dwords [id]) →
      ((∀ x ∈ s.qm.regions, x.id ≠ id) → OnlyAnswers (.regionFree id) s 1) ∧
      (∀ x, s.qm.region? id = some x →
        let mapped := ∃ l ∈ s.allLeaves, l.2.2.2.space = .qm ∧ l.2.2.2.frame / 2 ^ 20 % 2 ^ 16 = id
        (x.cls = 3 → OnlyAnswers (.regionFree id) s 1) ∧
        (x.cls ≠ 3 → x.merging = true ∨ mapped → OnlyAnswers (.regionFree id) s 2) ∧
        (x.cls ≠ 3 → x.merging = false → ¬mapped →
          ∃ t, Goes (.regionFree id) s (answered t 0) ∧ t = { s with qm := t.qm } ∧ rowsZero t x.ubase x.rows ∧
            ∀ y, y ∈ t.qm.regions ↔ y ∈ s.qm.regions ∧ y.id ≠ id)))

/-- R72, R73, R75, R416: MODULE_LOAD. A load that fails in its first steps leaves the machine as it was but for its status,
one that fails later gives back its pages and regions; one that succeeds lists the module as not ready, and the bytes of
its loaded sections lie at their addresses, zero behind their contents. The statuses 5 of a device that does not serve and
6 of an ASID that no world owns are the model's choice (notes/assumptions/85.md). -/
def Obligations.ModuleLoading : Prop :=
  ∀ (s : State) (asid : Nat) (b : List Byte) (clusters : List Nat) (h : Nat),
    let fails := fun (st : Nat) => Goes (.moduleLoad asid b clusters) s { s with dev := { s.dev with loadStatus := st } }
    let f := fun (o n : Nat) => bytesToNat ((b.drop o).take n)
    (¬serves s → fails 5 ∧ Goes (.moduleReady h) s s) ∧
    (serves s → worldOf s asid = none → fails 6) ∧
    (serves s → (worldOf s asid).isSome → f 0 4 ≠ 0x4D4E534F ∨ f 4 2 ≠ 1 ∨ f 8 4 ≠ 7 → fails 1) ∧
    (∀ w, serves s → worldOf s asid = some w → w ≠ 0 → f 0x20 32 ∉ (s.worldAt w).modules → headerStatus b (sections b) = 0 → fails 2) ∧
    (∀ e t, serves s → s.load asid b clusters = .failed e t →
      Goes (.moduleLoad asid b clusters) s { t with dev := { t.dev with loadStatus := e } } ∧ t.cp = s.cp ∧ t.vm = s.vm ∧ t.eng = s.eng ∧
        t.qm.regions = s.qm.regions) ∧
    (∀ w t, serves s → worldOf s asid = some w → w ≤ 64 → trees s.vm → s.canonicalMemory → s.load asid b clusters = .done t →
      regionRecs (sections b) = [] → qmImages (sections b) = [] → (∀ x ∈ sections b, x.loaded = true → x.addr + x.msize ≤ 2 ^ 56) →
      Goes (.moduleLoad asid b clusters) s t ∧ t.players.length = s.players.length ∧ (t.vm.store = s.vm.store → t.qm = s.qm) ∧
      (∃ m, t.cp.modules = s.cp.modules ++ [m] ∧ m.handle = s.cp.nextModule ∧ m.ready = false ∧ m.loading = true ∧ m.world = w ∧
        m.asid = asid ∧ m.digest = f 0x20 32 ∧ m.text = ((sections b).filter (fun x => x.kind = 1)).map (fun x => (x.addr, x.size))) ∧
      ∀ x ∈ sections b, x.loaded = true → ∀ i < x.msize, ∃ l,
        t.vm.leaf asid (x.addr + i) = some l ∧ l.space = .spad ∧ l.wtag = w ∧ l.w = x.flags.testBit 1 ∧ l.x = x.flags.testBit 2 ∧
        t.mem.spad.get (l.phys (word (x.addr + i))) = x.data.getD i 0) ∧
    (serves s → (∃ m ∈ s.cp.modules, m.handle = h ∧ m.loading = true) → ∃ t, Goes (.moduleReady h) s t ∧ t.dev.loadStatus = 0 ∧
      t.cp.modules = s.cp.modules.map (fun m => if m.handle = h then { m with ready := true, loading := false } else m) ∧
      t.mem = s.mem ∧ t.vm = s.vm ∧ t.qm = s.qm ∧ t.players = s.players)

/-- R416, R432 to R436, R443: SPDM and the owner of a world. A session is opened, secured and ended; its port carries
traffic while it is secured. Only the first session bound to a pending world is its owner, and only the owner's requests
have effect; a world is sealed with a handler, a path assertion and an encrypted link. Over a port the lower tag asks, and a peer whose
chain does not lead to the vendor root gets no session. That a session's number is free, no owner's and one of sixteen when it opens
(notes/assumptions/41.md), and the layout of what SPDM 1.3 leaves to the device (6.md), are the model's choices. -/
def Obligations.SessionsAndOwners : Prop :=
  ∀ (s : State) (n port tag w v d pw : Nat) (req : List Byte),
    let plain := [Instr.getVersion n req, .getCapabilities n req, .negotiateAlgorithms n req, .getDigests n req,
      .getCertificate n req, .challenge n req, .unsupportedRequest n req]
    let fresh := (∀ x ∈ s.cp.sessions, x.id ≠ n) ∧ (∀ k < 65, (s.worldAt k).owner ≠ some n) ∧ s.cp.sessions.length < 16
    let carries := fun (f : Port → Port) (t : State) (x : Session) =>
      match x.port with
      | none => t.cp.ports = s.cp.ports
      | some k => ∀ j, t.portAt j = if j = k ∧ k < 12 then f (s.portAt j) else s.portAt j
    (¬answersSpdm s → ∀ i ∈ plain ++ [.keyExchange n port tag req, .finish n req, .heartbeat n req, .keyUpdate n req,
      .endSession n req], Goes i s s) ∧
    (answersSpdm s → (∀ i ∈ plain, Responds i s n s) ∧ (s.dev.measured = true → Responds (.getMeasurements n req) s n s) ∧
      (let chain := Config.vendorRoot ++ Config.manufacturingCa ++ Config.deviceCertificate Config.identityKey s.dev.serial
       let pss : Byte := if Config.takesPss req = true then 8 else 4
       let state := le 8 s.qm.stat.toNat ++ (List.range 256).flatMap (fun k => le 2 (s.retiredSeats k)) ++ le 2 s.portsLost
       let fused := s.dev.serial ++ le 4 Config.minimumSvn.toNat ++ le 32 Config.vendorKeyHash.toNat
       let block := fun (k : Nat) (d : List Byte) => [BitVec.ofNat 8 k, 1, 35, 0, Config.measurementType k, 32, 0] ++ d
       Answers (.getVersion n req) s n 0x84 req [0x00, 0x13] ∧ Answers (.getCapabilities n req) s n 0xE1 req [0xD6, 0x63, 0, 0] ∧
       Answers (.negotiateAlgorithms n req) s n 0xE3 req [2, 0, 0, 0, pss, 0, 0, 0, 1, 0, 0, 0, 2, 0, 2, 0] ∧
       Answers (.getDigests n req) s n 0x81 req (sha chain) ∧ Answers (.getCertificate n req) s n 0x82 req chain ∧
       Answers (.challenge n req) s n 0x83 req (sha chain) ∧ Answers (.unsupportedRequest n req) s n 0x7F req [7, req.getD 1 0] ∧
       (s.dev.measured = true → Answers (.getMeasurements n req) s n 0xE0 req (block 1 s.dev.block1 ++
         block 2 (sha (le 4 Config.firmwareSvn.toNat)) ++ block 3 (sha fused) ++ block 4 (sha state)))) ∧
      (s.dev.measured = false → Goes (.getMeasurements n req) s s) ∧
      (s.dev.linkUp = true → fresh → Responds (.keyExchange n 12 tag req) s n
        { s with cp := { s.cp with sessions := s.cp.sessions ++ [⟨n, 1, none⟩] } }) ∧
      (port < 12 → (s.portAt port).trained = true → (s.portAt port).lost = false →
        (tag = deviceTag → Goes (.keyExchange n port tag req) s s) ∧
        (tag ≠ deviceTag → fresh → ∃ t, Goes (.keyExchange n port tag req) s t ∧
          t.cp.sessions = s.cp.sessions ++ [⟨n, 1, some port⟩] ∧ (t.portAt port).peerTag = tag ∧
          (deviceTag < tag → t.cp.responses = s.cp.responses) ∧
          (tag < deviceTag → ∃ bytes, t.cp.responses = s.cp.responses ++ [(n, bytes)]) ∧
          ∀ j ≠ port, t.portAt j = s.portAt j)) ∧
      (port < 12 → (s.portAt port).trained = false ∨ (s.portAt port).lost = true → Goes (.keyExchange n port tag req) s s) ∧
      (s.dev.linkUp = true → ¬fresh → Responds (.keyExchange n 12 tag req) s n s) ∧
      ((∀ x ∈ s.cp.sessions, x.id ≠ n) → ∀ i ∈ [Instr.finish n req, .heartbeat n req, .keyUpdate n req, .endSession n req],
        Responds i s n s) ∧
      (∀ x, x.id = n → theSession s x → 1 ≤ x.phase →
        (x.port = none ∨ noTraffic s → ∃ t, Goes (.finish n req) s t ∧ t.mem = s.mem ∧
          (x.port = none ∨ Config.chainVerifies req = true →
            t.cp.sessions = s.cp.sessions.map (fun y => if y.id = n then { y with phase := 2 } else y) ∧
            carries (fun p => if p.lost then p else { p with keyed := true, frames := 0, fails := 0, rekey := false }) t x) ∧
          (∀ k, x.port = some k → Config.chainVerifies req = false →
            (∀ y ∈ t.cp.sessions, y ∈ s.cp.sessions ∧ y.id ≠ n) ∧ (∃ bytes, t.cp.responses = s.cp.responses ++ [(n, bytes)]) ∧
            ((s.portAt k).rekey = false → t.cp.ports = s.cp.ports) ∧
            (k < 12 → (s.portAt k).rekey = true →
              ((s.portAt k).fails < 2 → t.portAt k = { s.portAt k with fails := (s.portAt k).fails + 1 }) ∧
              (2 ≤ (s.portAt k).fails → (t.portAt k).lost = true ∧ (t.portAt k).keyed = false)))) ∧
        (noTraffic s → ∃ t, Goes (.endSession n req) s t ∧ (∀ y ∈ t.cp.sessions, y ∈ s.cp.sessions ∧ y.id ≠ n) ∧
          carries (fun p => { p with keyed := false, frames := 0 }) t x ∧ t.cp.worlds = s.cp.worlds ∧ t.mem = s.mem) ∧
        (x.phase = 2 → Responds (.heartbeat n req) s n s ∧ ∃ t, Goes (.keyUpdate n req) s t ∧ t.cp.sessions = s.cp.sessions ∧
          carries (fun p => { p with frames := 0 }) t x ∧ t.mem = s.mem))) ∧
    ((∀ x ∈ s.cp.sessions, x.id = n → x.phase ≠ 2) → ∀ i ∈ [Instr.ownerBind w n, .setQratio w n v, .allowModule w n d,
      .allowPort w n port tag pw, .pathAssert w n, .ownerSeal w n, .ideKm n], Goes i s s) ∧
    ((∃ x ∈ s.cp.sessions, x.id = n ∧ x.phase = 2) →
      let x := s.worldAt w
      let to' := fun (i : Instr) (f : World → World) => ∃ t, worldChanged s t w f ∧ Responds i s n t
      let ready := x.st = .pending ∧ x.handlerSet = true ∧ x.path = true ∧ s.cp.ide = true
      let owns := 1 ≤ w ∧ w < 65 ∧ x.owner = some n ∧ x.st ≠ .free
      (1 ≤ w → w < 65 → x.st = .pending → x.owner = none → to' (.ownerBind w n) (fun y => { y with owner := some n })) ∧
      (x.owner ≠ none ∨ x.st ≠ .pending → Responds (.ownerBind w n) s n s) ∧
      (¬owns → ∀ i ∈ [Instr.setQratio w n v, .allowModule w n d, .allowPort w n port tag pw, .pathAssert w n, .ownerSeal w n],
        Responds i s n s) ∧
      (owns →
        (x.st = .pending → v ∈ [4, 8, 16, 32, 64, 128, 256] → to' (.setQratio w n v) (fun y => { y with qratio := v })) ∧
        (x.st ≠ .pending ∨ v ∉ [4, 8, 16, 32, 64, 128, 256] → Responds (.setQratio w n v) s n s) ∧
        to' (.allowModule w n d) (fun y => { y with modules := y.modules ++ [d] }) ∧
        to' (.allowPort w n port tag pw) (fun y => { y with ports := y.ports ++ [(port, tag, pw)] }) ∧
        to' (.pathAssert w n) (fun y => { y with path := true }) ∧
        (ready → to' (.ownerSeal w n) (fun y => { y with st := .live })) ∧ (¬ready → Responds (.ownerSeal w n) s n s)) ∧
      ((∃ y ∈ s.cp.sessions, y.id = n ∧ y.phase = 2 ∧ y.port = none) → s.dev.linkUp = true →
        Goes (.ideKm n) s { s with cp := { s.cp with ide := true } }))

namespace Sys2Proof.Claims

open Sys2Proof Sys2Proof.Machine

/-- Stage `n` of a start is running (R439). -/
def inStage (s : State) (n : Nat) : Prop := s.dev.stage = n ∧ s.dev.ready = false ∧ s.dev.failed = false

/-- The safe state with a start fault (R443): not ready, engines stopped and empty, no port keyed, vector 65 sent. -/
def Safe (s t : State) (code : Nat) : Prop :=
  t.dev.failed = true ∧ t.dev.ready = false ∧ t.dev.sfault = code ∧ t.eng.xfers = [] ∧ t.eng.queries = [] ∧
    t.eng.arrivals = [] ∧ t.eng.resumed = [] ∧ (∀ n, (t.portAt n).keyed = false) ∧ (∃ l, t.dev.msix = s.dev.msix ++ l ++ [65]) ∧
    t.mem = s.mem ∧ t.qm = s.qm ∧ t.vm = s.vm ∧ t.players = s.players

/-- Player records, memories and tables are as they were: only what the status block and the log show has changed. -/
def deviceOnly (s t : State) : Prop := t = { s with dev := t.dev }

end Sys2Proof.Claims

/-- R319, R322, R325, R430, R437 to R443, R447, R448: the stages of a start. Release of reset leaves the reset state but for the
health log and what lies outside the module, in the safe state where the firmware is older than the fused minimum; every
stage that passes is followed by the next with vector 65, and one that fails ends in the safe state with its code. Ready
follows the last one. A warm start: the write is absorbed unless the module is ready; it takes ready away, asks every player
to stop and abandons a load; once no launch is left, protected worlds, scratchpad and keys are gone, QM of world 0 stays,
and the stages run again from the self-test. The code of a refused boot is free (notes/assumptions/90.md). What cold start leaves where
the spec gives no reset value (notes/assumptions/1.md, 2.md), that every row is clean after stage 3 (25.md), and that safe state and warm
start empty the engines (51.md), are the model's choices. -/
def Obligations.StartStages : Prop :=
  (∀ (s : State) (lost salt : Nat) (seats bad : List (Nat × Nat)) (gone : List Nat),
    let next := fun (t : State) (n : Nat) => t.dev.stage = n ∧ t.dev.ready = false ∧ t.dev.failed = false ∧
      (∃ l, t.dev.msix = s.dev.msix ++ l ++ [65])
    let kept := fun (t : State) => t.mem = s.mem ∧ t.vm = s.vm ∧ t.players = s.players
    let listed := fun (t : State) => (∀ x ∈ gone, x < 12 → x ∈ t.dev.lostStacks) ∧ (∀ x ∈ s.dev.lostStacks, x ∈ t.dev.lostStacks) ∧
      t.qm.lost = t.dev.lostStacks.head? ∧ (t.qm.unav = true ↔ 2 ≤ t.dev.lostStacks.length)
    (∃ t, Goes .coldStart s t ∧
      let r := { State.reset with
        mem := { State.reset.mem with host := s.mem.host, peer := s.mem.peer }
        qm := { State.reset.qm with lost := s.dev.lostStacks.head?, unav := decide (2 ≤ s.dev.lostStacks.length) }
        dev := { State.reset.dev with lostStacks := s.dev.lostStacks, retired := s.dev.retired, serial := s.dev.serial }
        agenda := s.agenda
        fresh := s.fresh }
      (Config.minimumSvn ≤ Config.firmwareSvn → t = r) ∧ (Config.firmwareSvn < Config.minimumSvn → Safe r t Config.bootFault)) ∧
    (inStage s 1 → ∃ t, Goes (.phyTraining false lost) s t ∧ Safe s t 1) ∧
    (inStage s 1 → ∃ t, Goes (.phyTraining true lost) s t ∧ next t 2 ∧ t.dev.linkUp = true ∧
      (∀ n < 12, (t.portAt n).lost = (lost.testBit n || (s.portAt n).lost) ∧ (t.portAt n).trained = !lost.testBit n) ∧
      (noTraffic s → kept t)) ∧
    (inStage s 2 → ∃ t, Goes (.selfTest false seats gone) s t ∧ Safe s t 2) ∧
    (inStage s 2 → ∃ t, Goes (.selfTest true seats gone) s t ∧ kept t ∧ listed t ∧
      (∀ x ∈ seats, x.1 < 256 → ∀ k < 16, x.2.testBit k = true → (t.retiredSeats x.1).testBit k = true) ∧
      (seats = [] → t.dev.retired = s.dev.retired) ∧
      ((∀ k < 256, t.retiredSeats k % 2 ^ 16 = 0xFFFF) → t.dev.failed = true ∧ t.dev.sfault = 3 ∧ t.dev.ready = false) ∧
      ((∃ k < 256, t.retiredSeats k % 2 ^ 16 ≠ 0xFFFF) → next t (if s.dev.warming then 5 else 3))) ∧
    (inStage s 3 → ∃ t, Goes (.qmScrub gone) s t ∧ next t 4 ∧ kept t ∧ listed t ∧ (∀ u, t.qm.raw u = 0) ∧ t.qm.bad = [] ∧
      t.qm.soft = [] ∧ t.qm.deltas = [] ∧ t.qm.held = [] ∧ ∀ st pc row, rowExists st pc row → t.qm.isClean (unitNo st pc row) = true) ∧
    (inStage s 4 → ∃ t, Goes (.parityVerification bad) s t ∧ next t 5 ∧ kept t ∧ counted s t 9 (bad.map Prod.snd).sum ∧
      counted s t 7 (bad.map Prod.snd).sum ∧ (∀ x ∈ bad, 16 < x.2 → x.1 < 12 → x.1 ∈ t.dev.lostStacks) ∧
      ((∀ x ∈ bad, x.2 ≤ 16) → t.dev.lostStacks = s.dev.lostStacks)) ∧
    (inStage s 5 → (∃ t, Goes (.keyDerivation salt 1) s t ∧ Safe s t 4) ∧ (∃ t, Goes (.keyDerivation salt 2) s t ∧ Safe s t 5) ∧
      ∃ t, Goes (.keyDerivation salt 0) s t ∧ t = { s with dev := { s.dev with
        salt := salt % 2 ^ 256, identity := true, stage := 6, msix := s.dev.msix ++ [65] } }) ∧
    (inStage s 6 → (∃ t, Goes (.firmwareMeasurement false) s t ∧ Safe s t 6) ∧
      ∃ t, Goes (.firmwareMeasurement true) s t ∧ t = { s with
        qm := { s.qm with warm := s.dev.warming }
        dev := { s.dev with
          stage := 7, measured := true, block1 := sha Config.firmwarePayload, ready := true, absorbed := false, warm := s.dev.warming, warming := false, clock := 0
          msix := s.dev.msix ++ [65] } }) ∧
    (∀ i n, (i, n) ∈ [(Instr.phyTraining true lost, 1), (.selfTest true seats gone, 2), (.qmScrub gone, 3),
        (.parityVerification bad, 4), (.keyDerivation salt 0, 5), (.firmwareMeasurement true, 6)] → ¬inStage s n → Goes i s s)) ∧
  (∀ (s : State) (v : Nat),
    (v % 2 = 0 ∨ s.dev.linkUp = false → Goes (.dstartWarm v) s s) ∧
    (v % 2 = 1 → s.dev.linkUp = true → s.dev.ready = false ∨ s.dev.failed = true →
      Goes (.dstartWarm v) s { s with dev := { s.dev with absorbed := true } }) ∧
    (v % 2 = 1 → s.dev.linkUp = true → s.dev.ready = true → s.dev.failed = false →
      ∃ t, Goes (.dstartWarm v) s t ∧ t.dev.ready = false ∧ t.dev.warming = true ∧ t.dev.msix = s.dev.msix ++ [65] ∧
        t.players = s.players.map (fun p => if p.live = true then { p with preempt := true } else p) ∧
        (∀ q < 64, (t.queueAt q).fetching = 0 ∧ (t.queueAt q).pending = (s.queueAt q).pending) ∧
        t.cp.launches = s.cp.launches.map (fun l => { l with removing := l.removing.map (fun r => (r.1, 8, 0)) }) ∧
        t.cp.modules = s.cp.modules.filter (fun m => !m.loading) ∧
        ((∃ m ∈ s.cp.modules, m.loading = true) → t.dev.loadStatus = 5) ∧ t.mem = s.mem ∧ t.qm = s.qm ∧ t.eng = s.eng) ∧
    (∀ l ∈ s.cp.launches, s.dev.warming = true → l.removing = none → (s.cp.launches.map (fun l => l.id)).Nodup →
      (∀ p ∈ s.players, p.live = true → p.frozen = true) → ∃ t, Goes (.contextRemoval l.id) s t ∧
        ∃ l' ∈ t.cp.launches, l'.id = l.id ∧ l'.removing = some (1, 8, 0)) ∧
    (s.dev.warming = false ∨ s.dev.stage ≠ 7 ∨ s.cp.launches ≠ [] ∨ (s.dev.mbBell = true ∧ s.dev.mbTaken = true) →
      Goes .warmStartQuiesced s s) ∧
    (s.dev.warming = true → s.dev.stage = 7 → s.cp.launches = [] → s.dev.mbBell = false ∨ s.dev.mbTaken = false →
      ∃ t, Goes .warmStartQuiesced s t ∧ t.dev.stage = 2 ∧ t.dev.warmStarts = s.dev.warmStarts + 1 ∧ t.dev.identity = false ∧
        t.dev.salt = 0 ∧ t.dev.measured = false ∧ t.dev.block1 = [] ∧ (∀ a, t.mem.spad.get a = 0) ∧ (∀ p ∈ t.players, p.live = false) ∧ t.eng.xfers = [] ∧ t.eng.queries = [] ∧
        t.cp.parties = [] ∧ t.cp.images = [] ∧ (∀ n, (t.portAt n).keyed = false) ∧ t.qm.clean = [] ∧
        (∀ w, 1 ≤ w → w < 65 → (t.worldAt w).st = .free ∧ ((s.worldAt w).st ≠ .free → ∀ r ∈ t.qm.regions, r.world ≠ w)) ∧
        (∀ r ∈ s.qm.regions, r.world = 0 → (∀ m ∈ s.cp.images, m.region ≠ r.id) → r ∈ t.qm.regions) ∧
        (s.cp.images = [] → (∀ r ∈ s.qm.regions, r.world = 0 ∨ r.world = 127) → t.qm.cells = s.qm.cells) ∧
        (∀ m ∈ t.cp.modules, m.ready = false)))

/-- R301, R435, R436, R444, R447, R448, R451, R457, R458: links. What is in flight on a link that fails is lost with a record;
a port is lost at its third failed retraining; waiting entries are written in order when the host link trains. That the third failure
loses a port whatever the time (notes/assumptions/7.md), that a link drop ends the session and unkeys the port (103.md), and the fields of
the records (101.md), are the model's choices. -/
def Obligations.Links : Prop :=
  ∀ (s : State) (n : Nat) (ok : Bool),
    let p := s.portAt n
    (s.dev.linkUp = false → Goes .hostLinkDown s s) ∧
    (s.dev.linkUp = true → noTraffic s → ∃ t, Goes .hostLinkDown s t ∧ t.dev.linkUp = false ∧ counted s t 13 1 ∧
      Logged t 0x13 7 0 ∧ t.eng = s.eng ∧ t.mem = s.mem ∧ t.players = s.players ∧ ∀ q < 64, t.queueAt q = { s.queueAt q with fetching := 0 }) ∧
    (∀ x, s.dev.linkUp = true → s.eng.xfers = [x] → x.reading ≠ [] → x.flushing = [] → x.acking = [] → x.ending = none →
      unremoved s x → distinctPlayers s → (∀ q ∈ s.players, q.id = x.owner → q.afq.length < 16) →
      ∃ t, Goes .hostLinkDown s t ∧ t.dev.linkUp = false ∧ t.eng.xfers = [] ∧ ∀ q ∈ t.players, q.id = x.owner →
        ∃ r ∈ q.afq, r.cause = 0x13 ∧ r.eng = 3 ∧ r.sub = 8 ∧ r.held.isSome = true) ∧
    (s.dev.linkUp = true ∨ s.dev.stage = 1 → Goes .hostLinkTrained s s) ∧
    (s.dev.linkUp = false → s.dev.stage ≠ 1 →
      ((∀ q < 64, (s.queueAt q).entries = []) → Goes .hostLinkTrained s { s with dev := { s.dev with linkUp := true } }) ∧
      (∀ q e l, q < 64 → (s.queueAt q).entries = e :: l → (∀ k < 64, k ≠ q → (s.queueAt k).entries = []) →
        ((s.queueAt q).compTail - (s.queueAt q).compHead).toNat + (e :: l).length ≤ (s.queueAt q).compEntries →
        ∃ t, Goes .hostLinkTrained s t ∧ t.dev.linkUp = true ∧ (t.queueAt q).entries = [] ∧
          (t.queueAt q).compTail = (s.queueAt q).compTail + BitVec.ofNat 32 (e :: l).length ∧
          t.dev.msix = s.dev.msix ++ List.replicate (e :: l).length q)) ∧
    (s.cp.ide = false → Goes .ideSecureStateLoss s s) ∧
    (s.cp.ide = true → noTraffic s → (s.cp.launches.map (fun l => l.id)).Nodup → ∃ t, Goes .ideSecureStateLoss s t ∧ t.cp.ide = false ∧
      counted s t 13 1 ∧ Logged t 0x0F 7 (if s.cp.launches.any (fun l => decide (l.world ≠ 0)) = true then 2 else 0) ∧ t.mem = s.mem ∧ t.qm = s.qm ∧
      (∀ w, 1 ≤ w → w < 65 → (s.worldAt w).st = .live → (t.worldAt w).st = .pending ∧ (t.worldAt w).path = false) ∧
      (t.worldAt 0 = s.worldAt 0) ∧ (∀ l ∈ t.cp.launches, l.world ≠ 0 → l.removing ≠ none) ∧
      ∀ l ∈ s.cp.launches, l.world ≠ 0 → l.removing = none → ∃ l' ∈ t.cp.launches, l'.id = l.id ∧ l'.removing = some (0, if s.dev.warming = true then (8, 0) else (4, 0x0F))) ∧
    (n < 12 → noTraffic s →
      (p.trained = true → ∃ t, Goes (.portLinkDrop n) s t ∧ t = { s with cp := t.cp } ∧ (∀ k ≠ n, t.portAt k = s.portAt k) ∧
        t.portAt n = { p with trained := false, keyed := false, frames := 0, fails := 0, rekey := false } ∧ ∀ x ∈ t.cp.sessions, x.port ≠ some n) ∧
      (p.trained = false → Goes (.portLinkDrop n) s s) ∧
      (p.trained = true ∨ p.lost = true ∨ s.dev.stage = 1 ∨ s.dev.failed = true → Goes (.portRetrain n ok) s s) ∧
      (p.trained = false → p.lost = false → s.dev.stage ≠ 1 → s.dev.failed = false → ∃ t, Goes (.portRetrain n ok) s t ∧ counted s t 15 1 ∧
        (t.portAt n).retrains = p.retrains + 1 ∧ Logged t 0x13 8 (if ok = true then 4 else if p.fails < 2 then 0 else 2) ∧ (ok = true → (t.portAt n).trained = true ∧ (t.portAt n).fails = 0) ∧
        (ok = false → p.fails < 2 → (t.portAt n).lost = false ∧ (t.portAt n).fails = p.fails + 1) ∧
        (ok = false → 2 ≤ p.fails → (t.portAt n).lost = true ∧ t.dev.msix = s.dev.msix ++ [64]) ∧ ∀ k ≠ n, t.portAt k = s.portAt k) ∧
      (p.keyed = true → (∃ t, Goes (.frameTagFailure n) s t ∧ counted s t 14 1 ∧ Logged t 0x13 8 0 ∧
          (t.portAt n).keyed = false ∧ (t.portAt n).rekey = true ∧ (t.portAt n).fails = 0 ∧
          (∀ x ∈ t.cp.sessions, x.port ≠ some n) ∧ t.mem = s.mem) ∧
        ∃ t, Goes (.frameKeyLimit n) s t ∧ portChanged s t n (fun p => { p with frames := 0 })) ∧
      (p.keyed = false → Goes (.frameTagFailure n) s s ∧ Goes (.frameKeyLimit n) s s))

namespace Sys2Proof.Claims

open Sys2Proof Sys2Proof.Machine

/-- The energy of a window's activity (R460), by class and amount, in units of 1/6400 pJ: the weights of an FP or multiply
element's bit and of any other's, of 8 bytes of scratchpad, of a MAC of FP4, of FP8 or INT8, of BF16 or FP16, of FP32 or
FP64, of a QM byte and of a link byte. -/
def energyOf (work : List (Nat × Nat)) : Nat :=
  (work.map (fun w => [650, 100, 19200, 1216, 2176, 4352, 35200, 93440, 64000].getD w.1 0 * w.2)).sum

/-- One watt over 10 µs in the same units. -/
def energyUnit : Nat := 6400 * 10 ^ 7

end Sys2Proof.Claims

/-- R443, R444, R447 to R449, R459 to R462: device-fatal errors, temperature and power. The duty falls by a sixteenth in
a window above the cap, never below 2, and rises below 95 % of it; a hot junction limits it to 8 until it has cooled;
120 degrees stop the module. A fatal error leaves its record. That the safe state empties the engines, and that the power manager's
windows are events with what they measure as arguments, are the model's choices (notes/assumptions/51.md). -/
def Obligations.FatalErrorsAndPower : Prop :=
  ∀ (s : State) (w t : Nat) (work : List (Nat × Nat)),
    let lower := fun (u : State) => (2 < s.dev.duty → u.dev.duty = s.dev.duty - 1 ∧ u.dev.dutyReg = u.dev.duty - 1 ∧ counted s u 18 1) ∧
      (s.dev.duty ≤ 2 → u.dev.duty = s.dev.duty)
    (∀ code, (code = 0x81 ∨ code = 0x82) → s.dev.failed = false → ∃ u, Goes (.deviceFatalError code) s u ∧ Safe s u code ∧
      Logged u 0 5 2 ∧ u.dev.seq = s.dev.seq + 1 ∧ u.dev.log.length ≤ max 4096 s.dev.log.length) ∧
    (∀ code, s.dev.failed = true → Goes (.deviceFatalError code) s s) ∧
    (s.dev.failed = false → 120 ≤ t → ∃ u, Goes (.junctionTemperature t) s u ∧ Safe s u 0x83 ∧ Logged u 0 5 2 ∧
      u.dev.temp = t) ∧
    (s.dev.failed = false → 105 ≤ t → t < 120 → ∃ u, Goes (.junctionTemperature t) s u ∧ deviceOnly s u ∧ u.dev.temp = t ∧
      u.dev.hot = true ∧ u.dev.duty = min 8 s.dev.duty ∧ u.dev.dutyReg = u.dev.duty - 1 ∧ (s.dev.hot = false → counted s u 19 1)) ∧
    (s.dev.failed = false → 100 ≤ t → t < 105 → Goes (.junctionTemperature t) s { s with dev := { s.dev with temp := t } }) ∧
    (s.dev.failed = false → t < 100 → Goes (.junctionTemperature t) s { s with dev := { s.dev with temp := t, hot := false } }) ∧
    (s.dev.cap * energyUnit < 260 * energyUnit + energyOf work → ∃ u, Goes (.powerEstimateWindow work) s u ∧ deviceOnly s u ∧ lower u) ∧
    (260 * energyUnit + energyOf work ≤ s.dev.cap * energyUnit → Goes (.powerEstimateWindow work) s s) ∧
    (∃ u, Goes (.powerMeasureWindow w) s u ∧ deviceOnly s u ∧ u.dev.meas = w ∧ u.dev.dutyReg = u.dev.duty - 1 ∧
      (s.dev.cap < w → lower u) ∧
      (w ≤ s.dev.cap → w * 100 < s.dev.cap * 95 → u.dev.duty = if s.dev.duty < (if s.dev.hot then 8 else 16) then s.dev.duty + 1
        else s.dev.duty) ∧
      (w ≤ s.dev.cap → s.dev.cap * 95 ≤ w * 100 → u.dev.duty = s.dev.duty))

namespace Sys2Proof.Claims

open Sys2Proof Sys2Proof.Machine

/-- The members of a class among those counted so far (R45). -/
def classCount (ds : List TileDesc) (k : TileClass) : Nat := (ds.filter (fun d => d.cls = k)).length

/-- The limits of a convoy: eight members, and those of the classes; a store counts as SPAD too (R45). -/
def withinLimits (ds : List TileDesc) : Prop :=
  ds.length ≤ 8 ∧ classCount ds .alu ≤ 3 ∧ classCount ds .mulfp ≤ 2 ∧ classCount ds .spad + classCount ds .spadStore ≤ 2 ∧
    classCount ds .spadStore ≤ 1 ∧ classCount ds .perm ≤ 1 ∧ classCount ds .async ≤ 2

/-- Checks 3 to 7 of R47 for a member, as conditions that must all hold, in their order and with the cause of each; the last
two are those of R331. -/
def checks (p : Player) (before : List TileDesc) (d : TileDesc) : List (Prop × Cause) :=
  [(d.priv = true → p.trap.priv = true, .privileged), (d.shapeOk p.env = true, .illegalType),
    (d.allotOk p.env p.shape.allot = true, .registerAllotment), (withinLimits (before ++ [d]), .convoyConflict),
    (p.shape.await = false, .dataError),
    (d.matrix = false → ∀ g ∈ d.dsts p.env ++ d.pips.map (fun t => (t, 1)), p.grant.meets g = false, .matrixGrant),
    (p.det = true → d.noDet p.env = false, .determinism), (d.post p.env = true, .illegalType)]

/-- Every check of a member holds. -/
def PassesChecks (p : Player) (before : List TileDesc) (d : TileDesc) : Prop := ∀ x ∈ checks p before d, x.1

/-- The first check of a member that does not hold has this cause. -/
def FailsCheck (p : Player) (before : List TileDesc) (d : TileDesc) (c : Cause) : Prop :=
  ∃ l x r, checks p before d = l ++ x :: r ∧ (∀ y ∈ l, y.1) ∧ ¬x.1 ∧ c = x.2

/-- The words are the members with these descriptions, and all of them pass their checks. -/
def GoodMembers (p : Player) (ws : List Fetched) (ds : List TileDesc) : Prop :=
  List.Forall₂ (fun (w : Fetched) (d : TileDesc) => ∃ i, w.instr = some i ∧ tileDesc? i = some d) ws ds ∧
    ∀ k (h : k < ds.length), PassesChecks p (ds.take k) ds[k]

/-- A member as it leaves the issue queue behind the members described by `before`: nothing performed; its scalar operands are
captured (R136), or are still to be read where an earlier member writes one of them (R247). -/
def freshFrom (s : State) (before : List TileDesc) (w : Fetched) (d : TileDesc) (m : Member) : Prop :=
  m.addr = w.addr ∧ w.instr = some m.instr ∧ m.fin = false ∧ m.done = 0 ∧ m.groups = 0 ∧ m.mask = none ∧ m.under = none ∧
    m.marker = none ∧ ((∃ b ∈ before, ∃ r ∈ b.outs, r ∈ d.regs) → m.scal = []) ∧
    ((∀ b ∈ before, ∀ r ∈ b.outs, r ∉ d.regs) → m.scal = d.regs.map (src s))

/-- The player has fetched the word at its PC: its trap entry no longer stands before the handler's first word (R228), and
what could be corrected of the word's dword is (R255). -/
def entered (s : State) : State :=
  mine (corrected s (behind s s.me.pc) 4) (fun p => { p with trap := { p.trap with entering := false } })

/-- A player that cannot go on: a fatal record is logged and its context is removed with status 4 and the cause, or with status 8 while
a warm start runs; a removal that starts is counted (R228, R441, R444, R447). -/
def FatalFetch (i : Instr) (s : State) (c : Cause) : Prop :=
  ∃ t, Goes i s t ∧ t.dev.fatalCause = c.code.toNat ∧ Logged t c.code.toNat 0 (if s.me.place.wid = 0 then 2 else 3) ∧ t.mem = s.mem ∧ t.players = s.players ∧ t.qm = s.qm ∧
    ((s.cp.launches.map (fun l => l.id)).Nodup → ∀ l ∈ t.cp.launches, l.id = s.me.place.launch → l.removing ≠ none) ∧
    (∀ l ∈ s.cp.launches, l.id ≠ s.me.place.launch → l ∈ t.cp.launches) ∧
    ∀ l, s.cp.launches.find? (fun l => l.id = s.me.place.launch) = some l →
      (l.removing = none → counted s t 16 1 ∧ ∃ l' ∈ t.cp.launches, l'.id = l.id ∧
        l'.removing = some (0, if s.dev.warming = true then (8, 0) else (4, c.code.toNat))) ∧
      (l.removing ≠ none → t.dev.counters = s.dev.counters)

end Sys2Proof.Claims

/-- R30, R42, R47, R227, R228: what a fetch that fails does. A PC off a word boundary traps misaligned; a word that
cannot be fetched traps with the cause the translation gives; a word that stands for no instruction traps
illegal-opcode. `EPC` and `ETVAL` are the PC; three of the causes leave a record (R444). Before a handler's first word the
failure is fatal, whatever its cause (R228 speaks of EVEC outside the code region). The records of contained fetch failures are the model's
reading (notes/assumptions/93.md), and so is this statement as a whole. -/
def Obligations.FetchTraps : Prop :=
  ∀ (s : State) (w : Nat) (c : Cause),
    let pc := s.me.pc
    (fetchWord s s.me pc = .error .misaligned ↔ pc.toNat % 4 ≠ 0) ∧
    (pc.toNat % 4 = 0 → ¬(∀ k < 4, ∃ r ∈ codeRegion s s.me, r.1 ≤ pc.toNat + k ∧ pc.toNat + k < r.1 + r.2) →
      fetchWord s s.me pc = .error .fetchBound) ∧
    (pc.toNat % 4 ≠ 0 → s.me.trap.entering = false → Traps (.misalignedFetch pc.toNat) s .misaligned pc) ∧
    (pc.toNat % 4 ≠ 0 → s.me.trap.entering = true → FatalFetch (.misalignedFetch pc.toNat) s .misaligned) ∧
    (pc.toNat % 4 = 0 → fetchWord s s.me pc = .error c → s.me.trap.entering = false → TrapsAccess (.fetchBound pc.toNat) s c pc) ∧
    (pc.toNat % 4 = 0 → fetchWord s s.me pc = .error c → s.me.trap.entering = true → FatalFetch (.fetchBound pc.toNat) s c) ∧
    (fetchWord s s.me pc = .ok w → Traps (.illegalOpcode w) s .illegalOpcode pc ∧ Goes (.fetchBound pc.toNat) s s ∧
      Goes (.misalignedFetch pc.toNat) s s)

/-- R43, R45, R47, R48, R136, R254: the issue of a convoy. The members are checked in program order before anything
executes; the first check that fails traps with `EPC` the first word and `ETVAL` the failing one and nothing else has
changed; a convoy whose members all pass leaves with its shape, modes and scalar operands captured. -/
def Obligations.ConvoyIssue : Prop :=
  ∀ (s : State) (f w : Fetched) (l r : List Fetched) (ds : List TileDesc) (d : TileDesc) (c : Cause),
    s.runnable s.me = true → s.me.conv = none → s.me.queue.head? = some f →
    (s.me.queue = l ++ w :: r → GoodMembers s.me l ds →
      ((∀ i, w.instr = some i → tileDesc? i = none) →
        Goes (.issueConvoy s.me.id) s (trapped s .illegalOpcode f.addr 0 w.addr false 0)) ∧
      (∀ i, w.instr = some i → tileDesc? i = some d → FailsCheck s.me ds d c →
        Goes (.issueConvoy s.me.id) s (trapped s c f.addr 0 w.addr false 0))) ∧
    (GoodMembers s.me s.me.queue ds → ∃ ms, ms.length = s.me.queue.length ∧
      (∀ (k : Nat) (h : k < s.me.queue.length) (hd : k < ds.length) (hm : k < ms.length),
        freshFrom s (ds.take k) s.me.queue[k] ds[k] ms[k]) ∧ Goes (.issueConvoy s.me.id) s
      { s with me := { s.me with
          conv := some ⟨f.addr, ms, s.me.shape.tty, s.me.frm, s.me.xrm, s.me.shape.vl, s.me.shape.flim,
            f.addr + BitVec.ofNat 64 (4 * ms.length)⟩
          queue := [], hold := false, started := true } })

/-- R16, R17, R43, R44, R47, R49, R463 (and the order of steps of notes/assumptions/4.md, the model's choice): a step runs
what the PC decodes to. Due steps of other parts come first, an `ISSUE_CONVOY` with the convoy at its player's PC fetched
into the issue queue, a scalar word beside the convoy in flight behind which it is the next (notes/assumptions/74.md), none of an engine
in the safe state (R443); then the current player goes on with its convoy, or
fetches: a scalar word is executed, a tile word leaves with the members that follow it; after it the turn is handed on.
-/
def Obligations.StepRunsTheDecodedInstruction : Prop :=
  ∀ (s : State) (w : Nat) (i : Instr),
    let after := afterIssue s.me.id
    let pc := s.me.pc
    let s' := entered s
    (∀ l, s.agenda = i :: l → encode i = none → (∀ p, i ≠ .issueConvoy p) → let u : State := { s with agenda := l }
      (s.dev.failed = false ∨ engineStep i = false → step s = exec i u) ∧
      (s.dev.failed = true → engineStep i = true → step s = .next u)) ∧
    (∀ l cv e, s.agenda = i :: l → (encode i).isSome → s.me.conv = some cv → early? i = some e → let u : State := { s with agenda := l }
      let v := mine (corrected u (behind u cv.next) 4) (fun p => { p with pc := cv.next })
      (fetchWord u u.me cv.next = .ok w → decodeWord w = some i → u.mayWork u.me = true → (u.me.preempt = true → u.me.hold = true) →
        State.regsFree cv e = true → u.accessFree cv e = true → u.convoyFails cv = false →
        (∀ t c, exec i v = .next t → t.me.conv = some c →
          step s = .next { t with me := { t.me with pc := s.me.pc, conv := some { c with next := t.me.pc } } }) ∧
        (∀ t, exec i v = .next t → t.me.conv = none → step s = .next u)) ∧
      (∀ x, fetchWord u u.me cv.next = .ok w → decodeWord w = x → x ≠ some i → step s = .next u)) ∧
    (∀ l, s.agenda = i :: l → (encode i).isSome → s.me.conv = none ∨ early? i = none → step s = .next { s with agenda := l }) ∧
    (∀ l p u, s.agenda = .issueConvoy p :: l → u = ({ s with agenda := l } : State) →
      (u.players.all (fun q => q.id ≠ p || !u.runnable q || q.conv.isSome || !q.queue.isEmpty) → step s = exec (.issueConvoy p) u) ∧
      (p = u.me.id → u.runnable u.me = true → u.me.conv = none → u.me.queue = [] → fetchWord u u.me pc = .ok w →
        decodeWord w = some i → (tileDesc? i).isSome → ∃ v, step s = exec (.issueConvoy p) v ∧
          v.me.queue = ⟨pc, w, some i⟩ :: (entered u).followers 8 (pc + 4) ∧
          v = { u with me := { u.me with queue := v.me.queue, trap := { u.me.trap with entering := false } }, mem := v.mem, dev := v.dev } ∧
          v.mem = { u.mem with spadSoft := v.mem.spadSoft })) ∧
    (s.agenda = [] → s.runnable s.me = true →
      (∀ cv m, s.me.conv = some cv → cv.members[firstOpen cv.members]? = some m → step s = after (exec m.instr s)) ∧
      (s.me.conv = none → fetchWord s s.me pc = .ok w →
        (decodeWord w = none → step s = after (exec (.illegalOpcode w) s')) ∧
        (decodeWord w = some i → tileDesc? i = none → step s = after (exec i s')) ∧
        (decodeWord w = some i → (tileDesc? i).isSome → s'.followers 8 (pc + 4) = [] → step s = after (exec i s')) ∧
        (∀ t, decodeWord w = some i → (tileDesc? i).isSome →
          issueWords tileDesc? (⟨pc, w, some i⟩ :: s'.followers 8 (pc + 4)) (s'.fillQueue w) = .next t → t.me.conv.isSome →
          step s = after (exec i t))) ∧
      (s.me.conv = none → ∀ c, fetchWord s s.me pc = .error c →
        step s = after (exec (if pc.toNat % 4 = 0 then .fetchBound pc.toNat else .misalignedFetch pc.toNat) s))) ∧
    (∀ (t : State) (n : Nat), afterIssue n (.next t) = .next (if t.me.conv.isSome then t else
      let u := if t.me.id = n ∧ t.me.live then t.rotate else t
      { u with agenda := u.steps.filter u.changes })) ∧
    (∀ j : Instr, s.changes j = false ↔ exec j s = .next s)

/-- R29 to R46: decoding is the inverse of encoding. The four bytes of the word of a well-formed instruction, whatever
follows them, decode to it, every operand at every value; and a word that decodes to an instruction is that
instruction's word, so that no reserved field or must-be-zero bit falls through. A write of `EAFQR` decodes to one
instruction for both its actions (R375). -/
def Obligations.DecodeAndEncodeAgree : Prop :=
  (∀ (i : Instr) (w : Nat) (rest : List Byte), i.wellFormed = true → encode i = some w →
    w < 2 ^ 32 ∧ decode (bytesOfWord w ++ rest) = some (canonical i, rest)) ∧
  (∀ (b0 b1 b2 b3 : Byte) (rest : List Byte) (i : Instr) (tail : List Byte), decode (b0 :: b1 :: b2 :: b3 :: rest) = some (i, tail) →
    tail = rest ∧ i.wellFormed = true ∧ encode i = some (wordOfBytes [b0, b1, b2, b3]))

/-- Memory keeps its canonical form (notes/assumptions/2.md): scratchpad, host, peer and query memory stay sorted by
address, without repeats and without a listed zero, whatever the machine does. -/
def Obligations.StepKeepsTheMemories : Prop :=
  ∀ s t : State, s.canonicalMemory → step s = .next t → t.canonicalMemory

/-- R84, R100, R117, R235, R326, R438, R447: the values the spec gives for reset. The start is in its first stage, the
module is neither ready nor failed, no link is trained and nothing is counted or logged; the status registers of a
player hold what their maps give. The memories list nothing, which is their canonical form: what an unwritten byte reads
as, 0, is the model's choice (notes/assumptions/2.md). -/
def Obligations.ResetValues : Prop :=
  let s := State.reset
  let p := s.me
  s.dev.stage = 1 ∧ s.dev.sfault = 0 ∧ s.dev.ready = false ∧ s.dev.failed = false ∧ s.dev.absorbed = false ∧ s.dev.warm = false ∧
    s.dev.cap = 2600 ∧ s.dev.meas = 0 ∧ s.dev.dutyReg = 0 ∧ s.dev.temp = 0 ∧ s.dev.fatalCause = 0 ∧ s.dev.seq = 0 ∧ s.dev.log = [] ∧
    s.dev.clock = 0 ∧ s.dev.measured = false ∧ s.dev.block1 = [] ∧ (∀ i : Fin 64, s.dev.counters[i] = 0) ∧
    s.portsLost = 0 ∧ (∀ n < 12, (s.portAt n).keyed = false) ∧ s.qm.stat = 0x1E ∧
    p.shape.tty = 0x00A ∧ p.shape.vl = 0 ∧ p.shape.flim = 0 ∧ p.shape.gbase = 0 ∧ p.shape.gstep = 0 ∧ p.joins = [] ∧ p.parked = [] ∧
    p.flags = 0 ∧ p.frm = 0 ∧ p.xrm = 0 ∧ p.wmk = 0 ∧ p.gtrim = false ∧ p.trap.priv = false ∧ p.trap.ecause = 0 ∧ p.trap.epc = 0 ∧
    p.trap.eidx = 0 ∧ p.trap.etval = 0 ∧ p.trap.escratch = 0 ∧ p.trap.ppriv = false ∧ p.trap.resume = false ∧ p.trap.level = 0 ∧
    p.trap.nspill = 0 ∧ p.trap.efspc = 0 ∧ p.trap.etinfo = 0 ∧ p.q.qlen = 0 ∧ p.q.qstride = 0 ∧ p.q.qk = 0 ∧ p.q.qlo = 0 ∧
    p.q.qhi = 0 ∧ p.q.qewin = 0 ∧ p.afq = [] ∧ p.grant = Grant.none ∧
    s.canonicalMemory ∧ s.logBounded ∧ (∀ a, s.mem.spad.get a = 0)

/-- R29 to R46: words of the spec's own listings, read bit by bit, decode to the instruction written beside them; the
words of R42 decode to nothing. -/
def Obligations.DecodedWords : Prop :=
  decodeWord 0x0C707FFF = some (.sbne 7 0 (-1)) ∧
  decodeWord 0x1673FFFF = some (.saddi 7 7 (-1)) ∧
  decodeWord 0x37378000 = some (.sstW 19 15 0) ∧
  decodeWord 0x3C531C20 = some (.sfadd 5 6 7 0 true) ∧
  decodeWord 0x42070013 = some (.putsr 14 0x13) ∧
  decodeWord 0x44000022 = some (.fence 2 2) ∧
  decodeWord 0x4501D0A0 = some (.waitGeu 16 3 20) ∧
  decodeWord 0x46520000 = some (.setvl 5 4 0) ∧
  decodeWord 0x68D00004 = some (.tbdiv 2 4) ∧
  decodeWord 0x4C410520 = some (.taddI false 8 8 10 .masked) ∧
  decodeWord 0x565144A0 = some (.tsadd false 10 10 9 .masked) ∧
  decodeWord 0x58428281 = some (.tcvtn false 8 20 5 .unmasked) ∧
  decodeWord 0x6240440A = some (.tldseg false 8 1 4 .unmasked 2) ∧
  decodeWord 0xEA814594 = some (.mxop true 16 10 11 .unmasked true) ∧
  decodeWord 0x6C473C20 = some (.xcopy false 4 14 15 2) ∧
  decodeWord 0x6E612104 = some (.qdot false 12 9 2 1) ∧
  decodeWord 0x76300305 = some (.qcopy false 3 6 1) ∧
  decodeWord 0xF4400008 = some (.qst true 8 2) ∧
  decodeWord 0 = none ∧ decodeWord 0x80000000 = none ∧ decodeWord 0xFFFFFFFF = none
end

