-- ==== Sys2Proof/Laws/Bits.lean ====
section
/-! SUPPORT. Bit strings inside natural numbers and element slots inside groups (spec/04_tile_programs.md R87 to R89): what
a write of one slot does to every bit, and that distinct slots are distinct bits. -/

set_option Elab.async false

namespace Sys2Proof.Machine

/-! ### Bit strings -/

theorem testBit_getBits (x pos w k : Nat) : (getBits x pos w).testBit k = (decide (k < w) && x.testBit (pos + k)) := by
  simp only [getBits, Nat.testBit_mod_two_pow, Nat.testBit_div_two_pow]
  rw [Nat.add_comm k pos]

theorem getBits_lt (x pos w : Nat) : getBits x pos w < 2 ^ w := Nat.mod_lt _ (Nat.two_pow_pos w)

/-- `x` in three parts: below, inside and above a bit string. -/
theorem split_bits (x pos w : Nat) : x = x / 2 ^ (pos + w) * 2 ^ (pos + w) + getBits x pos w * 2 ^ pos + x % 2 ^ pos := by
  have h1 := Nat.div_add_mod x (2 ^ pos)
  have h2 := Nat.div_add_mod (x / 2 ^ pos) (2 ^ w)
  rw [Nat.div_div_eq_div_mul, ← pow_add] at h2
  simp only [getBits]
  calc x = 2 ^ pos * (x / 2 ^ pos) + x % 2 ^ pos := h1.symm
    _ = 2 ^ pos * (2 ^ w * (x / 2 ^ (pos + w)) + x / 2 ^ pos % 2 ^ w) + x % 2 ^ pos := by rw [h2]
    _ = _ := by rw [pow_add]; ring

theorem setBits_eq (x pos w v : Nat) :
    setBits x pos w v = x / 2 ^ (pos + w) * 2 ^ (pos + w) + v % 2 ^ w * 2 ^ pos + x % 2 ^ pos := by
  have h := split_bits x pos w
  simp only [setBits]
  generalize getBits x pos w * 2 ^ pos = g at h ⊢
  omega

theorem testBit_setBits (x pos w v k : Nat) :
    (setBits x pos w v).testBit k = if pos ≤ k ∧ k < pos + w then v.testBit (k - pos) else x.testBit k := by
  rw [setBits_eq]
  have hm : v % 2 ^ w * 2 ^ pos + x % 2 ^ pos < 2 ^ (pos + w) := by
    have h1 : v % 2 ^ w < 2 ^ w := Nat.mod_lt _ (Nat.two_pow_pos w)
    have h2 : x % 2 ^ pos < 2 ^ pos := Nat.mod_lt _ (Nat.two_pow_pos pos)
    have h3 : (v % 2 ^ w + 1) * 2 ^ pos ≤ 2 ^ w * 2 ^ pos := Nat.mul_le_mul_right _ h1
    rw [pow_add, Nat.mul_comm (2 ^ pos)]
    rw [Nat.add_mul] at h3
    omega
  rw [Nat.add_assoc, Nat.mul_comm, Nat.testBit_two_pow_mul_add _ hm]
  split
  · rename_i h
    rw [Nat.mul_comm, Nat.testBit_two_pow_mul_add _ (Nat.mod_lt _ (Nat.two_pow_pos pos))]
    split
    · rename_i h2
      rw [if_neg (by omega), Nat.testBit_mod_two_pow]
      simp [h2]
    · rename_i h2
      rw [if_pos (by omega), Nat.testBit_mod_two_pow]
      simp; omega
  · rename_i h
    rw [if_neg (by omega), Nat.testBit_div_two_pow]
    congr 1
    omega

theorem testBit_ones (n k : Nat) : (ones n).testBit k = decide (k < n) := by
  simp [ones, Nat.testBit_two_pow_sub_one]

/-! ### Listed positions -/

theorem testBit_gatherBits (x : Nat) (l : List Nat) (k : Nat) :
    (gatherBits x l).testBit k = match l[k]? with
      | some p => x.testBit p
      | none => false := by
  induction l generalizing k with
  | nil => simp [gatherBits]
  | cons p rest ih =>
    simp only [gatherBits]
    cases k with
    | zero =>
      simp only [Nat.testBit_zero, List.getElem?_cons_zero]
      split <;> simp_all
    | succ k =>
      have : ((if x.testBit p then 1 else 0) + 2 * gatherBits x rest) / 2 = gatherBits x rest := by split <;> omega
      rw [Nat.testBit_succ, this, ih, List.getElem?_cons_succ]

theorem testBit_scatterBits (l : List Nat) (hl : l.Nodup) (x v j : Nat) :
    (scatterBits x v l).testBit j = if j ∈ l then v.testBit (l.idxOf j) else x.testBit j := by
  induction l generalizing x v with
  | nil => simp [scatterBits]
  | cons p rest ih =>
    obtain ⟨hp, hr⟩ := List.nodup_cons.1 hl
    simp only [scatterBits]
    rw [ih hr, testBit_setBits]
    by_cases hj : j = p
    · subst hj
      rw [if_neg hp, if_pos (by omega), if_pos List.mem_cons_self, List.idxOf_cons_self]
      simp
    · by_cases hm : j ∈ rest
      · rw [if_pos hm, if_pos (List.mem_cons_of_mem _ hm), List.idxOf_cons_ne _ (Ne.symm hj), Nat.testBit_succ]
      · rw [if_neg hm, if_neg (by omega), if_neg (by simp [hj, hm])]

/-! ### Slots (R88) -/

/-- Bit `k` of slot (r, c). -/
def Env.slotBit (e : Env) (v : View) (r c k : Nat) : Nat :=
  if v.sliced then r * e.rowSpan v + k * e.vlmax + c else r * e.rowSpan v + c * v.w + k

/-- A row's slots fit in the row. -/
def Env.fits (e : Env) (v : View) : Prop := v.w * e.vlmax ≤ e.rowSpan v

theorem Env.slotBit_lt {e : Env} {v : View} (hf : e.fits v) {r c k : Nat} (hc : c < e.vlmax) (hk : k < v.w) :
    r * e.rowSpan v ≤ e.slotBit v r c k ∧ e.slotBit v r c k < (r + 1) * e.rowSpan v := by
  have h1 : c * v.w + k < v.w * e.vlmax := by
    have : (c + 1) * v.w ≤ e.vlmax * v.w := Nat.mul_le_mul_right _ hc
    rw [Nat.add_mul] at this
    rw [Nat.mul_comm v.w]
    omega
  have h2 : k * e.vlmax + c < v.w * e.vlmax := by
    have : (k + 1) * e.vlmax ≤ v.w * e.vlmax := Nat.mul_le_mul_right _ hk
    rw [Nat.add_mul] at this
    omega
  have hf' : v.w * e.vlmax ≤ e.rowSpan v := hf
  simp only [Env.slotBit, Nat.add_mul, Nat.one_mul]
  split <;> omega

theorem Env.slotBit_inj {e : Env} {v : View} (hf : e.fits v) {r c k r' c' k' : Nat} (hc : c < e.vlmax) (hk : k < v.w)
    (hc' : c' < e.vlmax) (hk' : k' < v.w) (h : e.slotBit v r c k = e.slotBit v r' c' k') : r = r' ∧ c = c' ∧ k = k' := by
  have h1 := Env.slotBit_lt (r := r) hf hc hk
  have h2 := Env.slotBit_lt (r := r') hf hc' hk'
  have hr : r = r' := by
    rcases Nat.lt_trichotomy r r' with h3 | h3 | h3
    · have := Nat.mul_le_mul_right (e.rowSpan v) (show r + 1 ≤ r' from h3); omega
    · exact h3
    · have := Nat.mul_le_mul_right (e.rowSpan v) (show r' + 1 ≤ r from h3); omega
  subst hr
  simp only [Env.slotBit] at h
  split at h
  · have h3 : k * e.vlmax + c = k' * e.vlmax + c' := by omega
    have hk3 : k = k' := by
      rcases Nat.lt_trichotomy k k' with h4 | h4 | h4
      · have := Nat.mul_le_mul_right e.vlmax (show k + 1 ≤ k' from h4); rw [Nat.add_mul] at this; omega
      · exact h4
      · have := Nat.mul_le_mul_right e.vlmax (show k' + 1 ≤ k from h4); rw [Nat.add_mul] at this; omega
    subst hk3
    exact ⟨rfl, by omega, rfl⟩
  · have h3 : c * v.w + k = c' * v.w + k' := by omega
    have hc3 : c = c' := by
      rcases Nat.lt_trichotomy c c' with h4 | h4 | h4
      · have := Nat.mul_le_mul_right v.w (show c + 1 ≤ c' from h4); rw [Nat.add_mul] at this; omega
      · exact h4
      · have := Nat.mul_le_mul_right v.w (show c' + 1 ≤ c from h4); rw [Nat.add_mul] at this; omega
    subst hc3
    exact ⟨rfl, rfl, by omega⟩

theorem Env.slotBits_eq (e : Env) (v : View) (r c : Nat) : e.slotBits v r c = (List.range v.w).map (e.slotBit v r c) := by
  unfold Env.slotBits Env.slotBit
  split <;> rfl

/-- A slot's value by its bits. -/
theorem Env.testBit_getSlot (e : Env) (v : View) (x r c k : Nat) :
    (e.getSlot v x r c).testBit k = (decide (k < v.w) && x.testBit (e.slotBit v r c k)) := by
  unfold Env.getSlot
  split
  · rename_i hs
    rw [testBit_gatherBits, Env.slotBits_eq]
    by_cases hk : k < v.w
    · simp [hk]
    · simp [hk]
  · rename_i hs
    rw [testBit_getBits]
    simp [Env.slotBit, hs, Nat.add_assoc]

/-- A group value with one slot replaced, by its bits. -/
theorem Env.testBit_setSlot {e : Env} {v : View} (hf : e.fits v) (x : Nat) {r c : Nat} (hc : c < e.vlmax) (y j : Nat) :
    (e.setSlot v x r c y).testBit j =
      if ∃ k < v.w, j = e.slotBit v r c k then y.testBit (if v.sliced then (j - r * e.rowSpan v - c) / e.vlmax else j - (r * e.rowSpan v + c * v.w))
      else x.testBit j := by
  unfold Env.setSlot
  split
  · rename_i hs
    have hn : (e.slotBits v r c).Nodup := by
      rw [Env.slotBits_eq]
      refine List.Nodup.map_on (fun a ha b hb h => ?_) List.nodup_range
      exact (Env.slotBit_inj hf hc (List.mem_range.1 ha) hc (List.mem_range.1 hb) h).2.2
    rw [testBit_scatterBits _ hn]
    have hm : j ∈ e.slotBits v r c ↔ ∃ k < v.w, j = e.slotBit v r c k := by
      rw [Env.slotBits_eq]
      simp only [List.mem_map, List.mem_range]
      exact ⟨fun ⟨k, h1, h2⟩ => ⟨k, h1, h2.symm⟩, fun ⟨k, h1, h2⟩ => ⟨k, h1, h2.symm⟩⟩
    by_cases h : ∃ k < v.w, j = e.slotBit v r c k
    · rw [if_pos h, if_pos (hm.2 h)]
      obtain ⟨k, hk, hj⟩ := h
      have hi : (e.slotBits v r c)[k]? = some j := by rw [Env.slotBits_eq]; simp [hk, hj]
      have hlen : k < (e.slotBits v r c).length := by rw [Env.slotBits_eq]; simpa using hk
      have hg : (e.slotBits v r c)[k] = j := by simpa [List.getElem?_eq_getElem hlen] using hi
      have : (e.slotBits v r c).idxOf j = k := by rw [← hg]; exact List.Nodup.idxOf_getElem hn k hlen
      rw [this]
      congr 1
      rw [hj, Env.slotBit, if_pos hs]
      have hv : 0 < e.vlmax := by omega
      rw [show r * e.rowSpan v + k * e.vlmax + c - r * e.rowSpan v - c = k * e.vlmax by omega, Nat.mul_div_cancel _ hv]
    · rw [if_neg h, if_neg (fun h2 => h (hm.1 h2))]
  · rename_i hs
    rw [testBit_setBits]
    by_cases h : r * e.rowSpan v + c * v.w ≤ j ∧ j < r * e.rowSpan v + c * v.w + v.w
    · rw [if_pos h, if_pos ⟨j - (r * e.rowSpan v + c * v.w), by omega, by simp only [Env.slotBit]; rw [if_neg hs]; omega⟩]
    · rw [if_neg h, if_neg]
      rintro ⟨k, hk, hj⟩
      simp only [Env.slotBit, hs] at hj
      simp at hj
      omega

/-- A read of a slot after a write of a slot. -/
theorem Env.getSlot_setSlot {e : Env} {v : View} (hf : e.fits v) (x : Nat) {r c r' c' : Nat} (hc : c < e.vlmax)
    (hc' : c' < e.vlmax) (y : Nat) :
    e.getSlot v (e.setSlot v x r c y) r' c' = if r' = r ∧ c' = c then y % 2 ^ v.w else e.getSlot v x r' c' := by
  apply Nat.eq_of_testBit_eq
  intro k
  rw [Env.testBit_getSlot]
  by_cases hk : k < v.w
  · rw [Env.testBit_setSlot hf x hc]
    by_cases h : r' = r ∧ c' = c
    · obtain ⟨rfl, rfl⟩ := h
      have hex : ∃ k' < v.w, e.slotBit v r' c' k = e.slotBit v r' c' k' := ⟨k, hk, rfl⟩
      rw [if_pos hex, if_pos (And.intro rfl rfl), Nat.testBit_mod_two_pow]
      congr 2
      unfold Env.slotBit
      split
      · have hv : 0 < e.vlmax := by omega
        rw [show r' * e.rowSpan v + k * e.vlmax + c' - r' * e.rowSpan v - c' = k * e.vlmax by omega, Nat.mul_div_cancel _ hv]
      · omega
    · rw [if_neg h, if_neg, Env.testBit_getSlot]
      rintro ⟨k', hk', hj⟩
      have := Env.slotBit_inj hf hc' hk hc hk' hj
      exact h ⟨this.1, this.2.1⟩
  · simp only [hk, decide_false, Bool.false_and]
    split
    · rw [Nat.testBit_mod_two_pow]; simp [hk]
    · rw [Env.testBit_getSlot]; simp [hk]

/-- A bit of a group value outside a written slot's row is unchanged. -/
theorem Env.getSlot_lt (e : Env) (v : View) (x r c : Nat) : e.getSlot v x r c < 2 ^ v.w := by
  apply Nat.lt_of_testBit (i := v.w)
  · rw [Env.testBit_getSlot]; simp
  · simp
  · intro j hj
    have hn : ¬ j < v.w := by omega
    have hm : v.w ≠ j := by omega
    rw [Env.testBit_getSlot, Nat.testBit_two_pow]
    simp [hn, hm]

/-! ### Groups of registers (R87) -/

theorem setGroup_get (t : Vector Nat 64) (bits reg n v : Nat) (k : Nat) (hk : k < 64) :
    (setGroup t bits reg n v)[k] = if reg ≤ k ∧ k < reg + n then v / 2 ^ (bits * (k - reg)) % 2 ^ bits else t[k] := by
  induction n generalizing t reg v with
  | zero => simp only [setGroup]; rw [if_neg (by omega)]
  | succ n ih =>
    simp only [setGroup]
    rw [ih]
    by_cases h : reg + 1 ≤ k ∧ k < reg + 1 + n
    · rw [if_pos h, if_pos (by omega), Nat.div_div_eq_div_mul, ← pow_add]
      congr 3
      have : k - reg = (k - (reg + 1)) + 1 := by omega
      rw [this, Nat.mul_add]; omega
    · rw [if_neg h]
      by_cases hr : k = reg
      · subst hr
        rw [dif_pos hk, if_pos (by omega)]
        simp
      · rw [if_neg (by omega)]
        split
        · rw [Vector.getElem_set_ne _ _ (Ne.symm hr)]
        · rfl

/-- A group reads back what was written to it, cut to its registers. -/
theorem groupOf_setGroup (t : Vector Nat 64) (bits reg n v : Nat) (h : reg + n ≤ 64) :
    groupOf (setGroup t bits reg n v) bits reg n = v % 2 ^ (bits * n) := by
  have key : ∀ m k, k + m ≤ n → groupOf (setGroup t bits reg n v) bits (reg + k) m = v / 2 ^ (bits * k) % 2 ^ (bits * m) := by
    intro m
    induction m with
    | zero => intro k _; simp [groupOf, Nat.mod_one]
    | succ m ih =>
      intro k hk
      simp only [groupOf]
      rw [dif_pos (by omega), setGroup_get _ _ _ _ _ _ (by omega), if_pos (by omega)]
      have := ih (k + 1) (by omega)
      rw [show reg + k + 1 = reg + (k + 1) by omega, this]
      rw [show reg + k - reg = k by omega, Nat.mul_add bits k 1, Nat.mul_one, Nat.mul_add bits m 1, Nat.mul_one]
      rw [pow_add 2 (bits * k) bits, ← Nat.div_div_eq_div_mul, Nat.add_comm (bits * m) bits, pow_add 2 bits (bits * m)]
      rw [Nat.mod_mul]
      ring
  simpa using key n 0 (by omega)

end Sys2Proof.Machine
end

