-- ==== Sys2Proof/Laws/Encoding.lean ====
section
/-! SUPPORT. The fields of a word built from fields are those fields, major by major (spec/02_instruction_word.md R31). -/

set_option Elab.async false

namespace Sys2Proof

theorem major01 (w : Nat) : decodeMaj w 1 =
    dec01 (fld w 31 1) (fld w 20 5) (fld w 0 20) := rfl

theorem word01 {c x0 x1 : Nat} (hc : c < 2) (h0 : x0 < 32) (h1 : x1 < 1048576) :
    decodeWord (wordSU c 1 x0 x1) = dec01 c x0 x1 := by
  have e : fld (wordSU c 1 x0 x1) 25 6 = 1 := by simp only [fld, wordSU]; omega
  have ec : fld (wordSU c 1 x0 x1) 31 1 = c := by simp only [fld, wordSU]; omega
  have e0 : fld (wordSU c 1 x0 x1) 20 5 = x0 := by simp only [fld, wordSU]; omega
  have e1 : fld (wordSU c 1 x0 x1) 0 20 = x1 := by simp only [fld, wordSU]; omega
  rw [decodeWord, e, major01, ec, e0, e1]

theorem major02 (w : Nat) : decodeMaj w 2 =
    dec02 (fld w 31 1) (fld w 20 5) (fld w 0 20) := rfl

theorem word02 {c x0 x1 : Nat} (hc : c < 2) (h0 : x0 < 32) (h1 : x1 < 1048576) :
    decodeWord (wordSU c 2 x0 x1) = dec02 c x0 x1 := by
  have e : fld (wordSU c 2 x0 x1) 25 6 = 2 := by simp only [fld, wordSU]; omega
  have ec : fld (wordSU c 2 x0 x1) 31 1 = c := by simp only [fld, wordSU]; omega
  have e0 : fld (wordSU c 2 x0 x1) 20 5 = x0 := by simp only [fld, wordSU]; omega
  have e1 : fld (wordSU c 2 x0 x1) 0 20 = x1 := by simp only [fld, wordSU]; omega
  rw [decodeWord, e, major02, ec, e0, e1]

theorem major03 (w : Nat) : decodeMaj w 3 =
    dec03 (fld w 31 1) (fld w 20 5) (fld w 0 20) := rfl

theorem word03 {c x0 x1 : Nat} (hc : c < 2) (h0 : x0 < 32) (h1 : x1 < 1048576) :
    decodeWord (wordSU c 3 x0 x1) = dec03 c x0 x1 := by
  have e : fld (wordSU c 3 x0 x1) 25 6 = 3 := by simp only [fld, wordSU]; omega
  have ec : fld (wordSU c 3 x0 x1) 31 1 = c := by simp only [fld, wordSU]; omega
  have e0 : fld (wordSU c 3 x0 x1) 20 5 = x0 := by simp only [fld, wordSU]; omega
  have e1 : fld (wordSU c 3 x0 x1) 0 20 = x1 := by simp only [fld, wordSU]; omega
  rw [decodeWord, e, major03, ec, e0, e1]

theorem major04 (w : Nat) : decodeMaj w 4 =
    dec04 (fld w 31 1) (fld w 20 5) (fld w 15 5) (fld w 0 15) := rfl

theorem word04 {c x0 x1 x2 : Nat} (hc : c < 2) (h0 : x0 < 32) (h1 : x1 < 32) (h2 : x2 < 32768) :
    decodeWord (wordSI c 4 x0 x1 x2) = dec04 c x0 x1 x2 := by
  have e : fld (wordSI c 4 x0 x1 x2) 25 6 = 4 := by simp only [fld, wordSI]; omega
  have ec : fld (wordSI c 4 x0 x1 x2) 31 1 = c := by simp only [fld, wordSI]; omega
  have e0 : fld (wordSI c 4 x0 x1 x2) 20 5 = x0 := by simp only [fld, wordSI]; omega
  have e1 : fld (wordSI c 4 x0 x1 x2) 15 5 = x1 := by simp only [fld, wordSI]; omega
  have e2 : fld (wordSI c 4 x0 x1 x2) 0 15 = x2 := by simp only [fld, wordSI]; omega
  rw [decodeWord, e, major04, ec, e0, e1, e2]

theorem major05 (w : Nat) : decodeMaj w 5 =
    dec05 (fld w 31 1) (fld w 20 5) (fld w 15 5) (fld w 0 15) := rfl

theorem word05 {c x0 x1 x2 : Nat} (hc : c < 2) (h0 : x0 < 32) (h1 : x1 < 32) (h2 : x2 < 32768) :
    decodeWord (wordSI c 5 x0 x1 x2) = dec05 c x0 x1 x2 := by
  have e : fld (wordSI c 5 x0 x1 x2) 25 6 = 5 := by simp only [fld, wordSI]; omega
  have ec : fld (wordSI c 5 x0 x1 x2) 31 1 = c := by simp only [fld, wordSI]; omega
  have e0 : fld (wordSI c 5 x0 x1 x2) 20 5 = x0 := by simp only [fld, wordSI]; omega
  have e1 : fld (wordSI c 5 x0 x1 x2) 15 5 = x1 := by simp only [fld, wordSI]; omega
  have e2 : fld (wordSI c 5 x0 x1 x2) 0 15 = x2 := by simp only [fld, wordSI]; omega
  rw [decodeWord, e, major05, ec, e0, e1, e2]

theorem major06 (w : Nat) : decodeMaj w 6 =
    dec06 (fld w 31 1) (fld w 20 5) (fld w 15 5) (fld w 0 15) := rfl

theorem word06 {c x0 x1 x2 : Nat} (hc : c < 2) (h0 : x0 < 32) (h1 : x1 < 32) (h2 : x2 < 32768) :
    decodeWord (wordSI c 6 x0 x1 x2) = dec06 c x0 x1 x2 := by
  have e : fld (wordSI c 6 x0 x1 x2) 25 6 = 6 := by simp only [fld, wordSI]; omega
  have ec : fld (wordSI c 6 x0 x1 x2) 31 1 = c := by simp only [fld, wordSI]; omega
  have e0 : fld (wordSI c 6 x0 x1 x2) 20 5 = x0 := by simp only [fld, wordSI]; omega
  have e1 : fld (wordSI c 6 x0 x1 x2) 15 5 = x1 := by simp only [fld, wordSI]; omega
  have e2 : fld (wordSI c 6 x0 x1 x2) 0 15 = x2 := by simp only [fld, wordSI]; omega
  rw [decodeWord, e, major06, ec, e0, e1, e2]

theorem major07 (w : Nat) : decodeMaj w 7 =
    dec07 (fld w 31 1) (fld w 20 5) (fld w 15 5) (fld w 0 15) := rfl

theorem word07 {c x0 x1 x2 : Nat} (hc : c < 2) (h0 : x0 < 32) (h1 : x1 < 32) (h2 : x2 < 32768) :
    decodeWord (wordSI c 7 x0 x1 x2) = dec07 c x0 x1 x2 := by
  have e : fld (wordSI c 7 x0 x1 x2) 25 6 = 7 := by simp only [fld, wordSI]; omega
  have ec : fld (wordSI c 7 x0 x1 x2) 31 1 = c := by simp only [fld, wordSI]; omega
  have e0 : fld (wordSI c 7 x0 x1 x2) 20 5 = x0 := by simp only [fld, wordSI]; omega
  have e1 : fld (wordSI c 7 x0 x1 x2) 15 5 = x1 := by simp only [fld, wordSI]; omega
  have e2 : fld (wordSI c 7 x0 x1 x2) 0 15 = x2 := by simp only [fld, wordSI]; omega
  rw [decodeWord, e, major07, ec, e0, e1, e2]

theorem major08 (w : Nat) : decodeMaj w 8 =
    dec08 (fld w 31 1) (fld w 20 5) (fld w 15 5) (fld w 0 15) := rfl

theorem word08 {c x0 x1 x2 : Nat} (hc : c < 2) (h0 : x0 < 32) (h1 : x1 < 32) (h2 : x2 < 32768) :
    decodeWord (wordSI c 8 x0 x1 x2) = dec08 c x0 x1 x2 := by
  have e : fld (wordSI c 8 x0 x1 x2) 25 6 = 8 := by simp only [fld, wordSI]; omega
  have ec : fld (wordSI c 8 x0 x1 x2) 31 1 = c := by simp only [fld, wordSI]; omega
  have e0 : fld (wordSI c 8 x0 x1 x2) 20 5 = x0 := by simp only [fld, wordSI]; omega
  have e1 : fld (wordSI c 8 x0 x1 x2) 15 5 = x1 := by simp only [fld, wordSI]; omega
  have e2 : fld (wordSI c 8 x0 x1 x2) 0 15 = x2 := by simp only [fld, wordSI]; omega
  rw [decodeWord, e, major08, ec, e0, e1, e2]

theorem major09 (w : Nat) : decodeMaj w 9 =
    dec09 (fld w 31 1) (fld w 20 5) (fld w 15 5) (fld w 0 15) := rfl

theorem word09 {c x0 x1 x2 : Nat} (hc : c < 2) (h0 : x0 < 32) (h1 : x1 < 32) (h2 : x2 < 32768) :
    decodeWord (wordSI c 9 x0 x1 x2) = dec09 c x0 x1 x2 := by
  have e : fld (wordSI c 9 x0 x1 x2) 25 6 = 9 := by simp only [fld, wordSI]; omega
  have ec : fld (wordSI c 9 x0 x1 x2) 31 1 = c := by simp only [fld, wordSI]; omega
  have e0 : fld (wordSI c 9 x0 x1 x2) 20 5 = x0 := by simp only [fld, wordSI]; omega
  have e1 : fld (wordSI c 9 x0 x1 x2) 15 5 = x1 := by simp only [fld, wordSI]; omega
  have e2 : fld (wordSI c 9 x0 x1 x2) 0 15 = x2 := by simp only [fld, wordSI]; omega
  rw [decodeWord, e, major09, ec, e0, e1, e2]

theorem major0A (w : Nat) : decodeMaj w 10 =
    dec0A (fld w 31 1) (fld w 20 5) (fld w 15 5) (fld w 0 15) := rfl

theorem word0A {c x0 x1 x2 : Nat} (hc : c < 2) (h0 : x0 < 32) (h1 : x1 < 32) (h2 : x2 < 32768) :
    decodeWord (wordSI c 10 x0 x1 x2) = dec0A c x0 x1 x2 := by
  have e : fld (wordSI c 10 x0 x1 x2) 25 6 = 10 := by simp only [fld, wordSI]; omega
  have ec : fld (wordSI c 10 x0 x1 x2) 31 1 = c := by simp only [fld, wordSI]; omega
  have e0 : fld (wordSI c 10 x0 x1 x2) 20 5 = x0 := by simp only [fld, wordSI]; omega
  have e1 : fld (wordSI c 10 x0 x1 x2) 15 5 = x1 := by simp only [fld, wordSI]; omega
  have e2 : fld (wordSI c 10 x0 x1 x2) 0 15 = x2 := by simp only [fld, wordSI]; omega
  rw [decodeWord, e, major0A, ec, e0, e1, e2]

theorem major0B (w : Nat) : decodeMaj w 11 =
    dec0B (fld w 31 1) (fld w 20 5) (fld w 15 5) (fld w 0 15) := rfl

theorem word0B {c x0 x1 x2 : Nat} (hc : c < 2) (h0 : x0 < 32) (h1 : x1 < 32) (h2 : x2 < 32768) :
    decodeWord (wordSI c 11 x0 x1 x2) = dec0B c x0 x1 x2 := by
  have e : fld (wordSI c 11 x0 x1 x2) 25 6 = 11 := by simp only [fld, wordSI]; omega
  have ec : fld (wordSI c 11 x0 x1 x2) 31 1 = c := by simp only [fld, wordSI]; omega
  have e0 : fld (wordSI c 11 x0 x1 x2) 20 5 = x0 := by simp only [fld, wordSI]; omega
  have e1 : fld (wordSI c 11 x0 x1 x2) 15 5 = x1 := by simp only [fld, wordSI]; omega
  have e2 : fld (wordSI c 11 x0 x1 x2) 0 15 = x2 := by simp only [fld, wordSI]; omega
  rw [decodeWord, e, major0B, ec, e0, e1, e2]

theorem major0C (w : Nat) : decodeMaj w 12 =
    dec0C (fld w 31 1) (fld w 20 5) (fld w 15 5) (fld w 0 15) := rfl

theorem word0C {c x0 x1 x2 : Nat} (hc : c < 2) (h0 : x0 < 32) (h1 : x1 < 32) (h2 : x2 < 32768) :
    decodeWord (wordSI c 12 x0 x1 x2) = dec0C c x0 x1 x2 := by
  have e : fld (wordSI c 12 x0 x1 x2) 25 6 = 12 := by simp only [fld, wordSI]; omega
  have ec : fld (wordSI c 12 x0 x1 x2) 31 1 = c := by simp only [fld, wordSI]; omega
  have e0 : fld (wordSI c 12 x0 x1 x2) 20 5 = x0 := by simp only [fld, wordSI]; omega
  have e1 : fld (wordSI c 12 x0 x1 x2) 15 5 = x1 := by simp only [fld, wordSI]; omega
  have e2 : fld (wordSI c 12 x0 x1 x2) 0 15 = x2 := by simp only [fld, wordSI]; omega
  rw [decodeWord, e, major0C, ec, e0, e1, e2]

theorem major0D (w : Nat) : decodeMaj w 13 =
    dec0D (fld w 31 1) (fld w 20 5) (fld w 15 5) (fld w 0 15) := rfl

theorem word0D {c x0 x1 x2 : Nat} (hc : c < 2) (h0 : x0 < 32) (h1 : x1 < 32) (h2 : x2 < 32768) :
    decodeWord (wordSI c 13 x0 x1 x2) = dec0D c x0 x1 x2 := by
  have e : fld (wordSI c 13 x0 x1 x2) 25 6 = 13 := by simp only [fld, wordSI]; omega
  have ec : fld (wordSI c 13 x0 x1 x2) 31 1 = c := by simp only [fld, wordSI]; omega
  have e0 : fld (wordSI c 13 x0 x1 x2) 20 5 = x0 := by simp only [fld, wordSI]; omega
  have e1 : fld (wordSI c 13 x0 x1 x2) 15 5 = x1 := by simp only [fld, wordSI]; omega
  have e2 : fld (wordSI c 13 x0 x1 x2) 0 15 = x2 := by simp only [fld, wordSI]; omega
  rw [decodeWord, e, major0D, ec, e0, e1, e2]

theorem major0E (w : Nat) : decodeMaj w 14 =
    dec0E (fld w 31 1) (fld w 20 5) (fld w 15 5) (fld w 0 15) := rfl

theorem word0E {c x0 x1 x2 : Nat} (hc : c < 2) (h0 : x0 < 32) (h1 : x1 < 32) (h2 : x2 < 32768) :
    decodeWord (wordSI c 14 x0 x1 x2) = dec0E c x0 x1 x2 := by
  have e : fld (wordSI c 14 x0 x1 x2) 25 6 = 14 := by simp only [fld, wordSI]; omega
  have ec : fld (wordSI c 14 x0 x1 x2) 31 1 = c := by simp only [fld, wordSI]; omega
  have e0 : fld (wordSI c 14 x0 x1 x2) 20 5 = x0 := by simp only [fld, wordSI]; omega
  have e1 : fld (wordSI c 14 x0 x1 x2) 15 5 = x1 := by simp only [fld, wordSI]; omega
  have e2 : fld (wordSI c 14 x0 x1 x2) 0 15 = x2 := by simp only [fld, wordSI]; omega
  rw [decodeWord, e, major0E, ec, e0, e1, e2]

theorem major0F (w : Nat) : decodeMaj w 15 =
    dec0F (fld w 31 1) (fld w 20 5) (fld w 15 5) (fld w 0 15) := rfl

theorem word0F {c x0 x1 x2 : Nat} (hc : c < 2) (h0 : x0 < 32) (h1 : x1 < 32) (h2 : x2 < 32768) :
    decodeWord (wordSI c 15 x0 x1 x2) = dec0F c x0 x1 x2 := by
  have e : fld (wordSI c 15 x0 x1 x2) 25 6 = 15 := by simp only [fld, wordSI]; omega
  have ec : fld (wordSI c 15 x0 x1 x2) 31 1 = c := by simp only [fld, wordSI]; omega
  have e0 : fld (wordSI c 15 x0 x1 x2) 20 5 = x0 := by simp only [fld, wordSI]; omega
  have e1 : fld (wordSI c 15 x0 x1 x2) 15 5 = x1 := by simp only [fld, wordSI]; omega
  have e2 : fld (wordSI c 15 x0 x1 x2) 0 15 = x2 := by simp only [fld, wordSI]; omega
  rw [decodeWord, e, major0F, ec, e0, e1, e2]

theorem major10 (w : Nat) : decodeMaj w 16 =
    dec10 (fld w 31 1) (fld w 20 5) (fld w 15 5) (fld w 0 15) := rfl

theorem word10 {c x0 x1 x2 : Nat} (hc : c < 2) (h0 : x0 < 32) (h1 : x1 < 32) (h2 : x2 < 32768) :
    decodeWord (wordSI c 16 x0 x1 x2) = dec10 c x0 x1 x2 := by
  have e : fld (wordSI c 16 x0 x1 x2) 25 6 = 16 := by simp only [fld, wordSI]; omega
  have ec : fld (wordSI c 16 x0 x1 x2) 31 1 = c := by simp only [fld, wordSI]; omega
  have e0 : fld (wordSI c 16 x0 x1 x2) 20 5 = x0 := by simp only [fld, wordSI]; omega
  have e1 : fld (wordSI c 16 x0 x1 x2) 15 5 = x1 := by simp only [fld, wordSI]; omega
  have e2 : fld (wordSI c 16 x0 x1 x2) 0 15 = x2 := by simp only [fld, wordSI]; omega
  rw [decodeWord, e, major10, ec, e0, e1, e2]

theorem major11 (w : Nat) : decodeMaj w 17 =
    dec11 (fld w 31 1) (fld w 20 5) (fld w 15 5) (fld w 6 9) (fld w 0 6) := rfl

theorem word11 {c x0 x1 x2 x3 : Nat} (hc : c < 2) (h0 : x0 < 32) (h1 : x1 < 32) (h2 : x2 < 512) (h3 : x3 < 64) :
    decodeWord (wordSH c 17 x0 x1 x2 x3) = dec11 c x0 x1 x2 x3 := by
  have e : fld (wordSH c 17 x0 x1 x2 x3) 25 6 = 17 := by simp only [fld, wordSH]; omega
  have ec : fld (wordSH c 17 x0 x1 x2 x3) 31 1 = c := by simp only [fld, wordSH]; omega
  have e0 : fld (wordSH c 17 x0 x1 x2 x3) 20 5 = x0 := by simp only [fld, wordSH]; omega
  have e1 : fld (wordSH c 17 x0 x1 x2 x3) 15 5 = x1 := by simp only [fld, wordSH]; omega
  have e2 : fld (wordSH c 17 x0 x1 x2 x3) 6 9 = x2 := by simp only [fld, wordSH]; omega
  have e3 : fld (wordSH c 17 x0 x1 x2 x3) 0 6 = x3 := by simp only [fld, wordSH]; omega
  rw [decodeWord, e, major11, ec, e0, e1, e2, e3]

theorem major12 (w : Nat) : decodeMaj w 18 =
    dec12 (fld w 31 1) (fld w 20 5) (fld w 15 5) (fld w 10 5) (fld w 0 10) := rfl

theorem word12 {c x0 x1 x2 x3 : Nat} (hc : c < 2) (h0 : x0 < 32) (h1 : x1 < 32) (h2 : x2 < 32) (h3 : x3 < 1024) :
    decodeWord (wordS3 c 18 x0 x1 x2 x3) = dec12 c x0 x1 x2 x3 := by
  have e : fld (wordS3 c 18 x0 x1 x2 x3) 25 6 = 18 := by simp only [fld, wordS3]; omega
  have ec : fld (wordS3 c 18 x0 x1 x2 x3) 31 1 = c := by simp only [fld, wordS3]; omega
  have e0 : fld (wordS3 c 18 x0 x1 x2 x3) 20 5 = x0 := by simp only [fld, wordS3]; omega
  have e1 : fld (wordS3 c 18 x0 x1 x2 x3) 15 5 = x1 := by simp only [fld, wordS3]; omega
  have e2 : fld (wordS3 c 18 x0 x1 x2 x3) 10 5 = x2 := by simp only [fld, wordS3]; omega
  have e3 : fld (wordS3 c 18 x0 x1 x2 x3) 0 10 = x3 := by simp only [fld, wordS3]; omega
  rw [decodeWord, e, major12, ec, e0, e1, e2, e3]

theorem major13 (w : Nat) : decodeMaj w 19 =
    dec13 (fld w 31 1) (fld w 20 5) (fld w 15 5) (fld w 0 15) := rfl

theorem word13 {c x0 x1 x2 : Nat} (hc : c < 2) (h0 : x0 < 32) (h1 : x1 < 32) (h2 : x2 < 32768) :
    decodeWord (wordSI c 19 x0 x1 x2) = dec13 c x0 x1 x2 := by
  have e : fld (wordSI c 19 x0 x1 x2) 25 6 = 19 := by simp only [fld, wordSI]; omega
  have ec : fld (wordSI c 19 x0 x1 x2) 31 1 = c := by simp only [fld, wordSI]; omega
  have e0 : fld (wordSI c 19 x0 x1 x2) 20 5 = x0 := by simp only [fld, wordSI]; omega
  have e1 : fld (wordSI c 19 x0 x1 x2) 15 5 = x1 := by simp only [fld, wordSI]; omega
  have e2 : fld (wordSI c 19 x0 x1 x2) 0 15 = x2 := by simp only [fld, wordSI]; omega
  rw [decodeWord, e, major13, ec, e0, e1, e2]

theorem major14 (w : Nat) : decodeMaj w 20 =
    dec14 (fld w 31 1) (fld w 20 5) (fld w 15 5) (fld w 0 15) := rfl

theorem word14 {c x0 x1 x2 : Nat} (hc : c < 2) (h0 : x0 < 32) (h1 : x1 < 32) (h2 : x2 < 32768) :
    decodeWord (wordSI c 20 x0 x1 x2) = dec14 c x0 x1 x2 := by
  have e : fld (wordSI c 20 x0 x1 x2) 25 6 = 20 := by simp only [fld, wordSI]; omega
  have ec : fld (wordSI c 20 x0 x1 x2) 31 1 = c := by simp only [fld, wordSI]; omega
  have e0 : fld (wordSI c 20 x0 x1 x2) 20 5 = x0 := by simp only [fld, wordSI]; omega
  have e1 : fld (wordSI c 20 x0 x1 x2) 15 5 = x1 := by simp only [fld, wordSI]; omega
  have e2 : fld (wordSI c 20 x0 x1 x2) 0 15 = x2 := by simp only [fld, wordSI]; omega
  rw [decodeWord, e, major14, ec, e0, e1, e2]

theorem major15 (w : Nat) : decodeMaj w 21 =
    dec15 (fld w 31 1) (fld w 20 5) (fld w 15 5) (fld w 0 15) := rfl

theorem word15 {c x0 x1 x2 : Nat} (hc : c < 2) (h0 : x0 < 32) (h1 : x1 < 32) (h2 : x2 < 32768) :
    decodeWord (wordSI c 21 x0 x1 x2) = dec15 c x0 x1 x2 := by
  have e : fld (wordSI c 21 x0 x1 x2) 25 6 = 21 := by simp only [fld, wordSI]; omega
  have ec : fld (wordSI c 21 x0 x1 x2) 31 1 = c := by simp only [fld, wordSI]; omega
  have e0 : fld (wordSI c 21 x0 x1 x2) 20 5 = x0 := by simp only [fld, wordSI]; omega
  have e1 : fld (wordSI c 21 x0 x1 x2) 15 5 = x1 := by simp only [fld, wordSI]; omega
  have e2 : fld (wordSI c 21 x0 x1 x2) 0 15 = x2 := by simp only [fld, wordSI]; omega
  rw [decodeWord, e, major15, ec, e0, e1, e2]

theorem major16 (w : Nat) : decodeMaj w 22 =
    dec16 (fld w 31 1) (fld w 20 5) (fld w 15 5) (fld w 0 15) := rfl

theorem word16 {c x0 x1 x2 : Nat} (hc : c < 2) (h0 : x0 < 32) (h1 : x1 < 32) (h2 : x2 < 32768) :
    decodeWord (wordSI c 22 x0 x1 x2) = dec16 c x0 x1 x2 := by
  have e : fld (wordSI c 22 x0 x1 x2) 25 6 = 22 := by simp only [fld, wordSI]; omega
  have ec : fld (wordSI c 22 x0 x1 x2) 31 1 = c := by simp only [fld, wordSI]; omega
  have e0 : fld (wordSI c 22 x0 x1 x2) 20 5 = x0 := by simp only [fld, wordSI]; omega
  have e1 : fld (wordSI c 22 x0 x1 x2) 15 5 = x1 := by simp only [fld, wordSI]; omega
  have e2 : fld (wordSI c 22 x0 x1 x2) 0 15 = x2 := by simp only [fld, wordSI]; omega
  rw [decodeWord, e, major16, ec, e0, e1, e2]

theorem major17 (w : Nat) : decodeMaj w 23 =
    dec17 (fld w 31 1) (fld w 20 5) (fld w 15 5) (fld w 0 15) := rfl

theorem word17 {c x0 x1 x2 : Nat} (hc : c < 2) (h0 : x0 < 32) (h1 : x1 < 32) (h2 : x2 < 32768) :
    decodeWord (wordSI c 23 x0 x1 x2) = dec17 c x0 x1 x2 := by
  have e : fld (wordSI c 23 x0 x1 x2) 25 6 = 23 := by simp only [fld, wordSI]; omega
  have ec : fld (wordSI c 23 x0 x1 x2) 31 1 = c := by simp only [fld, wordSI]; omega
  have e0 : fld (wordSI c 23 x0 x1 x2) 20 5 = x0 := by simp only [fld, wordSI]; omega
  have e1 : fld (wordSI c 23 x0 x1 x2) 15 5 = x1 := by simp only [fld, wordSI]; omega
  have e2 : fld (wordSI c 23 x0 x1 x2) 0 15 = x2 := by simp only [fld, wordSI]; omega
  rw [decodeWord, e, major17, ec, e0, e1, e2]

theorem major18 (w : Nat) : decodeMaj w 24 =
    dec18 (fld w 31 1) (fld w 20 5) (fld w 15 5) (fld w 0 15) := rfl

theorem word18 {c x0 x1 x2 : Nat} (hc : c < 2) (h0 : x0 < 32) (h1 : x1 < 32) (h2 : x2 < 32768) :
    decodeWord (wordSI c 24 x0 x1 x2) = dec18 c x0 x1 x2 := by
  have e : fld (wordSI c 24 x0 x1 x2) 25 6 = 24 := by simp only [fld, wordSI]; omega
  have ec : fld (wordSI c 24 x0 x1 x2) 31 1 = c := by simp only [fld, wordSI]; omega
  have e0 : fld (wordSI c 24 x0 x1 x2) 20 5 = x0 := by simp only [fld, wordSI]; omega
  have e1 : fld (wordSI c 24 x0 x1 x2) 15 5 = x1 := by simp only [fld, wordSI]; omega
  have e2 : fld (wordSI c 24 x0 x1 x2) 0 15 = x2 := by simp only [fld, wordSI]; omega
  rw [decodeWord, e, major18, ec, e0, e1, e2]

theorem major19 (w : Nat) : decodeMaj w 25 =
    dec19 (fld w 31 1) (fld w 20 5) (fld w 15 5) (fld w 0 15) := rfl

theorem word19 {c x0 x1 x2 : Nat} (hc : c < 2) (h0 : x0 < 32) (h1 : x1 < 32) (h2 : x2 < 32768) :
    decodeWord (wordSI c 25 x0 x1 x2) = dec19 c x0 x1 x2 := by
  have e : fld (wordSI c 25 x0 x1 x2) 25 6 = 25 := by simp only [fld, wordSI]; omega
  have ec : fld (wordSI c 25 x0 x1 x2) 31 1 = c := by simp only [fld, wordSI]; omega
  have e0 : fld (wordSI c 25 x0 x1 x2) 20 5 = x0 := by simp only [fld, wordSI]; omega
  have e1 : fld (wordSI c 25 x0 x1 x2) 15 5 = x1 := by simp only [fld, wordSI]; omega
  have e2 : fld (wordSI c 25 x0 x1 x2) 0 15 = x2 := by simp only [fld, wordSI]; omega
  rw [decodeWord, e, major19, ec, e0, e1, e2]

theorem major1A (w : Nat) : decodeMaj w 26 =
    dec1A (fld w 31 1) (fld w 20 5) (fld w 15 5) (fld w 0 15) := rfl

theorem word1A {c x0 x1 x2 : Nat} (hc : c < 2) (h0 : x0 < 32) (h1 : x1 < 32) (h2 : x2 < 32768) :
    decodeWord (wordSI c 26 x0 x1 x2) = dec1A c x0 x1 x2 := by
  have e : fld (wordSI c 26 x0 x1 x2) 25 6 = 26 := by simp only [fld, wordSI]; omega
  have ec : fld (wordSI c 26 x0 x1 x2) 31 1 = c := by simp only [fld, wordSI]; omega
  have e0 : fld (wordSI c 26 x0 x1 x2) 20 5 = x0 := by simp only [fld, wordSI]; omega
  have e1 : fld (wordSI c 26 x0 x1 x2) 15 5 = x1 := by simp only [fld, wordSI]; omega
  have e2 : fld (wordSI c 26 x0 x1 x2) 0 15 = x2 := by simp only [fld, wordSI]; omega
  rw [decodeWord, e, major1A, ec, e0, e1, e2]

theorem major1B (w : Nat) : decodeMaj w 27 =
    dec1B (fld w 31 1) (fld w 20 5) (fld w 15 5) (fld w 0 15) := rfl

theorem word1B {c x0 x1 x2 : Nat} (hc : c < 2) (h0 : x0 < 32) (h1 : x1 < 32) (h2 : x2 < 32768) :
    decodeWord (wordSI c 27 x0 x1 x2) = dec1B c x0 x1 x2 := by
  have e : fld (wordSI c 27 x0 x1 x2) 25 6 = 27 := by simp only [fld, wordSI]; omega
  have ec : fld (wordSI c 27 x0 x1 x2) 31 1 = c := by simp only [fld, wordSI]; omega
  have e0 : fld (wordSI c 27 x0 x1 x2) 20 5 = x0 := by simp only [fld, wordSI]; omega
  have e1 : fld (wordSI c 27 x0 x1 x2) 15 5 = x1 := by simp only [fld, wordSI]; omega
  have e2 : fld (wordSI c 27 x0 x1 x2) 0 15 = x2 := by simp only [fld, wordSI]; omega
  rw [decodeWord, e, major1B, ec, e0, e1, e2]

theorem major1C (w : Nat) : decodeMaj w 28 =
    dec1C (fld w 31 1) (fld w 20 5) (fld w 15 5) (fld w 0 15) := rfl

theorem word1C {c x0 x1 x2 : Nat} (hc : c < 2) (h0 : x0 < 32) (h1 : x1 < 32) (h2 : x2 < 32768) :
    decodeWord (wordSI c 28 x0 x1 x2) = dec1C c x0 x1 x2 := by
  have e : fld (wordSI c 28 x0 x1 x2) 25 6 = 28 := by simp only [fld, wordSI]; omega
  have ec : fld (wordSI c 28 x0 x1 x2) 31 1 = c := by simp only [fld, wordSI]; omega
  have e0 : fld (wordSI c 28 x0 x1 x2) 20 5 = x0 := by simp only [fld, wordSI]; omega
  have e1 : fld (wordSI c 28 x0 x1 x2) 15 5 = x1 := by simp only [fld, wordSI]; omega
  have e2 : fld (wordSI c 28 x0 x1 x2) 0 15 = x2 := by simp only [fld, wordSI]; omega
  rw [decodeWord, e, major1C, ec, e0, e1, e2]

theorem major1D (w : Nat) : decodeMaj w 29 =
    dec1D (fld w 31 1) (fld w 20 5) (fld w 15 5) (fld w 0 15) := rfl

theorem word1D {c x0 x1 x2 : Nat} (hc : c < 2) (h0 : x0 < 32) (h1 : x1 < 32) (h2 : x2 < 32768) :
    decodeWord (wordSI c 29 x0 x1 x2) = dec1D c x0 x1 x2 := by
  have e : fld (wordSI c 29 x0 x1 x2) 25 6 = 29 := by simp only [fld, wordSI]; omega
  have ec : fld (wordSI c 29 x0 x1 x2) 31 1 = c := by simp only [fld, wordSI]; omega
  have e0 : fld (wordSI c 29 x0 x1 x2) 20 5 = x0 := by simp only [fld, wordSI]; omega
  have e1 : fld (wordSI c 29 x0 x1 x2) 15 5 = x1 := by simp only [fld, wordSI]; omega
  have e2 : fld (wordSI c 29 x0 x1 x2) 0 15 = x2 := by simp only [fld, wordSI]; omega
  rw [decodeWord, e, major1D, ec, e0, e1, e2]

theorem major1E (w : Nat) : decodeMaj w 30 =
    dec1E (fld w 31 1) (fld w 20 5) (fld w 15 5) (fld w 10 5) (fld w 9 1) (fld w 6 3) (fld w 5 1) (fld w 0 5) := rfl

theorem word1E {c x0 x1 x2 x3 x4 x5 x6 : Nat} (hc : c < 2) (h0 : x0 < 32) (h1 : x1 < 32) (h2 : x2 < 32) (h3 : x3 < 2) (h4 : x4 < 8) (h5 : x5 < 2) (h6 : x6 < 32) :
    decodeWord (wordSF c 30 x0 x1 x2 x3 x4 x5 x6) = dec1E c x0 x1 x2 x3 x4 x5 x6 := by
  have e : fld (wordSF c 30 x0 x1 x2 x3 x4 x5 x6) 25 6 = 30 := by simp only [fld, wordSF]; omega
  have ec : fld (wordSF c 30 x0 x1 x2 x3 x4 x5 x6) 31 1 = c := by simp only [fld, wordSF]; omega
  have e0 : fld (wordSF c 30 x0 x1 x2 x3 x4 x5 x6) 20 5 = x0 := by simp only [fld, wordSF]; omega
  have e1 : fld (wordSF c 30 x0 x1 x2 x3 x4 x5 x6) 15 5 = x1 := by simp only [fld, wordSF]; omega
  have e2 : fld (wordSF c 30 x0 x1 x2 x3 x4 x5 x6) 10 5 = x2 := by simp only [fld, wordSF]; omega
  have e3 : fld (wordSF c 30 x0 x1 x2 x3 x4 x5 x6) 9 1 = x3 := by simp only [fld, wordSF]; omega
  have e4 : fld (wordSF c 30 x0 x1 x2 x3 x4 x5 x6) 6 3 = x4 := by simp only [fld, wordSF]; omega
  have e5 : fld (wordSF c 30 x0 x1 x2 x3 x4 x5 x6) 5 1 = x5 := by simp only [fld, wordSF]; omega
  have e6 : fld (wordSF c 30 x0 x1 x2 x3 x4 x5 x6) 0 5 = x6 := by simp only [fld, wordSF]; omega
  rw [decodeWord, e, major1E, ec, e0, e1, e2, e3, e4, e5, e6]

theorem major1F (w : Nat) : decodeMaj w 31 =
    dec1F (fld w 31 1) (fld w 20 5) (fld w 15 5) (fld w 10 5) (fld w 9 1) (fld w 7 2) (fld w 5 2) (fld w 4 1) (fld w 0 4) := rfl

theorem word1F {c x0 x1 x2 x3 x4 x5 x6 x7 : Nat} (hc : c < 2) (h0 : x0 < 32) (h1 : x1 < 32) (h2 : x2 < 32) (h3 : x3 < 2) (h4 : x4 < 4) (h5 : x5 < 4) (h6 : x6 < 2) (h7 : x7 < 16) :
    decodeWord (wordSA c 31 x0 x1 x2 x3 x4 x5 x6 x7) = dec1F c x0 x1 x2 x3 x4 x5 x6 x7 := by
  have e : fld (wordSA c 31 x0 x1 x2 x3 x4 x5 x6 x7) 25 6 = 31 := by simp only [fld, wordSA]; omega
  have ec : fld (wordSA c 31 x0 x1 x2 x3 x4 x5 x6 x7) 31 1 = c := by simp only [fld, wordSA]; omega
  have e0 : fld (wordSA c 31 x0 x1 x2 x3 x4 x5 x6 x7) 20 5 = x0 := by simp only [fld, wordSA]; omega
  have e1 : fld (wordSA c 31 x0 x1 x2 x3 x4 x5 x6 x7) 15 5 = x1 := by simp only [fld, wordSA]; omega
  have e2 : fld (wordSA c 31 x0 x1 x2 x3 x4 x5 x6 x7) 10 5 = x2 := by simp only [fld, wordSA]; omega
  have e3 : fld (wordSA c 31 x0 x1 x2 x3 x4 x5 x6 x7) 9 1 = x3 := by simp only [fld, wordSA]; omega
  have e4 : fld (wordSA c 31 x0 x1 x2 x3 x4 x5 x6 x7) 7 2 = x4 := by simp only [fld, wordSA]; omega
  have e5 : fld (wordSA c 31 x0 x1 x2 x3 x4 x5 x6 x7) 5 2 = x5 := by simp only [fld, wordSA]; omega
  have e6 : fld (wordSA c 31 x0 x1 x2 x3 x4 x5 x6 x7) 4 1 = x6 := by simp only [fld, wordSA]; omega
  have e7 : fld (wordSA c 31 x0 x1 x2 x3 x4 x5 x6 x7) 0 4 = x7 := by simp only [fld, wordSA]; omega
  rw [decodeWord, e, major1F, ec, e0, e1, e2, e3, e4, e5, e6, e7]

theorem major20 (w : Nat) : decodeMaj w 32 =
    dec20 (fld w 31 1) (fld w 20 5) (fld w 15 5) (fld w 12 3) (fld w 0 12) := rfl

theorem word20 {c x0 x1 x2 x3 : Nat} (hc : c < 2) (h0 : x0 < 32) (h1 : x1 < 32) (h2 : x2 < 8) (h3 : x3 < 4096) :
    decodeWord (wordSR c 32 x0 x1 x2 x3) = dec20 c x0 x1 x2 x3 := by
  have e : fld (wordSR c 32 x0 x1 x2 x3) 25 6 = 32 := by simp only [fld, wordSR]; omega
  have ec : fld (wordSR c 32 x0 x1 x2 x3) 31 1 = c := by simp only [fld, wordSR]; omega
  have e0 : fld (wordSR c 32 x0 x1 x2 x3) 20 5 = x0 := by simp only [fld, wordSR]; omega
  have e1 : fld (wordSR c 32 x0 x1 x2 x3) 15 5 = x1 := by simp only [fld, wordSR]; omega
  have e2 : fld (wordSR c 32 x0 x1 x2 x3) 12 3 = x2 := by simp only [fld, wordSR]; omega
  have e3 : fld (wordSR c 32 x0 x1 x2 x3) 0 12 = x3 := by simp only [fld, wordSR]; omega
  rw [decodeWord, e, major20, ec, e0, e1, e2, e3]

theorem major21 (w : Nat) : decodeMaj w 33 =
    dec21 (fld w 31 1) (fld w 20 5) (fld w 15 5) (fld w 12 3) (fld w 0 12) := rfl

theorem word21 {c x0 x1 x2 x3 : Nat} (hc : c < 2) (h0 : x0 < 32) (h1 : x1 < 32) (h2 : x2 < 8) (h3 : x3 < 4096) :
    decodeWord (wordSR c 33 x0 x1 x2 x3) = dec21 c x0 x1 x2 x3 := by
  have e : fld (wordSR c 33 x0 x1 x2 x3) 25 6 = 33 := by simp only [fld, wordSR]; omega
  have ec : fld (wordSR c 33 x0 x1 x2 x3) 31 1 = c := by simp only [fld, wordSR]; omega
  have e0 : fld (wordSR c 33 x0 x1 x2 x3) 20 5 = x0 := by simp only [fld, wordSR]; omega
  have e1 : fld (wordSR c 33 x0 x1 x2 x3) 15 5 = x1 := by simp only [fld, wordSR]; omega
  have e2 : fld (wordSR c 33 x0 x1 x2 x3) 12 3 = x2 := by simp only [fld, wordSR]; omega
  have e3 : fld (wordSR c 33 x0 x1 x2 x3) 0 12 = x3 := by simp only [fld, wordSR]; omega
  rw [decodeWord, e, major21, ec, e0, e1, e2, e3]

theorem major22 (w : Nat) : decodeMaj w 34 =
    dec22 (fld w 31 1) (fld w 20 5) (fld w 15 5) (fld w 10 5) (fld w 6 4) (fld w 0 6) := rfl

theorem word22 {c x0 x1 x2 x3 x4 : Nat} (hc : c < 2) (h0 : x0 < 32) (h1 : x1 < 32) (h2 : x2 < 32) (h3 : x3 < 16) (h4 : x4 < 64) :
    decodeWord (wordSY c 34 x0 x1 x2 x3 x4) = dec22 c x0 x1 x2 x3 x4 := by
  have e : fld (wordSY c 34 x0 x1 x2 x3 x4) 25 6 = 34 := by simp only [fld, wordSY]; omega
  have ec : fld (wordSY c 34 x0 x1 x2 x3 x4) 31 1 = c := by simp only [fld, wordSY]; omega
  have e0 : fld (wordSY c 34 x0 x1 x2 x3 x4) 20 5 = x0 := by simp only [fld, wordSY]; omega
  have e1 : fld (wordSY c 34 x0 x1 x2 x3 x4) 15 5 = x1 := by simp only [fld, wordSY]; omega
  have e2 : fld (wordSY c 34 x0 x1 x2 x3 x4) 10 5 = x2 := by simp only [fld, wordSY]; omega
  have e3 : fld (wordSY c 34 x0 x1 x2 x3 x4) 6 4 = x3 := by simp only [fld, wordSY]; omega
  have e4 : fld (wordSY c 34 x0 x1 x2 x3 x4) 0 6 = x4 := by simp only [fld, wordSY]; omega
  rw [decodeWord, e, major22, ec, e0, e1, e2, e3, e4]

theorem major23 (w : Nat) : decodeMaj w 35 =
    dec23 (fld w 31 1) (fld w 20 5) (fld w 15 5) (fld w 10 5) (fld w 0 10) := rfl

theorem word23 {c x0 x1 x2 x3 : Nat} (hc : c < 2) (h0 : x0 < 32) (h1 : x1 < 32) (h2 : x2 < 32) (h3 : x3 < 1024) :
    decodeWord (wordS3 c 35 x0 x1 x2 x3) = dec23 c x0 x1 x2 x3 := by
  have e : fld (wordS3 c 35 x0 x1 x2 x3) 25 6 = 35 := by simp only [fld, wordS3]; omega
  have ec : fld (wordS3 c 35 x0 x1 x2 x3) 31 1 = c := by simp only [fld, wordS3]; omega
  have e0 : fld (wordS3 c 35 x0 x1 x2 x3) 20 5 = x0 := by simp only [fld, wordS3]; omega
  have e1 : fld (wordS3 c 35 x0 x1 x2 x3) 15 5 = x1 := by simp only [fld, wordS3]; omega
  have e2 : fld (wordS3 c 35 x0 x1 x2 x3) 10 5 = x2 := by simp only [fld, wordS3]; omega
  have e3 : fld (wordS3 c 35 x0 x1 x2 x3) 0 10 = x3 := by simp only [fld, wordS3]; omega
  rw [decodeWord, e, major23, ec, e0, e1, e2, e3]

theorem major24 (w : Nat) : decodeMaj w 36 =
    dec24 (fld w 31 1) (fld w 19 6) (fld w 13 6) (fld w 7 6) (fld w 5 2) (fld w 0 5) := rfl

theorem word24 {c x0 x1 x2 x3 x4 : Nat} (hc : c < 2) (h0 : x0 < 64) (h1 : x1 < 64) (h2 : x2 < 64) (h3 : x3 < 4) (h4 : x4 < 32) :
    decodeWord (wordT3 c 36 x0 x1 x2 x3 x4) = dec24 c x0 x1 x2 x3 x4 := by
  have e : fld (wordT3 c 36 x0 x1 x2 x3 x4) 25 6 = 36 := by simp only [fld, wordT3]; omega
  have ec : fld (wordT3 c 36 x0 x1 x2 x3 x4) 31 1 = c := by simp only [fld, wordT3]; omega
  have e0 : fld (wordT3 c 36 x0 x1 x2 x3 x4) 19 6 = x0 := by simp only [fld, wordT3]; omega
  have e1 : fld (wordT3 c 36 x0 x1 x2 x3 x4) 13 6 = x1 := by simp only [fld, wordT3]; omega
  have e2 : fld (wordT3 c 36 x0 x1 x2 x3 x4) 7 6 = x2 := by simp only [fld, wordT3]; omega
  have e3 : fld (wordT3 c 36 x0 x1 x2 x3 x4) 5 2 = x3 := by simp only [fld, wordT3]; omega
  have e4 : fld (wordT3 c 36 x0 x1 x2 x3 x4) 0 5 = x4 := by simp only [fld, wordT3]; omega
  rw [decodeWord, e, major24, ec, e0, e1, e2, e3, e4]

theorem major25 (w : Nat) : decodeMaj w 37 =
    dec25 (fld w 31 1) (fld w 19 6) (fld w 13 6) (fld w 7 6) (fld w 5 2) (fld w 0 5) := rfl

theorem word25 {c x0 x1 x2 x3 x4 : Nat} (hc : c < 2) (h0 : x0 < 64) (h1 : x1 < 64) (h2 : x2 < 64) (h3 : x3 < 4) (h4 : x4 < 32) :
    decodeWord (wordT3 c 37 x0 x1 x2 x3 x4) = dec25 c x0 x1 x2 x3 x4 := by
  have e : fld (wordT3 c 37 x0 x1 x2 x3 x4) 25 6 = 37 := by simp only [fld, wordT3]; omega
  have ec : fld (wordT3 c 37 x0 x1 x2 x3 x4) 31 1 = c := by simp only [fld, wordT3]; omega
  have e0 : fld (wordT3 c 37 x0 x1 x2 x3 x4) 19 6 = x0 := by simp only [fld, wordT3]; omega
  have e1 : fld (wordT3 c 37 x0 x1 x2 x3 x4) 13 6 = x1 := by simp only [fld, wordT3]; omega
  have e2 : fld (wordT3 c 37 x0 x1 x2 x3 x4) 7 6 = x2 := by simp only [fld, wordT3]; omega
  have e3 : fld (wordT3 c 37 x0 x1 x2 x3 x4) 5 2 = x3 := by simp only [fld, wordT3]; omega
  have e4 : fld (wordT3 c 37 x0 x1 x2 x3 x4) 0 5 = x4 := by simp only [fld, wordT3]; omega
  rw [decodeWord, e, major25, ec, e0, e1, e2, e3, e4]

theorem major26 (w : Nat) : decodeMaj w 38 =
    dec26 (fld w 31 1) (fld w 19 6) (fld w 13 6) (fld w 7 6) (fld w 5 2) (fld w 0 5) := rfl

theorem word26 {c x0 x1 x2 x3 x4 : Nat} (hc : c < 2) (h0 : x0 < 64) (h1 : x1 < 64) (h2 : x2 < 64) (h3 : x3 < 4) (h4 : x4 < 32) :
    decodeWord (wordT3 c 38 x0 x1 x2 x3 x4) = dec26 c x0 x1 x2 x3 x4 := by
  have e : fld (wordT3 c 38 x0 x1 x2 x3 x4) 25 6 = 38 := by simp only [fld, wordT3]; omega
  have ec : fld (wordT3 c 38 x0 x1 x2 x3 x4) 31 1 = c := by simp only [fld, wordT3]; omega
  have e0 : fld (wordT3 c 38 x0 x1 x2 x3 x4) 19 6 = x0 := by simp only [fld, wordT3]; omega
  have e1 : fld (wordT3 c 38 x0 x1 x2 x3 x4) 13 6 = x1 := by simp only [fld, wordT3]; omega
  have e2 : fld (wordT3 c 38 x0 x1 x2 x3 x4) 7 6 = x2 := by simp only [fld, wordT3]; omega
  have e3 : fld (wordT3 c 38 x0 x1 x2 x3 x4) 5 2 = x3 := by simp only [fld, wordT3]; omega
  have e4 : fld (wordT3 c 38 x0 x1 x2 x3 x4) 0 5 = x4 := by simp only [fld, wordT3]; omega
  rw [decodeWord, e, major26, ec, e0, e1, e2, e3, e4]

theorem major27 (w : Nat) : decodeMaj w 39 =
    dec27 (fld w 31 1) (fld w 19 6) (fld w 13 6) (fld w 7 6) (fld w 5 2) (fld w 0 5) := rfl

theorem word27 {c x0 x1 x2 x3 x4 : Nat} (hc : c < 2) (h0 : x0 < 64) (h1 : x1 < 64) (h2 : x2 < 64) (h3 : x3 < 4) (h4 : x4 < 32) :
    decodeWord (wordT3 c 39 x0 x1 x2 x3 x4) = dec27 c x0 x1 x2 x3 x4 := by
  have e : fld (wordT3 c 39 x0 x1 x2 x3 x4) 25 6 = 39 := by simp only [fld, wordT3]; omega
  have ec : fld (wordT3 c 39 x0 x1 x2 x3 x4) 31 1 = c := by simp only [fld, wordT3]; omega
  have e0 : fld (wordT3 c 39 x0 x1 x2 x3 x4) 19 6 = x0 := by simp only [fld, wordT3]; omega
  have e1 : fld (wordT3 c 39 x0 x1 x2 x3 x4) 13 6 = x1 := by simp only [fld, wordT3]; omega
  have e2 : fld (wordT3 c 39 x0 x1 x2 x3 x4) 7 6 = x2 := by simp only [fld, wordT3]; omega
  have e3 : fld (wordT3 c 39 x0 x1 x2 x3 x4) 5 2 = x3 := by simp only [fld, wordT3]; omega
  have e4 : fld (wordT3 c 39 x0 x1 x2 x3 x4) 0 5 = x4 := by simp only [fld, wordT3]; omega
  rw [decodeWord, e, major27, ec, e0, e1, e2, e3, e4]

theorem major28 (w : Nat) : decodeMaj w 40 =
    dec28 (fld w 31 1) (fld w 19 6) (fld w 13 6) (fld w 7 6) (fld w 5 2) (fld w 0 5) := rfl

theorem word28 {c x0 x1 x2 x3 x4 : Nat} (hc : c < 2) (h0 : x0 < 64) (h1 : x1 < 64) (h2 : x2 < 64) (h3 : x3 < 4) (h4 : x4 < 32) :
    decodeWord (wordT3 c 40 x0 x1 x2 x3 x4) = dec28 c x0 x1 x2 x3 x4 := by
  have e : fld (wordT3 c 40 x0 x1 x2 x3 x4) 25 6 = 40 := by simp only [fld, wordT3]; omega
  have ec : fld (wordT3 c 40 x0 x1 x2 x3 x4) 31 1 = c := by simp only [fld, wordT3]; omega
  have e0 : fld (wordT3 c 40 x0 x1 x2 x3 x4) 19 6 = x0 := by simp only [fld, wordT3]; omega
  have e1 : fld (wordT3 c 40 x0 x1 x2 x3 x4) 13 6 = x1 := by simp only [fld, wordT3]; omega
  have e2 : fld (wordT3 c 40 x0 x1 x2 x3 x4) 7 6 = x2 := by simp only [fld, wordT3]; omega
  have e3 : fld (wordT3 c 40 x0 x1 x2 x3 x4) 5 2 = x3 := by simp only [fld, wordT3]; omega
  have e4 : fld (wordT3 c 40 x0 x1 x2 x3 x4) 0 5 = x4 := by simp only [fld, wordT3]; omega
  rw [decodeWord, e, major28, ec, e0, e1, e2, e3, e4]

theorem major29 (w : Nat) : decodeMaj w 41 =
    dec29 (fld w 31 1) (fld w 19 6) (fld w 13 6) (fld w 7 6) (fld w 5 2) (fld w 0 5) := rfl

theorem word29 {c x0 x1 x2 x3 x4 : Nat} (hc : c < 2) (h0 : x0 < 64) (h1 : x1 < 64) (h2 : x2 < 64) (h3 : x3 < 4) (h4 : x4 < 32) :
    decodeWord (wordT3 c 41 x0 x1 x2 x3 x4) = dec29 c x0 x1 x2 x3 x4 := by
  have e : fld (wordT3 c 41 x0 x1 x2 x3 x4) 25 6 = 41 := by simp only [fld, wordT3]; omega
  have ec : fld (wordT3 c 41 x0 x1 x2 x3 x4) 31 1 = c := by simp only [fld, wordT3]; omega
  have e0 : fld (wordT3 c 41 x0 x1 x2 x3 x4) 19 6 = x0 := by simp only [fld, wordT3]; omega
  have e1 : fld (wordT3 c 41 x0 x1 x2 x3 x4) 13 6 = x1 := by simp only [fld, wordT3]; omega
  have e2 : fld (wordT3 c 41 x0 x1 x2 x3 x4) 7 6 = x2 := by simp only [fld, wordT3]; omega
  have e3 : fld (wordT3 c 41 x0 x1 x2 x3 x4) 5 2 = x3 := by simp only [fld, wordT3]; omega
  have e4 : fld (wordT3 c 41 x0 x1 x2 x3 x4) 0 5 = x4 := by simp only [fld, wordT3]; omega
  rw [decodeWord, e, major29, ec, e0, e1, e2, e3, e4]

theorem major2A (w : Nat) : decodeMaj w 42 =
    dec2A (fld w 31 1) (fld w 19 6) (fld w 13 6) (fld w 7 6) (fld w 5 2) (fld w 0 5) := rfl

theorem word2A {c x0 x1 x2 x3 x4 : Nat} (hc : c < 2) (h0 : x0 < 64) (h1 : x1 < 64) (h2 : x2 < 64) (h3 : x3 < 4) (h4 : x4 < 32) :
    decodeWord (wordT3 c 42 x0 x1 x2 x3 x4) = dec2A c x0 x1 x2 x3 x4 := by
  have e : fld (wordT3 c 42 x0 x1 x2 x3 x4) 25 6 = 42 := by simp only [fld, wordT3]; omega
  have ec : fld (wordT3 c 42 x0 x1 x2 x3 x4) 31 1 = c := by simp only [fld, wordT3]; omega
  have e0 : fld (wordT3 c 42 x0 x1 x2 x3 x4) 19 6 = x0 := by simp only [fld, wordT3]; omega
  have e1 : fld (wordT3 c 42 x0 x1 x2 x3 x4) 13 6 = x1 := by simp only [fld, wordT3]; omega
  have e2 : fld (wordT3 c 42 x0 x1 x2 x3 x4) 7 6 = x2 := by simp only [fld, wordT3]; omega
  have e3 : fld (wordT3 c 42 x0 x1 x2 x3 x4) 5 2 = x3 := by simp only [fld, wordT3]; omega
  have e4 : fld (wordT3 c 42 x0 x1 x2 x3 x4) 0 5 = x4 := by simp only [fld, wordT3]; omega
  rw [decodeWord, e, major2A, ec, e0, e1, e2, e3, e4]

theorem major2B (w : Nat) : decodeMaj w 43 =
    dec2B (fld w 31 1) (fld w 19 6) (fld w 13 6) (fld w 7 6) (fld w 5 2) (fld w 0 5) := rfl

theorem word2B {c x0 x1 x2 x3 x4 : Nat} (hc : c < 2) (h0 : x0 < 64) (h1 : x1 < 64) (h2 : x2 < 64) (h3 : x3 < 4) (h4 : x4 < 32) :
    decodeWord (wordT3 c 43 x0 x1 x2 x3 x4) = dec2B c x0 x1 x2 x3 x4 := by
  have e : fld (wordT3 c 43 x0 x1 x2 x3 x4) 25 6 = 43 := by simp only [fld, wordT3]; omega
  have ec : fld (wordT3 c 43 x0 x1 x2 x3 x4) 31 1 = c := by simp only [fld, wordT3]; omega
  have e0 : fld (wordT3 c 43 x0 x1 x2 x3 x4) 19 6 = x0 := by simp only [fld, wordT3]; omega
  have e1 : fld (wordT3 c 43 x0 x1 x2 x3 x4) 13 6 = x1 := by simp only [fld, wordT3]; omega
  have e2 : fld (wordT3 c 43 x0 x1 x2 x3 x4) 7 6 = x2 := by simp only [fld, wordT3]; omega
  have e3 : fld (wordT3 c 43 x0 x1 x2 x3 x4) 5 2 = x3 := by simp only [fld, wordT3]; omega
  have e4 : fld (wordT3 c 43 x0 x1 x2 x3 x4) 0 5 = x4 := by simp only [fld, wordT3]; omega
  rw [decodeWord, e, major2B, ec, e0, e1, e2, e3, e4]

theorem major2C (w : Nat) : decodeMaj w 44 =
    dec2C (fld w 31 1) (fld w 19 6) (fld w 13 6) (fld w 7 6) (fld w 5 2) (fld w 0 5) := rfl

theorem word2C {c x0 x1 x2 x3 x4 : Nat} (hc : c < 2) (h0 : x0 < 64) (h1 : x1 < 64) (h2 : x2 < 64) (h3 : x3 < 4) (h4 : x4 < 32) :
    decodeWord (wordT3 c 44 x0 x1 x2 x3 x4) = dec2C c x0 x1 x2 x3 x4 := by
  have e : fld (wordT3 c 44 x0 x1 x2 x3 x4) 25 6 = 44 := by simp only [fld, wordT3]; omega
  have ec : fld (wordT3 c 44 x0 x1 x2 x3 x4) 31 1 = c := by simp only [fld, wordT3]; omega
  have e0 : fld (wordT3 c 44 x0 x1 x2 x3 x4) 19 6 = x0 := by simp only [fld, wordT3]; omega
  have e1 : fld (wordT3 c 44 x0 x1 x2 x3 x4) 13 6 = x1 := by simp only [fld, wordT3]; omega
  have e2 : fld (wordT3 c 44 x0 x1 x2 x3 x4) 7 6 = x2 := by simp only [fld, wordT3]; omega
  have e3 : fld (wordT3 c 44 x0 x1 x2 x3 x4) 5 2 = x3 := by simp only [fld, wordT3]; omega
  have e4 : fld (wordT3 c 44 x0 x1 x2 x3 x4) 0 5 = x4 := by simp only [fld, wordT3]; omega
  rw [decodeWord, e, major2C, ec, e0, e1, e2, e3, e4]

theorem major2D (w : Nat) : decodeMaj w 45 =
    dec2D (fld w 31 1) (fld w 19 6) (fld w 13 6) (fld w 7 6) (fld w 5 2) (fld w 0 5) := rfl

theorem word2D {c x0 x1 x2 x3 x4 : Nat} (hc : c < 2) (h0 : x0 < 64) (h1 : x1 < 64) (h2 : x2 < 64) (h3 : x3 < 4) (h4 : x4 < 32) :
    decodeWord (wordT3 c 45 x0 x1 x2 x3 x4) = dec2D c x0 x1 x2 x3 x4 := by
  have e : fld (wordT3 c 45 x0 x1 x2 x3 x4) 25 6 = 45 := by simp only [fld, wordT3]; omega
  have ec : fld (wordT3 c 45 x0 x1 x2 x3 x4) 31 1 = c := by simp only [fld, wordT3]; omega
  have e0 : fld (wordT3 c 45 x0 x1 x2 x3 x4) 19 6 = x0 := by simp only [fld, wordT3]; omega
  have e1 : fld (wordT3 c 45 x0 x1 x2 x3 x4) 13 6 = x1 := by simp only [fld, wordT3]; omega
  have e2 : fld (wordT3 c 45 x0 x1 x2 x3 x4) 7 6 = x2 := by simp only [fld, wordT3]; omega
  have e3 : fld (wordT3 c 45 x0 x1 x2 x3 x4) 5 2 = x3 := by simp only [fld, wordT3]; omega
  have e4 : fld (wordT3 c 45 x0 x1 x2 x3 x4) 0 5 = x4 := by simp only [fld, wordT3]; omega
  rw [decodeWord, e, major2D, ec, e0, e1, e2, e3, e4]

theorem major2E (w : Nat) : decodeMaj w 46 =
    dec2E (fld w 31 1) (fld w 19 6) (fld w 13 6) (fld w 7 6) (fld w 5 2) (fld w 0 5) := rfl

theorem word2E {c x0 x1 x2 x3 x4 : Nat} (hc : c < 2) (h0 : x0 < 64) (h1 : x1 < 64) (h2 : x2 < 64) (h3 : x3 < 4) (h4 : x4 < 32) :
    decodeWord (wordT3 c 46 x0 x1 x2 x3 x4) = dec2E c x0 x1 x2 x3 x4 := by
  have e : fld (wordT3 c 46 x0 x1 x2 x3 x4) 25 6 = 46 := by simp only [fld, wordT3]; omega
  have ec : fld (wordT3 c 46 x0 x1 x2 x3 x4) 31 1 = c := by simp only [fld, wordT3]; omega
  have e0 : fld (wordT3 c 46 x0 x1 x2 x3 x4) 19 6 = x0 := by simp only [fld, wordT3]; omega
  have e1 : fld (wordT3 c 46 x0 x1 x2 x3 x4) 13 6 = x1 := by simp only [fld, wordT3]; omega
  have e2 : fld (wordT3 c 46 x0 x1 x2 x3 x4) 7 6 = x2 := by simp only [fld, wordT3]; omega
  have e3 : fld (wordT3 c 46 x0 x1 x2 x3 x4) 5 2 = x3 := by simp only [fld, wordT3]; omega
  have e4 : fld (wordT3 c 46 x0 x1 x2 x3 x4) 0 5 = x4 := by simp only [fld, wordT3]; omega
  rw [decodeWord, e, major2E, ec, e0, e1, e2, e3, e4]

theorem major2F (w : Nat) : decodeMaj w 47 =
    dec2F (fld w 31 1) (fld w 19 6) (fld w 13 6) (fld w 7 6) (fld w 5 2) (fld w 0 5) := rfl

theorem word2F {c x0 x1 x2 x3 x4 : Nat} (hc : c < 2) (h0 : x0 < 64) (h1 : x1 < 64) (h2 : x2 < 64) (h3 : x3 < 4) (h4 : x4 < 32) :
    decodeWord (wordT3 c 47 x0 x1 x2 x3 x4) = dec2F c x0 x1 x2 x3 x4 := by
  have e : fld (wordT3 c 47 x0 x1 x2 x3 x4) 25 6 = 47 := by simp only [fld, wordT3]; omega
  have ec : fld (wordT3 c 47 x0 x1 x2 x3 x4) 31 1 = c := by simp only [fld, wordT3]; omega
  have e0 : fld (wordT3 c 47 x0 x1 x2 x3 x4) 19 6 = x0 := by simp only [fld, wordT3]; omega
  have e1 : fld (wordT3 c 47 x0 x1 x2 x3 x4) 13 6 = x1 := by simp only [fld, wordT3]; omega
  have e2 : fld (wordT3 c 47 x0 x1 x2 x3 x4) 7 6 = x2 := by simp only [fld, wordT3]; omega
  have e3 : fld (wordT3 c 47 x0 x1 x2 x3 x4) 5 2 = x3 := by simp only [fld, wordT3]; omega
  have e4 : fld (wordT3 c 47 x0 x1 x2 x3 x4) 0 5 = x4 := by simp only [fld, wordT3]; omega
  rw [decodeWord, e, major2F, ec, e0, e1, e2, e3, e4]

theorem major30 (w : Nat) : decodeMaj w 48 =
    dec30 (fld w 31 1) (fld w 19 6) (fld w 13 6) (fld w 7 6) (fld w 5 2) (fld w 0 5) := rfl

theorem word30 {c x0 x1 x2 x3 x4 : Nat} (hc : c < 2) (h0 : x0 < 64) (h1 : x1 < 64) (h2 : x2 < 64) (h3 : x3 < 4) (h4 : x4 < 32) :
    decodeWord (wordT3 c 48 x0 x1 x2 x3 x4) = dec30 c x0 x1 x2 x3 x4 := by
  have e : fld (wordT3 c 48 x0 x1 x2 x3 x4) 25 6 = 48 := by simp only [fld, wordT3]; omega
  have ec : fld (wordT3 c 48 x0 x1 x2 x3 x4) 31 1 = c := by simp only [fld, wordT3]; omega
  have e0 : fld (wordT3 c 48 x0 x1 x2 x3 x4) 19 6 = x0 := by simp only [fld, wordT3]; omega
  have e1 : fld (wordT3 c 48 x0 x1 x2 x3 x4) 13 6 = x1 := by simp only [fld, wordT3]; omega
  have e2 : fld (wordT3 c 48 x0 x1 x2 x3 x4) 7 6 = x2 := by simp only [fld, wordT3]; omega
  have e3 : fld (wordT3 c 48 x0 x1 x2 x3 x4) 5 2 = x3 := by simp only [fld, wordT3]; omega
  have e4 : fld (wordT3 c 48 x0 x1 x2 x3 x4) 0 5 = x4 := by simp only [fld, wordT3]; omega
  rw [decodeWord, e, major30, ec, e0, e1, e2, e3, e4]

theorem major31 (w : Nat) : decodeMaj w 49 =
    dec31 (fld w 31 1) (fld w 19 6) (fld w 14 5) (fld w 8 6) (fld w 7 1) (fld w 5 2) (fld w 3 2) (fld w 0 3) := rfl

theorem word31 {c x0 x1 x2 x3 x4 x5 x6 : Nat} (hc : c < 2) (h0 : x0 < 64) (h1 : x1 < 32) (h2 : x2 < 64) (h3 : x3 < 2) (h4 : x4 < 4) (h5 : x5 < 4) (h6 : x6 < 8) :
    decodeWord (wordTM c 49 x0 x1 x2 x3 x4 x5 x6) = dec31 c x0 x1 x2 x3 x4 x5 x6 := by
  have e : fld (wordTM c 49 x0 x1 x2 x3 x4 x5 x6) 25 6 = 49 := by simp only [fld, wordTM]; omega
  have ec : fld (wordTM c 49 x0 x1 x2 x3 x4 x5 x6) 31 1 = c := by simp only [fld, wordTM]; omega
  have e0 : fld (wordTM c 49 x0 x1 x2 x3 x4 x5 x6) 19 6 = x0 := by simp only [fld, wordTM]; omega
  have e1 : fld (wordTM c 49 x0 x1 x2 x3 x4 x5 x6) 14 5 = x1 := by simp only [fld, wordTM]; omega
  have e2 : fld (wordTM c 49 x0 x1 x2 x3 x4 x5 x6) 8 6 = x2 := by simp only [fld, wordTM]; omega
  have e3 : fld (wordTM c 49 x0 x1 x2 x3 x4 x5 x6) 7 1 = x3 := by simp only [fld, wordTM]; omega
  have e4 : fld (wordTM c 49 x0 x1 x2 x3 x4 x5 x6) 5 2 = x4 := by simp only [fld, wordTM]; omega
  have e5 : fld (wordTM c 49 x0 x1 x2 x3 x4 x5 x6) 3 2 = x5 := by simp only [fld, wordTM]; omega
  have e6 : fld (wordTM c 49 x0 x1 x2 x3 x4 x5 x6) 0 3 = x6 := by simp only [fld, wordTM]; omega
  rw [decodeWord, e, major31, ec, e0, e1, e2, e3, e4, e5, e6]

theorem major32 (w : Nat) : decodeMaj w 50 =
    dec32 (fld w 31 1) (fld w 19 6) (fld w 14 5) (fld w 8 6) (fld w 7 1) (fld w 5 2) (fld w 3 2) (fld w 0 3) := rfl

theorem word32 {c x0 x1 x2 x3 x4 x5 x6 : Nat} (hc : c < 2) (h0 : x0 < 64) (h1 : x1 < 32) (h2 : x2 < 64) (h3 : x3 < 2) (h4 : x4 < 4) (h5 : x5 < 4) (h6 : x6 < 8) :
    decodeWord (wordTM c 50 x0 x1 x2 x3 x4 x5 x6) = dec32 c x0 x1 x2 x3 x4 x5 x6 := by
  have e : fld (wordTM c 50 x0 x1 x2 x3 x4 x5 x6) 25 6 = 50 := by simp only [fld, wordTM]; omega
  have ec : fld (wordTM c 50 x0 x1 x2 x3 x4 x5 x6) 31 1 = c := by simp only [fld, wordTM]; omega
  have e0 : fld (wordTM c 50 x0 x1 x2 x3 x4 x5 x6) 19 6 = x0 := by simp only [fld, wordTM]; omega
  have e1 : fld (wordTM c 50 x0 x1 x2 x3 x4 x5 x6) 14 5 = x1 := by simp only [fld, wordTM]; omega
  have e2 : fld (wordTM c 50 x0 x1 x2 x3 x4 x5 x6) 8 6 = x2 := by simp only [fld, wordTM]; omega
  have e3 : fld (wordTM c 50 x0 x1 x2 x3 x4 x5 x6) 7 1 = x3 := by simp only [fld, wordTM]; omega
  have e4 : fld (wordTM c 50 x0 x1 x2 x3 x4 x5 x6) 5 2 = x4 := by simp only [fld, wordTM]; omega
  have e5 : fld (wordTM c 50 x0 x1 x2 x3 x4 x5 x6) 3 2 = x5 := by simp only [fld, wordTM]; omega
  have e6 : fld (wordTM c 50 x0 x1 x2 x3 x4 x5 x6) 0 3 = x6 := by simp only [fld, wordTM]; omega
  rw [decodeWord, e, major32, ec, e0, e1, e2, e3, e4, e5, e6]

theorem major33 (w : Nat) : decodeMaj w 51 =
    dec33 (fld w 31 1) (fld w 19 6) (fld w 14 5) (fld w 8 6) (fld w 7 1) (fld w 5 2) (fld w 0 5) := rfl

theorem word33 {c x0 x1 x2 x3 x4 x5 : Nat} (hc : c < 2) (h0 : x0 < 64) (h1 : x1 < 32) (h2 : x2 < 64) (h3 : x3 < 2) (h4 : x4 < 4) (h5 : x5 < 32) :
    decodeWord (wordTC c 51 x0 x1 x2 x3 x4 x5) = dec33 c x0 x1 x2 x3 x4 x5 := by
  have e : fld (wordTC c 51 x0 x1 x2 x3 x4 x5) 25 6 = 51 := by simp only [fld, wordTC]; omega
  have ec : fld (wordTC c 51 x0 x1 x2 x3 x4 x5) 31 1 = c := by simp only [fld, wordTC]; omega
  have e0 : fld (wordTC c 51 x0 x1 x2 x3 x4 x5) 19 6 = x0 := by simp only [fld, wordTC]; omega
  have e1 : fld (wordTC c 51 x0 x1 x2 x3 x4 x5) 14 5 = x1 := by simp only [fld, wordTC]; omega
  have e2 : fld (wordTC c 51 x0 x1 x2 x3 x4 x5) 8 6 = x2 := by simp only [fld, wordTC]; omega
  have e3 : fld (wordTC c 51 x0 x1 x2 x3 x4 x5) 7 1 = x3 := by simp only [fld, wordTC]; omega
  have e4 : fld (wordTC c 51 x0 x1 x2 x3 x4 x5) 5 2 = x4 := by simp only [fld, wordTC]; omega
  have e5 : fld (wordTC c 51 x0 x1 x2 x3 x4 x5) 0 5 = x5 := by simp only [fld, wordTC]; omega
  rw [decodeWord, e, major33, ec, e0, e1, e2, e3, e4, e5]

theorem major34 (w : Nat) : decodeMaj w 52 =
    dec34 (fld w 31 1) (fld w 22 3) (fld w 19 3) (fld w 0 19) := rfl

theorem word34 {c x0 x1 x2 : Nat} (hc : c < 2) (h0 : x0 < 8) (h1 : x1 < 8) (h2 : x2 < 524288) :
    decodeWord (wordTB c 52 x0 x1 x2) = dec34 c x0 x1 x2 := by
  have e : fld (wordTB c 52 x0 x1 x2) 25 6 = 52 := by simp only [fld, wordTB]; omega
  have ec : fld (wordTB c 52 x0 x1 x2) 31 1 = c := by simp only [fld, wordTB]; omega
  have e0 : fld (wordTB c 52 x0 x1 x2) 22 3 = x0 := by simp only [fld, wordTB]; omega
  have e1 : fld (wordTB c 52 x0 x1 x2) 19 3 = x1 := by simp only [fld, wordTB]; omega
  have e2 : fld (wordTB c 52 x0 x1 x2) 0 19 = x2 := by simp only [fld, wordTB]; omega
  rw [decodeWord, e, major34, ec, e0, e1, e2]

theorem major35 (w : Nat) : decodeMaj w 53 =
    dec35 (fld w 31 1) (fld w 19 6) (fld w 13 6) (fld w 7 6) (fld w 5 2) (fld w 4 1) (fld w 0 4) := rfl

theorem word35 {c x0 x1 x2 x3 x4 x5 : Nat} (hc : c < 2) (h0 : x0 < 64) (h1 : x1 < 64) (h2 : x2 < 64) (h3 : x3 < 4) (h4 : x4 < 2) (h5 : x5 < 16) :
    decodeWord (wordMX c 53 x0 x1 x2 x3 x4 x5) = dec35 c x0 x1 x2 x3 x4 x5 := by
  have e : fld (wordMX c 53 x0 x1 x2 x3 x4 x5) 25 6 = 53 := by simp only [fld, wordMX]; omega
  have ec : fld (wordMX c 53 x0 x1 x2 x3 x4 x5) 31 1 = c := by simp only [fld, wordMX]; omega
  have e0 : fld (wordMX c 53 x0 x1 x2 x3 x4 x5) 19 6 = x0 := by simp only [fld, wordMX]; omega
  have e1 : fld (wordMX c 53 x0 x1 x2 x3 x4 x5) 13 6 = x1 := by simp only [fld, wordMX]; omega
  have e2 : fld (wordMX c 53 x0 x1 x2 x3 x4 x5) 7 6 = x2 := by simp only [fld, wordMX]; omega
  have e3 : fld (wordMX c 53 x0 x1 x2 x3 x4 x5) 5 2 = x3 := by simp only [fld, wordMX]; omega
  have e4 : fld (wordMX c 53 x0 x1 x2 x3 x4 x5) 4 1 = x4 := by simp only [fld, wordMX]; omega
  have e5 : fld (wordMX c 53 x0 x1 x2 x3 x4 x5) 0 4 = x5 := by simp only [fld, wordMX]; omega
  rw [decodeWord, e, major35, ec, e0, e1, e2, e3, e4, e5]

theorem major36 (w : Nat) : decodeMaj w 54 =
    dec36 (fld w 31 1) (fld w 20 5) (fld w 15 5) (fld w 10 5) (fld w 4 6) (fld w 0 4) := rfl

theorem word36 {c x0 x1 x2 x3 x4 : Nat} (hc : c < 2) (h0 : x0 < 32) (h1 : x1 < 32) (h2 : x2 < 32) (h3 : x3 < 64) (h4 : x4 < 16) :
    decodeWord (wordX c 54 x0 x1 x2 x3 x4) = dec36 c x0 x1 x2 x3 x4 := by
  have e : fld (wordX c 54 x0 x1 x2 x3 x4) 25 6 = 54 := by simp only [fld, wordX]; omega
  have ec : fld (wordX c 54 x0 x1 x2 x3 x4) 31 1 = c := by simp only [fld, wordX]; omega
  have e0 : fld (wordX c 54 x0 x1 x2 x3 x4) 20 5 = x0 := by simp only [fld, wordX]; omega
  have e1 : fld (wordX c 54 x0 x1 x2 x3 x4) 15 5 = x1 := by simp only [fld, wordX]; omega
  have e2 : fld (wordX c 54 x0 x1 x2 x3 x4) 10 5 = x2 := by simp only [fld, wordX]; omega
  have e3 : fld (wordX c 54 x0 x1 x2 x3 x4) 4 6 = x3 := by simp only [fld, wordX]; omega
  have e4 : fld (wordX c 54 x0 x1 x2 x3 x4) 0 4 = x4 := by simp only [fld, wordX]; omega
  rw [decodeWord, e, major36, ec, e0, e1, e2, e3, e4]

theorem major37 (w : Nat) : decodeMaj w 55 =
    dec37 (fld w 31 1) (fld w 19 6) (fld w 13 6) (fld w 7 6) (fld w 2 5) (fld w 0 2) := rfl

theorem word37 {c x0 x1 x2 x3 x4 : Nat} (hc : c < 2) (h0 : x0 < 64) (h1 : x1 < 64) (h2 : x2 < 64) (h3 : x3 < 32) (h4 : x4 < 4) :
    decodeWord (wordQ c 55 x0 x1 x2 x3 x4) = dec37 c x0 x1 x2 x3 x4 := by
  have e : fld (wordQ c 55 x0 x1 x2 x3 x4) 25 6 = 55 := by simp only [fld, wordQ]; omega
  have ec : fld (wordQ c 55 x0 x1 x2 x3 x4) 31 1 = c := by simp only [fld, wordQ]; omega
  have e0 : fld (wordQ c 55 x0 x1 x2 x3 x4) 19 6 = x0 := by simp only [fld, wordQ]; omega
  have e1 : fld (wordQ c 55 x0 x1 x2 x3 x4) 13 6 = x1 := by simp only [fld, wordQ]; omega
  have e2 : fld (wordQ c 55 x0 x1 x2 x3 x4) 7 6 = x2 := by simp only [fld, wordQ]; omega
  have e3 : fld (wordQ c 55 x0 x1 x2 x3 x4) 2 5 = x3 := by simp only [fld, wordQ]; omega
  have e4 : fld (wordQ c 55 x0 x1 x2 x3 x4) 0 2 = x4 := by simp only [fld, wordQ]; omega
  rw [decodeWord, e, major37, ec, e0, e1, e2, e3, e4]

theorem major38 (w : Nat) : decodeMaj w 56 =
    dec38 (fld w 31 1) (fld w 19 6) (fld w 13 6) (fld w 7 6) (fld w 2 5) (fld w 0 2) := rfl

theorem word38 {c x0 x1 x2 x3 x4 : Nat} (hc : c < 2) (h0 : x0 < 64) (h1 : x1 < 64) (h2 : x2 < 64) (h3 : x3 < 32) (h4 : x4 < 4) :
    decodeWord (wordQ c 56 x0 x1 x2 x3 x4) = dec38 c x0 x1 x2 x3 x4 := by
  have e : fld (wordQ c 56 x0 x1 x2 x3 x4) 25 6 = 56 := by simp only [fld, wordQ]; omega
  have ec : fld (wordQ c 56 x0 x1 x2 x3 x4) 31 1 = c := by simp only [fld, wordQ]; omega
  have e0 : fld (wordQ c 56 x0 x1 x2 x3 x4) 19 6 = x0 := by simp only [fld, wordQ]; omega
  have e1 : fld (wordQ c 56 x0 x1 x2 x3 x4) 13 6 = x1 := by simp only [fld, wordQ]; omega
  have e2 : fld (wordQ c 56 x0 x1 x2 x3 x4) 7 6 = x2 := by simp only [fld, wordQ]; omega
  have e3 : fld (wordQ c 56 x0 x1 x2 x3 x4) 2 5 = x3 := by simp only [fld, wordQ]; omega
  have e4 : fld (wordQ c 56 x0 x1 x2 x3 x4) 0 2 = x4 := by simp only [fld, wordQ]; omega
  rw [decodeWord, e, major38, ec, e0, e1, e2, e3, e4]

theorem major39 (w : Nat) : decodeMaj w 57 =
    dec39 (fld w 31 1) (fld w 19 6) (fld w 13 6) (fld w 7 6) (fld w 2 5) (fld w 0 2) := rfl

theorem word39 {c x0 x1 x2 x3 x4 : Nat} (hc : c < 2) (h0 : x0 < 64) (h1 : x1 < 64) (h2 : x2 < 64) (h3 : x3 < 32) (h4 : x4 < 4) :
    decodeWord (wordQ c 57 x0 x1 x2 x3 x4) = dec39 c x0 x1 x2 x3 x4 := by
  have e : fld (wordQ c 57 x0 x1 x2 x3 x4) 25 6 = 57 := by simp only [fld, wordQ]; omega
  have ec : fld (wordQ c 57 x0 x1 x2 x3 x4) 31 1 = c := by simp only [fld, wordQ]; omega
  have e0 : fld (wordQ c 57 x0 x1 x2 x3 x4) 19 6 = x0 := by simp only [fld, wordQ]; omega
  have e1 : fld (wordQ c 57 x0 x1 x2 x3 x4) 13 6 = x1 := by simp only [fld, wordQ]; omega
  have e2 : fld (wordQ c 57 x0 x1 x2 x3 x4) 7 6 = x2 := by simp only [fld, wordQ]; omega
  have e3 : fld (wordQ c 57 x0 x1 x2 x3 x4) 2 5 = x3 := by simp only [fld, wordQ]; omega
  have e4 : fld (wordQ c 57 x0 x1 x2 x3 x4) 0 2 = x4 := by simp only [fld, wordQ]; omega
  rw [decodeWord, e, major39, ec, e0, e1, e2, e3, e4]

theorem major3A (w : Nat) : decodeMaj w 58 =
    dec3A (fld w 31 1) (fld w 19 6) (fld w 13 6) (fld w 7 6) (fld w 2 5) (fld w 0 2) := rfl

theorem word3A {c x0 x1 x2 x3 x4 : Nat} (hc : c < 2) (h0 : x0 < 64) (h1 : x1 < 64) (h2 : x2 < 64) (h3 : x3 < 32) (h4 : x4 < 4) :
    decodeWord (wordQ c 58 x0 x1 x2 x3 x4) = dec3A c x0 x1 x2 x3 x4 := by
  have e : fld (wordQ c 58 x0 x1 x2 x3 x4) 25 6 = 58 := by simp only [fld, wordQ]; omega
  have ec : fld (wordQ c 58 x0 x1 x2 x3 x4) 31 1 = c := by simp only [fld, wordQ]; omega
  have e0 : fld (wordQ c 58 x0 x1 x2 x3 x4) 19 6 = x0 := by simp only [fld, wordQ]; omega
  have e1 : fld (wordQ c 58 x0 x1 x2 x3 x4) 13 6 = x1 := by simp only [fld, wordQ]; omega
  have e2 : fld (wordQ c 58 x0 x1 x2 x3 x4) 7 6 = x2 := by simp only [fld, wordQ]; omega
  have e3 : fld (wordQ c 58 x0 x1 x2 x3 x4) 2 5 = x3 := by simp only [fld, wordQ]; omega
  have e4 : fld (wordQ c 58 x0 x1 x2 x3 x4) 0 2 = x4 := by simp only [fld, wordQ]; omega
  rw [decodeWord, e, major3A, ec, e0, e1, e2, e3, e4]

theorem major3B (w : Nat) : decodeMaj w 59 =
    dec3B (fld w 31 1) (fld w 19 6) (fld w 13 6) (fld w 7 6) (fld w 2 5) (fld w 0 2) := rfl

theorem word3B {c x0 x1 x2 x3 x4 : Nat} (hc : c < 2) (h0 : x0 < 64) (h1 : x1 < 64) (h2 : x2 < 64) (h3 : x3 < 32) (h4 : x4 < 4) :
    decodeWord (wordQ c 59 x0 x1 x2 x3 x4) = dec3B c x0 x1 x2 x3 x4 := by
  have e : fld (wordQ c 59 x0 x1 x2 x3 x4) 25 6 = 59 := by simp only [fld, wordQ]; omega
  have ec : fld (wordQ c 59 x0 x1 x2 x3 x4) 31 1 = c := by simp only [fld, wordQ]; omega
  have e0 : fld (wordQ c 59 x0 x1 x2 x3 x4) 19 6 = x0 := by simp only [fld, wordQ]; omega
  have e1 : fld (wordQ c 59 x0 x1 x2 x3 x4) 13 6 = x1 := by simp only [fld, wordQ]; omega
  have e2 : fld (wordQ c 59 x0 x1 x2 x3 x4) 7 6 = x2 := by simp only [fld, wordQ]; omega
  have e3 : fld (wordQ c 59 x0 x1 x2 x3 x4) 2 5 = x3 := by simp only [fld, wordQ]; omega
  have e4 : fld (wordQ c 59 x0 x1 x2 x3 x4) 0 2 = x4 := by simp only [fld, wordQ]; omega
  rw [decodeWord, e, major3B, ec, e0, e1, e2, e3, e4]

end Sys2Proof
end

