-- ==== Sys2Proof/Laws/Memory.lean ====
section
/-! SUPPORT. What the memory operations do: a read after a write, and the canonical form, which every operation keeps
(notes/assumptions/2.md). -/

set_option Elab.async false

namespace Sys2Proof.Machine

/-! ### The canonical form -/

theorem Memory.wf_nil : Memory.wf [] := by constructor <;> simp

/-- A listed address after a write is the written one or was listed before. -/
theorem Memory.mem_set {m : Memory} {a : Nat} {v : Byte} {c : Host.Cell} (h : c ∈ m.set a v) :
    (c = (a, v) ∧ v ≠ 0) ∨ c ∈ m := by
  induction m with
  | nil =>
    simp only [Memory.set] at h
    split at h
    · cases h
    · simp only [List.mem_singleton] at h
      exact .inl ⟨h, by assumption⟩
  | cons x rest ih =>
    obtain ⟨k, b⟩ := x
    simp only [Memory.set] at h
    split at h
    · split at h
      · exact .inr h
      · rcases List.mem_cons.1 h with h | h
        · exact .inl ⟨h, by assumption⟩
        · exact .inr h
    · split at h
      · split at h
        · exact .inr (List.mem_cons_of_mem _ h)
        · rcases List.mem_cons.1 h with h | h
          · exact .inl ⟨h, by assumption⟩
          · exact .inr (List.mem_cons_of_mem _ h)
      · rcases List.mem_cons.1 h with h | h
        · exact .inr (by rw [h]; exact List.mem_cons_self)
        · rcases ih h with h | h
          · exact .inl h
          · exact .inr (List.mem_cons_of_mem _ h)

theorem Memory.set_wf {m : Memory} (h : m.wf) (a : Nat) (v : Byte) : (m.set a v).wf := by
  refine ⟨?_, fun c hc => ?_⟩
  · induction m with
    | nil => simp only [Memory.set]; split <;> simp
    | cons x rest ih =>
      obtain ⟨k, b⟩ := x
      obtain ⟨hp, hz⟩ := h
      obtain ⟨h1, h2⟩ := List.pairwise_cons.1 hp
      have hr : Memory.wf rest := ⟨h2, fun x hx => hz x (List.mem_cons_of_mem _ hx)⟩
      simp only [Memory.set]
      split
      · split
        · exact hp
        · refine List.pairwise_cons.2 ⟨fun y hy => ?_, hp⟩
          rcases List.mem_cons.1 hy with hy | hy
          · subst hy; assumption
          · exact lt_trans (by assumption) (h1 y hy)
      · split
        · split
          · exact h2
          · refine List.pairwise_cons.2 ⟨fun y hy => ?_, h2⟩
            have := h1 y hy
            simp only at this ⊢
            omega
        · refine List.pairwise_cons.2 ⟨fun y hy => ?_, ih hr⟩
          rcases Memory.mem_set hy with ⟨hy, _⟩ | hy
          · subst hy
            simp only
            omega
          · exact h1 y hy
  · rcases Memory.mem_set hc with ⟨hc, hv⟩ | hc
    · subst hc; exact hv
    · exact h.2 c hc

theorem Memory.write_wf {m : Memory} (h : m.wf) (a n v : Nat) : (m.write a n v).wf := by
  induction n generalizing m a v with
  | zero => exact h
  | succ n ih => exact ih (Memory.set_wf h a _) _ _

theorem Memory.writeMasked_wf {m : Memory} (h : m.wf) (a n v mask : Nat) : (m.writeMasked a n v mask).wf :=
  Memory.write_wf h _ _ _

theorem Memory.writeBytes_wf {m : Memory} (h : m.wf) (a : Nat) (bs : List Byte) : (m.writeBytes a bs).wf := by
  induction bs generalizing m a with
  | nil => exact h
  | cons b rest ih => exact ih (Memory.set_wf h a b) _

theorem Memory.filter_wf {m : Memory} (h : m.wf) (p : Host.Cell → Bool) : Memory.wf (m.filter p) :=
  ⟨List.Pairwise.sublist List.filter_sublist h.1, fun c hc => h.2 c (List.mem_of_mem_filter hc)⟩

theorem Memory.clear_wf {m : Memory} (h : m.wf) (lo n : Nat) : (m.clear lo n).wf := Memory.filter_wf h _

/-! ### A read after a write -/

/-- An address below every listed one reads as 0. -/
theorem Memory.get_of_lt {m : Memory} {a : Nat} (h : ∀ c ∈ m, a < c.1) : m.get a = 0 := by
  induction m with
  | nil => rfl
  | cons x rest ih =>
    obtain ⟨k, b⟩ := x
    have hk : a < k := h (k, b) List.mem_cons_self
    simp only [Memory.get]
    rw [if_neg (by omega)]
    exact ih (fun c hc => h c (List.mem_cons_of_mem _ hc))

/-- Every byte after a write of one byte. -/
theorem Memory.get_set {m : Memory} (h : m.wf) (a b : Nat) (v : Byte) :
    (m.set a v).get b = if b = a then v else m.get b := by
  induction m with
  | nil =>
    simp only [Memory.set]
    by_cases hv : v = 0
    · rw [if_pos hv, hv]; split <;> rfl
    · rw [if_neg hv]
      by_cases hb : b = a
      · rw [if_pos hb, Memory.get, if_pos hb.symm]
      · rw [if_neg hb]; simp only [Memory.get]; rw [if_neg (Ne.symm hb)]
  | cons x rest ih =>
    obtain ⟨k, w⟩ := x
    obtain ⟨h1, h2⟩ := List.pairwise_cons.1 h.1
    have hr : Memory.wf rest := ⟨h2, fun x hx => h.2 x (List.mem_cons_of_mem _ hx)⟩
    have hlow : ∀ c, c ≤ k → Memory.get rest c = 0 := fun c hc =>
      Memory.get_of_lt (fun y hy => lt_of_le_of_lt hc (h1 y hy))
    simp only [Memory.set]
    split
    · rename_i hak
      by_cases hv : v = 0
      · rw [if_pos hv]
        by_cases hb : b = a
        · subst hb
          rw [if_pos rfl, hv]
          simp only [Memory.get]
          rw [if_neg (by omega), hlow b (by omega)]
        · rw [if_neg hb]
      · rw [if_neg hv]
        by_cases hb : b = a
        · subst hb; simp [Memory.get]
        · rw [if_neg hb]
          conv_lhs => rw [Memory.get]
          rw [if_neg (Ne.symm hb)]
    · split
      · rename_i hak
        subst hak
        by_cases hv : v = 0
        · rw [if_pos hv]
          by_cases hb : b = a
          · subst hb; rw [if_pos rfl, hv]; exact hlow b le_rfl
          · rw [if_neg hb]; simp only [Memory.get]; rw [if_neg (Ne.symm hb)]
        · rw [if_neg hv]
          by_cases hb : b = a
          · subst hb; simp [Memory.get]
          · rw [if_neg hb]; simp only [Memory.get]; rw [if_neg (Ne.symm hb), if_neg (Ne.symm hb)]
      · rename_i hak
        simp only [Memory.get]
        by_cases hb : k = b
        · subst hb; rw [if_pos rfl, if_pos rfl, if_neg (by omega)]
        · rw [if_neg hb, if_neg hb]; exact ih hr

/-- Every byte after a write of `n` bytes. -/
theorem Memory.get_write {m : Memory} (h : m.wf) (a n v b : Nat) :
    (m.write a n v).get b = if a ≤ b ∧ b < a + n then BitVec.ofNat 8 (v / 256 ^ (b - a)) else m.get b := by
  induction n generalizing m a v with
  | zero => simp only [Memory.write]; rw [if_neg (by omega)]
  | succ n ih =>
    simp only [Memory.write]
    rw [ih (Memory.set_wf h _ _), Memory.get_set h]
    by_cases hb : b = a
    · subst hb
      rw [if_neg (by omega), if_pos rfl, if_pos (by omega)]
      simp
    · by_cases hr : a + 1 ≤ b ∧ b < a + 1 + n
      · rw [if_pos hr, if_pos (by omega), Nat.div_div_eq_div_mul]
        have : b - a = (b - (a + 1)) + 1 := by omega
        rw [this, pow_succ, Nat.mul_comm]
      · rw [if_neg hr, if_neg hb, if_neg (by omega)]

/-- Bytes outside the written ones read as before. -/
theorem Memory.get_write_other {m : Memory} (h : m.wf) {a n b : Nat} (v : Nat) (ho : b < a ∨ a + n ≤ b) :
    (m.write a n v).get b = m.get b := by
  rw [Memory.get_write h, if_neg (by omega)]

/-- Every byte after a write of a list of bytes. -/
theorem Memory.get_writeBytes {m : Memory} (h : m.wf) (a : Nat) (bs : List Byte) (b : Nat) :
    (m.writeBytes a bs).get b = if a ≤ b ∧ b < a + bs.length then bs.getD (b - a) 0 else m.get b := by
  induction bs generalizing m a with
  | nil => rw [Memory.writeBytes, if_neg (by simp)]
  | cons x rest ih =>
    rw [Memory.writeBytes, ih (Memory.set_wf h _ _), Memory.get_set h]
    by_cases hb : b = a
    · subst hb
      rw [if_neg (by omega), if_pos rfl, if_pos (by simp)]
      simp
    · by_cases hr : a + 1 ≤ b ∧ b < a + 1 + rest.length
      · obtain ⟨k, hk⟩ : ∃ k, b - a = k + 1 := ⟨b - a - 1, by omega⟩
        rw [if_pos hr, if_pos (by simp only [List.length_cons]; omega), hk, List.getD_cons_succ]
        congr 1
        omega
      · rw [if_neg hr, if_neg hb, if_neg (by simp only [List.length_cons]; omega)]

/-! ### Bytes and numbers -/

theorem natToBytes_length (v n : Nat) : (natToBytes v n).length = n := by
  induction n generalizing v with
  | zero => rfl
  | succ n ih => rw [natToBytes, List.length_cons, ih]

theorem bytesToNat_lt (bs : List Byte) : bytesToNat bs < 256 ^ bs.length := by
  induction bs with
  | nil => decide
  | cons b rest ih =>
    have := b.isLt
    rw [bytesToNat, List.length_cons, pow_succ]
    omega

/-- A number that fits is read back from its bytes. -/
theorem bytesToNat_natToBytes (v n : Nat) : bytesToNat (natToBytes v n) = v % 256 ^ n := by
  induction n generalizing v with
  | zero => simp [natToBytes, bytesToNat, Nat.mod_one]
  | succ n ih =>
    rw [natToBytes, bytesToNat, ih, BitVec.toNat_ofNat, pow_succ' 256 n]
    exact (Nat.mod_mul (x := v) (a := 256) (b := 256 ^ n)).symm

/-- Cleared addresses read 0, the others as before. -/
theorem Memory.get_clear (m : Memory) (lo n b : Nat) :
    (m.clear lo n).get b = if lo ≤ b ∧ b < lo + n then 0 else m.get b := by
  induction m with
  | nil => simp [Memory.clear, Memory.get]
  | cons x rest ih =>
    obtain ⟨k, w⟩ := x
    have hc : Memory.clear ((k, w) :: rest) lo n =
        if lo ≤ k ∧ k < lo + n then Memory.clear rest lo n else (k, w) :: Memory.clear rest lo n := by
      unfold Memory.clear
      rw [List.filter_cons]
      by_cases hk : lo ≤ k ∧ k < lo + n
      · simp [hk]
      · rw [if_neg hk, if_pos (by simp only [Bool.not_eq_true', Bool.and_eq_false_iff, decide_eq_false_iff_not]; omega)]
    rw [hc]
    by_cases hk : lo ≤ k ∧ k < lo + n
    · rw [if_pos hk, ih]
      by_cases hb : lo ≤ b ∧ b < lo + n
      · rw [if_pos hb, if_pos hb]
      · rw [if_neg hb, if_neg hb]
        simp only [Memory.get]
        rw [if_neg (by omega)]
    · rw [if_neg hk]
      simp only [Memory.get]
      by_cases hkb : k = b
      · subst hkb; rw [if_pos rfl, if_neg hk, if_pos rfl]
      · rw [if_neg hkb, if_neg hkb, ih]

end Sys2Proof.Machine
end

