-- ==== Sys2Proof/Laws/PerInstr.lean ====
section
/-! SUPPORT. The family RoundTrip: the decoder gives back every instruction that the encoder writes, constructor by
constructor (spec/02_instruction_word.md R29 to R46). -/

set_option Elab.async false
set_option linter.unusedSimpArgs false

namespace Sys2Proof.Laws.RoundTrip

/-- The word of a well-formed instruction decodes to it. -/
def Statement (i : Instr) : Prop := i.wellFormed = true → ∀ w, encode i = some w → decodeWord w = some (canonical i)

theorem of_word {i : Instr} {w : Nat} (h : encode i = some w) (hd : decodeWord w = some (canonical i)) : Statement i := by
  intro _ v hv
  rw [h] at hv
  cases hv
  exact hd

theorem slui (d : SReg) (i : BitVec 20) : Statement (.slui d i) := by
  exact of_word rfl ((word01 (by decide) d.isLt i.isLt).trans (by simp [dec01, canonical]))

theorem spcrel (d : SReg) (i : BitVec 20) : Statement (.spcrel d i) := by
  exact of_word rfl ((word02 (by decide) d.isLt i.isLt).trans (by simp [dec02, canonical]))

theorem sjal (d : SReg) (o : BitVec 20) : Statement (.sjal d o) := by
  exact of_word rfl ((word03 (by decide) d.isLt o.isLt).trans (by simp [dec03, canonical]))

theorem sjalr (d : SReg) (a : SReg) (i : BitVec 15) : Statement (.sjalr d a i) := by
  exact of_word rfl ((word04 (by decide) d.isLt a.isLt i.isLt).trans (by simp [dec04, canonical]))

theorem sbeq (a : SReg) (b : SReg) (o : BitVec 15) : Statement (.sbeq a b o) := by
  exact of_word rfl ((word05 (by decide) a.isLt b.isLt o.isLt).trans (by simp [dec05, canonical]))

theorem sbne (a : SReg) (b : SReg) (o : BitVec 15) : Statement (.sbne a b o) := by
  exact of_word rfl ((word06 (by decide) a.isLt b.isLt o.isLt).trans (by simp [dec06, canonical]))

theorem sblt (a : SReg) (b : SReg) (o : BitVec 15) : Statement (.sblt a b o) := by
  exact of_word rfl ((word07 (by decide) a.isLt b.isLt o.isLt).trans (by simp [dec07, canonical]))

theorem sbge (a : SReg) (b : SReg) (o : BitVec 15) : Statement (.sbge a b o) := by
  exact of_word rfl ((word08 (by decide) a.isLt b.isLt o.isLt).trans (by simp [dec08, canonical]))

theorem sbltn (a : SReg) (b : SReg) (o : BitVec 15) : Statement (.sbltn a b o) := by
  exact of_word rfl ((word09 (by decide) a.isLt b.isLt o.isLt).trans (by simp [dec09, canonical]))

theorem sbgen (a : SReg) (b : SReg) (o : BitVec 15) : Statement (.sbgen a b o) := by
  exact of_word rfl ((word0A (by decide) a.isLt b.isLt o.isLt).trans (by simp [dec0A, canonical]))

theorem saddi (d : SReg) (a : SReg) (i : BitVec 15) : Statement (.saddi d a i) := by
  exact of_word rfl ((word0B (by decide) d.isLt a.isLt i.isLt).trans (by simp [dec0B, canonical]))

theorem sandi (d : SReg) (a : SReg) (i : BitVec 15) : Statement (.sandi d a i) := by
  exact of_word rfl ((word0C (by decide) d.isLt a.isLt i.isLt).trans (by simp [dec0C, canonical]))

theorem sori (d : SReg) (a : SReg) (i : BitVec 15) : Statement (.sori d a i) := by
  exact of_word rfl ((word0D (by decide) d.isLt a.isLt i.isLt).trans (by simp [dec0D, canonical]))

theorem sxori (d : SReg) (a : SReg) (i : BitVec 15) : Statement (.sxori d a i) := by
  exact of_word rfl ((word0E (by decide) d.isLt a.isLt i.isLt).trans (by simp [dec0E, canonical]))

theorem slti (d : SReg) (a : SReg) (i : BitVec 15) : Statement (.slti d a i) := by
  exact of_word rfl ((word0F (by decide) d.isLt a.isLt i.isLt).trans (by simp [dec0F, canonical]))

theorem sltin (d : SReg) (a : SReg) (i : BitVec 15) : Statement (.sltin d a i) := by
  exact of_word rfl ((word10 (by decide) d.isLt a.isLt i.isLt).trans (by simp [dec10, canonical]))

theorem sslli (d : SReg) (a : SReg) (n : BitVec 6) : Statement (.sslli d a n) := by
  exact of_word rfl ((word11 (by decide) d.isLt a.isLt (by decide) n.isLt).trans (by simp [dec11, canonical]))

theorem ssrli (d : SReg) (a : SReg) (n : BitVec 6) : Statement (.ssrli d a n) := by
  exact of_word rfl ((word11 (by decide) d.isLt a.isLt (by decide) n.isLt).trans (by simp [dec11, canonical]))

theorem ssrai (d : SReg) (a : SReg) (n : BitVec 6) : Statement (.ssrai d a n) := by
  exact of_word rfl ((word11 (by decide) d.isLt a.isLt (by decide) n.isLt).trans (by simp [dec11, canonical]))

theorem sadd (d : SReg) (a : SReg) (b : SReg) : Statement (.sadd d a b) := by
  exact of_word rfl ((word12 (by decide) d.isLt a.isLt b.isLt (by decide)).trans (by simp [dec12, canonical]))

theorem ssub (d : SReg) (a : SReg) (b : SReg) : Statement (.ssub d a b) := by
  exact of_word rfl ((word12 (by decide) d.isLt a.isLt b.isLt (by decide)).trans (by simp [dec12, canonical]))

theorem sand (d : SReg) (a : SReg) (b : SReg) : Statement (.sand d a b) := by
  exact of_word rfl ((word12 (by decide) d.isLt a.isLt b.isLt (by decide)).trans (by simp [dec12, canonical]))

theorem sor (d : SReg) (a : SReg) (b : SReg) : Statement (.sor d a b) := by
  exact of_word rfl ((word12 (by decide) d.isLt a.isLt b.isLt (by decide)).trans (by simp [dec12, canonical]))

theorem sxor (d : SReg) (a : SReg) (b : SReg) : Statement (.sxor d a b) := by
  exact of_word rfl ((word12 (by decide) d.isLt a.isLt b.isLt (by decide)).trans (by simp [dec12, canonical]))

theorem sandn (d : SReg) (a : SReg) (b : SReg) : Statement (.sandn d a b) := by
  exact of_word rfl ((word12 (by decide) d.isLt a.isLt b.isLt (by decide)).trans (by simp [dec12, canonical]))

theorem ssll (d : SReg) (a : SReg) (b : SReg) : Statement (.ssll d a b) := by
  exact of_word rfl ((word12 (by decide) d.isLt a.isLt b.isLt (by decide)).trans (by simp [dec12, canonical]))

theorem ssrl (d : SReg) (a : SReg) (b : SReg) : Statement (.ssrl d a b) := by
  exact of_word rfl ((word12 (by decide) d.isLt a.isLt b.isLt (by decide)).trans (by simp [dec12, canonical]))

theorem ssra (d : SReg) (a : SReg) (b : SReg) : Statement (.ssra d a b) := by
  exact of_word rfl ((word12 (by decide) d.isLt a.isLt b.isLt (by decide)).trans (by simp [dec12, canonical]))

theorem sslt (d : SReg) (a : SReg) (b : SReg) : Statement (.sslt d a b) := by
  exact of_word rfl ((word12 (by decide) d.isLt a.isLt b.isLt (by decide)).trans (by simp [dec12, canonical]))

theorem ssltn (d : SReg) (a : SReg) (b : SReg) : Statement (.ssltn d a b) := by
  exact of_word rfl ((word12 (by decide) d.isLt a.isLt b.isLt (by decide)).trans (by simp [dec12, canonical]))

theorem smin (d : SReg) (a : SReg) (b : SReg) : Statement (.smin d a b) := by
  exact of_word rfl ((word12 (by decide) d.isLt a.isLt b.isLt (by decide)).trans (by simp [dec12, canonical]))

theorem smax (d : SReg) (a : SReg) (b : SReg) : Statement (.smax d a b) := by
  exact of_word rfl ((word12 (by decide) d.isLt a.isLt b.isLt (by decide)).trans (by simp [dec12, canonical]))

theorem sminn (d : SReg) (a : SReg) (b : SReg) : Statement (.sminn d a b) := by
  exact of_word rfl ((word12 (by decide) d.isLt a.isLt b.isLt (by decide)).trans (by simp [dec12, canonical]))

theorem smaxn (d : SReg) (a : SReg) (b : SReg) : Statement (.smaxn d a b) := by
  exact of_word rfl ((word12 (by decide) d.isLt a.isLt b.isLt (by decide)).trans (by simp [dec12, canonical]))

theorem smul (d : SReg) (a : SReg) (b : SReg) : Statement (.smul d a b) := by
  exact of_word rfl ((word12 (by decide) d.isLt a.isLt b.isLt (by decide)).trans (by simp [dec12, canonical]))

theorem smulh (d : SReg) (a : SReg) (b : SReg) : Statement (.smulh d a b) := by
  exact of_word rfl ((word12 (by decide) d.isLt a.isLt b.isLt (by decide)).trans (by simp [dec12, canonical]))

theorem smulhn (d : SReg) (a : SReg) (b : SReg) : Statement (.smulhn d a b) := by
  exact of_word rfl ((word12 (by decide) d.isLt a.isLt b.isLt (by decide)).trans (by simp [dec12, canonical]))

theorem smulhsu (d : SReg) (a : SReg) (b : SReg) : Statement (.smulhsu d a b) := by
  exact of_word rfl ((word12 (by decide) d.isLt a.isLt b.isLt (by decide)).trans (by simp [dec12, canonical]))

theorem sdiv (d : SReg) (a : SReg) (b : SReg) : Statement (.sdiv d a b) := by
  exact of_word rfl ((word12 (by decide) d.isLt a.isLt b.isLt (by decide)).trans (by simp [dec12, canonical]))

theorem sdivn (d : SReg) (a : SReg) (b : SReg) : Statement (.sdivn d a b) := by
  exact of_word rfl ((word12 (by decide) d.isLt a.isLt b.isLt (by decide)).trans (by simp [dec12, canonical]))

theorem srem (d : SReg) (a : SReg) (b : SReg) : Statement (.srem d a b) := by
  exact of_word rfl ((word12 (by decide) d.isLt a.isLt b.isLt (by decide)).trans (by simp [dec12, canonical]))

theorem sremn (d : SReg) (a : SReg) (b : SReg) : Statement (.sremn d a b) := by
  exact of_word rfl ((word12 (by decide) d.isLt a.isLt b.isLt (by decide)).trans (by simp [dec12, canonical]))

theorem spopc (d : SReg) (a : SReg) : Statement (.spopc d a) := by
  exact of_word rfl ((word12 (by decide) d.isLt a.isLt (by decide) (by decide)).trans (by simp [dec12, canonical]))

theorem sclz (d : SReg) (a : SReg) : Statement (.sclz d a) := by
  exact of_word rfl ((word12 (by decide) d.isLt a.isLt (by decide) (by decide)).trans (by simp [dec12, canonical]))

theorem sctz (d : SReg) (a : SReg) : Statement (.sctz d a) := by
  exact of_word rfl ((word12 (by decide) d.isLt a.isLt (by decide) (by decide)).trans (by simp [dec12, canonical]))

theorem sldD (d : SReg) (a : SReg) (i : BitVec 15) : Statement (.sldD d a i) := by
  exact of_word rfl ((word13 (by decide) d.isLt a.isLt i.isLt).trans (by simp [dec13, canonical]))

theorem sldW (d : SReg) (a : SReg) (i : BitVec 15) : Statement (.sldW d a i) := by
  exact of_word rfl ((word14 (by decide) d.isLt a.isLt i.isLt).trans (by simp [dec14, canonical]))

theorem sldnW (d : SReg) (a : SReg) (i : BitVec 15) : Statement (.sldnW d a i) := by
  exact of_word rfl ((word15 (by decide) d.isLt a.isLt i.isLt).trans (by simp [dec15, canonical]))

theorem sldH (d : SReg) (a : SReg) (i : BitVec 15) : Statement (.sldH d a i) := by
  exact of_word rfl ((word16 (by decide) d.isLt a.isLt i.isLt).trans (by simp [dec16, canonical]))

theorem sldnH (d : SReg) (a : SReg) (i : BitVec 15) : Statement (.sldnH d a i) := by
  exact of_word rfl ((word17 (by decide) d.isLt a.isLt i.isLt).trans (by simp [dec17, canonical]))

theorem sldB (d : SReg) (a : SReg) (i : BitVec 15) : Statement (.sldB d a i) := by
  exact of_word rfl ((word18 (by decide) d.isLt a.isLt i.isLt).trans (by simp [dec18, canonical]))

theorem sldnB (d : SReg) (a : SReg) (i : BitVec 15) : Statement (.sldnB d a i) := by
  exact of_word rfl ((word19 (by decide) d.isLt a.isLt i.isLt).trans (by simp [dec19, canonical]))

theorem sstD (v : SReg) (a : SReg) (i : BitVec 15) : Statement (.sstD v a i) := by
  exact of_word rfl ((word1A (by decide) v.isLt a.isLt i.isLt).trans (by simp [dec1A, canonical]))

theorem sstW (v : SReg) (a : SReg) (i : BitVec 15) : Statement (.sstW v a i) := by
  exact of_word rfl ((word1B (by decide) v.isLt a.isLt i.isLt).trans (by simp [dec1B, canonical]))

theorem sstH (v : SReg) (a : SReg) (i : BitVec 15) : Statement (.sstH v a i) := by
  exact of_word rfl ((word1C (by decide) v.isLt a.isLt i.isLt).trans (by simp [dec1C, canonical]))

theorem sstB (v : SReg) (a : SReg) (i : BitVec 15) : Statement (.sstB v a i) := by
  exact of_word rfl ((word1D (by decide) v.isLt a.isLt i.isLt).trans (by simp [dec1D, canonical]))

theorem sfadd (d : SReg) (a : SReg) (b : SReg) (r : RmField) (f : Bool) : Statement (.sfadd d a b r f) := by
  have hd := d.isLt
  have ha := a.isLt
  have hb := b.isLt
  have hr := r.isLt
  have hf := (bit_lt f)
  have hhf : bit (f.toNat % 2) = f ∧ f.toNat ≤ 1 := by cases f <;> decide
  refine of_word rfl ((word1E (by decide) d.isLt a.isLt b.isLt (by decide) (by have := r.isLt; omega) (bit_lt f) (by decide)).trans ?_)
  simp [dec1E, canonical, *]

theorem sfsub (d : SReg) (a : SReg) (b : SReg) (r : RmField) (f : Bool) : Statement (.sfsub d a b r f) := by
  have hd := d.isLt
  have ha := a.isLt
  have hb := b.isLt
  have hr := r.isLt
  have hf := (bit_lt f)
  have hhf : bit (f.toNat % 2) = f ∧ f.toNat ≤ 1 := by cases f <;> decide
  refine of_word rfl ((word1E (by decide) d.isLt a.isLt b.isLt (by decide) (by have := r.isLt; omega) (bit_lt f) (by decide)).trans ?_)
  simp [dec1E, canonical, *]

theorem sfmul (d : SReg) (a : SReg) (b : SReg) (r : RmField) (f : Bool) : Statement (.sfmul d a b r f) := by
  have hd := d.isLt
  have ha := a.isLt
  have hb := b.isLt
  have hr := r.isLt
  have hf := (bit_lt f)
  have hhf : bit (f.toNat % 2) = f ∧ f.toNat ≤ 1 := by cases f <;> decide
  refine of_word rfl ((word1E (by decide) d.isLt a.isLt b.isLt (by decide) (by have := r.isLt; omega) (bit_lt f) (by decide)).trans ?_)
  simp [dec1E, canonical, *]

theorem sfdiv (d : SReg) (a : SReg) (b : SReg) (r : RmField) (f : Bool) : Statement (.sfdiv d a b r f) := by
  have hd := d.isLt
  have ha := a.isLt
  have hb := b.isLt
  have hr := r.isLt
  have hf := (bit_lt f)
  have hhf : bit (f.toNat % 2) = f ∧ f.toNat ≤ 1 := by cases f <;> decide
  refine of_word rfl ((word1E (by decide) d.isLt a.isLt b.isLt (by decide) (by have := r.isLt; omega) (bit_lt f) (by decide)).trans ?_)
  simp [dec1E, canonical, *]

theorem sfsqrt (d : SReg) (a : SReg) (r : RmField) (f : Bool) : Statement (.sfsqrt d a r f) := by
  have hd := d.isLt
  have ha := a.isLt
  have hr := r.isLt
  have hf := (bit_lt f)
  have hhf : bit (f.toNat % 2) = f ∧ f.toNat ≤ 1 := by cases f <;> decide
  refine of_word rfl ((word1E (by decide) d.isLt a.isLt (by decide) (by decide) (by have := r.isLt; omega) (bit_lt f) (by decide)).trans ?_)
  simp [dec1E, canonical, *]

theorem sfmin (d : SReg) (a : SReg) (b : SReg) (f : Bool) : Statement (.sfmin d a b f) := by
  exact of_word rfl ((word1E (by decide) d.isLt a.isLt b.isLt (by decide) (by decide) (bit_lt f) (by decide)).trans (by simp [dec1E, canonical]))

theorem sfmax (d : SReg) (a : SReg) (b : SReg) (f : Bool) : Statement (.sfmax d a b f) := by
  exact of_word rfl ((word1E (by decide) d.isLt a.isLt b.isLt (by decide) (by decide) (bit_lt f) (by decide)).trans (by simp [dec1E, canonical]))

theorem sfma (d : SReg) (a : SReg) (b : SReg) (r : RmField) (f : Bool) : Statement (.sfma d a b r f) := by
  have hd := d.isLt
  have ha := a.isLt
  have hb := b.isLt
  have hr := r.isLt
  have hf := (bit_lt f)
  have hhf : bit (f.toNat % 2) = f ∧ f.toNat ≤ 1 := by cases f <;> decide
  refine of_word rfl ((word1E (by decide) d.isLt a.isLt b.isLt (by decide) (by have := r.isLt; omega) (bit_lt f) (by decide)).trans ?_)
  simp [dec1E, canonical, *]

theorem sfsignc (d : SReg) (a : SReg) (b : SReg) (f : Bool) : Statement (.sfsignc d a b f) := by
  exact of_word rfl ((word1E (by decide) d.isLt a.isLt b.isLt (by decide) (by decide) (bit_lt f) (by decide)).trans (by simp [dec1E, canonical]))

theorem sfsignn (d : SReg) (a : SReg) (b : SReg) (f : Bool) : Statement (.sfsignn d a b f) := by
  exact of_word rfl ((word1E (by decide) d.isLt a.isLt b.isLt (by decide) (by decide) (bit_lt f) (by decide)).trans (by simp [dec1E, canonical]))

theorem sfsignx (d : SReg) (a : SReg) (b : SReg) (f : Bool) : Statement (.sfsignx d a b f) := by
  exact of_word rfl ((word1E (by decide) d.isLt a.isLt b.isLt (by decide) (by decide) (bit_lt f) (by decide)).trans (by simp [dec1E, canonical]))

theorem sfeq (d : SReg) (a : SReg) (b : SReg) (f : Bool) : Statement (.sfeq d a b f) := by
  exact of_word rfl ((word1E (by decide) d.isLt a.isLt b.isLt (by decide) (by decide) (bit_lt f) (by decide)).trans (by simp [dec1E, canonical]))

theorem sflt (d : SReg) (a : SReg) (b : SReg) (f : Bool) : Statement (.sflt d a b f) := by
  exact of_word rfl ((word1E (by decide) d.isLt a.isLt b.isLt (by decide) (by decide) (bit_lt f) (by decide)).trans (by simp [dec1E, canonical]))

theorem sfle (d : SReg) (a : SReg) (b : SReg) (f : Bool) : Statement (.sfle d a b f) := by
  exact of_word rfl ((word1E (by decide) d.isLt a.isLt b.isLt (by decide) (by decide) (bit_lt f) (by decide)).trans (by simp [dec1E, canonical]))

theorem sfcvti (d : SReg) (a : SReg) (r : RmField) (f : Bool) : Statement (.sfcvti d a r f) := by
  have hd := d.isLt
  have ha := a.isLt
  have hr := r.isLt
  have hf := (bit_lt f)
  have hhf : bit (f.toNat % 2) = f ∧ f.toNat ≤ 1 := by cases f <;> decide
  refine of_word rfl ((word1E (by decide) d.isLt a.isLt (by decide) (by decide) (by have := r.isLt; omega) (bit_lt f) (by decide)).trans ?_)
  simp [dec1E, canonical, *]

theorem sfcvtn (d : SReg) (a : SReg) (r : RmField) (f : Bool) : Statement (.sfcvtn d a r f) := by
  have hd := d.isLt
  have ha := a.isLt
  have hr := r.isLt
  have hf := (bit_lt f)
  have hhf : bit (f.toNat % 2) = f ∧ f.toNat ≤ 1 := by cases f <;> decide
  refine of_word rfl ((word1E (by decide) d.isLt a.isLt (by decide) (by decide) (by have := r.isLt; omega) (bit_lt f) (by decide)).trans ?_)
  simp [dec1E, canonical, *]

theorem sicvtf (d : SReg) (a : SReg) (r : RmField) (f : Bool) : Statement (.sicvtf d a r f) := by
  have hd := d.isLt
  have ha := a.isLt
  have hr := r.isLt
  have hf := (bit_lt f)
  have hhf : bit (f.toNat % 2) = f ∧ f.toNat ≤ 1 := by cases f <;> decide
  refine of_word rfl ((word1E (by decide) d.isLt a.isLt (by decide) (by decide) (by have := r.isLt; omega) (bit_lt f) (by decide)).trans ?_)
  simp [dec1E, canonical, *]

theorem sncvtf (d : SReg) (a : SReg) (r : RmField) (f : Bool) : Statement (.sncvtf d a r f) := by
  have hd := d.isLt
  have ha := a.isLt
  have hr := r.isLt
  have hf := (bit_lt f)
  have hhf : bit (f.toNat % 2) = f ∧ f.toNat ≤ 1 := by cases f <;> decide
  refine of_word rfl ((word1E (by decide) d.isLt a.isLt (by decide) (by decide) (by have := r.isLt; omega) (bit_lt f) (by decide)).trans ?_)
  simp [dec1E, canonical, *]

theorem sfcvtx (d : SReg) (a : SReg) (r : RmField) (f : Bool) : Statement (.sfcvtx d a r f) := by
  intro hw w h
  cases h
  have hr := r.isLt
  have hf : f = false → r = 0 := by
    intro h0
    simpa [Instr.wellFormed, h0] using hw
  refine (word1E (by decide) d.isLt a.isLt (by decide) (by decide) (by have := r.isLt; omega) (bit_lt f) (by decide)).trans ?_
  cases f
  · simp [dec1E, canonical, hf rfl, bit, rmf]
  · simp [dec1E, canonical, hr, bit]

theorem samoAdd (d : SReg) (a : SReg) (b : SReg) (s : Fin 4) (o : Fin 4) (w : Bool) : Statement (.samoAdd d a b s o w) := by
  exact of_word rfl ((word1F (by decide) d.isLt a.isLt b.isLt (by decide) s.isLt o.isLt (bit_lt w) (by decide)).trans (by simp [dec1F, canonical]))

theorem samoAnd (d : SReg) (a : SReg) (b : SReg) (s : Fin 4) (o : Fin 4) (w : Bool) : Statement (.samoAnd d a b s o w) := by
  exact of_word rfl ((word1F (by decide) d.isLt a.isLt b.isLt (by decide) s.isLt o.isLt (bit_lt w) (by decide)).trans (by simp [dec1F, canonical]))

theorem samoOr (d : SReg) (a : SReg) (b : SReg) (s : Fin 4) (o : Fin 4) (w : Bool) : Statement (.samoOr d a b s o w) := by
  exact of_word rfl ((word1F (by decide) d.isLt a.isLt b.isLt (by decide) s.isLt o.isLt (bit_lt w) (by decide)).trans (by simp [dec1F, canonical]))

theorem samoXor (d : SReg) (a : SReg) (b : SReg) (s : Fin 4) (o : Fin 4) (w : Bool) : Statement (.samoXor d a b s o w) := by
  exact of_word rfl ((word1F (by decide) d.isLt a.isLt b.isLt (by decide) s.isLt o.isLt (bit_lt w) (by decide)).trans (by simp [dec1F, canonical]))

theorem samoSwap (d : SReg) (a : SReg) (b : SReg) (s : Fin 4) (o : Fin 4) (w : Bool) : Statement (.samoSwap d a b s o w) := by
  exact of_word rfl ((word1F (by decide) d.isLt a.isLt b.isLt (by decide) s.isLt o.isLt (bit_lt w) (by decide)).trans (by simp [dec1F, canonical]))

theorem samoMin (d : SReg) (a : SReg) (b : SReg) (s : Fin 4) (o : Fin 4) (w : Bool) : Statement (.samoMin d a b s o w) := by
  exact of_word rfl ((word1F (by decide) d.isLt a.isLt b.isLt (by decide) s.isLt o.isLt (bit_lt w) (by decide)).trans (by simp [dec1F, canonical]))

theorem samoMax (d : SReg) (a : SReg) (b : SReg) (s : Fin 4) (o : Fin 4) (w : Bool) : Statement (.samoMax d a b s o w) := by
  exact of_word rfl ((word1F (by decide) d.isLt a.isLt b.isLt (by decide) s.isLt o.isLt (bit_lt w) (by decide)).trans (by simp [dec1F, canonical]))

theorem samoMinn (d : SReg) (a : SReg) (b : SReg) (s : Fin 4) (o : Fin 4) (w : Bool) : Statement (.samoMinn d a b s o w) := by
  exact of_word rfl ((word1F (by decide) d.isLt a.isLt b.isLt (by decide) s.isLt o.isLt (bit_lt w) (by decide)).trans (by simp [dec1F, canonical]))

theorem samoMaxn (d : SReg) (a : SReg) (b : SReg) (s : Fin 4) (o : Fin 4) (w : Bool) : Statement (.samoMaxn d a b s o w) := by
  exact of_word rfl ((word1F (by decide) d.isLt a.isLt b.isLt (by decide) s.isLt o.isLt (bit_lt w) (by decide)).trans (by simp [dec1F, canonical]))

theorem samoCas (d : SReg) (a : SReg) (b : SReg) (s : Fin 4) (o : Fin 4) (w : Bool) : Statement (.samoCas d a b s o w) := by
  exact of_word rfl ((word1F (by decide) d.isLt a.isLt b.isLt (by decide) s.isLt o.isLt (bit_lt w) (by decide)).trans (by simp [dec1F, canonical]))

theorem getsr (d : SReg) (n : BitVec 12) : Statement (.getsr d n) := by
  intro hw w h
  cases h
  refine (word20 (by decide) d.isLt (by decide) (by decide) n.isLt).trans ?_
  have hw' : srMapped n.toNat = true := hw
  simp [dec20, canonical, hw']

theorem putsr (a : SReg) (n : BitVec 12) : Statement (.putsr a n) := by
  intro hw w h
  cases h
  have hw' : srPlainWritable n.toNat = true := hw
  refine (word21 (by decide) (by decide) a.isLt (by decide) n.isLt).trans ?_
  have h7 : n.toNat ≠ 7 := by intro e; rw [e] at hw'; exact absurd hw' (by decide)
  have h44 : n.toNat ≠ 44 := by intro e; rw [e] at hw'; exact absurd hw' (by decide)
  have h51 : n.toNat ≠ 51 := by intro e; rw [e] at hw'; exact absurd hw' (by decide)
  have h53 : n.toNat ≠ 53 := by intro e; rw [e] at hw'; exact absurd hw' (by decide)
  have h47 : n.toNat ≠ 47 := by intro e; rw [e] at hw'; exact absurd hw' (by decide)
  simp [dec21, canonical, hw', h7, h44, h51, h53, h47]

theorem putsrFlags (a : SReg) : Statement (.putsrFlags a) := by
  exact of_word rfl ((word21 (by decide) (by decide) a.isLt (by decide) (by decide)).trans (by simp [dec21, canonical]))

theorem putsrEafq (a : SReg) : Statement (.putsrEafq a) := by
  exact of_word rfl ((word21 (by decide) (by decide) a.isLt (by decide) (by decide)).trans (by simp [dec21, canonical]))

theorem putsrEafqrResume (a : SReg) : Statement (.putsrEafqrResume a) := by
  exact of_word rfl ((word21 (by decide) (by decide) a.isLt (by decide) (by decide)).trans (by simp [dec21, canonical]))

theorem putsrEafqrDiscard (a : SReg) : Statement (.putsrEafqrDiscard a) := by
  exact of_word rfl ((word21 (by decide) (by decide) a.isLt (by decide) (by decide)).trans (by simp [dec21, canonical]))

theorem putsrQrmv (a : SReg) : Statement (.putsrQrmv a) := by
  exact of_word rfl ((word21 (by decide) (by decide) a.isLt (by decide) (by decide)).trans (by simp [dec21, canonical]))

theorem putsrQewin (a : SReg) : Statement (.putsrQewin a) := by
  exact of_word rfl ((word21 (by decide) (by decide) a.isLt (by decide) (by decide)).trans (by simp [dec21, canonical]))

theorem fence (s : Fin 4) (k : BitVec 4) : Statement (.fence s k) := by
  intro hw w h
  cases h
  have hs := s.isLt
  have hk := k.isLt
  have hk0 : k.toNat ≠ 0 := by
    intro h0
    have : k = 0#4 := BitVec.eq_of_toNat_eq h0
    simp [Instr.wellFormed, this] at hw
  have e1 : (16 * s.val + k.toNat) / 16 = s.val := by omega
  have e2 : (16 * s.val + k.toNat) % 16 = k.toNat := by omega
  refine (word22 (by decide) (by decide) (by decide) (by decide) (by decide) (by omega)).trans ?_
  simp [dec22, canonical, e1, e2, hk0]

theorem bar : Statement (.bar) := by
  exact of_word rfl ((word22 (by decide) (by decide) (by decide) (by decide) (by decide) (by decide)).trans (by simp [dec22, canonical]))

theorem waitEq (d : SReg) (a : SReg) (b : SReg) : Statement (.waitEq d a b) := by
  exact of_word rfl ((word22 (by decide) d.isLt a.isLt b.isLt (by decide) (by decide)).trans (by simp [dec22, canonical]))

theorem waitNe (d : SReg) (a : SReg) (b : SReg) : Statement (.waitNe d a b) := by
  exact of_word rfl ((word22 (by decide) d.isLt a.isLt b.isLt (by decide) (by decide)).trans (by simp [dec22, canonical]))

theorem waitGeu (d : SReg) (a : SReg) (b : SReg) : Statement (.waitGeu d a b) := by
  exact of_word rfl ((word22 (by decide) d.isLt a.isLt b.isLt (by decide) (by decide)).trans (by simp [dec22, canonical]))

theorem waitAny (d : SReg) (a : SReg) (b : SReg) : Statement (.waitAny d a b) := by
  exact of_word rfl ((word22 (by decide) d.isLt a.isLt b.isLt (by decide) (by decide)).trans (by simp [dec22, canonical]))

theorem pwait (a : SReg) (b : SReg) (p : TReg) : Statement (.pwait a b p) := by
  exact of_word rfl ((word22 (by decide) (by decide) a.isLt b.isLt (by decide) p.isLt).trans (by simp [dec22, canonical]))

theorem wmpub (d : SReg) (a : SReg) : Statement (.wmpub d a) := by
  exact of_word rfl ((word22 (by decide) d.isLt a.isLt (by decide) (by decide) (by decide)).trans (by simp [dec22, canonical]))

theorem trap (n : BitVec 6) : Statement (.trap n) := by
  exact of_word rfl ((word22 (by decide) (by decide) (by decide) (by decide) (by decide) n.isLt).trans (by simp [dec22, canonical]))

theorem halt : Statement (.halt) := by
  exact of_word rfl ((word22 (by decide) (by decide) (by decide) (by decide) (by decide) (by decide)).trans (by simp [dec22, canonical]))

theorem eret : Statement (.eret) := by
  exact of_word rfl ((word22 (by decide) (by decide) (by decide) (by decide) (by decide) (by decide)).trans (by simp [dec22, canonical]))

theorem yield : Statement (.yield) := by
  exact of_word rfl ((word22 (by decide) (by decide) (by decide) (by decide) (by decide) (by decide)).trans (by simp [dec22, canonical]))

theorem launch (d : SReg) (a : SReg) (b : SReg) : Statement (.launch d a b) := by
  exact of_word rfl ((word22 (by decide) d.isLt a.isLt b.isLt (by decide) (by decide)).trans (by simp [dec22, canonical]))

theorem setvl (d : SReg) (a : SReg) (b : SReg) : Statement (.setvl d a b) := by
  exact of_word rfl ((word23 (by decide) d.isLt a.isLt b.isLt (by decide)).trans (by simp [dec23, canonical]))

theorem setvlG (d : SReg) (a : SReg) : Statement (.setvlG d a) := by
  exact of_word rfl ((word23 (by decide) d.isLt a.isLt (by decide) (by decide)).trans (by simp [dec23, canonical]))

theorem setvlw (d : SReg) (a : SReg) (b : SReg) : Statement (.setvlw d a b) := by
  exact of_word rfl ((word23 (by decide) d.isLt a.isLt b.isLt (by decide)).trans (by simp [dec23, canonical]))

theorem settype (d : SReg) (a : SReg) : Statement (.settype d a) := by
  exact of_word rfl ((word23 (by decide) d.isLt a.isLt (by decide) (by decide)).trans (by simp [dec23, canonical]))

theorem reseat (d : SReg) (a : SReg) : Statement (.reseat d a) := by
  exact of_word rfl ((word23 (by decide) d.isLt a.isLt (by decide) (by decide)).trans (by simp [dec23, canonical]))

theorem allot (d : SReg) (a : SReg) : Statement (.allot d a) := by
  exact of_word rfl ((word23 (by decide) d.isLt a.isLt (by decide) (by decide)).trans (by simp [dec23, canonical]))

theorem tbany (t : Fin 8) (o : BitVec 19) : Statement (.tbany t o) := by
  exact of_word rfl ((word34 (by decide) (by decide) t.isLt o.isLt).trans (by simp [dec34, canonical]))

theorem tball (t : Fin 8) (o : BitVec 19) : Statement (.tball t o) := by
  exact of_word rfl ((word34 (by decide) (by decide) t.isLt o.isLt).trans (by simp [dec34, canonical]))

theorem tbnone (t : Fin 8) (o : BitVec 19) : Statement (.tbnone t o) := by
  exact of_word rfl ((word34 (by decide) (by decide) t.isLt o.isLt).trans (by simp [dec34, canonical]))

theorem tbdiv (t : Fin 8) (o : BitVec 19) : Statement (.tbdiv t o) := by
  exact of_word rfl ((word34 (by decide) (by decide) t.isLt o.isLt).trans (by simp [dec34, canonical]))

theorem tjoin : Statement (.tjoin) := by
  exact of_word rfl ((word34 (by decide) (by decide) (by decide) (by decide)).trans (by simp [dec34, canonical]))

theorem tfspill (t : Fin 8) : Statement (.tfspill t) := by
  exact of_word rfl ((word34 (by decide) (by decide) t.isLt (by decide)).trans (by simp [dec34, canonical]))

theorem tffill (t : Fin 8) : Statement (.tffill t) := by
  exact of_word rfl ((word34 (by decide) (by decide) t.isLt (by decide)).trans (by simp [dec34, canonical]))

theorem tadd (c : Bool) (d : TReg) (a : TReg) (b : TReg) (m : MaskMode) : Statement (.tadd c d a b m) := by
  exact of_word rfl ((word24 (bit_lt c) d.isLt a.isLt b.isLt m.code_lt (by decide)).trans (by simp [dec24, canonical]))

theorem tsub (c : Bool) (d : TReg) (a : TReg) (b : TReg) (m : MaskMode) : Statement (.tsub c d a b m) := by
  exact of_word rfl ((word24 (bit_lt c) d.isLt a.isLt b.isLt m.code_lt (by decide)).trans (by simp [dec24, canonical]))

theorem tand (c : Bool) (d : TReg) (a : TReg) (b : TReg) (m : MaskMode) : Statement (.tand c d a b m) := by
  exact of_word rfl ((word24 (bit_lt c) d.isLt a.isLt b.isLt m.code_lt (by decide)).trans (by simp [dec24, canonical]))

theorem tor (c : Bool) (d : TReg) (a : TReg) (b : TReg) (m : MaskMode) : Statement (.tor c d a b m) := by
  exact of_word rfl ((word24 (bit_lt c) d.isLt a.isLt b.isLt m.code_lt (by decide)).trans (by simp [dec24, canonical]))

theorem txor (c : Bool) (d : TReg) (a : TReg) (b : TReg) (m : MaskMode) : Statement (.txor c d a b m) := by
  exact of_word rfl ((word24 (bit_lt c) d.isLt a.isLt b.isLt m.code_lt (by decide)).trans (by simp [dec24, canonical]))

theorem tandn (c : Bool) (d : TReg) (a : TReg) (b : TReg) (m : MaskMode) : Statement (.tandn c d a b m) := by
  exact of_word rfl ((word24 (bit_lt c) d.isLt a.isLt b.isLt m.code_lt (by decide)).trans (by simp [dec24, canonical]))

theorem tmin (c : Bool) (d : TReg) (a : TReg) (b : TReg) (m : MaskMode) : Statement (.tmin c d a b m) := by
  exact of_word rfl ((word24 (bit_lt c) d.isLt a.isLt b.isLt m.code_lt (by decide)).trans (by simp [dec24, canonical]))

theorem tmax (c : Bool) (d : TReg) (a : TReg) (b : TReg) (m : MaskMode) : Statement (.tmax c d a b m) := by
  exact of_word rfl ((word24 (bit_lt c) d.isLt a.isLt b.isLt m.code_lt (by decide)).trans (by simp [dec24, canonical]))

theorem tsll (c : Bool) (d : TReg) (a : TReg) (b : TReg) (m : MaskMode) : Statement (.tsll c d a b m) := by
  exact of_word rfl ((word24 (bit_lt c) d.isLt a.isLt b.isLt m.code_lt (by decide)).trans (by simp [dec24, canonical]))

theorem tsrl (c : Bool) (d : TReg) (a : TReg) (b : TReg) (m : MaskMode) : Statement (.tsrl c d a b m) := by
  exact of_word rfl ((word24 (bit_lt c) d.isLt a.isLt b.isLt m.code_lt (by decide)).trans (by simp [dec24, canonical]))

theorem tsra (c : Bool) (d : TReg) (a : TReg) (b : TReg) (m : MaskMode) : Statement (.tsra c d a b m) := by
  exact of_word rfl ((word24 (bit_lt c) d.isLt a.isLt b.isLt m.code_lt (by decide)).trans (by simp [dec24, canonical]))

theorem tmul (c : Bool) (d : TReg) (a : TReg) (b : TReg) (m : MaskMode) : Statement (.tmul c d a b m) := by
  exact of_word rfl ((word24 (bit_lt c) d.isLt a.isLt b.isLt m.code_lt (by decide)).trans (by simp [dec24, canonical]))

theorem tmulh (c : Bool) (d : TReg) (a : TReg) (b : TReg) (m : MaskMode) : Statement (.tmulh c d a b m) := by
  exact of_word rfl ((word24 (bit_lt c) d.isLt a.isLt b.isLt m.code_lt (by decide)).trans (by simp [dec24, canonical]))

theorem tmulhsu (c : Bool) (d : TReg) (a : TReg) (b : TReg) (m : MaskMode) : Statement (.tmulhsu c d a b m) := by
  exact of_word rfl ((word24 (bit_lt c) d.isLt a.isLt b.isLt m.code_lt (by decide)).trans (by simp [dec24, canonical]))

theorem tdiv (c : Bool) (d : TReg) (a : TReg) (b : TReg) (m : MaskMode) : Statement (.tdiv c d a b m) := by
  exact of_word rfl ((word24 (bit_lt c) d.isLt a.isLt b.isLt m.code_lt (by decide)).trans (by simp [dec24, canonical]))

theorem trem (c : Bool) (d : TReg) (a : TReg) (b : TReg) (m : MaskMode) : Statement (.trem c d a b m) := by
  exact of_word rfl ((word24 (bit_lt c) d.isLt a.isLt b.isLt m.code_lt (by decide)).trans (by simp [dec24, canonical]))

theorem tsel (c : Bool) (d : TReg) (a : TReg) (b : TReg) : Statement (.tsel c d a b) := by
  exact of_word rfl ((word24 (bit_lt c) d.isLt a.isLt b.isLt (by decide) (by decide)).trans (by simp [dec24, canonical]))

theorem tmov (c : Bool) (d : TReg) (a : TReg) (m : MaskMode) : Statement (.tmov c d a m) := by
  exact of_word rfl ((word24 (bit_lt c) d.isLt a.isLt (by decide) m.code_lt (by decide)).trans (by simp [dec24, canonical]))

theorem tiota (c : Bool) (d : TReg) (m : MaskMode) : Statement (.tiota c d m) := by
  exact of_word rfl ((word24 (bit_lt c) d.isLt (by decide) (by decide) m.code_lt (by decide)).trans (by simp [dec24, canonical]))

theorem taddS (c : Bool) (d : TReg) (a : TReg) (b : SReg) (m : MaskMode) : Statement (.taddS c d a b m) := by
  have hd := d.isLt
  have ha := a.isLt
  have hb := b.isLt
  have hm := m.code_lt
  refine of_word rfl ((word25 (bit_lt c) d.isLt a.isLt (by have := b.isLt; omega) m.code_lt (by decide)).trans ?_)
  simp [dec25, canonical, Nat.mod_eq_of_lt hb, *]

theorem tsubS (c : Bool) (d : TReg) (a : TReg) (b : SReg) (m : MaskMode) : Statement (.tsubS c d a b m) := by
  have hd := d.isLt
  have ha := a.isLt
  have hb := b.isLt
  have hm := m.code_lt
  refine of_word rfl ((word25 (bit_lt c) d.isLt a.isLt (by have := b.isLt; omega) m.code_lt (by decide)).trans ?_)
  simp [dec25, canonical, Nat.mod_eq_of_lt hb, *]

theorem tandS (c : Bool) (d : TReg) (a : TReg) (b : SReg) (m : MaskMode) : Statement (.tandS c d a b m) := by
  have hd := d.isLt
  have ha := a.isLt
  have hb := b.isLt
  have hm := m.code_lt
  refine of_word rfl ((word25 (bit_lt c) d.isLt a.isLt (by have := b.isLt; omega) m.code_lt (by decide)).trans ?_)
  simp [dec25, canonical, Nat.mod_eq_of_lt hb, *]

theorem torS (c : Bool) (d : TReg) (a : TReg) (b : SReg) (m : MaskMode) : Statement (.torS c d a b m) := by
  have hd := d.isLt
  have ha := a.isLt
  have hb := b.isLt
  have hm := m.code_lt
  refine of_word rfl ((word25 (bit_lt c) d.isLt a.isLt (by have := b.isLt; omega) m.code_lt (by decide)).trans ?_)
  simp [dec25, canonical, Nat.mod_eq_of_lt hb, *]

theorem txorS (c : Bool) (d : TReg) (a : TReg) (b : SReg) (m : MaskMode) : Statement (.txorS c d a b m) := by
  have hd := d.isLt
  have ha := a.isLt
  have hb := b.isLt
  have hm := m.code_lt
  refine of_word rfl ((word25 (bit_lt c) d.isLt a.isLt (by have := b.isLt; omega) m.code_lt (by decide)).trans ?_)
  simp [dec25, canonical, Nat.mod_eq_of_lt hb, *]

theorem tandnS (c : Bool) (d : TReg) (a : TReg) (b : SReg) (m : MaskMode) : Statement (.tandnS c d a b m) := by
  have hd := d.isLt
  have ha := a.isLt
  have hb := b.isLt
  have hm := m.code_lt
  refine of_word rfl ((word25 (bit_lt c) d.isLt a.isLt (by have := b.isLt; omega) m.code_lt (by decide)).trans ?_)
  simp [dec25, canonical, Nat.mod_eq_of_lt hb, *]

theorem tminS (c : Bool) (d : TReg) (a : TReg) (b : SReg) (m : MaskMode) : Statement (.tminS c d a b m) := by
  have hd := d.isLt
  have ha := a.isLt
  have hb := b.isLt
  have hm := m.code_lt
  refine of_word rfl ((word25 (bit_lt c) d.isLt a.isLt (by have := b.isLt; omega) m.code_lt (by decide)).trans ?_)
  simp [dec25, canonical, Nat.mod_eq_of_lt hb, *]

theorem tmaxS (c : Bool) (d : TReg) (a : TReg) (b : SReg) (m : MaskMode) : Statement (.tmaxS c d a b m) := by
  have hd := d.isLt
  have ha := a.isLt
  have hb := b.isLt
  have hm := m.code_lt
  refine of_word rfl ((word25 (bit_lt c) d.isLt a.isLt (by have := b.isLt; omega) m.code_lt (by decide)).trans ?_)
  simp [dec25, canonical, Nat.mod_eq_of_lt hb, *]

theorem tsllS (c : Bool) (d : TReg) (a : TReg) (b : SReg) (m : MaskMode) : Statement (.tsllS c d a b m) := by
  have hd := d.isLt
  have ha := a.isLt
  have hb := b.isLt
  have hm := m.code_lt
  refine of_word rfl ((word25 (bit_lt c) d.isLt a.isLt (by have := b.isLt; omega) m.code_lt (by decide)).trans ?_)
  simp [dec25, canonical, Nat.mod_eq_of_lt hb, *]

theorem tsrlS (c : Bool) (d : TReg) (a : TReg) (b : SReg) (m : MaskMode) : Statement (.tsrlS c d a b m) := by
  have hd := d.isLt
  have ha := a.isLt
  have hb := b.isLt
  have hm := m.code_lt
  refine of_word rfl ((word25 (bit_lt c) d.isLt a.isLt (by have := b.isLt; omega) m.code_lt (by decide)).trans ?_)
  simp [dec25, canonical, Nat.mod_eq_of_lt hb, *]

theorem tsraS (c : Bool) (d : TReg) (a : TReg) (b : SReg) (m : MaskMode) : Statement (.tsraS c d a b m) := by
  have hd := d.isLt
  have ha := a.isLt
  have hb := b.isLt
  have hm := m.code_lt
  refine of_word rfl ((word25 (bit_lt c) d.isLt a.isLt (by have := b.isLt; omega) m.code_lt (by decide)).trans ?_)
  simp [dec25, canonical, Nat.mod_eq_of_lt hb, *]

theorem tmulS (c : Bool) (d : TReg) (a : TReg) (b : SReg) (m : MaskMode) : Statement (.tmulS c d a b m) := by
  have hd := d.isLt
  have ha := a.isLt
  have hb := b.isLt
  have hm := m.code_lt
  refine of_word rfl ((word25 (bit_lt c) d.isLt a.isLt (by have := b.isLt; omega) m.code_lt (by decide)).trans ?_)
  simp [dec25, canonical, Nat.mod_eq_of_lt hb, *]

theorem tmulhS (c : Bool) (d : TReg) (a : TReg) (b : SReg) (m : MaskMode) : Statement (.tmulhS c d a b m) := by
  have hd := d.isLt
  have ha := a.isLt
  have hb := b.isLt
  have hm := m.code_lt
  refine of_word rfl ((word25 (bit_lt c) d.isLt a.isLt (by have := b.isLt; omega) m.code_lt (by decide)).trans ?_)
  simp [dec25, canonical, Nat.mod_eq_of_lt hb, *]

theorem tmulhsuS (c : Bool) (d : TReg) (a : TReg) (b : SReg) (m : MaskMode) : Statement (.tmulhsuS c d a b m) := by
  have hd := d.isLt
  have ha := a.isLt
  have hb := b.isLt
  have hm := m.code_lt
  refine of_word rfl ((word25 (bit_lt c) d.isLt a.isLt (by have := b.isLt; omega) m.code_lt (by decide)).trans ?_)
  simp [dec25, canonical, Nat.mod_eq_of_lt hb, *]

theorem tdivS (c : Bool) (d : TReg) (a : TReg) (b : SReg) (m : MaskMode) : Statement (.tdivS c d a b m) := by
  have hd := d.isLt
  have ha := a.isLt
  have hb := b.isLt
  have hm := m.code_lt
  refine of_word rfl ((word25 (bit_lt c) d.isLt a.isLt (by have := b.isLt; omega) m.code_lt (by decide)).trans ?_)
  simp [dec25, canonical, Nat.mod_eq_of_lt hb, *]

theorem tremS (c : Bool) (d : TReg) (a : TReg) (b : SReg) (m : MaskMode) : Statement (.tremS c d a b m) := by
  have hd := d.isLt
  have ha := a.isLt
  have hb := b.isLt
  have hm := m.code_lt
  refine of_word rfl ((word25 (bit_lt c) d.isLt a.isLt (by have := b.isLt; omega) m.code_lt (by decide)).trans ?_)
  simp [dec25, canonical, Nat.mod_eq_of_lt hb, *]

theorem tsplat (c : Bool) (d : TReg) (b : SReg) (m : MaskMode) : Statement (.tsplat c d b m) := by
  have hd := d.isLt
  have hb := b.isLt
  have hm := m.code_lt
  refine of_word rfl ((word25 (bit_lt c) d.isLt (by decide) (by have := b.isLt; omega) m.code_lt (by decide)).trans ?_)
  simp [dec25, canonical, Nat.mod_eq_of_lt hb, *]

theorem trsubS (c : Bool) (d : TReg) (a : TReg) (b : SReg) (m : MaskMode) : Statement (.trsubS c d a b m) := by
  have hd := d.isLt
  have ha := a.isLt
  have hb := b.isLt
  have hm := m.code_lt
  refine of_word rfl ((word25 (bit_lt c) d.isLt a.isLt (by have := b.isLt; omega) m.code_lt (by decide)).trans ?_)
  simp [dec25, canonical, Nat.mod_eq_of_lt hb, *]

theorem tselS (c : Bool) (d : TReg) (a : TReg) (b : SReg) : Statement (.tselS c d a b) := by
  have hd := d.isLt
  have ha := a.isLt
  have hb := b.isLt
  refine of_word rfl ((word25 (bit_lt c) d.isLt a.isLt (by have := b.isLt; omega) (by decide) (by decide)).trans ?_)
  simp [dec25, canonical, Nat.mod_eq_of_lt hb, *]

theorem taddI (c : Bool) (d : TReg) (a : TReg) (i : BitVec 6) (m : MaskMode) : Statement (.taddI c d a i m) := by
  exact of_word rfl ((word26 (bit_lt c) d.isLt a.isLt i.isLt m.code_lt (by decide)).trans (by simp [dec26, canonical]))

theorem tandI (c : Bool) (d : TReg) (a : TReg) (i : BitVec 6) (m : MaskMode) : Statement (.tandI c d a i m) := by
  exact of_word rfl ((word26 (bit_lt c) d.isLt a.isLt i.isLt m.code_lt (by decide)).trans (by simp [dec26, canonical]))

theorem torI (c : Bool) (d : TReg) (a : TReg) (i : BitVec 6) (m : MaskMode) : Statement (.torI c d a i m) := by
  exact of_word rfl ((word26 (bit_lt c) d.isLt a.isLt i.isLt m.code_lt (by decide)).trans (by simp [dec26, canonical]))

theorem txorI (c : Bool) (d : TReg) (a : TReg) (i : BitVec 6) (m : MaskMode) : Statement (.txorI c d a i m) := by
  exact of_word rfl ((word26 (bit_lt c) d.isLt a.isLt i.isLt m.code_lt (by decide)).trans (by simp [dec26, canonical]))

theorem tminI (c : Bool) (d : TReg) (a : TReg) (i : BitVec 6) (m : MaskMode) : Statement (.tminI c d a i m) := by
  exact of_word rfl ((word26 (bit_lt c) d.isLt a.isLt i.isLt m.code_lt (by decide)).trans (by simp [dec26, canonical]))

theorem tmaxI (c : Bool) (d : TReg) (a : TReg) (i : BitVec 6) (m : MaskMode) : Statement (.tmaxI c d a i m) := by
  exact of_word rfl ((word26 (bit_lt c) d.isLt a.isLt i.isLt m.code_lt (by decide)).trans (by simp [dec26, canonical]))

theorem tsllI (c : Bool) (d : TReg) (a : TReg) (i : BitVec 6) (m : MaskMode) : Statement (.tsllI c d a i m) := by
  exact of_word rfl ((word26 (bit_lt c) d.isLt a.isLt i.isLt m.code_lt (by decide)).trans (by simp [dec26, canonical]))

theorem tsrlI (c : Bool) (d : TReg) (a : TReg) (i : BitVec 6) (m : MaskMode) : Statement (.tsrlI c d a i m) := by
  exact of_word rfl ((word26 (bit_lt c) d.isLt a.isLt i.isLt m.code_lt (by decide)).trans (by simp [dec26, canonical]))

theorem tsraI (c : Bool) (d : TReg) (a : TReg) (i : BitVec 6) (m : MaskMode) : Statement (.tsraI c d a i m) := by
  exact of_word rfl ((word26 (bit_lt c) d.isLt a.isLt i.isLt m.code_lt (by decide)).trans (by simp [dec26, canonical]))

theorem tsplatI (c : Bool) (d : TReg) (i : BitVec 6) (m : MaskMode) : Statement (.tsplatI c d i m) := by
  exact of_word rfl ((word26 (bit_lt c) d.isLt (by decide) i.isLt m.code_lt (by decide)).trans (by simp [dec26, canonical]))

theorem trsubI (c : Bool) (d : TReg) (a : TReg) (i : BitVec 6) (m : MaskMode) : Statement (.trsubI c d a i m) := by
  exact of_word rfl ((word26 (bit_lt c) d.isLt a.isLt i.isLt m.code_lt (by decide)).trans (by simp [dec26, canonical]))

theorem tfadd (c : Bool) (d : TReg) (a : TReg) (b : TReg) (m : MaskMode) : Statement (.tfadd c d a b m) := by
  exact of_word rfl ((word27 (bit_lt c) d.isLt a.isLt b.isLt m.code_lt (by decide)).trans (by simp [dec27, canonical]))

theorem tfsub (c : Bool) (d : TReg) (a : TReg) (b : TReg) (m : MaskMode) : Statement (.tfsub c d a b m) := by
  exact of_word rfl ((word27 (bit_lt c) d.isLt a.isLt b.isLt m.code_lt (by decide)).trans (by simp [dec27, canonical]))

theorem tfmul (c : Bool) (d : TReg) (a : TReg) (b : TReg) (m : MaskMode) : Statement (.tfmul c d a b m) := by
  exact of_word rfl ((word27 (bit_lt c) d.isLt a.isLt b.isLt m.code_lt (by decide)).trans (by simp [dec27, canonical]))

theorem tfdiv (c : Bool) (d : TReg) (a : TReg) (b : TReg) (m : MaskMode) : Statement (.tfdiv c d a b m) := by
  exact of_word rfl ((word27 (bit_lt c) d.isLt a.isLt b.isLt m.code_lt (by decide)).trans (by simp [dec27, canonical]))

theorem tfmin (c : Bool) (d : TReg) (a : TReg) (b : TReg) (m : MaskMode) : Statement (.tfmin c d a b m) := by
  exact of_word rfl ((word27 (bit_lt c) d.isLt a.isLt b.isLt m.code_lt (by decide)).trans (by simp [dec27, canonical]))

theorem tfmax (c : Bool) (d : TReg) (a : TReg) (b : TReg) (m : MaskMode) : Statement (.tfmax c d a b m) := by
  exact of_word rfl ((word27 (bit_lt c) d.isLt a.isLt b.isLt m.code_lt (by decide)).trans (by simp [dec27, canonical]))

theorem tfsqrt (c : Bool) (d : TReg) (a : TReg) (m : MaskMode) : Statement (.tfsqrt c d a m) := by
  exact of_word rfl ((word27 (bit_lt c) d.isLt a.isLt (by decide) m.code_lt (by decide)).trans (by simp [dec27, canonical]))

theorem tfrsqe (c : Bool) (d : TReg) (a : TReg) (m : MaskMode) : Statement (.tfrsqe c d a m) := by
  exact of_word rfl ((word27 (bit_lt c) d.isLt a.isLt (by decide) m.code_lt (by decide)).trans (by simp [dec27, canonical]))

theorem tfrece (c : Bool) (d : TReg) (a : TReg) (m : MaskMode) : Statement (.tfrece c d a m) := by
  exact of_word rfl ((word27 (bit_lt c) d.isLt a.isLt (by decide) m.code_lt (by decide)).trans (by simp [dec27, canonical]))

theorem tfsignc (c : Bool) (d : TReg) (a : TReg) (b : TReg) (m : MaskMode) : Statement (.tfsignc c d a b m) := by
  exact of_word rfl ((word27 (bit_lt c) d.isLt a.isLt b.isLt m.code_lt (by decide)).trans (by simp [dec27, canonical]))

theorem tfsignn (c : Bool) (d : TReg) (a : TReg) (b : TReg) (m : MaskMode) : Statement (.tfsignn c d a b m) := by
  exact of_word rfl ((word27 (bit_lt c) d.isLt a.isLt b.isLt m.code_lt (by decide)).trans (by simp [dec27, canonical]))

theorem tfsignx (c : Bool) (d : TReg) (a : TReg) (b : TReg) (m : MaskMode) : Statement (.tfsignx c d a b m) := by
  exact of_word rfl ((word27 (bit_lt c) d.isLt a.isLt b.isLt m.code_lt (by decide)).trans (by simp [dec27, canonical]))

theorem tfma (c : Bool) (d : TReg) (a : TReg) (b : TReg) (m : MaskMode) : Statement (.tfma c d a b m) := by
  exact of_word rfl ((word27 (bit_lt c) d.isLt a.isLt b.isLt m.code_lt (by decide)).trans (by simp [dec27, canonical]))

theorem tfms (c : Bool) (d : TReg) (a : TReg) (b : TReg) (m : MaskMode) : Statement (.tfms c d a b m) := by
  exact of_word rfl ((word27 (bit_lt c) d.isLt a.isLt b.isLt m.code_lt (by decide)).trans (by simp [dec27, canonical]))

theorem tfnma (c : Bool) (d : TReg) (a : TReg) (b : TReg) (m : MaskMode) : Statement (.tfnma c d a b m) := by
  exact of_word rfl ((word27 (bit_lt c) d.isLt a.isLt b.isLt m.code_lt (by decide)).trans (by simp [dec27, canonical]))

theorem tfnms (c : Bool) (d : TReg) (a : TReg) (b : TReg) (m : MaskMode) : Statement (.tfnms c d a b m) := by
  exact of_word rfl ((word27 (bit_lt c) d.isLt a.isLt b.isLt m.code_lt (by decide)).trans (by simp [dec27, canonical]))

theorem tfaddS (c : Bool) (d : TReg) (a : TReg) (b : SReg) (m : MaskMode) : Statement (.tfaddS c d a b m) := by
  have hd := d.isLt
  have ha := a.isLt
  have hb := b.isLt
  have hm := m.code_lt
  refine of_word rfl ((word28 (bit_lt c) d.isLt a.isLt (by have := b.isLt; omega) m.code_lt (by decide)).trans ?_)
  simp [dec28, canonical, Nat.mod_eq_of_lt hb, *]

theorem tfsubS (c : Bool) (d : TReg) (a : TReg) (b : SReg) (m : MaskMode) : Statement (.tfsubS c d a b m) := by
  have hd := d.isLt
  have ha := a.isLt
  have hb := b.isLt
  have hm := m.code_lt
  refine of_word rfl ((word28 (bit_lt c) d.isLt a.isLt (by have := b.isLt; omega) m.code_lt (by decide)).trans ?_)
  simp [dec28, canonical, Nat.mod_eq_of_lt hb, *]

theorem tfmulS (c : Bool) (d : TReg) (a : TReg) (b : SReg) (m : MaskMode) : Statement (.tfmulS c d a b m) := by
  have hd := d.isLt
  have ha := a.isLt
  have hb := b.isLt
  have hm := m.code_lt
  refine of_word rfl ((word28 (bit_lt c) d.isLt a.isLt (by have := b.isLt; omega) m.code_lt (by decide)).trans ?_)
  simp [dec28, canonical, Nat.mod_eq_of_lt hb, *]

theorem tfdivS (c : Bool) (d : TReg) (a : TReg) (b : SReg) (m : MaskMode) : Statement (.tfdivS c d a b m) := by
  have hd := d.isLt
  have ha := a.isLt
  have hb := b.isLt
  have hm := m.code_lt
  refine of_word rfl ((word28 (bit_lt c) d.isLt a.isLt (by have := b.isLt; omega) m.code_lt (by decide)).trans ?_)
  simp [dec28, canonical, Nat.mod_eq_of_lt hb, *]

theorem tfminS (c : Bool) (d : TReg) (a : TReg) (b : SReg) (m : MaskMode) : Statement (.tfminS c d a b m) := by
  have hd := d.isLt
  have ha := a.isLt
  have hb := b.isLt
  have hm := m.code_lt
  refine of_word rfl ((word28 (bit_lt c) d.isLt a.isLt (by have := b.isLt; omega) m.code_lt (by decide)).trans ?_)
  simp [dec28, canonical, Nat.mod_eq_of_lt hb, *]

theorem tfmaxS (c : Bool) (d : TReg) (a : TReg) (b : SReg) (m : MaskMode) : Statement (.tfmaxS c d a b m) := by
  have hd := d.isLt
  have ha := a.isLt
  have hb := b.isLt
  have hm := m.code_lt
  refine of_word rfl ((word28 (bit_lt c) d.isLt a.isLt (by have := b.isLt; omega) m.code_lt (by decide)).trans ?_)
  simp [dec28, canonical, Nat.mod_eq_of_lt hb, *]

theorem tfsigncS (c : Bool) (d : TReg) (a : TReg) (b : SReg) (m : MaskMode) : Statement (.tfsigncS c d a b m) := by
  have hd := d.isLt
  have ha := a.isLt
  have hb := b.isLt
  have hm := m.code_lt
  refine of_word rfl ((word28 (bit_lt c) d.isLt a.isLt (by have := b.isLt; omega) m.code_lt (by decide)).trans ?_)
  simp [dec28, canonical, Nat.mod_eq_of_lt hb, *]

theorem tfsignnS (c : Bool) (d : TReg) (a : TReg) (b : SReg) (m : MaskMode) : Statement (.tfsignnS c d a b m) := by
  have hd := d.isLt
  have ha := a.isLt
  have hb := b.isLt
  have hm := m.code_lt
  refine of_word rfl ((word28 (bit_lt c) d.isLt a.isLt (by have := b.isLt; omega) m.code_lt (by decide)).trans ?_)
  simp [dec28, canonical, Nat.mod_eq_of_lt hb, *]

theorem tfsignxS (c : Bool) (d : TReg) (a : TReg) (b : SReg) (m : MaskMode) : Statement (.tfsignxS c d a b m) := by
  have hd := d.isLt
  have ha := a.isLt
  have hb := b.isLt
  have hm := m.code_lt
  refine of_word rfl ((word28 (bit_lt c) d.isLt a.isLt (by have := b.isLt; omega) m.code_lt (by decide)).trans ?_)
  simp [dec28, canonical, Nat.mod_eq_of_lt hb, *]

theorem tfmaS (c : Bool) (d : TReg) (a : TReg) (b : SReg) (m : MaskMode) : Statement (.tfmaS c d a b m) := by
  have hd := d.isLt
  have ha := a.isLt
  have hb := b.isLt
  have hm := m.code_lt
  refine of_word rfl ((word28 (bit_lt c) d.isLt a.isLt (by have := b.isLt; omega) m.code_lt (by decide)).trans ?_)
  simp [dec28, canonical, Nat.mod_eq_of_lt hb, *]

theorem tfmsS (c : Bool) (d : TReg) (a : TReg) (b : SReg) (m : MaskMode) : Statement (.tfmsS c d a b m) := by
  have hd := d.isLt
  have ha := a.isLt
  have hb := b.isLt
  have hm := m.code_lt
  refine of_word rfl ((word28 (bit_lt c) d.isLt a.isLt (by have := b.isLt; omega) m.code_lt (by decide)).trans ?_)
  simp [dec28, canonical, Nat.mod_eq_of_lt hb, *]

theorem tfnmaS (c : Bool) (d : TReg) (a : TReg) (b : SReg) (m : MaskMode) : Statement (.tfnmaS c d a b m) := by
  have hd := d.isLt
  have ha := a.isLt
  have hb := b.isLt
  have hm := m.code_lt
  refine of_word rfl ((word28 (bit_lt c) d.isLt a.isLt (by have := b.isLt; omega) m.code_lt (by decide)).trans ?_)
  simp [dec28, canonical, Nat.mod_eq_of_lt hb, *]

theorem tfnmsS (c : Bool) (d : TReg) (a : TReg) (b : SReg) (m : MaskMode) : Statement (.tfnmsS c d a b m) := by
  have hd := d.isLt
  have ha := a.isLt
  have hb := b.isLt
  have hm := m.code_lt
  refine of_word rfl ((word28 (bit_lt c) d.isLt a.isLt (by have := b.isLt; omega) m.code_lt (by decide)).trans ?_)
  simp [dec28, canonical, Nat.mod_eq_of_lt hb, *]

theorem tfrsubS (c : Bool) (d : TReg) (a : TReg) (b : SReg) (m : MaskMode) : Statement (.tfrsubS c d a b m) := by
  have hd := d.isLt
  have ha := a.isLt
  have hb := b.isLt
  have hm := m.code_lt
  refine of_word rfl ((word28 (bit_lt c) d.isLt a.isLt (by have := b.isLt; omega) m.code_lt (by decide)).trans ?_)
  simp [dec28, canonical, Nat.mod_eq_of_lt hb, *]

theorem tfrdivS (c : Bool) (d : TReg) (a : TReg) (b : SReg) (m : MaskMode) : Statement (.tfrdivS c d a b m) := by
  have hd := d.isLt
  have ha := a.isLt
  have hb := b.isLt
  have hm := m.code_lt
  refine of_word rfl ((word28 (bit_lt c) d.isLt a.isLt (by have := b.isLt; omega) m.code_lt (by decide)).trans ?_)
  simp [dec28, canonical, Nat.mod_eq_of_lt hb, *]

theorem tceq (c : Bool) (d : TReg) (a : TReg) (b : TReg) (m : MaskMode) : Statement (.tceq c d a b m) := by
  exact of_word rfl ((word29 (bit_lt c) d.isLt a.isLt b.isLt m.code_lt (by decide)).trans (by simp [dec29, canonical]))

theorem tcne (c : Bool) (d : TReg) (a : TReg) (b : TReg) (m : MaskMode) : Statement (.tcne c d a b m) := by
  exact of_word rfl ((word29 (bit_lt c) d.isLt a.isLt b.isLt m.code_lt (by decide)).trans (by simp [dec29, canonical]))

theorem tclt (c : Bool) (d : TReg) (a : TReg) (b : TReg) (m : MaskMode) : Statement (.tclt c d a b m) := by
  exact of_word rfl ((word29 (bit_lt c) d.isLt a.isLt b.isLt m.code_lt (by decide)).trans (by simp [dec29, canonical]))

theorem tcle (c : Bool) (d : TReg) (a : TReg) (b : TReg) (m : MaskMode) : Statement (.tcle c d a b m) := by
  exact of_word rfl ((word29 (bit_lt c) d.isLt a.isLt b.isLt m.code_lt (by decide)).trans (by simp [dec29, canonical]))

theorem tcgt (c : Bool) (d : TReg) (a : TReg) (b : TReg) (m : MaskMode) : Statement (.tcgt c d a b m) := by
  exact of_word rfl ((word29 (bit_lt c) d.isLt a.isLt b.isLt m.code_lt (by decide)).trans (by simp [dec29, canonical]))

theorem tcge (c : Bool) (d : TReg) (a : TReg) (b : TReg) (m : MaskMode) : Statement (.tcge c d a b m) := by
  exact of_word rfl ((word29 (bit_lt c) d.isLt a.isLt b.isLt m.code_lt (by decide)).trans (by simp [dec29, canonical]))

theorem tcun (c : Bool) (d : TReg) (a : TReg) (b : TReg) (m : MaskMode) : Statement (.tcun c d a b m) := by
  exact of_word rfl ((word29 (bit_lt c) d.isLt a.isLt b.isLt m.code_lt (by decide)).trans (by simp [dec29, canonical]))

theorem tceqS (c : Bool) (d : TReg) (a : TReg) (b : SReg) (m : MaskMode) : Statement (.tceqS c d a b m) := by
  have hd := d.isLt
  have ha := a.isLt
  have hb := b.isLt
  have hm := m.code_lt
  refine of_word rfl ((word2A (bit_lt c) d.isLt a.isLt (by have := b.isLt; omega) m.code_lt (by decide)).trans ?_)
  simp [dec2A, canonical, Nat.mod_eq_of_lt hb, *]

theorem tcneS (c : Bool) (d : TReg) (a : TReg) (b : SReg) (m : MaskMode) : Statement (.tcneS c d a b m) := by
  have hd := d.isLt
  have ha := a.isLt
  have hb := b.isLt
  have hm := m.code_lt
  refine of_word rfl ((word2A (bit_lt c) d.isLt a.isLt (by have := b.isLt; omega) m.code_lt (by decide)).trans ?_)
  simp [dec2A, canonical, Nat.mod_eq_of_lt hb, *]

theorem tcltS (c : Bool) (d : TReg) (a : TReg) (b : SReg) (m : MaskMode) : Statement (.tcltS c d a b m) := by
  have hd := d.isLt
  have ha := a.isLt
  have hb := b.isLt
  have hm := m.code_lt
  refine of_word rfl ((word2A (bit_lt c) d.isLt a.isLt (by have := b.isLt; omega) m.code_lt (by decide)).trans ?_)
  simp [dec2A, canonical, Nat.mod_eq_of_lt hb, *]

theorem tcleS (c : Bool) (d : TReg) (a : TReg) (b : SReg) (m : MaskMode) : Statement (.tcleS c d a b m) := by
  have hd := d.isLt
  have ha := a.isLt
  have hb := b.isLt
  have hm := m.code_lt
  refine of_word rfl ((word2A (bit_lt c) d.isLt a.isLt (by have := b.isLt; omega) m.code_lt (by decide)).trans ?_)
  simp [dec2A, canonical, Nat.mod_eq_of_lt hb, *]

theorem tcgtS (c : Bool) (d : TReg) (a : TReg) (b : SReg) (m : MaskMode) : Statement (.tcgtS c d a b m) := by
  have hd := d.isLt
  have ha := a.isLt
  have hb := b.isLt
  have hm := m.code_lt
  refine of_word rfl ((word2A (bit_lt c) d.isLt a.isLt (by have := b.isLt; omega) m.code_lt (by decide)).trans ?_)
  simp [dec2A, canonical, Nat.mod_eq_of_lt hb, *]

theorem tcgeS (c : Bool) (d : TReg) (a : TReg) (b : SReg) (m : MaskMode) : Statement (.tcgeS c d a b m) := by
  have hd := d.isLt
  have ha := a.isLt
  have hb := b.isLt
  have hm := m.code_lt
  refine of_word rfl ((word2A (bit_lt c) d.isLt a.isLt (by have := b.isLt; omega) m.code_lt (by decide)).trans ?_)
  simp [dec2A, canonical, Nat.mod_eq_of_lt hb, *]

theorem tcunS (c : Bool) (d : TReg) (a : TReg) (b : SReg) (m : MaskMode) : Statement (.tcunS c d a b m) := by
  have hd := d.isLt
  have ha := a.isLt
  have hb := b.isLt
  have hm := m.code_lt
  refine of_word rfl ((word2A (bit_lt c) d.isLt a.isLt (by have := b.isLt; omega) m.code_lt (by decide)).trans ?_)
  simp [dec2A, canonical, Nat.mod_eq_of_lt hb, *]

theorem tsadd (c : Bool) (d : TReg) (a : TReg) (b : TReg) (m : MaskMode) : Statement (.tsadd c d a b m) := by
  exact of_word rfl ((word2B (bit_lt c) d.isLt a.isLt b.isLt m.code_lt (by decide)).trans (by simp [dec2B, canonical]))

theorem tssub (c : Bool) (d : TReg) (a : TReg) (b : TReg) (m : MaskMode) : Statement (.tssub c d a b m) := by
  exact of_word rfl ((word2B (bit_lt c) d.isLt a.isLt b.isLt m.code_lt (by decide)).trans (by simp [dec2B, canonical]))

theorem tavg (c : Bool) (d : TReg) (a : TReg) (b : TReg) (m : MaskMode) : Statement (.tavg c d a b m) := by
  exact of_word rfl ((word2B (bit_lt c) d.isLt a.isLt b.isLt m.code_lt (by decide)).trans (by simp [dec2B, canonical]))

theorem tavgsub (c : Bool) (d : TReg) (a : TReg) (b : TReg) (m : MaskMode) : Statement (.tavgsub c d a b m) := by
  exact of_word rfl ((word2B (bit_lt c) d.isLt a.isLt b.isLt m.code_lt (by decide)).trans (by simp [dec2B, canonical]))

theorem tsmul (c : Bool) (d : TReg) (a : TReg) (b : TReg) (m : MaskMode) : Statement (.tsmul c d a b m) := by
  exact of_word rfl ((word2B (bit_lt c) d.isLt a.isLt b.isLt m.code_lt (by decide)).trans (by simp [dec2B, canonical]))

theorem twadd (c : Bool) (d : TReg) (a : TReg) (b : TReg) (m : MaskMode) : Statement (.twadd c d a b m) := by
  exact of_word rfl ((word2B (bit_lt c) d.isLt a.isLt b.isLt m.code_lt (by decide)).trans (by simp [dec2B, canonical]))

theorem twsub (c : Bool) (d : TReg) (a : TReg) (b : TReg) (m : MaskMode) : Statement (.twsub c d a b m) := by
  exact of_word rfl ((word2B (bit_lt c) d.isLt a.isLt b.isLt m.code_lt (by decide)).trans (by simp [dec2B, canonical]))

theorem twmul (c : Bool) (d : TReg) (a : TReg) (b : TReg) (m : MaskMode) : Statement (.twmul c d a b m) := by
  exact of_word rfl ((word2B (bit_lt c) d.isLt a.isLt b.isLt m.code_lt (by decide)).trans (by simp [dec2B, canonical]))

theorem twmacc (c : Bool) (d : TReg) (a : TReg) (b : TReg) (m : MaskMode) : Statement (.twmacc c d a b m) := by
  exact of_word rfl ((word2B (bit_lt c) d.isLt a.isLt b.isLt m.code_lt (by decide)).trans (by simp [dec2B, canonical]))

theorem tnshr (c : Bool) (d : TReg) (a : TReg) (b : TReg) (m : MaskMode) : Statement (.tnshr c d a b m) := by
  exact of_word rfl ((word2B (bit_lt c) d.isLt a.isLt b.isLt m.code_lt (by decide)).trans (by simp [dec2B, canonical]))

theorem tcvt (c : Bool) (d : TReg) (a : TReg) (t : TypeCode) (m : MaskMode) : Statement (.tcvt c d a t m) := by
  exact of_word rfl ((word2C (bit_lt c) d.isLt a.isLt t.isLt m.code_lt (by decide)).trans (by simp [dec2C, canonical]))

theorem tcvtn (c : Bool) (d : TReg) (a : TReg) (t : TypeCode) (m : MaskMode) : Statement (.tcvtn c d a t m) := by
  exact of_word rfl ((word2C (bit_lt c) d.isLt a.isLt t.isLt m.code_lt (by decide)).trans (by simp [dec2C, canonical]))

theorem tcvtw (c : Bool) (d : TReg) (a : TReg) (t : TypeCode) (m : MaskMode) : Statement (.tcvtw c d a t m) := by
  exact of_word rfl ((word2C (bit_lt c) d.isLt a.isLt t.isLt m.code_lt (by decide)).trans (by simp [dec2C, canonical]))

theorem tcvte (c : Bool) (d : TReg) (a : TReg) (m : MaskMode) : Statement (.tcvte c d a m) := by
  exact of_word rfl ((word2C (bit_lt c) d.isLt a.isLt (by decide) m.code_lt (by decide)).trans (by simp [dec2C, canonical]))

theorem tscale (c : Bool) (d : TReg) (a : TReg) (m : MaskMode) : Statement (.tscale c d a m) := by
  exact of_word rfl ((word2C (bit_lt c) d.isLt a.isLt (by decide) m.code_lt (by decide)).trans (by simp [dec2C, canonical]))

theorem tcvtns (c : Bool) (d : TReg) (a : TReg) (t : TypeCode) (m : MaskMode) : Statement (.tcvtns c d a t m) := by
  exact of_word rfl ((word2C (bit_lt c) d.isLt a.isLt t.isLt m.code_lt (by decide)).trans (by simp [dec2C, canonical]))

theorem tcvtes (c : Bool) (d : TReg) (a : TReg) (m : MaskMode) : Statement (.tcvtes c d a m) := by
  exact of_word rfl ((word2C (bit_lt c) d.isLt a.isLt (by decide) m.code_lt (by decide)).trans (by simp [dec2C, canonical]))

theorem tmxscale (c : Bool) (d : TReg) (a : TReg) (t : TypeCode) (m : MaskMode) : Statement (.tmxscale c d a t m) := by
  exact of_word rfl ((word2C (bit_lt c) d.isLt a.isLt t.isLt m.code_lt (by decide)).trans (by simp [dec2C, canonical]))

theorem tmxscaleB (c : Bool) (d : TReg) (a : TReg) (t : TypeCode) (m : MaskMode) : Statement (.tmxscaleB c d a t m) := by
  exact of_word rfl ((word2C (bit_lt c) d.isLt a.isLt t.isLt m.code_lt (by decide)).trans (by simp [dec2C, canonical]))

theorem tredsum (c : Bool) (d : TReg) (a : TReg) (b : TReg) (m : MaskMode) : Statement (.tredsum c d a b m) := by
  exact of_word rfl ((word2D (bit_lt c) d.isLt a.isLt b.isLt m.code_lt (by decide)).trans (by simp [dec2D, canonical]))

theorem tredosum (c : Bool) (d : TReg) (a : TReg) (b : TReg) (m : MaskMode) : Statement (.tredosum c d a b m) := by
  exact of_word rfl ((word2D (bit_lt c) d.isLt a.isLt b.isLt m.code_lt (by decide)).trans (by simp [dec2D, canonical]))

theorem tredgsum (c : Bool) (d : TReg) (a : TReg) (m : MaskMode) : Statement (.tredgsum c d a m) := by
  exact of_word rfl ((word2D (bit_lt c) d.isLt a.isLt (by decide) m.code_lt (by decide)).trans (by simp [dec2D, canonical]))

theorem tscan (c : Bool) (d : TReg) (a : TReg) (b : TReg) (m : MaskMode) : Statement (.tscan c d a b m) := by
  exact of_word rfl ((word2D (bit_lt c) d.isLt a.isLt b.isLt m.code_lt (by decide)).trans (by simp [dec2D, canonical]))

theorem tredmax (c : Bool) (d : TReg) (a : TReg) (b : TReg) (m : MaskMode) : Statement (.tredmax c d a b m) := by
  exact of_word rfl ((word2D (bit_lt c) d.isLt a.isLt b.isLt m.code_lt (by decide)).trans (by simp [dec2D, canonical]))

theorem tredmin (c : Bool) (d : TReg) (a : TReg) (b : TReg) (m : MaskMode) : Statement (.tredmin c d a b m) := by
  exact of_word rfl ((word2D (bit_lt c) d.isLt a.isLt b.isLt m.code_lt (by decide)).trans (by simp [dec2D, canonical]))

theorem tredmaxi (c : Bool) (d : TReg) (a : TReg) (b : TReg) (m : MaskMode) : Statement (.tredmaxi c d a b m) := by
  exact of_word rfl ((word2D (bit_lt c) d.isLt a.isLt b.isLt m.code_lt (by decide)).trans (by simp [dec2D, canonical]))

theorem tredmini (c : Bool) (d : TReg) (a : TReg) (b : TReg) (m : MaskMode) : Statement (.tredmini c d a b m) := by
  exact of_word rfl ((word2D (bit_lt c) d.isLt a.isLt b.isLt m.code_lt (by decide)).trans (by simp [dec2D, canonical]))

theorem tredand (c : Bool) (d : TReg) (a : TReg) (b : TReg) (m : MaskMode) : Statement (.tredand c d a b m) := by
  exact of_word rfl ((word2D (bit_lt c) d.isLt a.isLt b.isLt m.code_lt (by decide)).trans (by simp [dec2D, canonical]))

theorem tredor (c : Bool) (d : TReg) (a : TReg) (b : TReg) (m : MaskMode) : Statement (.tredor c d a b m) := by
  exact of_word rfl ((word2D (bit_lt c) d.isLt a.isLt b.isLt m.code_lt (by decide)).trans (by simp [dec2D, canonical]))

theorem tredxor (c : Bool) (d : TReg) (a : TReg) (b : TReg) (m : MaskMode) : Statement (.tredxor c d a b m) := by
  exact of_word rfl ((word2D (bit_lt c) d.isLt a.isLt b.isLt m.code_lt (by decide)).trans (by simp [dec2D, canonical]))

theorem tcompress (c : Bool) (d : TReg) (a : TReg) (m : MaskMode) : Statement (.tcompress c d a m) := by
  exact of_word rfl ((word2E (bit_lt c) d.isLt a.isLt (by decide) m.code_lt (by decide)).trans (by simp [dec2E, canonical]))

theorem texpand (c : Bool) (d : TReg) (a : TReg) (m : MaskMode) : Statement (.texpand c d a m) := by
  exact of_word rfl ((word2E (bit_lt c) d.isLt a.isLt (by decide) m.code_lt (by decide)).trans (by simp [dec2E, canonical]))

theorem tslideup (c : Bool) (d : TReg) (a : TReg) (i : BitVec 6) (m : MaskMode) : Statement (.tslideup c d a i m) := by
  exact of_word rfl ((word2E (bit_lt c) d.isLt a.isLt i.isLt m.code_lt (by decide)).trans (by simp [dec2E, canonical]))

theorem tslidedn (c : Bool) (d : TReg) (a : TReg) (i : BitVec 6) (m : MaskMode) : Statement (.tslidedn c d a i m) := by
  exact of_word rfl ((word2E (bit_lt c) d.isLt a.isLt i.isLt m.code_lt (by decide)).trans (by simp [dec2E, canonical]))

theorem tslideupS (c : Bool) (d : TReg) (a : TReg) (s : SReg) (m : MaskMode) : Statement (.tslideupS c d a s m) := by
  have hd := d.isLt
  have ha := a.isLt
  have hs := s.isLt
  have hm := m.code_lt
  refine of_word rfl ((word2E (bit_lt c) d.isLt a.isLt (by have := s.isLt; omega) m.code_lt (by decide)).trans ?_)
  simp [dec2E, canonical, Nat.mod_eq_of_lt hs, *]

theorem tslidednS (c : Bool) (d : TReg) (a : TReg) (s : SReg) (m : MaskMode) : Statement (.tslidednS c d a s m) := by
  have hd := d.isLt
  have ha := a.isLt
  have hs := s.isLt
  have hm := m.code_lt
  refine of_word rfl ((word2E (bit_lt c) d.isLt a.isLt (by have := s.isLt; omega) m.code_lt (by decide)).trans ?_)
  simp [dec2E, canonical, Nat.mod_eq_of_lt hs, *]

theorem trgather (c : Bool) (d : TReg) (a : TReg) (b : TReg) (m : MaskMode) : Statement (.trgather c d a b m) := by
  exact of_word rfl ((word2E (bit_lt c) d.isLt a.isLt b.isLt m.code_lt (by decide)).trans (by simp [dec2E, canonical]))

theorem ttrans (c : Bool) (d : TReg) (a : TReg) (m : MaskMode) : Statement (.ttrans c d a m) := by
  exact of_word rfl ((word2E (bit_lt c) d.isLt a.isLt (by decide) m.code_lt (by decide)).trans (by simp [dec2E, canonical]))

theorem trowbc (c : Bool) (d : TReg) (a : TReg) (m : MaskMode) : Statement (.trowbc c d a m) := by
  exact of_word rfl ((word2E (bit_lt c) d.isLt a.isLt (by decide) m.code_lt (by decide)).trans (by simp [dec2E, canonical]))

theorem tcolbc (c : Bool) (d : TReg) (a : TReg) (m : MaskMode) : Statement (.tcolbc c d a m) := by
  exact of_word rfl ((word2E (bit_lt c) d.isLt a.isLt (by decide) m.code_lt (by decide)).trans (by simp [dec2E, canonical]))

theorem textr (c : Bool) (s : SReg) (a : TReg) : Statement (.textr c s a) := by
  have hs := s.isLt
  have ha := a.isLt
  refine of_word rfl ((word2E (bit_lt c) (by have := s.isLt; omega) a.isLt (by decide) (by decide) (by decide)).trans ?_)
  simp [dec2E, canonical, Nat.mod_eq_of_lt hs, *]

theorem tmand (c : Bool) (d : TReg) (a : TReg) (b : TReg) (m : MaskMode) : Statement (.tmand c d a b m) := by
  exact of_word rfl ((word2F (bit_lt c) d.isLt a.isLt b.isLt m.code_lt (by decide)).trans (by simp [dec2F, canonical]))

theorem tmor (c : Bool) (d : TReg) (a : TReg) (b : TReg) (m : MaskMode) : Statement (.tmor c d a b m) := by
  exact of_word rfl ((word2F (bit_lt c) d.isLt a.isLt b.isLt m.code_lt (by decide)).trans (by simp [dec2F, canonical]))

theorem tmxor (c : Bool) (d : TReg) (a : TReg) (b : TReg) (m : MaskMode) : Statement (.tmxor c d a b m) := by
  exact of_word rfl ((word2F (bit_lt c) d.isLt a.isLt b.isLt m.code_lt (by decide)).trans (by simp [dec2F, canonical]))

theorem tmandn (c : Bool) (d : TReg) (a : TReg) (b : TReg) (m : MaskMode) : Statement (.tmandn c d a b m) := by
  exact of_word rfl ((word2F (bit_lt c) d.isLt a.isLt b.isLt m.code_lt (by decide)).trans (by simp [dec2F, canonical]))

theorem tmnot (c : Bool) (d : TReg) (a : TReg) (m : MaskMode) : Statement (.tmnot c d a m) := by
  exact of_word rfl ((word2F (bit_lt c) d.isLt a.isLt (by decide) m.code_lt (by decide)).trans (by simp [dec2F, canonical]))

theorem tmbefore (c : Bool) (d : TReg) (a : TReg) (m : MaskMode) : Statement (.tmbefore c d a m) := by
  exact of_word rfl ((word2F (bit_lt c) d.isLt a.isLt (by decide) m.code_lt (by decide)).trans (by simp [dec2F, canonical]))

theorem tmthrough (c : Bool) (d : TReg) (a : TReg) (m : MaskMode) : Statement (.tmthrough c d a m) := by
  exact of_word rfl ((word2F (bit_lt c) d.isLt a.isLt (by decide) m.code_lt (by decide)).trans (by simp [dec2F, canonical]))

theorem tmonly (c : Bool) (d : TReg) (a : TReg) (m : MaskMode) : Statement (.tmonly c d a m) := by
  exact of_word rfl ((word2F (bit_lt c) d.isLt a.isLt (by decide) m.code_lt (by decide)).trans (by simp [dec2F, canonical]))

theorem tmpop (c : Bool) (s : SReg) (a : TReg) (m : MaskMode) : Statement (.tmpop c s a m) := by
  have hs := s.isLt
  have ha := a.isLt
  have hm := m.code_lt
  refine of_word rfl ((word2F (bit_lt c) (by have := s.isLt; omega) a.isLt (by decide) m.code_lt (by decide)).trans ?_)
  simp [dec2F, canonical, Nat.mod_eq_of_lt hs, *]

theorem tmfirst (c : Bool) (s : SReg) (a : TReg) (m : MaskMode) : Statement (.tmfirst c s a m) := by
  have hs := s.isLt
  have ha := a.isLt
  have hm := m.code_lt
  refine of_word rfl ((word2F (bit_lt c) (by have := s.isLt; omega) a.isLt (by decide) m.code_lt (by decide)).trans ?_)
  simp [dec2F, canonical, Nat.mod_eq_of_lt hs, *]

theorem txnorpop (c : Bool) (d : TReg) (a : TReg) (b : TReg) (m : MaskMode) : Statement (.txnorpop c d a b m) := by
  exact of_word rfl ((word30 (bit_lt c) d.isLt a.isLt b.isLt m.code_lt (by decide)).trans (by simp [dec30, canonical]))

theorem tpext (c : Bool) (d : TReg) (a : TReg) (b : TReg) (m : MaskMode) : Statement (.tpext c d a b m) := by
  exact of_word rfl ((word30 (bit_lt c) d.isLt a.isLt b.isLt m.code_lt (by decide)).trans (by simp [dec30, canonical]))

theorem tpins (c : Bool) (d : TReg) (a : TReg) (b : TReg) (m : MaskMode) : Statement (.tpins c d a b m) := by
  exact of_word rfl ((word30 (bit_lt c) d.isLt a.isLt b.isLt m.code_lt (by decide)).trans (by simp [dec30, canonical]))

theorem tld (c : Bool) (v : TReg) (a : SReg) (m : MaskMode) : Statement (.tld c v a m) := by
  exact of_word rfl ((word31 (bit_lt c) v.isLt a.isLt (by decide) (by decide) m.code_lt (by decide) (by decide)).trans (by simp [dec31, canonical]))

theorem tlds (c : Bool) (v : TReg) (a : SReg) (s : SReg) (m : MaskMode) : Statement (.tlds c v a s m) := by
  have hv := v.isLt
  have ha := a.isLt
  have hs := s.isLt
  have hm := m.code_lt
  refine of_word rfl ((word31 (bit_lt c) v.isLt a.isLt (by have := s.isLt; omega) (by decide) m.code_lt (by decide) (by decide)).trans ?_)
  simp [dec31, canonical, Nat.mod_eq_of_lt hs, *]

theorem tldx (c : Bool) (v : TReg) (a : SReg) (x : TReg) (m : MaskMode) : Statement (.tldx c v a x m) := by
  exact of_word rfl ((word31 (bit_lt c) v.isLt a.isLt x.isLt (by decide) m.code_lt (by decide) (by decide)).trans (by simp [dec31, canonical]))

theorem tldxo (c : Bool) (v : TReg) (a : SReg) (x : TReg) (m : MaskMode) : Statement (.tldxo c v a x m) := by
  exact of_word rfl ((word31 (bit_lt c) v.isLt a.isLt x.isLt (by decide) m.code_lt (by decide) (by decide)).trans (by simp [dec31, canonical]))

theorem tldff (c : Bool) (v : TReg) (a : SReg) (m : MaskMode) : Statement (.tldff c v a m) := by
  exact of_word rfl ((word31 (bit_lt c) v.isLt a.isLt (by decide) (by decide) m.code_lt (by decide) (by decide)).trans (by simp [dec31, canonical]))

theorem tldseg (c : Bool) (v : TReg) (a : SReg) (t : TypeCode) (m : MaskMode) (n : Fin 8) : Statement (.tldseg c v a t m n) := by
  exact of_word rfl ((word31 (bit_lt c) v.isLt a.isLt t.isLt (by decide) m.code_lt (by decide) n.isLt).trans (by simp [dec31, canonical]))

theorem tst (c : Bool) (v : TReg) (a : SReg) (m : MaskMode) : Statement (.tst c v a m) := by
  exact of_word rfl ((word32 (bit_lt c) v.isLt a.isLt (by decide) (by decide) m.code_lt (by decide) (by decide)).trans (by simp [dec32, canonical]))

theorem tsts (c : Bool) (v : TReg) (a : SReg) (s : SReg) (m : MaskMode) : Statement (.tsts c v a s m) := by
  have hv := v.isLt
  have ha := a.isLt
  have hs := s.isLt
  have hm := m.code_lt
  refine of_word rfl ((word32 (bit_lt c) v.isLt a.isLt (by have := s.isLt; omega) (by decide) m.code_lt (by decide) (by decide)).trans ?_)
  simp [dec32, canonical, Nat.mod_eq_of_lt hs, *]

theorem tstx (c : Bool) (v : TReg) (a : SReg) (x : TReg) (m : MaskMode) : Statement (.tstx c v a x m) := by
  exact of_word rfl ((word32 (bit_lt c) v.isLt a.isLt x.isLt (by decide) m.code_lt (by decide) (by decide)).trans (by simp [dec32, canonical]))

theorem tstxo (c : Bool) (v : TReg) (a : SReg) (x : TReg) (m : MaskMode) : Statement (.tstxo c v a x m) := by
  exact of_word rfl ((word32 (bit_lt c) v.isLt a.isLt x.isLt (by decide) m.code_lt (by decide) (by decide)).trans (by simp [dec32, canonical]))

theorem tstseg (c : Bool) (v : TReg) (a : SReg) (t : TypeCode) (m : MaskMode) (n : Fin 8) : Statement (.tstseg c v a t m n) := by
  exact of_word rfl ((word32 (bit_lt c) v.isLt a.isLt t.isLt (by decide) m.code_lt (by decide) n.isLt).trans (by simp [dec32, canonical]))

theorem tldsc (c : Bool) (v : TReg) (a : SReg) (x : TReg) (m : MaskMode) : Statement (.tldsc c v a x m) := by
  exact of_word rfl ((word33 (bit_lt c) v.isLt a.isLt x.isLt (by decide) m.code_lt (by decide)).trans (by simp [dec33, canonical]))

theorem tstsc (c : Bool) (v : TReg) (a : SReg) (x : TReg) (m : MaskMode) : Statement (.tstsc c v a x m) := by
  exact of_word rfl ((word33 (bit_lt c) v.isLt a.isLt x.isLt (by decide) m.code_lt (by decide)).trans (by simp [dec33, canonical]))

theorem tgll (c : Bool) (v : TReg) (a : SReg) (x : TReg) (m : MaskMode) : Statement (.tgll c v a x m) := by
  exact of_word rfl ((word33 (bit_lt c) v.isLt a.isLt x.isLt (by decide) m.code_lt (by decide)).trans (by simp [dec33, canonical]))

theorem tscc (c : Bool) (v : TReg) (a : SReg) (x : TReg) (m : Bool) : Statement (.tscc c v a x m) := by
  have hv := v.isLt
  have ha := a.isLt
  have hx := x.isLt
  have hm := (bit_lt m)
  have hhm : bit (m.toNat % 2) = m ∧ m.toNat ≤ 1 := by cases m <;> decide
  refine of_word rfl ((word33 (bit_lt c) v.isLt a.isLt x.isLt (by decide) (by have := (bit_lt m); omega) (by decide)).trans ?_)
  simp [dec33, canonical, *]

theorem mxattach (c : Bool) (d : TReg) (a : TReg) (b : TReg) : Statement (.mxattach c d a b) := by
  exact of_word rfl ((word35 (bit_lt c) d.isLt a.isLt b.isLt (by decide) (by decide) (by decide)).trans (by simp [dec35, canonical]))

theorem mxdetach (c : Bool) (d : TReg) (p : TReg) : Statement (.mxdetach c d p) := by
  exact of_word rfl ((word35 (bit_lt c) d.isLt (by decide) p.isLt (by decide) (by decide) (by decide)).trans (by simp [dec35, canonical]))

theorem mxzero (c : Bool) (d : TReg) : Statement (.mxzero c d) := by
  exact of_word rfl ((word35 (bit_lt c) d.isLt (by decide) (by decide) (by decide) (by decide) (by decide)).trans (by simp [dec35, canonical]))

theorem mxsync (c : Bool) (d : TReg) (p : TReg) : Statement (.mxsync c d p) := by
  exact of_word rfl ((word35 (bit_lt c) d.isLt (by decide) p.isLt (by decide) (by decide) (by decide)).trans (by simp [dec35, canonical]))

theorem mxop (c : Bool) (d : TReg) (a : TReg) (b : TReg) (m : MaskMode) (e : Bool) : Statement (.mxop c d a b m e) := by
  exact of_word rfl ((word35 (bit_lt c) d.isLt a.isLt b.isLt m.code_lt (bit_lt e) (by decide)).trans (by simp [dec35, canonical]))

theorem mxopn (c : Bool) (d : TReg) (a : TReg) (b : TReg) (m : MaskMode) (e : Bool) : Statement (.mxopn c d a b m e) := by
  exact of_word rfl ((word35 (bit_lt c) d.isLt a.isLt b.isLt m.code_lt (bit_lt e) (by decide)).trans (by simp [dec35, canonical]))

theorem xcopy (c : Bool) (d : SReg) (a : SReg) (b : SReg) (p : TReg) : Statement (.xcopy c d a b p) := by
  exact of_word rfl ((word36 (bit_lt c) d.isLt a.isLt b.isLt p.isLt (by decide)).trans (by simp [dec36, canonical]))

theorem xcopy2 (c : Bool) (d : SReg) (a : SReg) (b : SReg) (p : TReg) : Statement (.xcopy2 c d a b p) := by
  exact of_word rfl ((word36 (bit_lt c) d.isLt a.isLt b.isLt p.isLt (by decide)).trans (by simp [dec36, canonical]))

theorem xcopy3 (c : Bool) (d : SReg) (a : SReg) (b : SReg) (p : TReg) : Statement (.xcopy3 c d a b p) := by
  exact of_word rfl ((word36 (bit_lt c) d.isLt a.isLt b.isLt p.isLt (by decide)).trans (by simp [dec36, canonical]))

theorem xgath (c : Bool) (d : SReg) (a : SReg) (b : SReg) (p : TReg) : Statement (.xgath c d a b p) := by
  exact of_word rfl ((word36 (bit_lt c) d.isLt a.isLt b.isLt p.isLt (by decide)).trans (by simp [dec36, canonical]))

theorem xput (c : Bool) (d : SReg) (a : SReg) (b : SReg) (p : TReg) : Statement (.xput c d a b p) := by
  exact of_word rfl ((word36 (bit_lt c) d.isLt a.isLt b.isLt p.isLt (by decide)).trans (by simp [dec36, canonical]))

theorem xseal (c : Bool) (d : SReg) (a : SReg) (p : TReg) : Statement (.xseal c d a p) := by
  exact of_word rfl ((word36 (bit_lt c) d.isLt a.isLt (by decide) p.isLt (by decide)).trans (by simp [dec36, canonical]))

theorem xunseal (c : Bool) (d : SReg) (a : SReg) (p : TReg) : Statement (.xunseal c d a p) := by
  exact of_word rfl ((word36 (bit_lt c) d.isLt a.isLt (by decide) p.isLt (by decide)).trans (by simp [dec36, canonical]))

theorem xbar (c : Bool) (p : TReg) : Statement (.xbar c p) := by
  exact of_word rfl ((word36 (bit_lt c) (by decide) (by decide) (by decide) p.isLt (by decide)).trans (by simp [dec36, canonical]))

theorem xcancel (c : Bool) (p : TReg) : Statement (.xcancel c p) := by
  exact of_word rfl ((word36 (bit_lt c) (by decide) (by decide) (by decide) p.isLt (by decide)).trans (by simp [dec36, canonical]))

theorem qdot (c : Bool) (v : TReg) (q : TReg) (p : TReg) (a : SReg) : Statement (.qdot c v q p a) := by
  exact of_word rfl ((word37 (bit_lt c) v.isLt q.isLt p.isLt a.isLt (by decide)).trans (by simp [dec37, canonical]))

theorem qdotm (c : Bool) (v : TReg) (q : TReg) (p : TReg) (a : SReg) : Statement (.qdotm c v q p a) := by
  exact of_word rfl ((word37 (bit_lt c) v.isLt q.isLt p.isLt a.isLt (by decide)).trans (by simp [dec37, canonical]))

theorem qdotx (c : Bool) (v : TReg) (q : TReg) (p : TReg) (a : SReg) : Statement (.qdotx c v q p a) := by
  exact of_word rfl ((word37 (bit_lt c) v.isLt q.isLt p.isLt a.isLt (by decide)).trans (by simp [dec37, canonical]))

theorem qsum (c : Bool) (v : TReg) (q : TReg) (p : TReg) (a : SReg) : Statement (.qsum c v q p a) := by
  exact of_word rfl ((word37 (bit_lt c) v.isLt q.isLt p.isLt a.isLt (by decide)).trans (by simp [dec37, canonical]))

theorem qcount (c : Bool) (v : TReg) (q : TReg) (p : TReg) (a : SReg) : Statement (.qcount c v q p a) := by
  exact of_word rfl ((word38 (bit_lt c) v.isLt q.isLt p.isLt a.isLt (by decide)).trans (by simp [dec38, canonical]))

theorem qmax (c : Bool) (v : TReg) (q : TReg) (p : TReg) (a : SReg) : Statement (.qmax c v q p a) := by
  exact of_word rfl ((word38 (bit_lt c) v.isLt q.isLt p.isLt a.isLt (by decide)).trans (by simp [dec38, canonical]))

theorem qmin (c : Bool) (v : TReg) (q : TReg) (p : TReg) (a : SReg) : Statement (.qmin c v q p a) := by
  exact of_word rfl ((word38 (bit_lt c) v.isLt q.isLt p.isLt a.isLt (by decide)).trans (by simp [dec38, canonical]))

theorem qbest (c : Bool) (v : TReg) (p : TReg) (a : SReg) : Statement (.qbest c v p a) := by
  exact of_word rfl ((word38 (bit_lt c) v.isLt (by decide) p.isLt a.isLt (by decide)).trans (by simp [dec38, canonical]))

theorem qhamm (c : Bool) (v : TReg) (q : TReg) (p : TReg) (a : SReg) : Statement (.qhamm c v q p a) := by
  exact of_word rfl ((word39 (bit_lt c) v.isLt q.isLt p.isLt a.isLt (by decide)).trans (by simp [dec39, canonical]))

theorem qcode (c : Bool) (v : TReg) (q : TReg) (p : TReg) (a : SReg) : Statement (.qcode c v q p a) := by
  exact of_word rfl ((word39 (bit_lt c) v.isLt q.isLt p.isLt a.isLt (by decide)).trans (by simp [dec39, canonical]))

theorem qnarrow (c : Bool) (v : TReg) (t : TypeCode) (p : TReg) (a : SReg) : Statement (.qnarrow c v t p a) := by
  exact of_word rfl ((word39 (bit_lt c) v.isLt t.isLt p.isLt a.isLt (by decide)).trans (by simp [dec39, canonical]))

theorem qgsum (c : Bool) (v : TReg) (q : TReg) (p : TReg) (a : SReg) : Statement (.qgsum c v q p a) := by
  exact of_word rfl ((word39 (bit_lt c) v.isLt q.isLt p.isLt a.isLt (by decide)).trans (by simp [dec39, canonical]))

theorem qst (c : Bool) (v : TReg) (a : SReg) : Statement (.qst c v a) := by
  exact of_word rfl ((word3A (bit_lt c) v.isLt (by decide) (by decide) a.isLt (by decide)).trans (by simp [dec3A, canonical]))

theorem qstx (c : Bool) (v : TReg) (q : TReg) (a : SReg) : Statement (.qstx c v q a) := by
  intro hw w h
  cases h
  have hq : q.val ≠ 0 := by
    intro h0
    have : q = 0 := Fin.ext h0
    simp [Instr.wellFormed, this] at hw
  refine (word3A (bit_lt c) v.isLt q.isLt (by decide) a.isLt (by decide)).trans ?_
  simp [dec3A, canonical, hq]

theorem qraddAdd (c : Bool) (v : TReg) (q : TReg) (a : SReg) : Statement (.qraddAdd c v q a) := by
  exact of_word rfl ((word3A (bit_lt c) v.isLt q.isLt (by decide) a.isLt (by decide)).trans (by simp [dec3A, canonical]))

theorem qraddMax (c : Bool) (v : TReg) (q : TReg) (a : SReg) : Statement (.qraddMax c v q a) := by
  exact of_word rfl ((word3A (bit_lt c) v.isLt q.isLt (by decide) a.isLt (by decide)).trans (by simp [dec3A, canonical]))

theorem qraddMin (c : Bool) (v : TReg) (q : TReg) (a : SReg) : Statement (.qraddMin c v q a) := by
  exact of_word rfl ((word3A (bit_lt c) v.isLt q.isLt (by decide) a.isLt (by decide)).trans (by simp [dec3A, canonical]))

theorem qraddOr (c : Bool) (v : TReg) (q : TReg) (a : SReg) : Statement (.qraddOr c v q a) := by
  exact of_word rfl ((word3A (bit_lt c) v.isLt q.isLt (by decide) a.isLt (by decide)).trans (by simp [dec3A, canonical]))

theorem qraddAnd (c : Bool) (v : TReg) (q : TReg) (a : SReg) : Statement (.qraddAnd c v q a) := by
  exact of_word rfl ((word3A (bit_lt c) v.isLt q.isLt (by decide) a.isLt (by decide)).trans (by simp [dec3A, canonical]))

theorem qappend (c : Bool) (v : TReg) (q : TReg) (p : TReg) (a : SReg) : Statement (.qappend c v q p a) := by
  exact of_word rfl ((word3A (bit_lt c) v.isLt q.isLt p.isLt a.isLt (by decide)).trans (by simp [dec3A, canonical]))

theorem qcas (c : Bool) (v : TReg) (q : TReg) (p : TReg) (a : SReg) : Statement (.qcas c v q p a) := by
  exact of_word rfl ((word3A (bit_lt c) v.isLt q.isLt p.isLt a.isLt (by decide)).trans (by simp [dec3A, canonical]))

theorem qeval (c : Bool) (s : SReg) (a : SReg) : Statement (.qeval c s a) := by
  have hs := s.isLt
  have ha := a.isLt
  refine of_word rfl ((word3B (bit_lt c) (by have := s.isLt; omega) (by decide) (by decide) a.isLt (by decide)).trans ?_)
  simp [dec3B, canonical, Nat.mod_eq_of_lt hs, *]

theorem qcopy (c : Bool) (d : SReg) (p : TReg) (a : SReg) : Statement (.qcopy c d p a) := by
  have hd := d.isLt
  have hp := p.isLt
  have ha := a.isLt
  refine of_word rfl ((word3B (bit_lt c) (by have := d.isLt; omega) (by decide) p.isLt a.isLt (by decide)).trans ?_)
  simp [dec3B, canonical, Nat.mod_eq_of_lt hd, *]

theorem qmerge (c : Bool) (d : SReg) (q : TReg) (p : TReg) (a : SReg) : Statement (.qmerge c d q p a) := by
  have hd := d.isLt
  have hq := q.isLt
  have hp := p.isLt
  have ha := a.isLt
  refine of_word rfl ((word3B (bit_lt c) (by have := d.isLt; omega) q.isLt p.isLt a.isLt (by decide)).trans ?_)
  simp [dec3B, canonical, Nat.mod_eq_of_lt hd, *]

theorem issueConvoy (p : Nat) : Statement (.issueConvoy p) := fun _ _ h => nomatch h

theorem elementPerform (p : Nat) (m : Nat) (f : Nat) : Statement (.elementPerform p m f) := fun _ _ h => nomatch h

theorem turnTicket (p : Nat) (m : Nat) (f : Nat) : Statement (.turnTicket p m f) := fun _ _ h => nomatch h

theorem writeBufferDrain (p : Nat) (k : Nat) : Statement (.writeBufferDrain p k) := fun _ _ h => nomatch h

theorem spadHomeApply (k : Nat) : Statement (.spadHomeApply k) := fun _ _ h => nomatch h

theorem monitorWake (p : Nat) : Statement (.monitorWake p) := fun _ _ h => nomatch h

theorem fenceComplete (p : Nat) : Statement (.fenceComplete p) := fun _ _ h => nomatch h

theorem pwaitComplete (p : Nat) : Statement (.pwaitComplete p) := fun _ _ h => nomatch h

theorem haltComplete (p : Nat) : Statement (.haltComplete p) := fun _ _ h => nomatch h

theorem allotComplete (p : Nat) : Statement (.allotComplete p) := fun _ _ h => nomatch h

theorem reseatApply (p : Nat) : Statement (.reseatApply p) := fun _ _ h => nomatch h

theorem launchHandoff (p : Nat) : Statement (.launchHandoff p) := fun _ _ h => nomatch h

theorem wmpubApply (p : Nat) : Statement (.wmpubApply p) := fun _ _ h => nomatch h

theorem streamAccept (p : Nat) : Statement (.streamAccept p) := fun _ _ h => nomatch h

theorem streamChunkPerform (x : Nat) (k : Nat) : Statement (.streamChunkPerform x k) := fun _ _ h => nomatch h

theorem landingFlagStore (x : Nat) : Statement (.landingFlagStore x) := fun _ _ h => nomatch h

theorem hostFlushReadReturn (x : Nat) (k : Nat) : Statement (.hostFlushReadReturn x k) := fun _ _ h => nomatch h

theorem peerAcknowledgement (x : Nat) (k : PeerReply) : Statement (.peerAcknowledgement x k) := fun _ _ h => nomatch h

theorem chawickFrameReceive (port : Nat) (qm : Bool) (region : Nat) (off : Nat) (data : List Byte) (tagOk : Bool) : Statement (.chawickFrameReceive port qm region off data tagOk) := fun _ _ h => nomatch h

theorem queryAccept (p : Nat) : Statement (.queryAccept p) := fun _ _ h => nomatch h

theorem queryQueueSend (q : Nat) : Statement (.queryQueueSend q) := fun _ _ h => nomatch h

theorem stackUnitTouch (q : Nat) (u : Nat) : Statement (.stackUnitTouch q u) := fun _ _ h => nomatch h

theorem stackUnitWriteApply (q : Nat) (f : Nat) : Statement (.stackUnitWriteApply q f) := fun _ _ h => nomatch h

theorem parityDeltaAccept (st : Nat) : Statement (.parityDeltaAccept st) := fun _ _ h => nomatch h

theorem parityDeltaApply (st : Nat) (k : Nat) : Statement (.parityDeltaApply st k) := fun _ _ h => nomatch h

theorem fullStripeWrite (q : Nat) (f : Nat) : Statement (.fullStripeWrite q f) := fun _ _ h => nomatch h

theorem reconstructingRead (q : Nat) (u : Nat) : Statement (.reconstructingRead q u) := fun _ _ h => nomatch h

theorem queryReplyChunk (q : Nat) (c : Nat) : Statement (.queryReplyChunk q c) := fun _ _ h => nomatch h

theorem qcopyChunkPerform (q : Nat) (c : Nat) : Statement (.qcopyChunkPerform q c) := fun _ _ h => nomatch h

theorem collectionItemStep (q : Nat) : Statement (.collectionItemStep q) := fun _ _ h => nomatch h

theorem sideCountRaise (q : Nat) : Statement (.sideCountRaise q) := fun _ _ h => nomatch h

theorem qmergeCopy (q : Nat) : Statement (.qmergeCopy q) := fun _ _ h => nomatch h

theorem qmergeSwitch (q : Nat) : Statement (.qmergeSwitch q) := fun _ _ h => nomatch h

theorem qevalElement (q : Nat) (f : Nat) : Statement (.qevalElement q f) := fun _ _ h => nomatch h

theorem baseTableLoad (p : Nat) : Statement (.baseTableLoad p) := fun _ _ h => nomatch h

theorem matrixAccept (p : Nat) : Statement (.matrixAccept p) := fun _ _ h => nomatch h

theorem mxattachSlotGrant (p : Nat) : Statement (.mxattachSlotGrant p) := fun _ _ h => nomatch h

theorem mxattachLoadDone (p : Nat) : Statement (.mxattachLoadDone p) := fun _ _ h => nomatch h

theorem matrixArbiterCycle (cl : Nat) : Statement (.matrixArbiterCycle cl) := fun _ _ h => nomatch h

theorem matrixChunkLand (p : Nat) (c : Nat) : Statement (.matrixChunkLand p c) := fun _ _ h => nomatch h

theorem heldInstructionReaccept (p : Nat) : Statement (.heldInstructionReaccept p) := fun _ _ h => nomatch h

theorem remapSwitch (p : Nat) : Statement (.remapSwitch p) := fun _ _ h => nomatch h

theorem exportMarkSet : Statement (.exportMarkSet) := fun _ _ h => nomatch h

theorem translationWalk (asid : Nat) (va : Nat) : Statement (.translationWalk asid va) := fun _ _ h => nomatch h

theorem scrubRowVisit (st : Nat) (pc : Nat) (row : Nat) : Statement (.scrubRowVisit st pc row) := fun _ _ h => nomatch h

theorem cleanRowExpiry (st : Nat) (pc : Nat) (row : Nat) : Statement (.cleanRowExpiry st pc row) := fun _ _ h => nomatch h

theorem stackFatalError (st : Nat) : Statement (.stackFatalError st) := fun _ _ h => nomatch h

theorem degradedSwitch (st : Nat) : Statement (.degradedSwitch st) := fun _ _ h => nomatch h

theorem preemptionRequest (l : Nat) (party : Nat) : Statement (.preemptionRequest l party) := fun _ _ h => nomatch h

theorem preemptionTaken (p : Nat) : Statement (.preemptionTaken p) := fun _ _ h => nomatch h

theorem contextSave (p : Nat) : Statement (.contextSave p) := fun _ _ h => nomatch h

theorem contextRestore (c : Nat) (damage : Damage) : Statement (.contextRestore c damage) := fun _ _ h => nomatch h

theorem worldSwitch (cl : Nat) (w : Nat) : Statement (.worldSwitch cl w) := fun _ _ h => nomatch h

theorem worldSwitchClear (cl : Nat) : Statement (.worldSwitchClear cl) := fun _ _ h => nomatch h

theorem contextRemoval (l : Nat) : Statement (.contextRemoval l) := fun _ _ h => nomatch h

theorem removalStepDrained (l : Nat) : Statement (.removalStepDrained l) := fun _ _ h => nomatch h

theorem removalStall (l : Nat) : Statement (.removalStall l) := fun _ _ h => nomatch h

theorem agingInterval (q : Nat) (l : Nat) (party : Nat) : Statement (.agingInterval q l party) := fun _ _ h => nomatch h

theorem launchPlacement : Statement (.launchPlacement) := fun _ _ h => nomatch h

theorem packetHead (q : Nat) : Statement (.packetHead q) := fun _ _ h => nomatch h

theorem packetFetchStart (q : Nat) : Statement (.packetFetchStart q) := fun _ _ h => nomatch h

theorem launchPacket (q : Nat) : Statement (.launchPacket q) := fun _ _ h => nomatch h

theorem mode (q : Nat) : Statement (.mode q) := fun _ _ h => nomatch h

theorem cancel (q : Nat) : Statement (.cancel q) := fun _ _ h => nomatch h

theorem summaryPacket (q : Nat) : Statement (.summaryPacket q) := fun _ _ h => nomatch h

theorem packetReservedOpcode (q : Nat) : Statement (.packetReservedOpcode q) := fun _ _ h => nomatch h

theorem queueTailDoorbell (q : Nat) (v : Nat) : Statement (.queueTailDoorbell q v) := fun _ _ h => nomatch h

theorem completionHeadWrite (q : Nat) (v : Nat) : Statement (.completionHeadWrite q v) := fun _ _ h => nomatch h

theorem ringBaseWrite (q : Nat) (v : Nat) : Statement (.ringBaseWrite q v) := fun _ _ h => nomatch h

theorem completionBaseWrite (q : Nat) (v : Nat) : Statement (.completionBaseWrite q v) := fun _ _ h => nomatch h

theorem hostBarWrite (off : Nat) (size : Nat) (v : Nat) : Statement (.hostBarWrite off size v) := fun _ _ h => nomatch h

theorem dstartWarm (v : Nat) : Statement (.dstartWarm v) := fun _ _ h => nomatch h

theorem warmStartQuiesced : Statement (.warmStartQuiesced) := fun _ _ h => nomatch h

theorem dpcapWrite (v : Nat) : Statement (.dpcapWrite v) := fun _ _ h => nomatch h

theorem worldCreate (w : Nat) : Statement (.worldCreate w) := fun _ _ h => nomatch h

theorem worldDestroy (w : Nat) : Statement (.worldDestroy w) := fun _ _ h => nomatch h

theorem asidCreate (w : Nat) (asid : Nat) : Statement (.asidCreate w asid) := fun _ _ h => nomatch h

theorem asidDestroy (asid : Nat) : Statement (.asidDestroy asid) := fun _ _ h => nomatch h

theorem map (asid : Nat) (va : Nat) (lvl : Nat) (leaf : Nat) : Statement (.map asid va lvl leaf) := fun _ _ h => nomatch h

theorem unmap (asid : Nat) (va : Nat) : Statement (.unmap asid va) := fun _ _ h => nomatch h

theorem queueBind (q : Nat) (w : Nat) (asid : Nat) : Statement (.queueBind q w asid) := fun _ _ h => nomatch h

theorem handlerSet (w : Nat) (module : Nat) (vec : Nat) : Statement (.handlerSet w module vec) := fun _ _ h => nomatch h

theorem portBind (port : Nat) (w : Nat) : Statement (.portBind port w) := fun _ _ h => nomatch h

theorem regionAlloc (w : Nat) (cls : Nat) (slab : Bool) (home : Nat) (size : Nat) (ety : Nat) (width : Nat) (body : Nat) (side : Nat) : Statement (.regionAlloc w cls slab home size ety width body side) := fun _ _ h => nomatch h

theorem regionFree (id : Nat) : Statement (.regionFree id) := fun _ _ h => nomatch h

theorem summary (addr : Nat) (len : Nat) : Statement (.summary addr len) := fun _ _ h => nomatch h

theorem dumpErrors (addr : Nat) (first : Nat) (count : Nat) : Statement (.dumpErrors addr first count) := fun _ _ h => nomatch h

theorem mailboxReservedCode (code : Nat) : Statement (.mailboxReservedCode code) := fun _ _ h => nomatch h

theorem moduleLoad (asid : Nat) (file : List Byte) (clusters : List Nat) : Statement (.moduleLoad asid file clusters) := fun _ _ h => nomatch h

theorem moduleReady (h : Nat) : Statement (.moduleReady h) := fun _ _ h => nomatch h

theorem getVersion (sess : Nat) (req : List Byte) : Statement (.getVersion sess req) := fun _ _ h => nomatch h

theorem getCapabilities (sess : Nat) (req : List Byte) : Statement (.getCapabilities sess req) := fun _ _ h => nomatch h

theorem negotiateAlgorithms (sess : Nat) (req : List Byte) : Statement (.negotiateAlgorithms sess req) := fun _ _ h => nomatch h

theorem getDigests (sess : Nat) (req : List Byte) : Statement (.getDigests sess req) := fun _ _ h => nomatch h

theorem getCertificate (sess : Nat) (req : List Byte) : Statement (.getCertificate sess req) := fun _ _ h => nomatch h

theorem challenge (sess : Nat) (req : List Byte) : Statement (.challenge sess req) := fun _ _ h => nomatch h

theorem getMeasurements (sess : Nat) (req : List Byte) : Statement (.getMeasurements sess req) := fun _ _ h => nomatch h

theorem keyExchange (sess : Nat) (port : Nat) (peerTag : Nat) (req : List Byte) : Statement (.keyExchange sess port peerTag req) := fun _ _ h => nomatch h

theorem finish (sess : Nat) (req : List Byte) : Statement (.finish sess req) := fun _ _ h => nomatch h

theorem heartbeat (sess : Nat) (req : List Byte) : Statement (.heartbeat sess req) := fun _ _ h => nomatch h

theorem keyUpdate (sess : Nat) (req : List Byte) : Statement (.keyUpdate sess req) := fun _ _ h => nomatch h

theorem endSession (sess : Nat) (req : List Byte) : Statement (.endSession sess req) := fun _ _ h => nomatch h

theorem unsupportedRequest (sess : Nat) (req : List Byte) : Statement (.unsupportedRequest sess req) := fun _ _ h => nomatch h

theorem ownerBind (w : Nat) (sess : Nat) : Statement (.ownerBind w sess) := fun _ _ h => nomatch h

theorem setQratio (w : Nat) (sess : Nat) (v : Nat) : Statement (.setQratio w sess v) := fun _ _ h => nomatch h

theorem allowModule (w : Nat) (sess : Nat) (d : Nat) : Statement (.allowModule w sess d) := fun _ _ h => nomatch h

theorem allowPort (w : Nat) (sess : Nat) (port : Nat) (peerTag : Nat) (peerWorld : Nat) : Statement (.allowPort w sess port peerTag peerWorld) := fun _ _ h => nomatch h

theorem pathAssert (w : Nat) (sess : Nat) : Statement (.pathAssert w sess) := fun _ _ h => nomatch h

theorem ownerSeal (w : Nat) (sess : Nat) : Statement (.ownerSeal w sess) := fun _ _ h => nomatch h

theorem ideKm (sess : Nat) : Statement (.ideKm sess) := fun _ _ h => nomatch h

theorem coldStart : Statement (.coldStart) := fun _ _ h => nomatch h

theorem phyTraining (host : Bool) (lost : Nat) : Statement (.phyTraining host lost) := fun _ _ h => nomatch h

theorem selfTest (ok : Bool) (seats : List (Nat × Nat)) (lostStacks : List Nat) : Statement (.selfTest ok seats lostStacks) := fun _ _ h => nomatch h

theorem qmScrub (lostStacks : List Nat) : Statement (.qmScrub lostStacks) := fun _ _ h => nomatch h

theorem parityVerification (bad : List (Nat × Nat)) : Statement (.parityVerification bad) := fun _ _ h => nomatch h

theorem keyDerivation (salt : Nat) (fail : Nat) : Statement (.keyDerivation salt fail) := fun _ _ h => nomatch h

theorem firmwareMeasurement (ok : Bool) : Statement (.firmwareMeasurement ok) := fun _ _ h => nomatch h

theorem deviceFatalError (code : Nat) : Statement (.deviceFatalError code) := fun _ _ h => nomatch h

theorem hostLinkDown : Statement (.hostLinkDown) := fun _ _ h => nomatch h

theorem hostLinkTrained : Statement (.hostLinkTrained) := fun _ _ h => nomatch h

theorem ideSecureStateLoss : Statement (.ideSecureStateLoss) := fun _ _ h => nomatch h

theorem portLinkDrop (port : Nat) : Statement (.portLinkDrop port) := fun _ _ h => nomatch h

theorem portRetrain (port : Nat) (ok : Bool) : Statement (.portRetrain port ok) := fun _ _ h => nomatch h

theorem frameTagFailure (port : Nat) : Statement (.frameTagFailure port) := fun _ _ h => nomatch h

theorem frameKeyLimit (port : Nat) : Statement (.frameKeyLimit port) := fun _ _ h => nomatch h

theorem junctionTemperature (t : Nat) : Statement (.junctionTemperature t) := fun _ _ h => nomatch h

theorem powerEstimateWindow (work : List (Nat × Nat)) : Statement (.powerEstimateWindow work) := fun _ _ h => nomatch h

theorem powerMeasureWindow (watts : Nat) : Statement (.powerMeasureWindow watts) := fun _ _ h => nomatch h

theorem illegalOpcode (w : Nat) : Statement (.illegalOpcode w) := fun _ _ h => nomatch h

theorem fetchBound (pc : Nat) : Statement (.fetchBound pc) := fun _ _ h => nomatch h

theorem misalignedFetch (pc : Nat) : Statement (.misalignedFetch pc) := fun _ _ h => nomatch h

theorem hostReadReturn (x : Nat) (k : Nat) : Statement (.hostReadReturn x k) := fun _ _ h => nomatch h

end Sys2Proof.Laws.RoundTrip
end

