-- ==== Sys2Proof/Laws/State.lean ====
section
/-! SUPPORT. What the named updates of the state change and what they leave: one lemma for each field and update, true by
definition, so that no proof unfolds a record update. -/

set_option Elab.async false

namespace Sys2Proof.Machine

/-! ### State.count -/

/-- Counting changes the counters alone. -/
theorem State.count_eq (s : State) (i n : Nat) :
    s.count i n = { s with dev := (List.range n).foldl (fun d _ => d.bump i) s.dev } := by
  unfold State.count
  induction n with
  | zero => rfl
  | succ n ih => simp only [List.range_succ, List.foldl_append, List.foldl_cons, List.foldl_nil, ih]; rfl

theorem State.count_dev (s : State) (i n : Nat) : (s.count i n).dev = (List.range n).foldl (fun d _ => d.bump i) s.dev := by
  rw [State.count_eq]

/-! ### State.setPc -/

@[simp] theorem State.setPc_others (s : State) (v : Word) : (s.setPc v).others = s.others := rfl
@[simp] theorem State.setPc_mem (s : State) (v : Word) : (s.setPc v).mem = s.mem := rfl
@[simp] theorem State.setPc_qm (s : State) (v : Word) : (s.setPc v).qm = s.qm := rfl
@[simp] theorem State.setPc_vm (s : State) (v : Word) : (s.setPc v).vm = s.vm := rfl
@[simp] theorem State.setPc_eng (s : State) (v : Word) : (s.setPc v).eng = s.eng := rfl
@[simp] theorem State.setPc_cp (s : State) (v : Word) : (s.setPc v).cp = s.cp := rfl
@[simp] theorem State.setPc_dev (s : State) (v : Word) : (s.setPc v).dev = s.dev := rfl
@[simp] theorem State.setPc_agenda (s : State) (v : Word) : (s.setPc v).agenda = s.agenda := rfl
@[simp] theorem State.setPc_fresh (s : State) (v : Word) : (s.setPc v).fresh = s.fresh := rfl
@[simp] theorem State.setPc_me_id (s : State) (v : Word) : (s.setPc v).me.id = s.me.id := rfl
@[simp] theorem State.setPc_me_live (s : State) (v : Word) : (s.setPc v).me.live = s.me.live := rfl
@[simp] theorem State.setPc_me_place (s : State) (v : Word) : (s.setPc v).me.place = s.me.place := rfl
@[simp] theorem State.setPc_me_sregs (s : State) (v : Word) : (s.setPc v).me.sregs = s.me.sregs := rfl
@[simp] theorem State.setPc_me_tregs (s : State) (v : Word) : (s.setPc v).me.tregs = s.me.tregs := rfl
@[simp] theorem State.setPc_me_shape (s : State) (v : Word) : (s.setPc v).me.shape = s.me.shape := rfl
@[simp] theorem State.setPc_me_joins (s : State) (v : Word) : (s.setPc v).me.joins = s.me.joins := rfl
@[simp] theorem State.setPc_me_parked (s : State) (v : Word) : (s.setPc v).me.parked = s.me.parked := rfl
@[simp] theorem State.setPc_me_flags (s : State) (v : Word) : (s.setPc v).me.flags = s.me.flags := rfl
@[simp] theorem State.setPc_me_frm (s : State) (v : Word) : (s.setPc v).me.frm = s.me.frm := rfl
@[simp] theorem State.setPc_me_xrm (s : State) (v : Word) : (s.setPc v).me.xrm = s.me.xrm := rfl
@[simp] theorem State.setPc_me_det (s : State) (v : Word) : (s.setPc v).me.det = s.me.det := rfl
@[simp] theorem State.setPc_me_gtrim (s : State) (v : Word) : (s.setPc v).me.gtrim = s.me.gtrim := rfl
@[simp] theorem State.setPc_me_wmk (s : State) (v : Word) : (s.setPc v).me.wmk = s.me.wmk := rfl
@[simp] theorem State.setPc_me_barp (s : State) (v : Word) : (s.setPc v).me.barp = s.me.barp := rfl
@[simp] theorem State.setPc_me_trap (s : State) (v : Word) : (s.setPc v).me.trap = s.me.trap := rfl
@[simp] theorem State.setPc_me_q (s : State) (v : Word) : (s.setPc v).me.q = s.me.q := rfl
@[simp] theorem State.setPc_me_x (s : State) (v : Word) : (s.setPc v).me.x = s.me.x := rfl
@[simp] theorem State.setPc_me_afq (s : State) (v : Word) : (s.setPc v).me.afq = s.me.afq := rfl
@[simp] theorem State.setPc_me_afqOvf (s : State) (v : Word) : (s.setPc v).me.afqOvf = s.me.afqOvf := rfl
@[simp] theorem State.setPc_me_grant (s : State) (v : Word) : (s.setPc v).me.grant = s.me.grant := rfl
@[simp] theorem State.setPc_me_accum (s : State) (v : Word) : (s.setPc v).me.accum = s.me.accum := rfl
@[simp] theorem State.setPc_me_queue (s : State) (v : Word) : (s.setPc v).me.queue = s.me.queue := rfl
@[simp] theorem State.setPc_me_conv (s : State) (v : Word) : (s.setPc v).me.conv = s.me.conv := rfl
@[simp] theorem State.setPc_me_slot (s : State) (v : Word) : (s.setPc v).me.slot = s.me.slot := rfl
@[simp] theorem State.setPc_me_wbuf (s : State) (v : Word) : (s.setPc v).me.wbuf = s.me.wbuf := rfl
@[simp] theorem State.setPc_me_waiting (s : State) (v : Word) : (s.setPc v).me.waiting = s.me.waiting := rfl
@[simp] theorem State.setPc_me_barGen (s : State) (v : Word) : (s.setPc v).me.barGen = s.me.barGen := rfl
@[simp] theorem State.setPc_me_armed (s : State) (v : Word) : (s.setPc v).me.armed = s.me.armed := rfl
@[simp] theorem State.setPc_me_wake (s : State) (v : Word) : (s.setPc v).me.wake = s.me.wake := rfl
@[simp] theorem State.setPc_me_owners (s : State) (v : Word) : (s.setPc v).me.owners = s.me.owners := rfl
@[simp] theorem State.setPc_me_tbad (s : State) (v : Word) : (s.setPc v).me.tbad = s.me.tbad := rfl
@[simp] theorem State.setPc_me_tsoft (s : State) (v : Word) : (s.setPc v).me.tsoft = s.me.tsoft := rfl
@[simp] theorem State.setPc_me_preempt (s : State) (v : Word) : (s.setPc v).me.preempt = s.me.preempt := rfl
@[simp] theorem State.setPc_me_hold (s : State) (v : Word) : (s.setPc v).me.hold = s.me.hold := rfl
@[simp] theorem State.setPc_me_window (s : State) (v : Word) : (s.setPc v).me.window = s.me.window := rfl
@[simp] theorem State.setPc_me_windowPages (s : State) (v : Word) : (s.setPc v).me.windowPages = s.me.windowPages := rfl
@[simp] theorem State.setPc_me_started (s : State) (v : Word) : (s.setPc v).me.started = s.me.started := rfl
@[simp] theorem State.setPc_me_frozen (s : State) (v : Word) : (s.setPc v).me.frozen = s.me.frozen := rfl

/-! ### State.withMe -/

@[simp] theorem State.withMe_others (s : State) (p : Player) : (s.withMe p).others = s.others := rfl
@[simp] theorem State.withMe_mem (s : State) (p : Player) : (s.withMe p).mem = s.mem := rfl
@[simp] theorem State.withMe_qm (s : State) (p : Player) : (s.withMe p).qm = s.qm := rfl
@[simp] theorem State.withMe_vm (s : State) (p : Player) : (s.withMe p).vm = s.vm := rfl
@[simp] theorem State.withMe_eng (s : State) (p : Player) : (s.withMe p).eng = s.eng := rfl
@[simp] theorem State.withMe_cp (s : State) (p : Player) : (s.withMe p).cp = s.cp := rfl
@[simp] theorem State.withMe_dev (s : State) (p : Player) : (s.withMe p).dev = s.dev := rfl
@[simp] theorem State.withMe_agenda (s : State) (p : Player) : (s.withMe p).agenda = s.agenda := rfl
@[simp] theorem State.withMe_fresh (s : State) (p : Player) : (s.withMe p).fresh = s.fresh := rfl

/-! ### State.wr -/

@[simp] theorem State.wr_others (s : State) (r : SReg) (v : Word) : (s.wr r v).others = s.others := rfl
@[simp] theorem State.wr_mem (s : State) (r : SReg) (v : Word) : (s.wr r v).mem = s.mem := rfl
@[simp] theorem State.wr_qm (s : State) (r : SReg) (v : Word) : (s.wr r v).qm = s.qm := rfl
@[simp] theorem State.wr_vm (s : State) (r : SReg) (v : Word) : (s.wr r v).vm = s.vm := rfl
@[simp] theorem State.wr_eng (s : State) (r : SReg) (v : Word) : (s.wr r v).eng = s.eng := rfl
@[simp] theorem State.wr_cp (s : State) (r : SReg) (v : Word) : (s.wr r v).cp = s.cp := rfl
@[simp] theorem State.wr_dev (s : State) (r : SReg) (v : Word) : (s.wr r v).dev = s.dev := rfl
@[simp] theorem State.wr_agenda (s : State) (r : SReg) (v : Word) : (s.wr r v).agenda = s.agenda := rfl
@[simp] theorem State.wr_fresh (s : State) (r : SReg) (v : Word) : (s.wr r v).fresh = s.fresh := rfl

/-! ### State.raise -/

@[simp] theorem State.raise_others (s : State) (f : Flags) : (s.raise f).others = s.others := rfl
@[simp] theorem State.raise_mem (s : State) (f : Flags) : (s.raise f).mem = s.mem := rfl
@[simp] theorem State.raise_qm (s : State) (f : Flags) : (s.raise f).qm = s.qm := rfl
@[simp] theorem State.raise_vm (s : State) (f : Flags) : (s.raise f).vm = s.vm := rfl
@[simp] theorem State.raise_eng (s : State) (f : Flags) : (s.raise f).eng = s.eng := rfl
@[simp] theorem State.raise_cp (s : State) (f : Flags) : (s.raise f).cp = s.cp := rfl
@[simp] theorem State.raise_dev (s : State) (f : Flags) : (s.raise f).dev = s.dev := rfl
@[simp] theorem State.raise_agenda (s : State) (f : Flags) : (s.raise f).agenda = s.agenda := rfl
@[simp] theorem State.raise_fresh (s : State) (f : Flags) : (s.raise f).fresh = s.fresh := rfl
@[simp] theorem State.raise_me_id (s : State) (f : Flags) : (s.raise f).me.id = s.me.id := rfl
@[simp] theorem State.raise_me_live (s : State) (f : Flags) : (s.raise f).me.live = s.me.live := rfl
@[simp] theorem State.raise_me_place (s : State) (f : Flags) : (s.raise f).me.place = s.me.place := rfl
@[simp] theorem State.raise_me_pc (s : State) (f : Flags) : (s.raise f).me.pc = s.me.pc := rfl
@[simp] theorem State.raise_me_sregs (s : State) (f : Flags) : (s.raise f).me.sregs = s.me.sregs := rfl
@[simp] theorem State.raise_me_tregs (s : State) (f : Flags) : (s.raise f).me.tregs = s.me.tregs := rfl
@[simp] theorem State.raise_me_shape (s : State) (f : Flags) : (s.raise f).me.shape = s.me.shape := rfl
@[simp] theorem State.raise_me_joins (s : State) (f : Flags) : (s.raise f).me.joins = s.me.joins := rfl
@[simp] theorem State.raise_me_parked (s : State) (f : Flags) : (s.raise f).me.parked = s.me.parked := rfl
@[simp] theorem State.raise_me_frm (s : State) (f : Flags) : (s.raise f).me.frm = s.me.frm := rfl
@[simp] theorem State.raise_me_xrm (s : State) (f : Flags) : (s.raise f).me.xrm = s.me.xrm := rfl
@[simp] theorem State.raise_me_det (s : State) (f : Flags) : (s.raise f).me.det = s.me.det := rfl
@[simp] theorem State.raise_me_gtrim (s : State) (f : Flags) : (s.raise f).me.gtrim = s.me.gtrim := rfl
@[simp] theorem State.raise_me_wmk (s : State) (f : Flags) : (s.raise f).me.wmk = s.me.wmk := rfl
@[simp] theorem State.raise_me_barp (s : State) (f : Flags) : (s.raise f).me.barp = s.me.barp := rfl
@[simp] theorem State.raise_me_trap (s : State) (f : Flags) : (s.raise f).me.trap = s.me.trap := rfl
@[simp] theorem State.raise_me_q (s : State) (f : Flags) : (s.raise f).me.q = s.me.q := rfl
@[simp] theorem State.raise_me_x (s : State) (f : Flags) : (s.raise f).me.x = s.me.x := rfl
@[simp] theorem State.raise_me_afq (s : State) (f : Flags) : (s.raise f).me.afq = s.me.afq := rfl
@[simp] theorem State.raise_me_afqOvf (s : State) (f : Flags) : (s.raise f).me.afqOvf = s.me.afqOvf := rfl
@[simp] theorem State.raise_me_grant (s : State) (f : Flags) : (s.raise f).me.grant = s.me.grant := rfl
@[simp] theorem State.raise_me_accum (s : State) (f : Flags) : (s.raise f).me.accum = s.me.accum := rfl
@[simp] theorem State.raise_me_queue (s : State) (f : Flags) : (s.raise f).me.queue = s.me.queue := rfl
@[simp] theorem State.raise_me_conv (s : State) (f : Flags) : (s.raise f).me.conv = s.me.conv := rfl
@[simp] theorem State.raise_me_slot (s : State) (f : Flags) : (s.raise f).me.slot = s.me.slot := rfl
@[simp] theorem State.raise_me_wbuf (s : State) (f : Flags) : (s.raise f).me.wbuf = s.me.wbuf := rfl
@[simp] theorem State.raise_me_waiting (s : State) (f : Flags) : (s.raise f).me.waiting = s.me.waiting := rfl
@[simp] theorem State.raise_me_barGen (s : State) (f : Flags) : (s.raise f).me.barGen = s.me.barGen := rfl
@[simp] theorem State.raise_me_armed (s : State) (f : Flags) : (s.raise f).me.armed = s.me.armed := rfl
@[simp] theorem State.raise_me_wake (s : State) (f : Flags) : (s.raise f).me.wake = s.me.wake := rfl
@[simp] theorem State.raise_me_owners (s : State) (f : Flags) : (s.raise f).me.owners = s.me.owners := rfl
@[simp] theorem State.raise_me_tbad (s : State) (f : Flags) : (s.raise f).me.tbad = s.me.tbad := rfl
@[simp] theorem State.raise_me_tsoft (s : State) (f : Flags) : (s.raise f).me.tsoft = s.me.tsoft := rfl
@[simp] theorem State.raise_me_preempt (s : State) (f : Flags) : (s.raise f).me.preempt = s.me.preempt := rfl
@[simp] theorem State.raise_me_hold (s : State) (f : Flags) : (s.raise f).me.hold = s.me.hold := rfl
@[simp] theorem State.raise_me_window (s : State) (f : Flags) : (s.raise f).me.window = s.me.window := rfl
@[simp] theorem State.raise_me_windowPages (s : State) (f : Flags) : (s.raise f).me.windowPages = s.me.windowPages := rfl
@[simp] theorem State.raise_me_started (s : State) (f : Flags) : (s.raise f).me.started = s.me.started := rfl
@[simp] theorem State.raise_me_frozen (s : State) (f : Flags) : (s.raise f).me.frozen = s.me.frozen := rfl

/-! ### State.pushStore -/

@[simp] theorem State.pushStore_others (s : State) (st : Store) : (s.pushStore st).others = s.others := rfl
@[simp] theorem State.pushStore_mem (s : State) (st : Store) : (s.pushStore st).mem = s.mem := rfl
@[simp] theorem State.pushStore_qm (s : State) (st : Store) : (s.pushStore st).qm = s.qm := rfl
@[simp] theorem State.pushStore_vm (s : State) (st : Store) : (s.pushStore st).vm = s.vm := rfl
@[simp] theorem State.pushStore_eng (s : State) (st : Store) : (s.pushStore st).eng = s.eng := rfl
@[simp] theorem State.pushStore_cp (s : State) (st : Store) : (s.pushStore st).cp = s.cp := rfl
@[simp] theorem State.pushStore_dev (s : State) (st : Store) : (s.pushStore st).dev = s.dev := rfl
@[simp] theorem State.pushStore_agenda (s : State) (st : Store) : (s.pushStore st).agenda = s.agenda := rfl
@[simp] theorem State.pushStore_fresh (s : State) (st : Store) : (s.pushStore st).fresh = s.fresh := rfl
@[simp] theorem State.pushStore_me_id (s : State) (st : Store) : (s.pushStore st).me.id = s.me.id := rfl
@[simp] theorem State.pushStore_me_live (s : State) (st : Store) : (s.pushStore st).me.live = s.me.live := rfl
@[simp] theorem State.pushStore_me_place (s : State) (st : Store) : (s.pushStore st).me.place = s.me.place := rfl
@[simp] theorem State.pushStore_me_pc (s : State) (st : Store) : (s.pushStore st).me.pc = s.me.pc := rfl
@[simp] theorem State.pushStore_me_sregs (s : State) (st : Store) : (s.pushStore st).me.sregs = s.me.sregs := rfl
@[simp] theorem State.pushStore_me_tregs (s : State) (st : Store) : (s.pushStore st).me.tregs = s.me.tregs := rfl
@[simp] theorem State.pushStore_me_shape (s : State) (st : Store) : (s.pushStore st).me.shape = s.me.shape := rfl
@[simp] theorem State.pushStore_me_joins (s : State) (st : Store) : (s.pushStore st).me.joins = s.me.joins := rfl
@[simp] theorem State.pushStore_me_parked (s : State) (st : Store) : (s.pushStore st).me.parked = s.me.parked := rfl
@[simp] theorem State.pushStore_me_flags (s : State) (st : Store) : (s.pushStore st).me.flags = s.me.flags := rfl
@[simp] theorem State.pushStore_me_frm (s : State) (st : Store) : (s.pushStore st).me.frm = s.me.frm := rfl
@[simp] theorem State.pushStore_me_xrm (s : State) (st : Store) : (s.pushStore st).me.xrm = s.me.xrm := rfl
@[simp] theorem State.pushStore_me_det (s : State) (st : Store) : (s.pushStore st).me.det = s.me.det := rfl
@[simp] theorem State.pushStore_me_gtrim (s : State) (st : Store) : (s.pushStore st).me.gtrim = s.me.gtrim := rfl
@[simp] theorem State.pushStore_me_wmk (s : State) (st : Store) : (s.pushStore st).me.wmk = s.me.wmk := rfl
@[simp] theorem State.pushStore_me_barp (s : State) (st : Store) : (s.pushStore st).me.barp = s.me.barp := rfl
@[simp] theorem State.pushStore_me_trap (s : State) (st : Store) : (s.pushStore st).me.trap = s.me.trap := rfl
@[simp] theorem State.pushStore_me_q (s : State) (st : Store) : (s.pushStore st).me.q = s.me.q := rfl
@[simp] theorem State.pushStore_me_x (s : State) (st : Store) : (s.pushStore st).me.x = s.me.x := rfl
@[simp] theorem State.pushStore_me_afq (s : State) (st : Store) : (s.pushStore st).me.afq = s.me.afq := rfl
@[simp] theorem State.pushStore_me_afqOvf (s : State) (st : Store) : (s.pushStore st).me.afqOvf = s.me.afqOvf := rfl
@[simp] theorem State.pushStore_me_grant (s : State) (st : Store) : (s.pushStore st).me.grant = s.me.grant := rfl
@[simp] theorem State.pushStore_me_accum (s : State) (st : Store) : (s.pushStore st).me.accum = s.me.accum := rfl
@[simp] theorem State.pushStore_me_queue (s : State) (st : Store) : (s.pushStore st).me.queue = s.me.queue := rfl
@[simp] theorem State.pushStore_me_conv (s : State) (st : Store) : (s.pushStore st).me.conv = s.me.conv := rfl
@[simp] theorem State.pushStore_me_slot (s : State) (st : Store) : (s.pushStore st).me.slot = s.me.slot := rfl
@[simp] theorem State.pushStore_me_waiting (s : State) (st : Store) : (s.pushStore st).me.waiting = s.me.waiting := rfl
@[simp] theorem State.pushStore_me_barGen (s : State) (st : Store) : (s.pushStore st).me.barGen = s.me.barGen := rfl
@[simp] theorem State.pushStore_me_armed (s : State) (st : Store) : (s.pushStore st).me.armed = s.me.armed := rfl
@[simp] theorem State.pushStore_me_wake (s : State) (st : Store) : (s.pushStore st).me.wake = s.me.wake := rfl
@[simp] theorem State.pushStore_me_owners (s : State) (st : Store) : (s.pushStore st).me.owners = s.me.owners := rfl
@[simp] theorem State.pushStore_me_tbad (s : State) (st : Store) : (s.pushStore st).me.tbad = s.me.tbad := rfl
@[simp] theorem State.pushStore_me_tsoft (s : State) (st : Store) : (s.pushStore st).me.tsoft = s.me.tsoft := rfl
@[simp] theorem State.pushStore_me_preempt (s : State) (st : Store) : (s.pushStore st).me.preempt = s.me.preempt := rfl
@[simp] theorem State.pushStore_me_hold (s : State) (st : Store) : (s.pushStore st).me.hold = s.me.hold := rfl
@[simp] theorem State.pushStore_me_window (s : State) (st : Store) : (s.pushStore st).me.window = s.me.window := rfl
@[simp] theorem State.pushStore_me_windowPages (s : State) (st : Store) : (s.pushStore st).me.windowPages = s.me.windowPages := rfl
@[simp] theorem State.pushStore_me_started (s : State) (st : Store) : (s.pushStore st).me.started = s.me.started := rfl
@[simp] theorem State.pushStore_me_frozen (s : State) (st : Store) : (s.pushStore st).me.frozen = s.me.frozen := rfl

/-! ### State.advance -/

@[simp] theorem State.advance_others (s : State) : (s.advance).others = s.others := rfl
@[simp] theorem State.advance_mem (s : State) : (s.advance).mem = s.mem := rfl
@[simp] theorem State.advance_qm (s : State) : (s.advance).qm = s.qm := rfl
@[simp] theorem State.advance_vm (s : State) : (s.advance).vm = s.vm := rfl
@[simp] theorem State.advance_eng (s : State) : (s.advance).eng = s.eng := rfl
@[simp] theorem State.advance_cp (s : State) : (s.advance).cp = s.cp := rfl
@[simp] theorem State.advance_dev (s : State) : (s.advance).dev = s.dev := rfl
@[simp] theorem State.advance_agenda (s : State) : (s.advance).agenda = s.agenda := rfl
@[simp] theorem State.advance_fresh (s : State) : (s.advance).fresh = s.fresh := rfl
@[simp] theorem State.advance_me_id (s : State) : (s.advance).me.id = s.me.id := rfl
@[simp] theorem State.advance_me_live (s : State) : (s.advance).me.live = s.me.live := rfl
@[simp] theorem State.advance_me_place (s : State) : (s.advance).me.place = s.me.place := rfl
@[simp] theorem State.advance_me_sregs (s : State) : (s.advance).me.sregs = s.me.sregs := rfl
@[simp] theorem State.advance_me_tregs (s : State) : (s.advance).me.tregs = s.me.tregs := rfl
@[simp] theorem State.advance_me_shape (s : State) : (s.advance).me.shape = s.me.shape := rfl
@[simp] theorem State.advance_me_joins (s : State) : (s.advance).me.joins = s.me.joins := rfl
@[simp] theorem State.advance_me_parked (s : State) : (s.advance).me.parked = s.me.parked := rfl
@[simp] theorem State.advance_me_flags (s : State) : (s.advance).me.flags = s.me.flags := rfl
@[simp] theorem State.advance_me_frm (s : State) : (s.advance).me.frm = s.me.frm := rfl
@[simp] theorem State.advance_me_xrm (s : State) : (s.advance).me.xrm = s.me.xrm := rfl
@[simp] theorem State.advance_me_det (s : State) : (s.advance).me.det = s.me.det := rfl
@[simp] theorem State.advance_me_gtrim (s : State) : (s.advance).me.gtrim = s.me.gtrim := rfl
@[simp] theorem State.advance_me_wmk (s : State) : (s.advance).me.wmk = s.me.wmk := rfl
@[simp] theorem State.advance_me_barp (s : State) : (s.advance).me.barp = s.me.barp := rfl
@[simp] theorem State.advance_me_trap (s : State) : (s.advance).me.trap = s.me.trap := rfl
@[simp] theorem State.advance_me_q (s : State) : (s.advance).me.q = s.me.q := rfl
@[simp] theorem State.advance_me_x (s : State) : (s.advance).me.x = s.me.x := rfl
@[simp] theorem State.advance_me_afq (s : State) : (s.advance).me.afq = s.me.afq := rfl
@[simp] theorem State.advance_me_afqOvf (s : State) : (s.advance).me.afqOvf = s.me.afqOvf := rfl
@[simp] theorem State.advance_me_grant (s : State) : (s.advance).me.grant = s.me.grant := rfl
@[simp] theorem State.advance_me_accum (s : State) : (s.advance).me.accum = s.me.accum := rfl
@[simp] theorem State.advance_me_queue (s : State) : (s.advance).me.queue = s.me.queue := rfl
@[simp] theorem State.advance_me_conv (s : State) : (s.advance).me.conv = s.me.conv := rfl
@[simp] theorem State.advance_me_slot (s : State) : (s.advance).me.slot = s.me.slot := rfl
@[simp] theorem State.advance_me_wbuf (s : State) : (s.advance).me.wbuf = s.me.wbuf := rfl
@[simp] theorem State.advance_me_waiting (s : State) : (s.advance).me.waiting = s.me.waiting := rfl
@[simp] theorem State.advance_me_barGen (s : State) : (s.advance).me.barGen = s.me.barGen := rfl
@[simp] theorem State.advance_me_armed (s : State) : (s.advance).me.armed = s.me.armed := rfl
@[simp] theorem State.advance_me_wake (s : State) : (s.advance).me.wake = s.me.wake := rfl
@[simp] theorem State.advance_me_owners (s : State) : (s.advance).me.owners = s.me.owners := rfl
@[simp] theorem State.advance_me_tbad (s : State) : (s.advance).me.tbad = s.me.tbad := rfl
@[simp] theorem State.advance_me_tsoft (s : State) : (s.advance).me.tsoft = s.me.tsoft := rfl
@[simp] theorem State.advance_me_preempt (s : State) : (s.advance).me.preempt = s.me.preempt := rfl
@[simp] theorem State.advance_me_hold (s : State) : (s.advance).me.hold = s.me.hold := rfl
@[simp] theorem State.advance_me_window (s : State) : (s.advance).me.window = s.me.window := rfl
@[simp] theorem State.advance_me_windowPages (s : State) : (s.advance).me.windowPages = s.me.windowPages := rfl
@[simp] theorem State.advance_me_started (s : State) : (s.advance).me.started = s.me.started := rfl
@[simp] theorem State.advance_me_frozen (s : State) : (s.advance).me.frozen = s.me.frozen := rfl

@[simp] theorem State.setPc_me_pc (s : State) (v : Word) : (s.setPc v).me.pc = v := rfl
@[simp] theorem State.advance_me_pc (s : State) : s.advance.me.pc = s.me.pc + 4 := rfl
@[simp] theorem State.withMe_me (s : State) (p : Player) : (s.withMe p).me = p := rfl
@[simp] theorem State.wr_me (s : State) (r : SReg) (v : Word) : (s.wr r v).me = s.me.wr r v := rfl
@[simp] theorem State.raise_me_flags (s : State) (f : Flags) : (s.raise f).me.flags = s.me.flags ||| f := rfl
@[simp] theorem State.pushStore_me_wbuf (s : State) (st : Store) : (s.pushStore st).me.wbuf = s.me.wbuf ++ [st] := rfl

/-! ### Player.wr (R34) -/

@[simp] theorem Player.wr_zero (p : Player) (v : Word) : p.wr 0 v = p := rfl
theorem Player.wr_of_ne (p : Player) (r : SReg) (v : Word) (h : r ≠ 0) : p.wr r v = { p with sregs := p.sregs.set r v } :=
  if_neg h

@[simp] theorem Player.wr_id (p : Player) (r : SReg) (v : Word) : (p.wr r v).id = p.id := by
  unfold Player.wr; split <;> rfl
@[simp] theorem Player.wr_live (p : Player) (r : SReg) (v : Word) : (p.wr r v).live = p.live := by
  unfold Player.wr; split <;> rfl
@[simp] theorem Player.wr_place (p : Player) (r : SReg) (v : Word) : (p.wr r v).place = p.place := by
  unfold Player.wr; split <;> rfl
@[simp] theorem Player.wr_pc (p : Player) (r : SReg) (v : Word) : (p.wr r v).pc = p.pc := by
  unfold Player.wr; split <;> rfl
@[simp] theorem Player.wr_tregs (p : Player) (r : SReg) (v : Word) : (p.wr r v).tregs = p.tregs := by
  unfold Player.wr; split <;> rfl
@[simp] theorem Player.wr_shape (p : Player) (r : SReg) (v : Word) : (p.wr r v).shape = p.shape := by
  unfold Player.wr; split <;> rfl
@[simp] theorem Player.wr_joins (p : Player) (r : SReg) (v : Word) : (p.wr r v).joins = p.joins := by
  unfold Player.wr; split <;> rfl
@[simp] theorem Player.wr_parked (p : Player) (r : SReg) (v : Word) : (p.wr r v).parked = p.parked := by
  unfold Player.wr; split <;> rfl
@[simp] theorem Player.wr_flags (p : Player) (r : SReg) (v : Word) : (p.wr r v).flags = p.flags := by
  unfold Player.wr; split <;> rfl
@[simp] theorem Player.wr_frm (p : Player) (r : SReg) (v : Word) : (p.wr r v).frm = p.frm := by
  unfold Player.wr; split <;> rfl
@[simp] theorem Player.wr_xrm (p : Player) (r : SReg) (v : Word) : (p.wr r v).xrm = p.xrm := by
  unfold Player.wr; split <;> rfl
@[simp] theorem Player.wr_det (p : Player) (r : SReg) (v : Word) : (p.wr r v).det = p.det := by
  unfold Player.wr; split <;> rfl
@[simp] theorem Player.wr_gtrim (p : Player) (r : SReg) (v : Word) : (p.wr r v).gtrim = p.gtrim := by
  unfold Player.wr; split <;> rfl
@[simp] theorem Player.wr_wmk (p : Player) (r : SReg) (v : Word) : (p.wr r v).wmk = p.wmk := by
  unfold Player.wr; split <;> rfl
@[simp] theorem Player.wr_barp (p : Player) (r : SReg) (v : Word) : (p.wr r v).barp = p.barp := by
  unfold Player.wr; split <;> rfl
@[simp] theorem Player.wr_trap (p : Player) (r : SReg) (v : Word) : (p.wr r v).trap = p.trap := by
  unfold Player.wr; split <;> rfl
@[simp] theorem Player.wr_q (p : Player) (r : SReg) (v : Word) : (p.wr r v).q = p.q := by
  unfold Player.wr; split <;> rfl
@[simp] theorem Player.wr_x (p : Player) (r : SReg) (v : Word) : (p.wr r v).x = p.x := by
  unfold Player.wr; split <;> rfl
@[simp] theorem Player.wr_afq (p : Player) (r : SReg) (v : Word) : (p.wr r v).afq = p.afq := by
  unfold Player.wr; split <;> rfl
@[simp] theorem Player.wr_afqOvf (p : Player) (r : SReg) (v : Word) : (p.wr r v).afqOvf = p.afqOvf := by
  unfold Player.wr; split <;> rfl
@[simp] theorem Player.wr_grant (p : Player) (r : SReg) (v : Word) : (p.wr r v).grant = p.grant := by
  unfold Player.wr; split <;> rfl
@[simp] theorem Player.wr_accum (p : Player) (r : SReg) (v : Word) : (p.wr r v).accum = p.accum := by
  unfold Player.wr; split <;> rfl
@[simp] theorem Player.wr_queue (p : Player) (r : SReg) (v : Word) : (p.wr r v).queue = p.queue := by
  unfold Player.wr; split <;> rfl
@[simp] theorem Player.wr_conv (p : Player) (r : SReg) (v : Word) : (p.wr r v).conv = p.conv := by
  unfold Player.wr; split <;> rfl
@[simp] theorem Player.wr_slot (p : Player) (r : SReg) (v : Word) : (p.wr r v).slot = p.slot := by
  unfold Player.wr; split <;> rfl
@[simp] theorem Player.wr_wbuf (p : Player) (r : SReg) (v : Word) : (p.wr r v).wbuf = p.wbuf := by
  unfold Player.wr; split <;> rfl
@[simp] theorem Player.wr_waiting (p : Player) (r : SReg) (v : Word) : (p.wr r v).waiting = p.waiting := by
  unfold Player.wr; split <;> rfl
@[simp] theorem Player.wr_barGen (p : Player) (r : SReg) (v : Word) : (p.wr r v).barGen = p.barGen := by
  unfold Player.wr; split <;> rfl
@[simp] theorem Player.wr_armed (p : Player) (r : SReg) (v : Word) : (p.wr r v).armed = p.armed := by
  unfold Player.wr; split <;> rfl
@[simp] theorem Player.wr_wake (p : Player) (r : SReg) (v : Word) : (p.wr r v).wake = p.wake := by
  unfold Player.wr; split <;> rfl
@[simp] theorem Player.wr_owners (p : Player) (r : SReg) (v : Word) : (p.wr r v).owners = p.owners := by
  unfold Player.wr; split <;> rfl
@[simp] theorem Player.wr_tbad (p : Player) (r : SReg) (v : Word) : (p.wr r v).tbad = p.tbad := by
  unfold Player.wr; split <;> rfl
@[simp] theorem Player.wr_tsoft (p : Player) (r : SReg) (v : Word) : (p.wr r v).tsoft = p.tsoft := by
  unfold Player.wr; split <;> rfl
@[simp] theorem Player.wr_preempt (p : Player) (r : SReg) (v : Word) : (p.wr r v).preempt = p.preempt := by
  unfold Player.wr; split <;> rfl
@[simp] theorem Player.wr_hold (p : Player) (r : SReg) (v : Word) : (p.wr r v).hold = p.hold := by
  unfold Player.wr; split <;> rfl
@[simp] theorem Player.wr_window (p : Player) (r : SReg) (v : Word) : (p.wr r v).window = p.window := by
  unfold Player.wr; split <;> rfl
@[simp] theorem Player.wr_windowPages (p : Player) (r : SReg) (v : Word) : (p.wr r v).windowPages = p.windowPages := by
  unfold Player.wr; split <;> rfl
@[simp] theorem Player.wr_started (p : Player) (r : SReg) (v : Word) : (p.wr r v).started = p.started := by
  unfold Player.wr; split <;> rfl
@[simp] theorem Player.wr_frozen (p : Player) (r : SReg) (v : Word) : (p.wr r v).frozen = p.frozen := by
  unfold Player.wr; split <;> rfl

/-! ### Errors, messages (R255, R428, R448) -/

@[simp] theorem State.msi_me (s : State) (v : Nat) : (s.msi v).me = s.me := rfl
@[simp] theorem State.msi_others (s : State) (v : Nat) : (s.msi v).others = s.others := rfl
@[simp] theorem State.msi_mem (s : State) (v : Nat) : (s.msi v).mem = s.mem := rfl
@[simp] theorem State.msi_qm (s : State) (v : Nat) : (s.msi v).qm = s.qm := rfl
@[simp] theorem State.msi_vm (s : State) (v : Nat) : (s.msi v).vm = s.vm := rfl
@[simp] theorem State.msi_eng (s : State) (v : Nat) : (s.msi v).eng = s.eng := rfl
@[simp] theorem State.msi_cp (s : State) (v : Nat) : (s.msi v).cp = s.cp := rfl
@[simp] theorem State.msi_agenda (s : State) (v : Nat) : (s.msi v).agenda = s.agenda := rfl
@[simp] theorem State.msi_fresh (s : State) (v : Nat) : (s.msi v).fresh = s.fresh := rfl

/-- A record changes the device's part alone. -/
theorem State.report_eq (s : State) (r : ErrRec) (off : Option Nat) : s.report r off = { s with dev := (s.report r off).dev } := by
  unfold State.report State.msi; split <;> rfl

@[simp] theorem State.report_me (s : State) (r : ErrRec) (off : Option Nat) : (s.report r off).me = s.me := by
  rw [State.report_eq]
@[simp] theorem State.report_others (s : State) (r : ErrRec) (off : Option Nat) : (s.report r off).others = s.others := by
  rw [State.report_eq]
@[simp] theorem State.report_mem (s : State) (r : ErrRec) (off : Option Nat) : (s.report r off).mem = s.mem := by
  rw [State.report_eq]
@[simp] theorem State.report_qm (s : State) (r : ErrRec) (off : Option Nat) : (s.report r off).qm = s.qm := by
  rw [State.report_eq]
@[simp] theorem State.report_vm (s : State) (r : ErrRec) (off : Option Nat) : (s.report r off).vm = s.vm := by
  rw [State.report_eq]
@[simp] theorem State.report_eng (s : State) (r : ErrRec) (off : Option Nat) : (s.report r off).eng = s.eng := by
  rw [State.report_eq]
@[simp] theorem State.report_cp (s : State) (r : ErrRec) (off : Option Nat) : (s.report r off).cp = s.cp := by
  rw [State.report_eq]
@[simp] theorem State.report_agenda (s : State) (r : ErrRec) (off : Option Nat) : (s.report r off).agenda = s.agenda := by
  rw [State.report_eq]
@[simp] theorem State.report_fresh (s : State) (r : ErrRec) (off : Option Nat) : (s.report r off).fresh = s.fresh := by
  rw [State.report_eq]

/-- A contained error changes the device's part alone. -/
theorem State.contained_eq (s : State) (c : Cause) (eng : Nat) (pc eidx addr : Word) (spot : Nat × Nat) :
    s.contained c eng pc eidx addr spot = { s with dev := (s.contained c eng pc eidx addr spot).dev } := by
  unfold State.contained
  split
  · split
    · rw [State.report_eq]; rfl
    · rw [State.report_eq]
  · rfl

@[simp] theorem State.contained_me (s : State) (c : Cause) (eng : Nat) (pc eidx addr : Word) (spot : Nat × Nat) :
    (s.contained c eng pc eidx addr spot).me = s.me := by
  rw [State.contained_eq]
@[simp] theorem State.contained_others (s : State) (c : Cause) (eng : Nat) (pc eidx addr : Word) (spot : Nat × Nat) :
    (s.contained c eng pc eidx addr spot).others = s.others := by
  rw [State.contained_eq]
@[simp] theorem State.contained_mem (s : State) (c : Cause) (eng : Nat) (pc eidx addr : Word) (spot : Nat × Nat) :
    (s.contained c eng pc eidx addr spot).mem = s.mem := by
  rw [State.contained_eq]
@[simp] theorem State.contained_qm (s : State) (c : Cause) (eng : Nat) (pc eidx addr : Word) (spot : Nat × Nat) :
    (s.contained c eng pc eidx addr spot).qm = s.qm := by
  rw [State.contained_eq]
@[simp] theorem State.contained_vm (s : State) (c : Cause) (eng : Nat) (pc eidx addr : Word) (spot : Nat × Nat) :
    (s.contained c eng pc eidx addr spot).vm = s.vm := by
  rw [State.contained_eq]
@[simp] theorem State.contained_eng (s : State) (c : Cause) (eng : Nat) (pc eidx addr : Word) (spot : Nat × Nat) :
    (s.contained c eng pc eidx addr spot).eng = s.eng := by
  rw [State.contained_eq]
@[simp] theorem State.contained_cp (s : State) (c : Cause) (eng : Nat) (pc eidx addr : Word) (spot : Nat × Nat) :
    (s.contained c eng pc eidx addr spot).cp = s.cp := by
  rw [State.contained_eq]
@[simp] theorem State.contained_agenda (s : State) (c : Cause) (eng : Nat) (pc eidx addr : Word) (spot : Nat × Nat) :
    (s.contained c eng pc eidx addr spot).agenda = s.agenda := by
  rw [State.contained_eq]
@[simp] theorem State.contained_fresh (s : State) (c : Cause) (eng : Nat) (pc eidx addr : Word) (spot : Nat × Nat) :
    (s.contained c eng pc eidx addr spot).fresh = s.fresh := by
  rw [State.contained_eq]

/-- What a correction of scratchpad changes. -/
theorem State.correctSpad_eq (s : State) (pa n : Nat) : s.correctSpad pa n =
    { s with mem := { s.mem with spadSoft := (s.correctSpad pa n).mem.spadSoft }, dev := (s.correctSpad pa n).dev } := by
  unfold State.correctSpad
  simp only [State.count_eq]

/-- What a correction of tile registers changes. -/
theorem State.correctTile_eq (s : State) (hits : List (Nat × Nat)) : s.correctTile hits =
    { s with me := { s.me with tsoft := (s.correctTile hits).me.tsoft }, dev := (s.correctTile hits).dev } := by
  unfold State.correctTile
  simp only [State.count_eq]

/-! ### Convoys set aside (R254) -/

@[simp] theorem Convoy.setAside_start (c : Convoy) (t0 : Nat) : (c.setAside t0).start = c.start := rfl
@[simp] theorem Convoy.setAside_tty (c : Convoy) (t0 : Nat) : (c.setAside t0).tty = c.tty := rfl
@[simp] theorem Convoy.setAside_frm (c : Convoy) (t0 : Nat) : (c.setAside t0).frm = c.frm := rfl
@[simp] theorem Convoy.setAside_xrm (c : Convoy) (t0 : Nat) : (c.setAside t0).xrm = c.xrm := rfl
@[simp] theorem Convoy.setAside_vl (c : Convoy) (t0 : Nat) : (c.setAside t0).vl = c.vl := rfl
@[simp] theorem Convoy.setAside_flim (c : Convoy) (t0 : Nat) : (c.setAside t0).flim = c.flim := rfl
@[simp] theorem Convoy.setAside_next (c : Convoy) (t0 : Nat) : (c.setAside t0).next = c.next := rfl
@[simp] theorem Convoy.setAside_members (c : Convoy) (t0 : Nat) :
    (c.setAside t0).members = c.members.map (fun m => m.setAside c.flim t0) := rfl
@[simp] theorem Member.setAside_instr (m : Member) (flim t0 : Nat) : (m.setAside flim t0).instr = m.instr := rfl
@[simp] theorem Member.setAside_addr (m : Member) (flim t0 : Nat) : (m.setAside flim t0).addr = m.addr := rfl
@[simp] theorem Member.setAside_fin (m : Member) (flim t0 : Nat) : (m.setAside flim t0).fin = m.fin := rfl
@[simp] theorem Member.setAside_groups (m : Member) (flim t0 : Nat) : (m.setAside flim t0).groups = m.groups := rfl
@[simp] theorem Member.setAside_kept (m : Member) (flim t0 : Nat) : (m.setAside flim t0).kept = m.kept := rfl
@[simp] theorem Member.setAside_under (m : Member) (flim t0 : Nat) : (m.setAside flim t0).under = m.under := rfl
@[simp] theorem Member.setAside_marker (m : Member) (flim t0 : Nat) : (m.setAside flim t0).marker = m.marker := rfl
@[simp] theorem Member.setAside_scal (m : Member) (flim t0 : Nat) : (m.setAside flim t0).scal = [] := rfl
@[simp] theorem Member.setAside_mask (m : Member) (flim t0 : Nat) : (m.setAside flim t0).mask = none := rfl

/-! ### Player.takeTrap (R238) -/

@[simp] theorem Player.takeTrap_sregs (p : Player) (c : Cause) (a b v : Word) (r : Bool) (n : BitVec 22) : (p.takeTrap c a b v r n).sregs = p.sregs := rfl
@[simp] theorem Player.takeTrap_id (p : Player) (c : Cause) (a b v : Word) (r : Bool) (n : BitVec 22) : (p.takeTrap c a b v r n).id = p.id := rfl
@[simp] theorem Player.takeTrap_live (p : Player) (c : Cause) (a b v : Word) (r : Bool) (n : BitVec 22) : (p.takeTrap c a b v r n).live = p.live := rfl
@[simp] theorem Player.takeTrap_place (p : Player) (c : Cause) (a b v : Word) (r : Bool) (n : BitVec 22) : (p.takeTrap c a b v r n).place = p.place := rfl
@[simp] theorem Player.takeTrap_tregs (p : Player) (c : Cause) (a b v : Word) (r : Bool) (n : BitVec 22) : (p.takeTrap c a b v r n).tregs = p.tregs := rfl
@[simp] theorem Player.takeTrap_shape (p : Player) (c : Cause) (a b v : Word) (r : Bool) (n : BitVec 22) : (p.takeTrap c a b v r n).shape = p.shape := rfl
@[simp] theorem Player.takeTrap_joins (p : Player) (c : Cause) (a b v : Word) (r : Bool) (n : BitVec 22) : (p.takeTrap c a b v r n).joins = p.joins := rfl
@[simp] theorem Player.takeTrap_parked (p : Player) (c : Cause) (a b v : Word) (r : Bool) (n : BitVec 22) : (p.takeTrap c a b v r n).parked = p.parked := rfl
@[simp] theorem Player.takeTrap_flags (p : Player) (c : Cause) (a b v : Word) (r : Bool) (n : BitVec 22) : (p.takeTrap c a b v r n).flags = p.flags := rfl
@[simp] theorem Player.takeTrap_frm (p : Player) (c : Cause) (a b v : Word) (r : Bool) (n : BitVec 22) : (p.takeTrap c a b v r n).frm = p.frm := rfl
@[simp] theorem Player.takeTrap_xrm (p : Player) (c : Cause) (a b v : Word) (r : Bool) (n : BitVec 22) : (p.takeTrap c a b v r n).xrm = p.xrm := rfl
@[simp] theorem Player.takeTrap_det (p : Player) (c : Cause) (a b v : Word) (r : Bool) (n : BitVec 22) : (p.takeTrap c a b v r n).det = p.det := rfl
@[simp] theorem Player.takeTrap_gtrim (p : Player) (c : Cause) (a b v : Word) (r : Bool) (n : BitVec 22) : (p.takeTrap c a b v r n).gtrim = p.gtrim := rfl
@[simp] theorem Player.takeTrap_wmk (p : Player) (c : Cause) (a b v : Word) (r : Bool) (n : BitVec 22) : (p.takeTrap c a b v r n).wmk = p.wmk := rfl
@[simp] theorem Player.takeTrap_barp (p : Player) (c : Cause) (a b v : Word) (r : Bool) (n : BitVec 22) : (p.takeTrap c a b v r n).barp = p.barp := rfl
@[simp] theorem Player.takeTrap_q (p : Player) (c : Cause) (a b v : Word) (r : Bool) (n : BitVec 22) : (p.takeTrap c a b v r n).q = p.q := rfl
@[simp] theorem Player.takeTrap_x (p : Player) (c : Cause) (a b v : Word) (r : Bool) (n : BitVec 22) : (p.takeTrap c a b v r n).x = p.x := rfl
@[simp] theorem Player.takeTrap_afq (p : Player) (c : Cause) (a b v : Word) (r : Bool) (n : BitVec 22) : (p.takeTrap c a b v r n).afq = p.afq := rfl
@[simp] theorem Player.takeTrap_afqOvf (p : Player) (c : Cause) (a b v : Word) (r : Bool) (n : BitVec 22) : (p.takeTrap c a b v r n).afqOvf = p.afqOvf := rfl
@[simp] theorem Player.takeTrap_grant (p : Player) (c : Cause) (a b v : Word) (r : Bool) (n : BitVec 22) : (p.takeTrap c a b v r n).grant = p.grant := rfl
@[simp] theorem Player.takeTrap_accum (p : Player) (c : Cause) (a b v : Word) (r : Bool) (n : BitVec 22) : (p.takeTrap c a b v r n).accum = p.accum := rfl
@[simp] theorem Player.takeTrap_wbuf (p : Player) (c : Cause) (a b v : Word) (r : Bool) (n : BitVec 22) : (p.takeTrap c a b v r n).wbuf = p.wbuf := rfl
@[simp] theorem Player.takeTrap_barGen (p : Player) (c : Cause) (a b v : Word) (r : Bool) (n : BitVec 22) : (p.takeTrap c a b v r n).barGen = p.barGen := rfl
@[simp] theorem Player.takeTrap_armed (p : Player) (c : Cause) (a b v : Word) (r : Bool) (n : BitVec 22) : (p.takeTrap c a b v r n).armed = p.armed := rfl
@[simp] theorem Player.takeTrap_wake (p : Player) (c : Cause) (a b v : Word) (r : Bool) (n : BitVec 22) : (p.takeTrap c a b v r n).wake = p.wake := rfl
@[simp] theorem Player.takeTrap_owners (p : Player) (c : Cause) (a b v : Word) (r : Bool) (n : BitVec 22) : (p.takeTrap c a b v r n).owners = p.owners := rfl
@[simp] theorem Player.takeTrap_tbad (p : Player) (c : Cause) (a b v : Word) (r : Bool) (n : BitVec 22) : (p.takeTrap c a b v r n).tbad = p.tbad := rfl
@[simp] theorem Player.takeTrap_tsoft (p : Player) (c : Cause) (a b v : Word) (r : Bool) (n : BitVec 22) : (p.takeTrap c a b v r n).tsoft = p.tsoft := rfl
@[simp] theorem Player.takeTrap_preempt (p : Player) (c : Cause) (a b v : Word) (r : Bool) (n : BitVec 22) : (p.takeTrap c a b v r n).preempt = p.preempt := rfl
@[simp] theorem Player.takeTrap_hold (p : Player) (c : Cause) (a b v : Word) (r : Bool) (n : BitVec 22) : (p.takeTrap c a b v r n).hold = p.hold := rfl
@[simp] theorem Player.takeTrap_window (p : Player) (c : Cause) (a b v : Word) (r : Bool) (n : BitVec 22) : (p.takeTrap c a b v r n).window = p.window := rfl
@[simp] theorem Player.takeTrap_windowPages (p : Player) (c : Cause) (a b v : Word) (r : Bool) (n : BitVec 22) : (p.takeTrap c a b v r n).windowPages = p.windowPages := rfl
@[simp] theorem Player.takeTrap_started (p : Player) (c : Cause) (a b v : Word) (r : Bool) (n : BitVec 22) : (p.takeTrap c a b v r n).started = p.started := rfl
@[simp] theorem Player.takeTrap_frozen (p : Player) (c : Cause) (a b v : Word) (r : Bool) (n : BitVec 22) : (p.takeTrap c a b v r n).frozen = p.frozen := rfl
@[simp] theorem Player.takeTrap_pc (p : Player) (c : Cause) (a b v : Word) (r : Bool) (n : BitVec 22) : (p.takeTrap c a b v r n).pc = p.trap.evec := rfl
@[simp] theorem Player.takeTrap_conv (p : Player) (c : Cause) (a b v : Word) (r : Bool) (n : BitVec 22) : (p.takeTrap c a b v r n).conv = none := rfl

/-! ### Registers that engines write (R10, R83) -/

@[simp] theorem Player.putRegs_pc (p : Player) (t : Vector Nat 64) : (p.putRegs t).pc = p.pc := by simp only [Player.putRegs]
@[simp] theorem Player.putRegs_sregs (p : Player) (t : Vector Nat 64) : (p.putRegs t).sregs = p.sregs := by simp only [Player.putRegs]
@[simp] theorem Player.putRegs_id (p : Player) (t : Vector Nat 64) : (p.putRegs t).id = p.id := by simp only [Player.putRegs]
@[simp] theorem Player.putRegs_live (p : Player) (t : Vector Nat 64) : (p.putRegs t).live = p.live := by simp only [Player.putRegs]
@[simp] theorem Player.putRegs_place (p : Player) (t : Vector Nat 64) : (p.putRegs t).place = p.place := by simp only [Player.putRegs]
@[simp] theorem Player.putRegs_shape (p : Player) (t : Vector Nat 64) : (p.putRegs t).shape = p.shape := by simp only [Player.putRegs]
@[simp] theorem Player.putRegs_joins (p : Player) (t : Vector Nat 64) : (p.putRegs t).joins = p.joins := by simp only [Player.putRegs]
@[simp] theorem Player.putRegs_parked (p : Player) (t : Vector Nat 64) : (p.putRegs t).parked = p.parked := by simp only [Player.putRegs]
@[simp] theorem Player.putRegs_flags (p : Player) (t : Vector Nat 64) : (p.putRegs t).flags = p.flags := by simp only [Player.putRegs]
@[simp] theorem Player.putRegs_frm (p : Player) (t : Vector Nat 64) : (p.putRegs t).frm = p.frm := by simp only [Player.putRegs]
@[simp] theorem Player.putRegs_xrm (p : Player) (t : Vector Nat 64) : (p.putRegs t).xrm = p.xrm := by simp only [Player.putRegs]
@[simp] theorem Player.putRegs_det (p : Player) (t : Vector Nat 64) : (p.putRegs t).det = p.det := by simp only [Player.putRegs]
@[simp] theorem Player.putRegs_gtrim (p : Player) (t : Vector Nat 64) : (p.putRegs t).gtrim = p.gtrim := by simp only [Player.putRegs]
@[simp] theorem Player.putRegs_wmk (p : Player) (t : Vector Nat 64) : (p.putRegs t).wmk = p.wmk := by simp only [Player.putRegs]
@[simp] theorem Player.putRegs_barp (p : Player) (t : Vector Nat 64) : (p.putRegs t).barp = p.barp := by simp only [Player.putRegs]
@[simp] theorem Player.putRegs_trap (p : Player) (t : Vector Nat 64) : (p.putRegs t).trap = p.trap := by simp only [Player.putRegs]
@[simp] theorem Player.putRegs_q (p : Player) (t : Vector Nat 64) : (p.putRegs t).q = p.q := by simp only [Player.putRegs]
@[simp] theorem Player.putRegs_x (p : Player) (t : Vector Nat 64) : (p.putRegs t).x = p.x := by simp only [Player.putRegs]
@[simp] theorem Player.putRegs_afq (p : Player) (t : Vector Nat 64) : (p.putRegs t).afq = p.afq := by simp only [Player.putRegs]
@[simp] theorem Player.putRegs_afqOvf (p : Player) (t : Vector Nat 64) : (p.putRegs t).afqOvf = p.afqOvf := by simp only [Player.putRegs]
@[simp] theorem Player.putRegs_grant (p : Player) (t : Vector Nat 64) : (p.putRegs t).grant = p.grant := by simp only [Player.putRegs]
@[simp] theorem Player.putRegs_accum (p : Player) (t : Vector Nat 64) : (p.putRegs t).accum = p.accum := by simp only [Player.putRegs]
@[simp] theorem Player.putRegs_queue (p : Player) (t : Vector Nat 64) : (p.putRegs t).queue = p.queue := by simp only [Player.putRegs]
@[simp] theorem Player.putRegs_conv (p : Player) (t : Vector Nat 64) : (p.putRegs t).conv = p.conv := by simp only [Player.putRegs]
@[simp] theorem Player.putRegs_slot (p : Player) (t : Vector Nat 64) : (p.putRegs t).slot = p.slot := by simp only [Player.putRegs]
@[simp] theorem Player.putRegs_wbuf (p : Player) (t : Vector Nat 64) : (p.putRegs t).wbuf = p.wbuf := by simp only [Player.putRegs]
@[simp] theorem Player.putRegs_waiting (p : Player) (t : Vector Nat 64) : (p.putRegs t).waiting = p.waiting := by simp only [Player.putRegs]
@[simp] theorem Player.putRegs_barGen (p : Player) (t : Vector Nat 64) : (p.putRegs t).barGen = p.barGen := by simp only [Player.putRegs]
@[simp] theorem Player.putRegs_armed (p : Player) (t : Vector Nat 64) : (p.putRegs t).armed = p.armed := by simp only [Player.putRegs]
@[simp] theorem Player.putRegs_wake (p : Player) (t : Vector Nat 64) : (p.putRegs t).wake = p.wake := by simp only [Player.putRegs]
@[simp] theorem Player.putRegs_owners (p : Player) (t : Vector Nat 64) : (p.putRegs t).owners = p.owners := by simp only [Player.putRegs]
@[simp] theorem Player.putRegs_tbad (p : Player) (t : Vector Nat 64) : (p.putRegs t).tbad = p.tbad := by simp only [Player.putRegs]
@[simp] theorem Player.putRegs_tsoft (p : Player) (t : Vector Nat 64) : (p.putRegs t).tsoft = p.tsoft := by simp only [Player.putRegs]
@[simp] theorem Player.putRegs_preempt (p : Player) (t : Vector Nat 64) : (p.putRegs t).preempt = p.preempt := by simp only [Player.putRegs]
@[simp] theorem Player.putRegs_hold (p : Player) (t : Vector Nat 64) : (p.putRegs t).hold = p.hold := by simp only [Player.putRegs]
@[simp] theorem Player.putRegs_window (p : Player) (t : Vector Nat 64) : (p.putRegs t).window = p.window := by simp only [Player.putRegs]
@[simp] theorem Player.putRegs_windowPages (p : Player) (t : Vector Nat 64) : (p.putRegs t).windowPages = p.windowPages := by simp only [Player.putRegs]
@[simp] theorem Player.putRegs_started (p : Player) (t : Vector Nat 64) : (p.putRegs t).started = p.started := by simp only [Player.putRegs]
@[simp] theorem Player.putRegs_frozen (p : Player) (t : Vector Nat 64) : (p.putRegs t).frozen = p.frozen := by simp only [Player.putRegs]

/-- A pip bit changes the tile registers alone. -/
theorem Player.setPip_eq (p : Player) (tile c : Nat) : p.setPip tile c = { p with tregs := (p.setPip tile c).tregs } := by
  unfold Player.setPip; split <;> (try split) <;> rfl

@[simp] theorem Player.setPip_pc (p : Player) (tile c : Nat) : (p.setPip tile c).pc = p.pc := by
  unfold Player.setPip; split <;> (try split) <;> rfl
@[simp] theorem Player.setPip_sregs (p : Player) (tile c : Nat) : (p.setPip tile c).sregs = p.sregs := by
  unfold Player.setPip; split <;> (try split) <;> rfl
@[simp] theorem Player.setPip_id (p : Player) (tile c : Nat) : (p.setPip tile c).id = p.id := by
  unfold Player.setPip; split <;> (try split) <;> rfl
@[simp] theorem Player.setPip_live (p : Player) (tile c : Nat) : (p.setPip tile c).live = p.live := by
  unfold Player.setPip; split <;> (try split) <;> rfl
@[simp] theorem Player.setPip_place (p : Player) (tile c : Nat) : (p.setPip tile c).place = p.place := by
  unfold Player.setPip; split <;> (try split) <;> rfl
@[simp] theorem Player.setPip_shape (p : Player) (tile c : Nat) : (p.setPip tile c).shape = p.shape := by
  unfold Player.setPip; split <;> (try split) <;> rfl
@[simp] theorem Player.setPip_joins (p : Player) (tile c : Nat) : (p.setPip tile c).joins = p.joins := by
  unfold Player.setPip; split <;> (try split) <;> rfl
@[simp] theorem Player.setPip_parked (p : Player) (tile c : Nat) : (p.setPip tile c).parked = p.parked := by
  unfold Player.setPip; split <;> (try split) <;> rfl
@[simp] theorem Player.setPip_flags (p : Player) (tile c : Nat) : (p.setPip tile c).flags = p.flags := by
  unfold Player.setPip; split <;> (try split) <;> rfl
@[simp] theorem Player.setPip_frm (p : Player) (tile c : Nat) : (p.setPip tile c).frm = p.frm := by
  unfold Player.setPip; split <;> (try split) <;> rfl
@[simp] theorem Player.setPip_xrm (p : Player) (tile c : Nat) : (p.setPip tile c).xrm = p.xrm := by
  unfold Player.setPip; split <;> (try split) <;> rfl
@[simp] theorem Player.setPip_det (p : Player) (tile c : Nat) : (p.setPip tile c).det = p.det := by
  unfold Player.setPip; split <;> (try split) <;> rfl
@[simp] theorem Player.setPip_gtrim (p : Player) (tile c : Nat) : (p.setPip tile c).gtrim = p.gtrim := by
  unfold Player.setPip; split <;> (try split) <;> rfl
@[simp] theorem Player.setPip_wmk (p : Player) (tile c : Nat) : (p.setPip tile c).wmk = p.wmk := by
  unfold Player.setPip; split <;> (try split) <;> rfl
@[simp] theorem Player.setPip_barp (p : Player) (tile c : Nat) : (p.setPip tile c).barp = p.barp := by
  unfold Player.setPip; split <;> (try split) <;> rfl
@[simp] theorem Player.setPip_trap (p : Player) (tile c : Nat) : (p.setPip tile c).trap = p.trap := by
  unfold Player.setPip; split <;> (try split) <;> rfl
@[simp] theorem Player.setPip_q (p : Player) (tile c : Nat) : (p.setPip tile c).q = p.q := by
  unfold Player.setPip; split <;> (try split) <;> rfl
@[simp] theorem Player.setPip_x (p : Player) (tile c : Nat) : (p.setPip tile c).x = p.x := by
  unfold Player.setPip; split <;> (try split) <;> rfl
@[simp] theorem Player.setPip_afq (p : Player) (tile c : Nat) : (p.setPip tile c).afq = p.afq := by
  unfold Player.setPip; split <;> (try split) <;> rfl
@[simp] theorem Player.setPip_afqOvf (p : Player) (tile c : Nat) : (p.setPip tile c).afqOvf = p.afqOvf := by
  unfold Player.setPip; split <;> (try split) <;> rfl
@[simp] theorem Player.setPip_grant (p : Player) (tile c : Nat) : (p.setPip tile c).grant = p.grant := by
  unfold Player.setPip; split <;> (try split) <;> rfl
@[simp] theorem Player.setPip_accum (p : Player) (tile c : Nat) : (p.setPip tile c).accum = p.accum := by
  unfold Player.setPip; split <;> (try split) <;> rfl
@[simp] theorem Player.setPip_queue (p : Player) (tile c : Nat) : (p.setPip tile c).queue = p.queue := by
  unfold Player.setPip; split <;> (try split) <;> rfl
@[simp] theorem Player.setPip_conv (p : Player) (tile c : Nat) : (p.setPip tile c).conv = p.conv := by
  unfold Player.setPip; split <;> (try split) <;> rfl
@[simp] theorem Player.setPip_slot (p : Player) (tile c : Nat) : (p.setPip tile c).slot = p.slot := by
  unfold Player.setPip; split <;> (try split) <;> rfl
@[simp] theorem Player.setPip_wbuf (p : Player) (tile c : Nat) : (p.setPip tile c).wbuf = p.wbuf := by
  unfold Player.setPip; split <;> (try split) <;> rfl
@[simp] theorem Player.setPip_waiting (p : Player) (tile c : Nat) : (p.setPip tile c).waiting = p.waiting := by
  unfold Player.setPip; split <;> (try split) <;> rfl
@[simp] theorem Player.setPip_barGen (p : Player) (tile c : Nat) : (p.setPip tile c).barGen = p.barGen := by
  unfold Player.setPip; split <;> (try split) <;> rfl
@[simp] theorem Player.setPip_armed (p : Player) (tile c : Nat) : (p.setPip tile c).armed = p.armed := by
  unfold Player.setPip; split <;> (try split) <;> rfl
@[simp] theorem Player.setPip_wake (p : Player) (tile c : Nat) : (p.setPip tile c).wake = p.wake := by
  unfold Player.setPip; split <;> (try split) <;> rfl
@[simp] theorem Player.setPip_owners (p : Player) (tile c : Nat) : (p.setPip tile c).owners = p.owners := by
  unfold Player.setPip; split <;> (try split) <;> rfl
@[simp] theorem Player.setPip_tbad (p : Player) (tile c : Nat) : (p.setPip tile c).tbad = p.tbad := by
  unfold Player.setPip; split <;> (try split) <;> rfl
@[simp] theorem Player.setPip_tsoft (p : Player) (tile c : Nat) : (p.setPip tile c).tsoft = p.tsoft := by
  unfold Player.setPip; split <;> (try split) <;> rfl
@[simp] theorem Player.setPip_preempt (p : Player) (tile c : Nat) : (p.setPip tile c).preempt = p.preempt := by
  unfold Player.setPip; split <;> (try split) <;> rfl
@[simp] theorem Player.setPip_hold (p : Player) (tile c : Nat) : (p.setPip tile c).hold = p.hold := by
  unfold Player.setPip; split <;> (try split) <;> rfl
@[simp] theorem Player.setPip_window (p : Player) (tile c : Nat) : (p.setPip tile c).window = p.window := by
  unfold Player.setPip; split <;> (try split) <;> rfl
@[simp] theorem Player.setPip_windowPages (p : Player) (tile c : Nat) : (p.setPip tile c).windowPages = p.windowPages := by
  unfold Player.setPip; split <;> (try split) <;> rfl
@[simp] theorem Player.setPip_started (p : Player) (tile c : Nat) : (p.setPip tile c).started = p.started := by
  unfold Player.setPip; split <;> (try split) <;> rfl
@[simp] theorem Player.setPip_frozen (p : Player) (tile c : Nat) : (p.setPip tile c).frozen = p.frozen := by
  unfold Player.setPip; split <;> (try split) <;> rfl

end Sys2Proof.Machine
end

