-- ==== Sys2Proof/Laws/Tile.lean ====
section
/-! SUPPORT. What an element-wise tile instruction does when nothing stops it, once for all of them: the elements of the
destination, the policies of R91, and the frame. -/

set_option Elab.async false

namespace Sys2Proof.Machine

/-! ### Folds of flags -/

theorem foldl_or (fs : List Nat) (g : Nat → Flags) (a b : Flags) :
    fs.foldl (fun x f => x ||| g f) (a ||| b) = a ||| fs.foldl (fun x f => x ||| g f) b := by
  induction fs generalizing b with
  | nil => rfl
  | cons f rest ih => simp only [List.foldl_cons]; rw [BitVec.or_assoc, ih]

/-! ### The members of a lone convoy -/

/-- The state a lone tile instruction runs in. -/
def State.started (s : State) (i : Instr) (d : TileDesc) : State :=
  s.startConvoy s.me.pc [freshMember i s.me.pc (d.regs.map s.me.rd)]

theorem runTile_lone {i : Instr} {d : TileDesc} {s : State} {c : Counts} (hi : s.me.conv = none)
    (hc : checkMember s.me d Counts.zero = .ok c) : runTile i d s = d.runWhole 0 (s.started i d) := by
  unfold runTile
  rw [hi]
  simp only
  rw [hc]
  rfl

/-- The scalar operands of a lone instruction are those it was issued with. -/
theorem readScalars_started (i : Instr) (d : TileDesc) (s : State) : d.readScalars 0 (s.started i d) = s.started i d := by
  simp only [TileDesc.readScalars, State.started, State.startConvoy, State.setMember, freshMember, List.getElem?_cons_zero,
    Convoy.setMember, List.set_cons_zero, List.length_map, bne_self_eq_false, Bool.or_false]
  split <;> rfl

/-- A member of a one-member convoy that ends: the PC goes behind its word. -/
theorem finish_lone (s : State) (i : Instr) (d : TileDesc) (hi : s.me.conv = none) (tregs : Vector Nat 64) (fl : Flags)
    (g : Member → Member) (hits : List (Nat × Nat)) :
    ((({ s.started i d with me := { (s.started i d).me with tregs := tregs, flags := fl } }).setMember 0 g).correctTile
        hits).finishMember 0 =
      { s with
        me := { s.me with
          tregs := tregs, flags := fl, pc := s.me.pc + 4, queue := [], hold := false, started := true
          tsoft := s.me.tsoft.filter (fun b => !hits.contains b) }
        dev := (s.count 0 hits.length).dev } := by
  unfold State.correctTile
  rw [State.count_eq, State.count_dev]
  simp only [State.started, State.startConvoy, State.setMember, State.finishMember, State.closeConvoy, Convoy.setMember,
    List.getElem?_cons_zero, List.set_cons_zero, List.all_cons, List.all_nil, Bool.and_true, List.length_singleton, if_true]
  rw [hi]
  rfl

/-- Bits of a list that are corrected: those that are left and those that were hit make up the list. -/
theorem corrected_length (l : List (Nat × Nat)) (P : Nat × Nat → Bool) :
    l.length - (l.filter (fun b => !(l.filter P).contains b)).length = (l.filter P).length := by
  have h : l.filter (fun b => !(l.filter P).contains b) = l.filter (fun b => !P b) := by
    apply List.filter_congr
    intro b hb
    by_cases hp : P b = true
    · simp [hb, hp]
    · simp [hp]
  rw [h]
  have := List.length_eq_length_filter_add (l := l) P
  omega

/-- A state that differs from `s` as an ended element-wise instruction's does. -/
theorem after_corrected (s : State) (tregs : Vector Nat 64) (fl : Flags) (P : Nat × Nat → Bool) :
    ({ s with
      me := { s.me with
        tregs := tregs, flags := fl, pc := s.me.pc + 4, queue := [], hold := false, started := true
        tsoft := s.me.tsoft.filter (fun b => !(s.me.tsoft.filter P).contains b) }
      dev := (s.count 0 (s.me.tsoft.filter P).length).dev } : State) =
      s.after { s with
        me := { s.me with
          tregs := tregs, flags := fl, pc := s.me.pc + 4, queue := [], hold := false, started := true
          tsoft := s.me.tsoft.filter (fun b => !(s.me.tsoft.filter P).contains b) }
        dev := (s.count 0 (s.me.tsoft.filter P).length).dev } := by
  unfold State.after
  simp only
  rw [corrected_length]

theorem finish_lone' (s : State) (i : Instr) (d : TileDesc) (hi : s.me.conv = none) :
    (s.started i d).finishMember 0 =
      { s with me := { s.me with pc := s.me.pc + 4, queue := [], hold := false, started := true } } := by
  simp only [State.started, State.startConvoy, State.setMember, State.finishMember, State.closeConvoy, Convoy.setMember,
    List.getElem?_cons_zero, List.set_cons_zero, List.all_cons, List.all_nil, Bool.and_true, List.length_singleton, if_true]
  rw [hi]
  rfl

/-! ### The loop over the elements -/

section Loop

variable {e : Env} {p : Player} {mode : MaskMode} {ws : List Word} {t0 : Nat} {vals : List Nat} {srcs : List Opnd}

theorem badBit_nil (h : p.tbad = []) (ds : List Opnd) (f : Nat) : badBit e p ws t0 vals ds f = none := by
  simp [badBit, h]

theorem maskFault_nil (h : p.tbad = []) (f : Nat) : maskFault e p mode f = none := by simp [maskFault, badBit, h]

theorem isOpen_sound (h : p.tbad = []) (hl : mode = .pip → ∀ k, p.lostAt 0 t0 k = false) (dn f : Nat) :
    isOpen e p mode t0 dn f = (!dn.testBit f && selected mode t0 f) := by
  have hpip : (decide (mode = MaskMode.pip) && p.lostAt 0 t0 (f / 64)) = false := by
    by_cases hm : mode = .pip
    · simp [hl hm]
    · simp [hm]
  unfold isOpen
  rw [maskFault_nil h, hpip]
  simp

theorem stopAt_none (h : p.tbad = []) (hl : mode = .pip → ∀ k, p.lostAt 0 t0 k = false) (f : Nat) :
    stopAt e p mode ws t0 vals srcs f = none := by
  unfold stopAt
  rw [if_neg]
  · rw [badBit_nil h]
  · by_cases hm : mode = .pip
    · simp [hl hm]
    · simp [hm]

/-- What the loop has produced after the first `n` elements. -/
theorem elemStep_range (h : p.tbad = []) (hl : mode = .pip → ∀ k, p.lostAt 0 t0 k = false) (dst : Opnd) (comp : Nat → Res)
    (x0 n : Nat) :
    ∃ dn, (List.range n).foldl (elemStep e p mode ws t0 vals dst srcs comp) ⟨x0, 0, 0, none⟩ =
        ⟨((List.range n).filter (selected mode t0)).foldl (fun x f => dst.put e x f (comp f).val) x0,
          ((List.range n).filter (selected mode t0)).foldl (fun x f => x ||| (comp f).flags) 0, dn, none⟩ ∧
      ∀ f, dn.testBit f = (decide (f < n) && selected mode t0 f) := by
  induction n with
  | zero => exact ⟨0, rfl, by simp⟩
  | succ n ih =>
    obtain ⟨dn, he, hd⟩ := ih
    rw [List.range_succ, List.foldl_append, he]
    simp only [List.foldl_cons, List.foldl_nil, List.filter_append]
    unfold elemStep
    have hdn : dn.testBit n = false := by rw [hd]; simp
    rw [isOpen_sound h hl]
    by_cases hs : selected mode t0 n = true
    · rw [if_neg (by simp [hs, hdn]), stopAt_none h hl]
      refine ⟨dn ||| 2 ^ n, ?_, fun f => ?_⟩
      · simp [hs, List.foldl_append]
      · rw [Nat.testBit_or, hd, Nat.testBit_two_pow]
        by_cases hf : f = n
        · subst hf; simp [hs]
        · have h1 : ¬ n = f := fun h => hf h.symm
          by_cases h2 : f < n
          · simp [h2, h1, Nat.lt_succ_of_lt h2]
          · have h3 : ¬ f < n + 1 := by omega
            simp [h2, h1, h3]
    · have hs' : selected mode t0 n = false := by simpa using hs
      rw [if_pos (by simp [hs'])]
      refine ⟨dn, by simp [hs'], fun f => ?_⟩
      rw [hd]
      by_cases hf : f = n
      · subst hf; simp [hs']
      · by_cases h2 : f < n
        · simp [h2, Nat.lt_succ_of_lt h2]
        · have h3 : ¬ f < n + 1 := by omega
          simp [h2, h3]

/-- Every element group has ended once every selected element is in DONE. -/
theorem groups_shut (h : p.tbad = []) (hl : mode = .pip → ∀ k, p.lostAt 0 t0 k = false) {dn : Nat}
    (hd : ∀ f, dn.testBit f = (decide (f < e.flim) && selected mode t0 f)) (g : Nat) : groupShut e p mode t0 dn g = true := by
  unfold groupShut Env.span
  simp only [List.all_map, List.all_eq_true, List.mem_range, Function.comp_apply, Bool.not_eq_true']
  intro i hi
  have hf : 64 * g + i < e.flim := by omega
  rw [isOpen_sound h hl, hd, decide_eq_true hf]
  cases selected mode t0 (64 * g + i) <;> rfl

end Loop

/-- Groups that all close, in order: all of them. -/
theorem newGroups_all (n : Nat) (shut : Nat → Bool) (h : ∀ g, shut g = true) : newGroups n true shut 0 = ones n := by
  unfold newGroups
  induction n with
  | zero => rfl
  | succ n ih =>
    rw [List.range_succ, List.foldl_append, ih]
    simp only [List.foldl_cons, List.foldl_nil, h, Bool.true_and, Bool.not_true, Bool.false_or]
    have h1 : ones n % 2 ^ n = ones n := Nat.mod_eq_of_lt (by unfold ones; have := Nat.two_pow_pos n; omega)
    rw [h1]
    simp only [beq_self_eq_true, if_true]
    apply Nat.eq_of_testBit_eq
    intro k
    rw [Nat.testBit_or, testBit_ones, testBit_ones, Nat.testBit_two_pow]
    by_cases hk : k < n
    · simp [hk, Nat.lt_succ_of_lt hk]
    · by_cases hk' : n = k
      · subst hk'; simp
      · have h3 : ¬ k < n + 1 := by omega
        simp [hk, hk', h3]

theorem allGroups_ones (n : Nat) : allGroups n (ones n) = true := by
  unfold allGroups
  simp only [List.all_eq_true, List.mem_range]
  intro g hg
  rw [testBit_ones, decide_eq_true hg]

/-- The fill of all groups at once and of the tail are the policies of R91. -/
theorem fill_all (d : Opnd) (e : Env) (m : MaskMode) (t0 x : Nat) :
    (if e.ta then d.fillTail e (d.fillGroups e m t0 0 (ones e.groups) x) else d.fillGroups e m t0 0 (ones e.groups) x) =
      d.finish e m t0 x := by
  have h : d.fillGroups e m t0 0 (ones e.groups) x =
      if e.ma then (List.range e.flim).foldl (fun z f => if selected m t0 f then z else d.fill e z f) x else x := by
    unfold Opnd.fillGroups
    split
    · apply List.foldl_ext
      intro z f hf
      have hg : f / 64 < e.groups := by
        have := List.mem_range.1 hf
        unfold Env.groups
        omega
      rw [testBit_ones, decide_eq_true hg]
      simp
    · rfl
  unfold Opnd.finish
  rw [h]

/-! ### Slots of a group after the loop -/

/-- The strip conditions as numbers. -/
structure Strip (e : Env) : Prop where
  rows : e.flim ≤ e.rc * e.vl
  cols : e.vl ≤ e.vlmax

theorem Strip.pos {e : Env} (h : Strip e) {f : Nat} (hf : f < e.flim) : 0 < e.vl := by
  rcases Nat.eq_zero_or_pos e.vl with h0 | h0
  · have := h.rows; rw [h0, Nat.mul_zero] at this; omega
  · exact h0

theorem Strip.col {e : Env} (h : Strip e) {f : Nat} (hf : f < e.flim) : e.colOf f < e.vlmax :=
  lt_of_lt_of_le (Nat.mod_lt _ (h.pos hf)) h.cols

theorem Strip.row {e : Env} (h : Strip e) {f : Nat} (hf : f < e.flim) : e.rowOf f < e.rc :=
  (Nat.div_lt_iff_lt_mul (h.pos hf)).2 (lt_of_lt_of_le hf h.rows)

/-- Row and column name one element. -/
theorem index_of_slot {e : Env} {f : Nat} : e.rowOf f * e.vl + e.colOf f = f := by
  unfold Env.rowOf Env.colOf
  rw [Nat.mul_comm]
  exact Nat.div_add_mod f e.vl

theorem slot_of_index {e : Env} {r c : Nat} (hc : c < e.vl) : e.rowOf (r * e.vl + c) = r ∧ e.colOf (r * e.vl + c) = c := by
  unfold Env.rowOf Env.colOf
  constructor
  · rw [Nat.mul_comm, Nat.mul_add_div (by omega), Nat.div_eq_of_lt hc, Nat.add_zero]
  · rw [Nat.mul_comm, Nat.mul_add_mod, Nat.mod_eq_of_lt hc]

/-- Slot (r, c) after a list of distinct elements has been written. -/
theorem getSlot_fold {e : Env} {v : View} (hf : e.fits v) (hs : Strip e) (val : Nat → Nat) (fs : List Nat)
    (hfs : ∀ f ∈ fs, f < e.flim) (x : Nat) {r c : Nat} (hc : c < e.vlmax) :
    e.getSlot v (fs.foldl (fun x f => e.setElem v x f (val f)) x) r c =
      if c < e.vl ∧ r * e.vl + c ∈ fs then val (r * e.vl + c) % 2 ^ v.w else e.getSlot v x r c := by
  induction fs generalizing x with
  | nil => simp
  | cons f rest ih =>
    have hfl := hfs f List.mem_cons_self
    simp only [List.foldl_cons]
    rw [ih (fun g hg => hfs g (List.mem_cons_of_mem _ hg))]
    unfold Env.setElem
    rw [Env.getSlot_setSlot hf x (hs.col hfl) hc]
    by_cases hm : c < e.vl ∧ r * e.vl + c ∈ rest
    · rw [if_pos hm, if_pos ⟨hm.1, List.mem_cons_of_mem _ hm.2⟩]
    · rw [if_neg hm]
      by_cases hh : r = e.rowOf f ∧ c = e.colOf f
      · have hcv : c < e.vl := by rw [hh.2]; exact Nat.mod_lt _ (hs.pos hfl)
        have he : r * e.vl + c = f := by rw [hh.1, hh.2]; exact index_of_slot
        rw [if_pos hh, if_pos ⟨hcv, by rw [he]; exact List.mem_cons_self⟩, he]
      · rw [if_neg hh, if_neg]
        rintro ⟨h1, h2⟩
        rcases List.mem_cons.1 h2 with h3 | h3
        · have := slot_of_index (e := e) (r := r) h1
          rw [h3] at this
          exact hh ⟨this.1.symm, this.2.symm⟩
        · exact hm ⟨h1, h3⟩

/-- Slot (r, c) after the tail of some rows has been filled. -/
theorem getSlot_fillRow {e : Env} {v : View} (hf : e.fits v) (y : Nat) (r0 : Nat) (cs : List Nat) (hcs : ∀ c ∈ cs, c < e.vlmax)
    (x : Nat) {r c : Nat} (hc : c < e.vlmax) :
    e.getSlot v (cs.foldl (fun z c => e.setSlot v z r0 c y) x) r c =
      if r = r0 ∧ c ∈ cs then y % 2 ^ v.w else e.getSlot v x r c := by
  induction cs generalizing x with
  | nil => simp
  | cons c0 rest ih =>
    simp only [List.foldl_cons]
    rw [ih (fun g hg => hcs g (List.mem_cons_of_mem _ hg)), Env.getSlot_setSlot hf x (hcs c0 List.mem_cons_self) hc]
    by_cases hm : r = r0 ∧ c ∈ rest
    · rw [if_pos hm, if_pos ⟨hm.1, List.mem_cons_of_mem _ hm.2⟩]
    · rw [if_neg hm]
      by_cases hh : r = r0 ∧ c = c0
      · rw [if_pos hh, if_pos ⟨hh.1, by rw [hh.2]; exact List.mem_cons_self⟩]
      · rw [if_neg hh, if_neg]
        rintro ⟨h1, h2⟩
        rcases List.mem_cons.1 h2 with h3 | h3
        · exact hh ⟨h1, h3⟩
        · exact hm ⟨h1, h3⟩

theorem mem_tailCols {e : Env} {r c : Nat} : c ∈ e.tailCols r ↔ c < e.vlmax ∧ (e.vl ≤ c ∨ e.flim ≤ r * e.vl + c) := by
  simp [Env.tailCols]

theorem getSlot_fillTail {e : Env} {v : View} (hf : e.fits v) (x : Nat) {r c : Nat} (hc : c < e.vlmax) :
    e.getSlot v ((Opnd.group v).fillTail e x) r c =
      if r < e.rc ∧ (e.vl ≤ c ∨ e.flim ≤ r * e.vl + c) then ones v.w else e.getSlot v x r c := by
  have key : ∀ n, e.getSlot v ((List.range n).foldl (fun y r => (e.tailCols r).foldl (fun z c => e.setSlot v z r c (ones v.w)) y) x) r c =
      if r < n ∧ (e.vl ≤ c ∨ e.flim ≤ r * e.vl + c) then ones v.w else e.getSlot v x r c := by
    intro n
    induction n with
    | zero => simp
    | succ n ih =>
      rw [List.range_succ, List.foldl_append]
      simp only [List.foldl_cons, List.foldl_nil]
      rw [getSlot_fillRow hf _ _ _ (fun c hc => (mem_tailCols.1 hc).1) _ hc, ih]
      have ho : ones v.w % 2 ^ v.w = ones v.w := Nat.mod_eq_of_lt (by unfold ones; have := Nat.two_pow_pos v.w; omega)
      rw [ho]
      by_cases hr : r = n
      · subst hr
        by_cases ht : e.vl ≤ c ∨ e.flim ≤ r * e.vl + c
        · rw [if_pos ⟨rfl, mem_tailCols.2 ⟨hc, ht⟩⟩, if_pos ⟨by omega, ht⟩]
        · rw [if_neg (fun h => ht (mem_tailCols.1 h.2).2), if_neg (fun h => ht h.2), if_neg (fun h => ht h.2)]
      · rw [if_neg (fun h => hr h.1)]
        by_cases hn : r < n
        · simp [hn, Nat.lt_succ_of_lt hn]
        · have h3 : ¬ r < n + 1 := by omega
          simp [hn, h3]
  exact key e.rc

/-- Slot (r, c) after the policies of R91. -/
theorem getSlot_finish {e : Env} {v : View} (hf : e.fits v) (hs : Strip e) (m : MaskMode) (t0 x : Nat) {r c : Nat}
    (hr : r < e.rc) (hc : c < e.vlmax) :
    e.getSlot v ((Opnd.group v).finish e m t0 x) r c =
      if e.vl ≤ c ∨ e.flim ≤ r * e.vl + c then (if e.ta then ones v.w else e.getSlot v x r c)
      else if e.ma && !selected m t0 (r * e.vl + c) then ones v.w else e.getSlot v x r c := by
  have ho : ones v.w % 2 ^ v.w = ones v.w := Nat.mod_eq_of_lt (by unfold ones; have := Nat.two_pow_pos v.w; omega)
  have hma : ∀ y, e.getSlot v (if e.ma then
      (List.range e.flim).foldl (fun z f => if selected m t0 f then z else (Opnd.group v).fill e z f) y else y) r c =
      if e.ma && decide (c < e.vl) && decide (r * e.vl + c < e.flim) && !selected m t0 (r * e.vl + c) then ones v.w
      else e.getSlot v y r c := by
    intro y
    by_cases h1 : e.ma = true
    · rw [if_pos h1]
      have : (List.range e.flim).foldl (fun z f => if selected m t0 f then z else (Opnd.group v).fill e z f) y =
          ((List.range e.flim).filter (fun f => !selected m t0 f)).foldl (fun z f => e.setElem v z f (ones v.w)) y := by
        rw [List.foldl_filter]
        congr 1
        funext z f
        by_cases h : selected m t0 f = true
        · simp [h]
        · have h' : selected m t0 f = false := by simpa using h
          simp [h', Opnd.fill, Opnd.put, Opnd.view]
      rw [this, getSlot_fold hf hs (fun _ => ones v.w) _ (fun f hf => List.mem_range.1 (List.mem_of_mem_filter hf)) y hc, ho]
      simp only [List.mem_filter, List.mem_range, h1, Bool.true_and, Bool.and_eq_true, decide_eq_true_eq, and_assoc]
    · have h1' : e.ma = false := by simpa using h1
      simp [h1']
  unfold Opnd.finish
  by_cases ht : e.vl ≤ c ∨ e.flim ≤ r * e.vl + c
  · rw [if_pos ht]
    have hno : ¬ (e.ma && decide (c < e.vl) && decide (r * e.vl + c < e.flim) && !selected m t0 (r * e.vl + c)) = true := by
      simp only [Bool.and_eq_true, decide_eq_true_eq]; omega
    by_cases hta : e.ta = true
    · simp only [hta, if_true]
      rw [getSlot_fillTail hf _ hc, if_pos ⟨hr, ht⟩]
    · have hta' : e.ta = false := by simpa using hta
      simp only [hta', Bool.false_eq_true, if_false]
      rw [hma, if_neg hno]
  · rw [if_neg ht]
    have hin : c < e.vl ∧ r * e.vl + c < e.flim := by omega
    have hgoal : (if e.ma && decide (c < e.vl) && decide (r * e.vl + c < e.flim) && !selected m t0 (r * e.vl + c) then ones v.w
        else e.getSlot v x r c) = if e.ma && !selected m t0 (r * e.vl + c) then ones v.w else e.getSlot v x r c := by
      simp [hin]
    by_cases hta : e.ta = true
    · simp only [hta, if_true]
      rw [getSlot_fillTail hf _ hc, if_neg (fun h => ht h.2), hma, hgoal]
    · have hta' : e.ta = false := by simpa using hta
      simp only [hta', Bool.false_eq_true, if_false]
      rw [hma, hgoal]

/-! ### Write-back -/

/-- The rows of a group lie in its registers. -/
theorem Env.rows_le (e : Env) (v : View) : e.rc * e.rowSpan v ≤ e.regBits * v.regs := by
  unfold Env.rowSpan Env.regBits
  calc e.rc * (v.regs * 2048 * e.lanes / e.rc) ≤ v.regs * 2048 * e.lanes := Nat.mul_div_le _ _
    _ = 2048 * e.lanes * v.regs := by ring

theorem getSlot_mod {e : Env} {v : View} (hf : e.fits v) (x : Nat) {r c : Nat} (hr : r < e.rc) (hc : c < e.vlmax) :
    e.getSlot v (x % 2 ^ (e.regBits * v.regs)) r c = e.getSlot v x r c := by
  apply Nat.eq_of_testBit_eq
  intro k
  rw [Env.testBit_getSlot, Env.testBit_getSlot]
  by_cases hk : k < v.w
  · have h1 := (Env.slotBit_lt (r := r) hf hc hk).2
    have h2 : (r + 1) * e.rowSpan v ≤ e.rc * e.rowSpan v := Nat.mul_le_mul_right _ hr
    have h3 := e.rows_le v
    rw [Nat.testBit_mod_two_pow]
    have h4 : e.slotBit v r c k < e.regBits * v.regs := by omega
    simp [h4]
  · simp [hk]

theorem read_write (e : Env) (t : Vector Nat 64) (v : View) (x : Nat) (h : v.reg + v.regs ≤ 64) :
    e.read (e.write t v x) v = x % 2 ^ (e.regBits * v.regs) := groupOf_setGroup t e.regBits v.reg v.regs x h

theorem write_frame (e : Env) (t : Vector Nat 64) (v : View) (x : Nat) (k : Nat) (hk : k < 64)
    (h : k < v.reg ∨ v.reg + v.regs ≤ k) : (e.write t v x)[k] = t[k] := by
  unfold Env.write
  rw [setGroup_get _ _ _ _ _ _ hk, if_neg (by omega)]

theorem ofCode_width (c : Fin 64) (t : ElemTy) (h : ElemTy.ofCode c.val = some t) : 0 < t.width := by
  have hall : ∀ c : Fin 64, ((ElemTy.ofCode c.val).map (fun t => decide (0 < t.width))).getD true = true := by decide
  have := hall c
  rw [h] at this
  simpa using this

theorem env_w_pos (p : Player) : 0 < p.env.w := by
  have hc : getBits p.shape.tty.toNat 0 6 < 64 := getBits_lt _ 0 6
  have := ofCode_width ⟨_, hc⟩
  simp only [Env.w, Player.env, Env.of]
  simp only at this
  cases h : ElemTy.ofCode (getBits p.shape.tty.toNat 0 6) with
  | none => decide
  | some t => exact this t h

theorem vlmax_le (p : Player) : p.env.vlmax * (p.env.w * p.env.rc) ≤ 2048 * p.env.lanes * p.env.g := by
  simp only [Env.w, Player.env, Env.of, vlmaxOf]
  cases h : ElemTy.ofCode (getBits p.shape.tty.toNat 0 6) with
  | none => simp
  | some t =>
    simp only [Option.getD_some]
    split
    · generalize 2048 * p.lanes * 2 ^ getBits p.shape.tty.toNat 6 2 = x
      rw [Nat.mul_assoc 64 t.width]
      generalize t.width * 2 ^ getBits p.shape.tty.toNat 8 3 = y
      calc 64 * (x / (64 * y)) * y = x / (64 * y) * (64 * y) := by ring
        _ ≤ x := Nat.div_mul_le_self _ _
    · exact Nat.div_mul_le_self _ _

/-- Every group whose registers grow with its width fits: widened, narrowed and converted operands among them. -/
theorem fits_of_scale (p : Player) (v : View) (hv : v.regs * p.env.w = p.env.g * v.w) : p.env.fits v := by
  have hw := env_w_pos p
  have hm := vlmax_le p
  have hr : 0 < p.env.rc := Nat.two_pow_pos _
  unfold Env.fits Env.rowSpan
  rw [Nat.le_div_iff_mul_le hr]
  have h1 : (v.w * p.env.vlmax * p.env.rc) * p.env.w ≤ (v.regs * 2048 * p.env.lanes) * p.env.w := by
    calc (v.w * p.env.vlmax * p.env.rc) * p.env.w = v.w * (p.env.vlmax * (p.env.w * p.env.rc)) := by ring
      _ ≤ v.w * (2048 * p.env.lanes * p.env.g) := Nat.mul_le_mul_left _ hm
      _ = (p.env.g * v.w) * (2048 * p.env.lanes) := by ring
      _ = (v.regs * p.env.w) * (2048 * p.env.lanes) := by rw [hv]
      _ = (v.regs * 2048 * p.env.lanes) * p.env.w := by ring
  exact Nat.le_of_mul_le_mul_right h1 hw

theorem fits_view (p : Player) (r : TReg) : p.env.fits (p.env.view r) := fits_of_scale p _ (by simp [Env.view])
theorem fits_wide (p : Player) (r : TReg) : p.env.fits (p.env.wide r) := fits_of_scale p _ (by simp [Env.wide]; ring)

/-! ### The element-wise instructions -/

/-- The shape of the lone convoy is the player's. -/
theorem started_env (s : State) (i : Instr) (d : TileDesc) (cv : Convoy) (h : (s.started i d).me.conv = some cv) :
    cv.env (s.started i d).me = s.me.env := by
  simp only [State.started, State.startConvoy, Option.some.injEq] at h
  subst h
  rfl

theorem checkMember_dsts {p : Player} {d : TileDesc} {c : Counts} (h : checkMember p d Counts.zero = .ok c) :
    ∀ g ∈ d.dsts p.env, g.1 + g.2 ≤ 64 := by
  intro g hg
  unfold checkMember at h
  simp only at h
  split at h
  · cases h
  · split at h
    · cases h
    · split at h
      · cases h
      · rename_i h3
        simp only [TileDesc.allotOk, Bool.not_eq_true, Bool.not_eq_false', List.all_eq_true, decide_eq_true_eq] at h3
        have := h3 g (List.mem_append_left _ hg)
        omega

/-- What an element-wise instruction with a group as its destination does. -/
theorem runTile_group {i : Instr} {d : TileDesc} {s : State} {c : Counts} (vw : Env → View) (srcs : Env → List Opnd)
    (comp : Env → List Word → Nat → List Nat → Nat → Res)
    (hk : d.kind = .elem (fun e => .group (vw e)) srcs comp)
    (hdst : d.dsts s.me.env = [((vw s.me.env).reg, (vw s.me.env).regs)])
    (hf : s.me.env.fits (vw s.me.env)) (hi : s.me.conv = none) (ht : s.me.tbad = []) (hs : s.me.stripOk)
    (hl : d.mode = .pip → ∀ k, s.me.lostChunk 0 k = false) (hc : checkMember s.me d Counts.zero = .ok c) :
    ∃ t, runTile i d s = .next t ∧ Performed s t d.mode (vw s.me.env) (fun f => comp s.me.env (d.regs.map s.me.rd)
      s.me.tregs[0] ((srcs s.me.env).map (fun o => s.me.env.read s.me.tregs o.view)) f) := by
  rw [runTile_lone hi hc]
  have h64 : (vw s.me.env).reg + (vw s.me.env).regs ≤ 64 := checkMember_dsts hc _ (by rw [hdst]; exact List.mem_singleton.2 rfl)
  have hstrip : Strip s.me.env := ⟨hs.1, hs.2.1⟩
  obtain ⟨m, hm⟩ : ∃ m, (s.started i d).member? 0 = some (⟨s.me.pc, [m], s.me.shape.tty, s.me.frm, s.me.xrm, s.me.shape.vl,
      s.me.shape.flim, s.me.pc + 4 * BitVec.ofNat 64 1⟩, m) ∧ m = freshMember i s.me.pc (d.regs.map s.me.rd) := ⟨_, rfl, rfl⟩
  obtain ⟨hm, hmm⟩ := hm
  unfold TileDesc.runWhole
  rw [hk]
  simp only
  rw [readScalars_started]
  unfold runElems
  rw [hm]
  simp only
  have henv : Convoy.env ⟨s.me.pc, [m], s.me.shape.tty, s.me.frm, s.me.xrm, s.me.shape.vl, s.me.shape.flim, s.me.pc + 4 * BitVec.ofNat 64 1⟩ (s.started i d).me =
      s.me.env := rfl
  have hreg : (s.started i d).me.tregs = s.me.tregs := rfl
  have hfl : (s.started i d).me.flags = s.me.flags := rfl
  have ht0 : m.t0 (s.started i d).me = s.me.tregs[0] := by rw [hmm]; rfl
  have hsc : m.scal = d.regs.map s.me.rd := by rw [hmm]; rfl
  have hdone : m.done = 0 := by rw [hmm]; rfl
  have hgr : m.groups = 0 := by rw [hmm]; rfl
  have hsrc : ∀ e' d', m.source e' (s.started i d).me d' = fun o => e'.read s.me.tregs o.view := by
    intro e' d'
    rw [hmm]
    rfl
  rw [henv, hreg, ht0, hsc, hdone, hfl]
  simp only [hsrc]
  generalize hE : s.me.env = e at *
  by_cases hz : e.flim = 0
  · rw [if_pos hz, finish_lone' s i d hi]
    refine ⟨_, rfl, ?_⟩
    refine ⟨?_, ?_, ?_, ?_, ?_, ?_, List.Sublist.refl _, ?_⟩
    all_goals simp only [hE, State.flagsOf, State.after, Nat.sub_self]
    · intro f hf'; omega
    · intro f hf'; omega
    · intro h0; omega
    · intro _; trivial
    · intro k hk' _; trivial
    · rw [hz]; rfl
    · rfl
  · rw [if_neg hz]
    have htb : (s.started i d).me.tbad = [] := ht
    have hlo : d.mode = .pip → ∀ k, (s.started i d).me.lostAt 0 s.me.tregs[0] k = false := hl
    obtain ⟨dn, hfold, hdn⟩ := elemStep_range (e := e) (p := (s.started i d).me) (mode := d.mode) (ws := d.regs.map s.me.rd)
      (t0 := s.me.tregs[0]) (vals := (srcs e).map (fun o => e.read s.me.tregs o.view)) (srcs := srcs e) htb hlo (.group (vw e))
      (comp e (d.regs.map s.me.rd) s.me.tregs[0] ((srcs e).map (fun o => e.read s.me.tregs o.view)))
      (e.read s.me.tregs (Opnd.group (vw e)).view) e.flim
    rw [hfold]
    generalize hval : comp e (d.regs.map s.me.rd) s.me.tregs[0] ((srcs e).map (fun o => e.read s.me.tregs o.view)) = val
    have hgs : newGroups e.groups true (fun g => true && groupShut e (s.started i d).me d.mode s.me.tregs[0] dn g) m.groups =
        ones e.groups := by
      rw [hgr]
      exact newGroups_all _ _ (fun g => by rw [groups_shut htb hlo hdn]; rfl)
    rw [hgs, allGroups_ones, hgr]
    simp only [Option.isNone_none, Bool.and_self, if_true, Bool.true_and, fill_all]
    rw [finish_lone s i d hi]
    have hslot : ∀ r < e.rc, ∀ c < e.vlmax, e.getSlot (vw e) (e.read (e.write s.me.tregs (vw e)
        ((Opnd.group (vw e)).finish e d.mode s.me.tregs[0] (((List.range e.flim).filter (selected d.mode s.me.tregs[0])).foldl
          (fun x f => (Opnd.group (vw e)).put e x f (val f).val) (e.read s.me.tregs (vw e))))) (vw e)) r c =
        if e.vl ≤ c ∨ e.flim ≤ r * e.vl + c then
          (if e.ta then ones (vw e).w else e.getSlot (vw e) (e.read s.me.tregs (vw e)) r c)
        else if selected d.mode s.me.tregs[0] (r * e.vl + c) then (val (r * e.vl + c)).val % 2 ^ (vw e).w
        else if e.ma then ones (vw e).w else e.getSlot (vw e) (e.read s.me.tregs (vw e)) r c := by
      intro r hr c hc'
      rw [read_write _ _ _ _ h64, getSlot_mod hf _ hr hc', getSlot_finish hf hstrip _ _ _ hr hc']
      have hput : (fun x f => (Opnd.group (vw e)).put e x f (val f).val) = fun x f => e.setElem (vw e) x f (val f).val := rfl
      rw [hput, getSlot_fold hf hstrip (fun f => (val f).val) _ (fun f hf => List.mem_range.1 (List.mem_of_mem_filter hf)) _ hc']
      simp only [List.mem_filter, List.mem_range]
      by_cases ht' : e.vl ≤ c ∨ e.flim ≤ r * e.vl + c
      · have hno : ¬ (c < e.vl ∧ r * e.vl + c < e.flim ∧ selected d.mode s.me.tregs[0] (r * e.vl + c) = true) := by
          rintro ⟨h1, h2, _⟩
          omega
        rw [if_pos ht', if_pos ht', if_neg hno]
      · have h1 : c < e.vl := by omega
        have h2 : r * e.vl + c < e.flim := by omega
        rw [if_neg ht', if_neg ht']
        by_cases hsel : selected d.mode s.me.tregs[0] (r * e.vl + c) = true
        · simp [h1, h2, hsel]
        · have hsel' : selected d.mode s.me.tregs[0] (r * e.vl + c) = false := by simpa using hsel
          simp [hsel']
    have hel : ∀ f < e.flim, e.rowOf f < e.rc ∧ e.colOf f < e.vlmax ∧ ¬ (e.vl ≤ e.colOf f ∨ e.flim ≤ e.rowOf f * e.vl + e.colOf f) ∧
        e.rowOf f * e.vl + e.colOf f = f := by
      intro f hf'
      refine ⟨hstrip.row hf', hstrip.col hf', ?_, index_of_slot⟩
      rw [index_of_slot]
      have : e.colOf f < e.vl := Nat.mod_lt _ (hstrip.pos hf')
      omega
    have hgen : ∀ t : State, t.me.env = e → t.me.tregs = e.write s.me.tregs (vw e)
        ((Opnd.group (vw e)).finish e d.mode s.me.tregs[0] (((List.range e.flim).filter (selected d.mode s.me.tregs[0])).foldl
          (fun x f => (Opnd.group (vw e)).put e x f (val f).val) (e.read s.me.tregs (vw e)))) →
        t.me.flags = s.me.flags ||| ((List.range e.flim).filter (selected d.mode s.me.tregs[0])).foldl (fun x f => x ||| (val f).flags) 0 →
        t.me.tsoft.Sublist s.me.tsoft → t = s.after t → Performed s t d.mode (vw e) val := by
      intro t hte htr htf hts hta
      refine ⟨?_, ?_, ?_, ?_, ?_, ?_, hts, hta⟩
      · intro f hf' hsel
        rw [hE] at hf'
        obtain ⟨h1, h2, h3, h4⟩ := hel f hf'
        have := hslot _ h1 _ h2
        rw [if_neg h3, h4, if_pos hsel] at this
        rw [State.el, State.groupVal, hte, htr]
        exact this
      · intro f hf' hsel
        rw [hE] at hf'
        obtain ⟨h1, h2, h3, h4⟩ := hel f hf'
        have := hslot _ h1 _ h2
        rw [if_neg h3, h4, if_neg (by rw [hsel]; simp)] at this
        rw [State.el, State.groupVal, hte, htr, State.el, State.groupVal, hE]
        exact this
      · intro _ r hr c hc' ht'
        rw [hE] at hr hc' ht' ⊢
        have := hslot r hr c hc'
        rw [if_pos ht'] at this
        rw [State.groupVal, hte, htr, State.groupVal, hE]
        exact this
      · intro h0; rw [hE] at h0; exact absurd h0 hz
      · intro k hk' hout
        simp only [htr]
        exact write_frame _ _ _ _ _ hk' hout
      · rw [htf, State.flagsOf, hE]
        have := foldl_or ((List.range e.flim).filter (selected d.mode s.me.tregs[0])) (fun f => (val f).flags) s.me.flags 0
        simpa using this.symm
    exact ⟨_, rfl, hgen _ hE rfl rfl List.filter_sublist (after_corrected s _ _ _)⟩

/-- Values that agree on the elements give the same result. -/
theorem Performed.congr {s t : State} {m : MaskMode} {v : View} {f g : Nat → Res} (h : Performed s t m v f)
    (hv : ∀ k, (f k).val % 2 ^ v.w = (g k).val % 2 ^ v.w) (hf : ∀ k, (f k).flags = (g k).flags) : Performed s t m v g where
  active k h1 h2 := by rw [h.active k h1 h2, hv]
  inactive := h.inactive
  tail := h.tail
  empty := h.empty
  frame := h.frame
  soft := h.soft
  flags := by rw [h.flags, State.flagsOf, State.flagsOf]; congr 1; funext x k; rw [hf]
  rest := h.rest

theorem PerformedMask.congr {s t : State} {m : MaskMode} {d : TReg} {f g : Nat → Res} (h : PerformedMask s t m d f)
    (hv : ∀ k, (f k).val.testBit 0 = (g k).val.testBit 0) (hf : ∀ k, (f k).flags = (g k).flags) : PerformedMask s t m d g where
  active k h1 h2 := by rw [h.active k h1 h2, hv]
  inactive := h.inactive
  tail := h.tail
  empty := h.empty
  frame := h.frame
  soft := h.soft
  flags := by rw [h.flags, State.flagsOf, State.flagsOf]; congr 1; funext x k; rw [hf]
  rest := h.rest

/-! ### A mask register as the destination -/

theorem testBit_maskFold (val : Nat → Nat) (fs : List Nat) (x k : Nat) :
    (fs.foldl (fun x f => setBits x f 1 (val f)) x).testBit k = if k ∈ fs then (val k).testBit 0 else x.testBit k := by
  induction fs generalizing x with
  | nil => simp
  | cons f rest ih =>
    simp only [List.foldl_cons]
    rw [ih, testBit_setBits]
    by_cases hm : k ∈ rest
    · rw [if_pos hm, if_pos (List.mem_cons_of_mem _ hm)]
    · rw [if_neg hm]
      by_cases hk : k = f
      · subst hk
        have h1 : k ≤ k ∧ k < k + 1 := by omega
        rw [if_pos h1, if_pos List.mem_cons_self, Nat.sub_self]
      · have h1 : ¬ (f ≤ k ∧ k < f + 1) := by omega
        have h2 : k ∉ f :: rest := by simp [hk, hm]
        rw [if_neg h1, if_neg h2]

theorem testBit_maskFinish (e : Env) (d : Nat) (m : MaskMode) (t0 x k : Nat) (hk : k < e.regBits) (hf : e.flim ≤ e.regBits) :
    ((Opnd.mask d).finish e m t0 x).testBit k =
      if e.flim ≤ k then (e.ta || x.testBit k)
      else if selected m t0 k then x.testBit k else (e.ma || x.testBit k) := by
  have hma : (if e.ma then (List.range e.flim).foldl (fun z f => if selected m t0 f then z else (Opnd.mask d).fill e z f) x
      else x).testBit k = if k < e.flim ∧ selected m t0 k = false then (e.ma || x.testBit k) else x.testBit k := by
    by_cases h1 : e.ma = true
    · rw [if_pos h1]
      have : (List.range e.flim).foldl (fun z f => if selected m t0 f then z else (Opnd.mask d).fill e z f) x =
          ((List.range e.flim).filter (fun f => !selected m t0 f)).foldl (fun z f => setBits z f 1 (ones 1)) x := by
        rw [List.foldl_filter]
        congr 1
        funext z f
        by_cases h : selected m t0 f = true
        · simp [h]
        · have h' : selected m t0 f = false := by simpa using h
          simp [h', Opnd.fill, Opnd.put, Opnd.view]
      rw [this, testBit_maskFold]
      simp only [List.mem_filter, List.mem_range, Bool.not_eq_true', h1, Bool.true_or]
      rw [testBit_ones]
      rfl
    · have h1' : e.ma = false := by simpa using h1
      simp [h1']
  unfold Opnd.finish
  by_cases hta : e.ta = true
  · simp only [hta, if_true, Opnd.fillTail, Bool.true_or]
    rw [testBit_setBits, testBit_ones, hma]
    by_cases hfk : e.flim ≤ k
    · have h1 : e.flim ≤ k ∧ k < e.flim + (e.regBits - e.flim) := by omega
      have h2 : k - e.flim < e.regBits - e.flim := by omega
      rw [if_pos h1, if_pos hfk]
      simp [h2]
    · have h1 : ¬ (e.flim ≤ k ∧ k < e.flim + (e.regBits - e.flim)) := by omega
      have h2 : k < e.flim := by omega
      rw [if_neg h1, if_neg hfk]
      by_cases hsel : selected m t0 k = true
      · simp [hsel]
      · have hsel' : selected m t0 k = false := by simpa using hsel
        simp [hsel', h2]
  · have hta' : e.ta = false := by simpa using hta
    simp only [hta', Bool.false_eq_true, if_false, Bool.false_or]
    rw [hma]
    by_cases hfk : e.flim ≤ k
    · have h1 : ¬ (k < e.flim ∧ selected m t0 k = false) := by omega
      rw [if_neg h1, if_pos hfk]
    · have h2 : k < e.flim := by omega
      rw [if_neg hfk]
      by_cases hsel : selected m t0 k = true
      · simp [hsel]
      · have hsel' : selected m t0 k = false := by simpa using hsel
        simp [hsel', h2]

/-- What an element-wise instruction with a mask register as its destination does. -/
theorem runTile_mask {i : Instr} {d : TileDesc} {s : State} {c : Counts} (r : TReg) (srcs : Env → List Opnd)
    (comp : Env → List Word → Nat → List Nat → Nat → Res)
    (hk : d.kind = .elem (fun _ => .mask r.val) srcs comp)
    (hi : s.me.conv = none) (ht : s.me.tbad = []) (hs : s.me.stripOk)
    (hl : d.mode = .pip → ∀ k, s.me.lostChunk 0 k = false) (hc : checkMember s.me d Counts.zero = .ok c) :
    ∃ t, runTile i d s = .next t ∧ PerformedMask s t d.mode r (fun f => comp s.me.env (d.regs.map s.me.rd)
      s.me.tregs[0] ((srcs s.me.env).map (fun o => s.me.env.read s.me.tregs o.view)) f) := by
  rw [runTile_lone hi hc]
  have hbits : s.me.env.flim ≤ s.me.env.regBits := hs.2.2
  obtain ⟨m, hm⟩ : ∃ m, (s.started i d).member? 0 = some (⟨s.me.pc, [m], s.me.shape.tty, s.me.frm, s.me.xrm, s.me.shape.vl,
      s.me.shape.flim, s.me.pc + 4 * BitVec.ofNat 64 1⟩, m) ∧ m = freshMember i s.me.pc (d.regs.map s.me.rd) := ⟨_, rfl, rfl⟩
  obtain ⟨hm, hmm⟩ := hm
  unfold TileDesc.runWhole
  rw [hk]
  simp only
  rw [readScalars_started]
  unfold runElems
  rw [hm]
  simp only
  have henv : Convoy.env ⟨s.me.pc, [m], s.me.shape.tty, s.me.frm, s.me.xrm, s.me.shape.vl, s.me.shape.flim, s.me.pc + 4 * BitVec.ofNat 64 1⟩ (s.started i d).me =
      s.me.env := rfl
  have hreg : (s.started i d).me.tregs = s.me.tregs := rfl
  have hfl : (s.started i d).me.flags = s.me.flags := rfl
  have ht0 : m.t0 (s.started i d).me = s.me.tregs[0] := by rw [hmm]; rfl
  have hsc : m.scal = d.regs.map s.me.rd := by rw [hmm]; rfl
  have hdone : m.done = 0 := by rw [hmm]; rfl
  have hgr : m.groups = 0 := by rw [hmm]; rfl
  have hsrc : ∀ e' d', m.source e' (s.started i d).me d' = fun o => e'.read s.me.tregs o.view := by
    intro e' d'
    rw [hmm]
    rfl
  rw [henv, hreg, ht0, hsc, hdone, hfl]
  simp only [hsrc]
  generalize hE : s.me.env = e at *
  by_cases hz : e.flim = 0
  · rw [if_pos hz, finish_lone' s i d hi]
    refine ⟨_, rfl, ?_⟩
    refine ⟨?_, ?_, ?_, ?_, ?_, ?_, List.Sublist.refl _, ?_⟩
    all_goals simp only [hE, State.flagsOf, State.after, Nat.sub_self]
    · intro f hf'; omega
    · intro f hf'; omega
    · intro h0; omega
    · intro _; trivial
    · intro k hk' _; trivial
    · rw [hz]; rfl
    · rfl
  · rw [if_neg hz]
    have htb : (s.started i d).me.tbad = [] := ht
    have hlo : d.mode = .pip → ∀ k, (s.started i d).me.lostAt 0 s.me.tregs[0] k = false := hl
    obtain ⟨dn, hfold, hdn⟩ := elemStep_range (e := e) (p := (s.started i d).me) (mode := d.mode) (ws := d.regs.map s.me.rd)
      (t0 := s.me.tregs[0]) (vals := (srcs e).map (fun o => e.read s.me.tregs o.view)) (srcs := srcs e) htb hlo (.mask r.val)
      (comp e (d.regs.map s.me.rd) s.me.tregs[0] ((srcs e).map (fun o => e.read s.me.tregs o.view)))
      (e.read s.me.tregs (Opnd.mask r.val).view) e.flim
    rw [hfold]
    generalize hval : comp e (d.regs.map s.me.rd) s.me.tregs[0] ((srcs e).map (fun o => e.read s.me.tregs o.view)) = val
    have hgs : newGroups e.groups true (fun g => true && groupShut e (s.started i d).me d.mode s.me.tregs[0] dn g) m.groups =
        ones e.groups := by
      rw [hgr]
      exact newGroups_all _ _ (fun g => by rw [groups_shut htb hlo hdn]; rfl)
    rw [hgs, allGroups_ones, hgr]
    simp only [Option.isNone_none, Bool.and_self, if_true, Bool.true_and, fill_all]
    rw [finish_lone s i d hi]
    have hr64 : r.val < 64 := r.isLt
    have hread : e.read s.me.tregs (Opnd.mask r.val).view = s.me.tregs[r] := by
      simp [Env.read, Opnd.view, groupOf]
    have hbit : ∀ k < e.regBits, (e.write s.me.tregs (Opnd.mask r.val).view ((Opnd.mask r.val).finish e d.mode s.me.tregs[0]
        (((List.range e.flim).filter (selected d.mode s.me.tregs[0])).foldl (fun x f => (Opnd.mask r.val).put e x f (val f).val)
          (e.read s.me.tregs (Opnd.mask r.val).view))))[r].testBit k =
        if e.flim ≤ k then (e.ta || s.me.tregs[r].testBit k)
        else if selected d.mode s.me.tregs[0] k then (val k).val.testBit 0 else (e.ma || s.me.tregs[r].testBit k) := by
      intro k hk'
      have hw : ∀ x, (e.write s.me.tregs (Opnd.mask r.val).view x)[r] = x % 2 ^ e.regBits := by
        intro x
        show (setGroup s.me.tregs e.regBits r.val 1 x)[r.val] = _
        rw [setGroup_get _ _ _ _ _ _ hr64, if_pos (by omega)]
        simp
      rw [hw, Nat.testBit_mod_two_pow, testBit_maskFinish e _ _ _ _ _ hk' hbits]
      have hput : (fun x f => (Opnd.mask r.val).put e x f (val f).val) = fun x f => setBits x f 1 (val f).val := rfl
      rw [hput, testBit_maskFold (fun f => (val f).val), hread]
      simp only [hk', decide_true, Bool.true_and, List.mem_filter, List.mem_range]
      by_cases h1 : e.flim ≤ k
      · have h2 : ¬ (k < e.flim ∧ selected d.mode s.me.tregs[0] k = true) := by omega
        rw [if_pos h1, if_pos h1, if_neg h2]
      · rw [if_neg h1, if_neg h1]
        have h2 : k < e.flim := by omega
        by_cases hsel : selected d.mode s.me.tregs[0] k = true
        · simp [hsel, h2]
        · have hsel' : selected d.mode s.me.tregs[0] k = false := by simpa using hsel
          simp [hsel']
    have hgen : ∀ t : State, t.me.env = e → t.me.tregs = e.write s.me.tregs (Opnd.mask r.val).view
        ((Opnd.mask r.val).finish e d.mode s.me.tregs[0]
        (((List.range e.flim).filter (selected d.mode s.me.tregs[0])).foldl (fun x f => (Opnd.mask r.val).put e x f (val f).val)
          (e.read s.me.tregs (Opnd.mask r.val).view))) →
        t.me.flags = s.me.flags ||| ((List.range e.flim).filter (selected d.mode s.me.tregs[0])).foldl (fun x f => x ||| (val f).flags) 0 →
        t.me.tsoft.Sublist s.me.tsoft → t = s.after t → PerformedMask s t d.mode r val := by
      intro t hte htr htf hts hta
      refine ⟨?_, ?_, ?_, ?_, ?_, ?_, hts, hta⟩
      · intro f hf' hsel
        rw [hE] at hf'
        have := hbit f (by omega)
        rw [if_neg (by omega), if_pos hsel] at this
        rw [htr]
        exact this
      · intro f hf' hsel
        rw [hE] at hf'
        have := hbit f (by omega)
        rw [if_neg (by omega), if_neg (by rw [hsel]; simp)] at this
        rw [htr, hE]
        exact this
      · intro _ f hf' hb
        rw [hE] at hf' hb ⊢
        have := hbit f hb
        rw [if_pos hf'] at this
        rw [htr]
        exact this
      · intro h0; rw [hE] at h0; exact absurd h0 hz
      · intro k hk' hout
        simp only [htr]
        exact write_frame _ _ _ _ _ hk' (by simp only [Opnd.view]; omega)
      · rw [htf, State.flagsOf, hE]
        have := foldl_or ((List.range e.flim).filter (selected d.mode s.me.tregs[0])) (fun f => (val f).flags) s.me.flags 0
        simpa using this.symm
    exact ⟨_, rfl, hgen _ hE rfl rfl List.filter_sublist (after_corrected s _ _ _)⟩

end Sys2Proof.Machine
end

