-- ==== Sys2Proof/Machine/Assembler.lean ====
section
/-! DEFINITION. The assembly language that `osnas` reads (spec/03_assembly_and_objects.md R50 to R63): lines, symbols,
expressions, statements, directives and macros, up to the relocatable module they give. `none` is an assembly error. No
step of the machine reads this file: it says which words and module bytes a source text stands for. -/

set_option Elab.async false

namespace Sys2Proof.Asm

open Sys2Proof.Machine

/-! ### Characters and tokens (R50, R51) -/

inductive Tok where
  /-- a symbol, mnemonic, directive or field name -/
  | sym (s : String)
  /-- the characters of a number -/
  | num (cs : List Char)
  /-- a quoted string -/
  | str (s : String)
  /-- punctuation or an operator -/
  | op (s : String)
  deriving DecidableEq, Repr

def isDigit (c : Char) : Bool := decide (48 ≤ c.toNat) && decide (c.toNat ≤ 57)
def isLetter (c : Char) : Bool :=
  (decide (65 ≤ c.toNat) && decide (c.toNat ≤ 90)) || (decide (97 ≤ c.toNat) && decide (c.toNat ≤ 122))
def isBlank (c : Char) : Bool := c.toNat == 32 || c.toNat == 9 || c.toNat == 13

/-- Letters, digits, `_` and `.`; not a digit first (R51). -/
def symStart (c : Char) : Bool := isLetter c || c.toNat == 95 || c.toNat == 46
def symChar (c : Char) : Bool := symStart c || isDigit c

/-- The characters of the number that `cs` begins with: a decimal one may go on with a signed exponent (R60). -/
def numText (cs : List Char) : List Char :=
  let w := cs.takeWhile symChar
  let rest := cs.drop w.length
  let plain := w.dropLast.all (fun c => isDigit c || c.toNat == 46 || c.toNat == 95)
  match w.getLast?, rest with
  | some e, sign :: more =>
    if plain && (e.toNat == 101 || e.toNat == 69) && (sign.toNat == 43 || sign.toNat == 45) then
      w ++ [sign] ++ more.takeWhile isDigit
    else w
  | _, _ => w

/-- The tokens of a line; a comment ends it (R50). The first argument bounds the work. -/
def lex : Nat → List Char → Option (List Tok)
  | 0, _ => none
  | _, [] => some []
  | n + 1, c :: rest =>
    let next := rest.head?
    if isBlank c then lex n rest
    else if c.toNat == 59 || (c.toNat == 47 && next = some '/') then some []
    else if c.toNat == 34 then
      let w := rest.takeWhile (fun x => x.toNat ≠ 34)
      if w.length = rest.length then none
      else (lex n (rest.drop (w.length + 1))).map (fun ts => .str (String.ofList w) :: ts)
    else if symStart c then
      let w := (c :: rest).takeWhile symChar
      (lex n ((c :: rest).drop w.length)).map (fun ts => .sym (String.ofList w) :: ts)
    else if isDigit c then
      let w := numText (c :: rest)
      (lex n ((c :: rest).drop w.length)).map (fun ts => .num w :: ts)
    else if (c.toNat == 60 || c.toNat == 62) then
      if next = some c then (lex n (rest.drop 1)).map (fun ts => .op (String.ofList [c, c]) :: ts) else none
    else if ":,()=+-*/%&^|~".toList.contains c then
      (lex n rest).map (fun ts => .op (String.ofList [c]) :: ts)
    else none

def tokens (line : String) : Option (List Tok) := lex (line.toList.length + 1) line.toList

/-! ### Numbers -/

def digitVal (c : Char) : Nat :=
  if isDigit c then c.toNat - 48
  else if 97 ≤ c.toNat ∧ c.toNat ≤ 102 then c.toNat - 87
  else if 65 ≤ c.toNat ∧ c.toNat ≤ 70 then c.toNat - 55
  else 99

/-- Digits in a base; `_` stands between digits only. `prev` says that the character before was a digit. -/
def digits (base : Nat) : Bool → Nat → List Char → Option Nat
  | prev, v, [] => if prev then some v else none
  | prev, v, c :: rest =>
    if c.toNat == 95 then (if prev && rest.head?.any (fun d => decide (digitVal d < base)) then digits base false v rest else none)
    else if digitVal c < base then digits base true (v * base + digitVal c) rest
    else none

/-- An integer literal: decimal, `0x` or `0b`. -/
def intLit (cs : List Char) : Option Nat :=
  match cs with
  | '0' :: 'x' :: rest => digits 16 false 0 rest
  | '0' :: 'b' :: rest => digits 2 false 0 rest
  | _ => digits 10 false 0 cs

/-! ### Expressions (R56 to R58) -/

inductive Expr where
  | num (v : Word)
  | sym (s : String)
  | neg (e : Expr)
  | inv (e : Expr)
  | hi (e : Expr)
  | lo (e : Expr)
  | bin (op : String) (a b : Expr)
  deriving DecidableEq, Repr

/-- The row of the precedence table an operator stands in (R56); 0 for no operator. -/
def levelOf (op : String) : Nat :=
  if op = "*" ∨ op = "/" ∨ op = "%" then 2
  else if op = "+" ∨ op = "-" then 3
  else if op = "<<" ∨ op = ">>" then 4
  else if op = "&" then 5
  else if op = "^" then 6
  else if op = "|" then 7
  else 0

/-- Reads an expression of the rows up to `lvl`; with `some a`, goes on after the operand `a`. Operators of one row
associate to the left. -/
def parseE : Nat → Nat → Option Expr → List Tok → Option (Expr × List Tok)
  | 0, _, _, _ => none
  | n + 1, lvl, some a, ts =>
    match ts with
    | .op o :: rest =>
      if levelOf o = lvl then
        match parseE n (lvl - 1) none rest with
        | some (b, rest') => parseE n lvl (some (.bin o a b)) rest'
        | none => none
      else some (a, ts)
    | _ => some (a, ts)
  | n + 1, lvl, none, ts =>
    if 1 < lvl then
      match parseE n (lvl - 1) none ts with
      | some (a, rest) => parseE n lvl (some a) rest
      | none => none
    else
      match ts with
      | .num cs :: rest =>
        match intLit cs with
        | some v => if v < 2 ^ 64 then some (.num (word v), rest) else none
        | none => none
      | .sym f :: .op "(" :: rest =>
        match parseE n 7 none rest with
        | some (e, .op ")" :: rest') => if f = "hi" then some (.hi e, rest') else if f = "lo" then some (.lo e, rest') else none
        | _ => none
      | .sym s :: rest => some (.sym s, rest)
      | .op "(" :: rest =>
        match parseE n 7 none rest with
        | some (e, .op ")" :: rest') => some (e, rest')
        | _ => none
      | .op "-" :: rest => (parseE n 1 none rest).map (fun r => (.neg r.1, r.2))
      | .op "~" :: rest => (parseE n 1 none rest).map (fun r => (.inv r.1, r.2))
      | _ => none

def exprAt (ts : List Tok) : Option (Expr × List Tok) := parseE (16 * ts.length + 16) 7 none ts

/-- An expression that is all of the tokens. -/
def exprOf (ts : List Tok) : Option Expr :=
  match exprAt ts with
  | some (e, []) => some e
  | _ => none

/-- `lo(x)` and `hi(x)` (R58). -/
def loPart (x : Word) : Word := ((x &&& 0x7FFF) ^^^ 0x4000) - 0x4000
def hiPart (x : Word) : Word := (x - loPart x).sshiftRight 15

/-- What a relocatable value is counted from: a label or the location counter with its section and offset, an extern
without them, or address zero (no name, no place). -/
structure Base where
  name : String
  place : Option (Nat × Nat)
  deriving DecidableEq, Repr

inductive Val where
  | abs (v : Word)
  | rel (b : Base) (add : Word)
  deriving DecidableEq, Repr

/-- Sums and differences of relocatable values (R57). -/
def addVals (a b : Val) : Option Val :=
  match a, b with
  | .abs x, .abs y => some (.abs (x + y))
  | .rel s x, .abs y => some (.rel s (x + y))
  | .abs x, .rel s y => some (.rel s (x + y))
  | .rel _ _, .rel _ _ => none

def subVals (a b : Val) : Option Val :=
  match a, b with
  | .abs x, .abs y => some (.abs (x - y))
  | .rel s x, .abs y => some (.rel s (x - y))
  | .abs _, .rel _ _ => none
  | .rel s x, .rel t y =>
    match s.place, t.place with
    | some (i, p), some (j, q) => if i = j then some (.abs (word p + x - (word q + y))) else none
    | _, _ => none

/-- The operators on absolute values, in 64-bit two's complement (R56). -/
def binOp (op : String) (x y : Word) : Option Word :=
  if op = "*" then some (x * y)
  else if op = "/" then (if y = 0 then none else some (x.sdiv y))
  else if op = "%" then (if y = 0 then none else some (x.srem y))
  else if op = "<<" then some (x <<< (y.toNat % 64))
  else if op = ">>" then some (x.sshiftRight (y.toNat % 64))
  else if op = "&" then some (x &&& y)
  else if op = "^" then some (x ^^^ y)
  else if op = "|" then some (x ||| y)
  else none

/-- The value of an expression: `here` is the location counter, `look` gives the symbols. -/
def Expr.eval (look : String → Option Val) (here : Option Base) : Expr → Option Val
  | .num v => some (.abs v)
  | .sym s => if s = "." then here.map (fun b => .rel b 0) else look s
  | .neg e => onAbs (e.eval look here) (fun x => -x)
  | .inv e => onAbs (e.eval look here) (fun x => ~~~x)
  | .hi e => onAbs (e.eval look here) hiPart
  | .lo e => onAbs (e.eval look here) loPart
  | .bin op a b =>
    match a.eval look here, b.eval look here with
    | some x, some y =>
      if op = "+" then addVals x y
      else if op = "-" then subVals x y
      else
        match x, y with
        | .abs v, .abs w => (binOp op v w).map .abs
        | _, _ => none
    | _, _ => none
where
  onAbs (v : Option Val) (f : Word → Word) : Option Val :=
    match v with
    | some (.abs x) => some (.abs (f x))
    | _ => none

/-! ### Names of registers, types and operands (R51, R84, R85, R211, R235) -/

def indexed (pre : String) (lo n step : Nat) : List (String × Nat) :=
  (List.range n).map (fun i => (pre ++ toString (lo + i), step + i))

def scalarNames : List (String × Nat) := indexed "s" 0 32 0
def tileNames : List (String × Nat) := indexed "t" 0 64 0

def typeNames : List (String × Nat) :=
  [("i8", 0), ("i16", 1), ("i32", 2), ("i64", 3), ("n8", 4), ("n16", 5), ("n32", 6), ("n64", 7), ("fp16", 8), ("bf16", 9),
   ("fp32", 10), ("fp64", 11), ("e4m3", 12), ("e5m2", 13), ("e2m1", 14), ("e8m0", 15)] ++
    indexed "ki" 1 16 0x10 ++ indexed "kn" 1 16 0x20

def statusNames : List (String × Nat) :=
  [("VL", 0x000), ("FLIM", 0x001), ("VLMAX", 0x002), ("TTY", 0x003), ("SEAT", 0x004), ("ALLOT", 0x005), ("GRANT", 0x006),
   ("FLAGS", 0x007), ("FRM", 0x008), ("XRM", 0x009), ("MODE", 0x00A), ("PARTY", 0x00B), ("WMK", 0x00C), ("BARP", 0x00D),
   ("QLEN", 0x00E), ("QSTRIDE", 0x00F), ("QK", 0x010), ("QRATIO", 0x011), ("QLO", 0x012), ("QHI", 0x013)] ++
  [("GBASE", 0x014), ("GSTEP", 0x015), ("LSPOL", 0x016), ("XDIM1", 0x018), ("XDIM2", 0x019), ("XSTRIDE1", 0x01A),
   ("XSTRIDE2", 0x01B), ("XCHUNK", 0x01C), ("XFLAGA", 0x01D), ("XFLAGV", 0x01E), ("WSR", 0x020), ("ECAUSE", 0x021),
   ("EPC", 0x022), ("EIDX", 0x023), ("ETVAL", 0x024), ("EVEC", 0x025), ("ESCRATCH", 0x026), ("EFRAG", 0x027)] ++
  [("ESTAT", 0x028), ("EFSPILL", 0x029), ("EFSPC", 0x02A), ("ETINFO", 0x02B), ("EAFQ", 0x02C), ("EAFQA", 0x02D),
   ("QMSTAT", 0x02E), ("QEWIN", 0x02F), ("CLOCK", 0x030), ("SEATID", 0x031), ("COREID", 0x032), ("EAFQR", 0x033),
   ("QRMT", 0x034), ("QRMV", 0x035)]

def scopeNames : List (String × Nat) := [("HART", 0), ("PARTY", 1), ("DEVICE", 2), ("SYSTEM", 3)]
def kindNames : List (String × Nat) := [("SPAD", 1), ("QMW", 2), ("QRY", 4), ("STRM", 8)]

def lookup {α : Type} (l : List (String × α)) (s : String) : Option α := (l.find? (fun x => x.1 = s)).map (fun x => x.2)

/-! ### The instructions: words, operands and named fields (R31, R52, R53)

The order of the operands is that of their fields from bit 24 downward; words and fields are those of
spec/opcode_table.json. -/

inductive OpKind where
  | scalar | tile | signed | plain | target
  /-- a tile register other than t0: an offset group of `qstx` and `qradd` (R329) -/
  | offsets
  /-- a name of a list, or a number -/
  | named (names : List (String × Nat))
  deriving DecidableEq, Repr

structure Fld where
  name : String
  lo : Nat
  width : Nat
  deriving DecidableEq, Repr

structure Oprd where
  kind : OpKind
  fld : Fld
  deriving DecidableEq, Repr

structure Insn where
  name : String
  base : Nat
  ops : List Oprd
  sets : List Fld
  deriving DecidableEq, Repr

def opS (n : String) (lo w : Nat) : Oprd := ⟨.scalar, n, lo, w⟩
def opT (n : String) (lo w : Nat) : Oprd := ⟨.tile, n, lo, w⟩
def opI (n : String) (lo w : Nat) : Oprd := ⟨.signed, n, lo, w⟩
def opU (n : String) (lo w : Nat) : Oprd := ⟨.plain, n, lo, w⟩
def opOff (n : String) (lo w : Nat) : Oprd := ⟨.target, n, lo, w⟩
def opTy (n : String) (lo w : Nat) : Oprd := ⟨.named typeNames, n, lo, w⟩
def opSr (n : String) (lo w : Nat) : Oprd := ⟨.named statusNames, n, lo, w⟩
def opScope (n : String) (lo w : Nat) : Oprd := ⟨.named scopeNames, n, lo, w⟩
def opKinds (n : String) (lo w : Nat) : Oprd := ⟨.named kindNames, n, lo, w⟩

/-- Instructions of one shape; the field `c` may be set in every format. -/
def insns (ops : List Oprd) (sets : List Fld) (rows : List (String × Nat)) : List Insn :=
  rows.map (fun r => ⟨r.1, r.2, ops, ⟨"c", 31, 1⟩ :: sets⟩)

def formSlui : List Insn := insns [opS "sd" 20 5, opI "imm" 0 20] []
  [("slui", 0x02000000), ("spcrel", 0x04000000)]

def formSjal : List Insn := insns [opS "sd" 20 5, opOff "label" 0 20] []
  [("sjal", 0x06000000)]

def formSjalr : List Insn := insns [opS "sd" 20 5, opS "sa" 15 5, opI "imm" 0 15] []
  [("sjalr", 0x08000000), ("saddi", 0x16000000), ("sandi", 0x18000000), ("sori", 0x1A000000),
   ("sxori", 0x1C000000), ("slti", 0x1E000000), ("sltin", 0x20000000), ("sld.d", 0x26000000),
   ("sld.w", 0x28000000), ("sldn.w", 0x2A000000), ("sld.h", 0x2C000000), ("sldn.h", 0x2E000000),
   ("sld.b", 0x30000000), ("sldn.b", 0x32000000)]

def formSbeq : List Insn := insns [opS "sa" 20 5, opS "sb" 15 5, opOff "label" 0 15] []
  [("sbeq", 0x0A000000), ("sbne", 0x0C000000), ("sblt", 0x0E000000), ("sbge", 0x10000000),
   ("sbltn", 0x12000000), ("sbgen", 0x14000000)]

def formSslli : List Insn := insns [opS "sd" 20 5, opS "sa" 15 5, opU "n" 0 6] []
  [("sslli", 0x22000000), ("ssrli", 0x22002000), ("ssrai", 0x22004000)]

def formSadd : List Insn := insns [opS "sd" 20 5, opS "sa" 15 5, opS "sb" 10 5] []
  [("sadd", 0x24000000), ("ssub", 0x24000001), ("sand", 0x24000002), ("sor", 0x24000003),
   ("sxor", 0x24000004), ("sandn", 0x24000005), ("ssll", 0x24000006), ("ssrl", 0x24000007),
   ("ssra", 0x24000008), ("sslt", 0x24000009), ("ssltn", 0x2400000A), ("smin", 0x2400000B),
   ("smax", 0x2400000C), ("sminn", 0x2400000D), ("smaxn", 0x2400000E), ("smul", 0x24000010),
   ("smulh", 0x24000011), ("smulhn", 0x24000012), ("smulhsu", 0x24000013), ("sdiv", 0x24000014),
   ("sdivn", 0x24000015), ("srem", 0x24000016), ("sremn", 0x24000017), ("wait.eq", 0x44000080),
   ("wait.ne", 0x44000090), ("wait.geu", 0x440000A0), ("wait.any", 0x440000B0), ("launch", 0x44000300),
   ("setvl", 0x46000000), ("setvlw", 0x46000002)]

def formSpopc : List Insn := insns [opS "sd" 20 5, opS "sa" 15 5] []
  [("spopc", 0x24000018), ("sclz", 0x24000019), ("sctz", 0x2400001A), ("wmpub", 0x44000100),
   ("setvl.g", 0x46000001), ("settype", 0x46000003), ("reseat", 0x46000004), ("allot", 0x46000005)]

def formSstD : List Insn := insns [opS "sv" 20 5, opS "sa" 15 5, opI "imm" 0 15] []
  [("sst.d", 0x34000000), ("sst.w", 0x36000000), ("sst.h", 0x38000000), ("sst.b", 0x3A000000)]

def formSfaddD : List Insn := insns [opS "sd" 20 5, opS "sa" 15 5, opS "sb" 10 5] [⟨"rm", 6, 3⟩]
  [("sfadd.d", 0x3C000000), ("sfadd.w", 0x3C000020), ("sfsub.d", 0x3C000001), ("sfsub.w", 0x3C000021),
   ("sfmul.d", 0x3C000002), ("sfmul.w", 0x3C000022), ("sfdiv.d", 0x3C000003), ("sfdiv.w", 0x3C000023),
   ("sfma.d", 0x3C000007), ("sfma.w", 0x3C000027), ("sfmin.d", 0x3C000005), ("sfmin.w", 0x3C000025),
   ("sfmax.d", 0x3C000006), ("sfmax.w", 0x3C000026), ("sfsignc.d", 0x3C000008), ("sfsignc.w", 0x3C000028),
   ("sfsignn.d", 0x3C000009), ("sfsignn.w", 0x3C000029), ("sfsignx.d", 0x3C00000A), ("sfsignx.w", 0x3C00002A),
   ("sfeq.d", 0x3C00000B), ("sfeq.w", 0x3C00002B), ("sflt.d", 0x3C00000C), ("sflt.w", 0x3C00002C),
   ("sfle.d", 0x3C00000D), ("sfle.w", 0x3C00002D)]

def formSfsqrtD : List Insn := insns [opS "sd" 20 5, opS "sa" 15 5] [⟨"rm", 6, 3⟩]
  [("sfsqrt.d", 0x3C000004), ("sfsqrt.w", 0x3C000024), ("sfcvti.d", 0x3C00000E), ("sfcvti.w", 0x3C00002E),
   ("sfcvtn.d", 0x3C00000F), ("sfcvtn.w", 0x3C00002F), ("sicvtf.d", 0x3C000010), ("sicvtf.w", 0x3C000030),
   ("sncvtf.d", 0x3C000011), ("sncvtf.w", 0x3C000031), ("sfcvtx.d", 0x3C000012), ("sfcvtx.w", 0x3C000032)]

def formSamoAddD : List Insn := insns [opS "sd" 20 5, opS "sa" 15 5, opS "sb" 10 5] [⟨"scope", 7, 2⟩, ⟨"ord", 5, 2⟩]
  [("samo.add.d", 0x3E000000), ("samo.add.w", 0x3E000010), ("samo.and.d", 0x3E000001), ("samo.and.w", 0x3E000011),
   ("samo.or.d", 0x3E000002), ("samo.or.w", 0x3E000012), ("samo.xor.d", 0x3E000003), ("samo.xor.w", 0x3E000013),
   ("samo.swap.d", 0x3E000004), ("samo.swap.w", 0x3E000014), ("samo.min.d", 0x3E000005), ("samo.min.w", 0x3E000015),
   ("samo.max.d", 0x3E000006), ("samo.max.w", 0x3E000016), ("samo.minn.d", 0x3E000007), ("samo.minn.w", 0x3E000017),
   ("samo.maxn.d", 0x3E000008), ("samo.maxn.w", 0x3E000018), ("samo.cas.d", 0x3E000009), ("samo.cas.w", 0x3E000019)]

def formGetsr : List Insn := insns [opS "sd" 20 5, opSr "sr" 0 12] []
  [("getsr", 0x40000000)]

def formPutsr : List Insn := insns [opS "sa" 15 5, opSr "sr" 0 12] []
  [("putsr", 0x42000000)]

def formFence : List Insn := insns [opScope "scope" 4 2, opKinds "kinds" 0 4] []
  [("fence", 0x44000000)]

def formBar : List Insn := insns [] []
  [("bar", 0x44000040), ("halt", 0x44000240), ("eret", 0x44000280), ("yield", 0x440002C0),
   ("tjoin", 0x69000000)]

def formPwait : List Insn := insns [opS "sa" 15 5, opS "sb" 10 5, opT "tp" 0 6] []
  [("pwait", 0x440000C0)]

def formTrap : List Insn := insns [opU "n" 0 6] []
  [("trap", 0x44000200)]

def formTbany : List Insn := insns [opT "tm" 19 3, opOff "label" 0 19] []
  [("tbany", 0x68000000), ("tball", 0x68400000), ("tbnone", 0x68800000), ("tbdiv", 0x68C00000)]

def formTfspill : List Insn := insns [opT "tm" 19 3] []
  [("tfspill", 0x69400000), ("tffill", 0x69800000)]

def formTadd : List Insn := insns [opT "td" 19 6, opT "ta" 13 6, opT "tb" 7 6] [⟨"m", 5, 2⟩]
  [("tadd", 0x48000000), ("tsub", 0x48000001), ("tand", 0x48000002), ("tor", 0x48000003),
   ("txor", 0x48000004), ("tandn", 0x48000005), ("tmin", 0x48000006), ("tmax", 0x48000007),
   ("tsll", 0x48000008), ("tsrl", 0x48000009), ("tsra", 0x4800000A), ("tmul", 0x4800000B),
   ("tmulh", 0x4800000C), ("tmulhsu", 0x4800000D), ("tdiv", 0x4800000E), ("trem", 0x4800000F),
   ("tsel", 0x48000010), ("tfadd", 0x4E000000), ("tfsub", 0x4E000001), ("tfmul", 0x4E000002),
   ("tfdiv", 0x4E000003), ("tfmin", 0x4E000004), ("tfmax", 0x4E000005), ("tfsignc", 0x4E000009),
   ("tfsignn", 0x4E00000A), ("tfsignx", 0x4E00000B), ("tfma", 0x4E00000C), ("tfms", 0x4E00000D),
   ("tfnma", 0x4E00000E), ("tfnms", 0x4E00000F), ("tceq", 0x52000000), ("tcne", 0x52000001),
   ("tclt", 0x52000002), ("tcle", 0x52000003), ("tcgt", 0x52000004), ("tcge", 0x52000005),
   ("tcun", 0x52000006), ("tsadd", 0x56000000), ("tssub", 0x56000001), ("tavg", 0x56000002),
   ("tavgsub", 0x56000003), ("tsmul", 0x56000004), ("twadd", 0x56000005), ("twsub", 0x56000006),
   ("twmul", 0x56000007), ("twmacc", 0x56000008), ("tnshr", 0x56000009), ("tredsum", 0x5A000000),
   ("tredosum", 0x5A000001), ("tscan", 0x5A000003), ("tredmax", 0x5A000004), ("tredmin", 0x5A000005),
   ("tredmaxi", 0x5A000006), ("tredmini", 0x5A000007), ("tredand", 0x5A000008), ("tredor", 0x5A000009),
   ("tredxor", 0x5A00000A), ("trgather", 0x5C000006), ("tmand", 0x5E000000), ("tmor", 0x5E000001),
   ("tmxor", 0x5E000002), ("tmandn", 0x5E000003), ("txnorpop", 0x60000000), ("tpext", 0x60000001),
   ("tpins", 0x60000002)]

def formTmov : List Insn := insns [opT "td" 19 6, opT "ta" 13 6] [⟨"m", 5, 2⟩]
  [("tmov", 0x48000011), ("tfsqrt", 0x4E000006), ("tfrsqe", 0x4E000007), ("tfrece", 0x4E000008),
   ("tcvte", 0x58000003), ("tscale", 0x58000004), ("tcvtes", 0x58000006), ("tredgsum", 0x5A000002),
   ("tcompress", 0x5C000000), ("texpand", 0x5C000001), ("ttrans", 0x5C000007), ("trowbc", 0x5C000008),
   ("tcolbc", 0x5C000009), ("tmnot", 0x5E000004), ("tmbefore", 0x5E000005), ("tmthrough", 0x5E000006),
   ("tmonly", 0x5E000007)]

def formTiota : List Insn := insns [opT "td" 19 6] [⟨"m", 5, 2⟩]
  [("tiota", 0x48000012), ("mxzero", 0x6A000002)]

def formTaddS : List Insn := insns [opT "td" 19 6, opT "ta" 13 6, opS "sb" 8 5] [⟨"m", 5, 2⟩]
  [("tadd.s", 0x4A000000), ("tsub.s", 0x4A000001), ("tand.s", 0x4A000002), ("tor.s", 0x4A000003),
   ("txor.s", 0x4A000004), ("tandn.s", 0x4A000005), ("tmin.s", 0x4A000006), ("tmax.s", 0x4A000007),
   ("tsll.s", 0x4A000008), ("tsrl.s", 0x4A000009), ("tsra.s", 0x4A00000A), ("tmul.s", 0x4A00000B),
   ("tmulh.s", 0x4A00000C), ("tmulhsu.s", 0x4A00000D), ("tdiv.s", 0x4A00000E), ("trem.s", 0x4A00000F),
   ("trsub.s", 0x4A000011), ("tsel.s", 0x4A000012), ("tfadd.s", 0x50000000), ("tfsub.s", 0x50000001),
   ("tfmul.s", 0x50000002), ("tfdiv.s", 0x50000003), ("tfmin.s", 0x50000004), ("tfmax.s", 0x50000005),
   ("tfsignc.s", 0x50000009), ("tfsignn.s", 0x5000000A), ("tfsignx.s", 0x5000000B), ("tfma.s", 0x5000000C),
   ("tfms.s", 0x5000000D), ("tfnma.s", 0x5000000E), ("tfnms.s", 0x5000000F), ("tfrsub.s", 0x50000010),
   ("tfrdiv.s", 0x50000011), ("tceq.s", 0x54000000), ("tcne.s", 0x54000001), ("tclt.s", 0x54000002),
   ("tcle.s", 0x54000003), ("tcgt.s", 0x54000004), ("tcge.s", 0x54000005), ("tcun.s", 0x54000006),
   ("tslideup.s", 0x5C000004), ("tslidedn.s", 0x5C000005)]

def formTsplat : List Insn := insns [opT "td" 19 6, opS "sb" 8 5] [⟨"m", 5, 2⟩]
  [("tsplat", 0x4A000010)]

def formTaddI : List Insn := insns [opT "td" 19 6, opT "ta" 13 6, opI "imm" 7 6] [⟨"m", 5, 2⟩]
  [("tadd.i", 0x4C000000), ("tand.i", 0x4C000002), ("tor.i", 0x4C000003), ("txor.i", 0x4C000004),
   ("tmin.i", 0x4C000006), ("tmax.i", 0x4C000007), ("trsub.i", 0x4C000011)]

def formTsllI : List Insn := insns [opT "td" 19 6, opT "ta" 13 6, opU "imm" 7 6] [⟨"m", 5, 2⟩]
  [("tsll.i", 0x4C000008), ("tsrl.i", 0x4C000009), ("tsra.i", 0x4C00000A), ("tslideup", 0x5C000002),
   ("tslidedn", 0x5C000003)]

def formTsplatI : List Insn := insns [opT "td" 19 6, opI "imm" 7 6] [⟨"m", 5, 2⟩]
  [("tsplat.i", 0x4C000010)]

def formTcvt : List Insn := insns [opT "td" 19 6, opT "ta" 13 6, opTy "dt" 7 6] [⟨"m", 5, 2⟩]
  [("tcvt", 0x58000000), ("tcvtn", 0x58000001), ("tcvtw", 0x58000002), ("tcvtns", 0x58000005),
   ("tmxscale", 0x58000007), ("tmxscale.b", 0x58000008)]

def formTextr : List Insn := insns [opS "sd" 20 5, opT "ta" 13 6] [⟨"m", 5, 2⟩]
  [("textr", 0x5C00000A), ("tmpop", 0x5E000008), ("tmfirst", 0x5E000009)]

def formTld : List Insn := insns [opT "tv" 19 6, opS "sa" 14 5] [⟨"m", 5, 2⟩, ⟨"o", 7, 1⟩]
  [("tld", 0x62000000), ("tldff", 0x62000003), ("tst", 0x64000000)]

def formTlds : List Insn := insns [opT "tv" 19 6, opS "sa" 14 5, opS "sx" 8 5] [⟨"m", 5, 2⟩, ⟨"o", 7, 1⟩]
  [("tlds", 0x62000001), ("tsts", 0x64000001)]

def formTldx : List Insn := insns [opT "tv" 19 6, opS "sa" 14 5, opT "tx" 8 6] [⟨"m", 5, 2⟩, ⟨"o", 7, 1⟩]
  [("tldx", 0x62000002), ("tldxo", 0x62000082), ("tstx", 0x64000002), ("tstxo", 0x64000082),
   ("tldsc", 0x66000000), ("tstsc", 0x66000001), ("tgll", 0x66000002), ("tscc", 0x66000003)]

def formTldseg1 : List Insn := insns [opT "tv" 19 6, opS "sa" 14 5, opTy "mt" 8 6] [⟨"m", 5, 2⟩, ⟨"o", 7, 1⟩]
  [("tldseg.1", 0x62000008), ("tldseg.2", 0x62000009), ("tldseg.3", 0x6200000A), ("tldseg.4", 0x6200000B),
   ("tldseg.5", 0x6200000C), ("tldseg.6", 0x6200000D), ("tldseg.7", 0x6200000E), ("tldseg.8", 0x6200000F),
   ("tstseg.1", 0x64000008), ("tstseg.2", 0x64000009), ("tstseg.3", 0x6400000A), ("tstseg.4", 0x6400000B),
   ("tstseg.5", 0x6400000C), ("tstseg.6", 0x6400000D), ("tstseg.7", 0x6400000E), ("tstseg.8", 0x6400000F)]

def formMxattach : List Insn := insns [opT "td" 19 6, opTy "afmt" 13 6, opTy "bfmt" 7 6] [⟨"m", 5, 2⟩]
  [("mxattach", 0x6A000000)]

def formMxdetach : List Insn := insns [opT "td" 19 6, opT "tp" 7 6] [⟨"m", 5, 2⟩]
  [("mxdetach", 0x6A000001), ("mxsync", 0x6A000003)]

def formMxop : List Insn := insns [opT "td" 19 6, opT "ta" 13 6, opT "tb" 7 6] [⟨"e", 4, 1⟩, ⟨"m", 5, 2⟩]
  [("mxop", 0x6A000004), ("mxopn", 0x6A000005)]

def formXcopy : List Insn := insns [opS "sd" 20 5, opS "sa" 15 5, opS "sb" 10 5, opT "tp" 4 6] []
  [("xcopy", 0x6C000000), ("xcopy2", 0x6C000001), ("xcopy3", 0x6C000002), ("xgath", 0x6C000003),
   ("xput", 0x6C000004)]

def formXseal : List Insn := insns [opS "sd" 20 5, opS "sa" 15 5, opT "tp" 4 6] []
  [("xseal", 0x6C000005), ("xunseal", 0x6C000006)]

def formXbar : List Insn := insns [opT "tp" 4 6] []
  [("xbar", 0x6C000007), ("xcancel", 0x6C000008)]

def formQdot : List Insn := insns [opT "tv" 19 6, opT "tq" 13 6, opT "tp" 7 6, opS "sa" 2 5] []
  [("qdot", 0x6E000000), ("qdotm", 0x6E000001), ("qdotx", 0x6E000002), ("qsum", 0x6E000003),
   ("qcount", 0x70000000), ("qmax", 0x70000001), ("qmin", 0x70000002), ("qhamm", 0x72000000),
   ("qcode", 0x72000001), ("qgsum", 0x72000003), ("qappend", 0x74000002), ("qcas", 0x74000003)]

def formQbest : List Insn := insns [opT "tv" 19 6, opT "tp" 7 6, opS "sa" 2 5] []
  [("qbest", 0x70000003)]

def formQnarrow : List Insn := insns [opT "tv" 19 6, opTy "st" 13 6, opT "tp" 7 6, opS "sa" 2 5] []
  [("qnarrow", 0x72000002)]

def formQst : List Insn := insns [opT "tv" 19 6, opS "sa" 2 5] []
  [("qst", 0x74000000), ("qradd.add", 0x74000001), ("qradd.max", 0x74000081), ("qradd.min", 0x74000101),
   ("qradd.or", 0x74000181), ("qradd.and", 0x74000201)]

def formQstx : List Insn := insns [opT "tv" 19 6, ⟨.offsets, "tq", 13, 6⟩, opS "sa" 2 5] []
  [("qstx", 0x74000000), ("qradd.add", 0x74000001), ("qradd.max", 0x74000081), ("qradd.min", 0x74000101),
   ("qradd.or", 0x74000181), ("qradd.and", 0x74000201)]

def formQeval : List Insn := insns [opS "sp" 20 5, opS "sa" 2 5] []
  [("qeval", 0x76000000)]

def formQcopy : List Insn := insns [opS "sd" 20 5, opT "tp" 7 6, opS "sa" 2 5] []
  [("qcopy", 0x76000001)]

def formQmerge : List Insn := insns [opS "sd" 20 5, opT "tq" 13 6, opT "tp" 7 6, opS "sa" 2 5] []
  [("qmerge", 0x76000002)]

/-- Every instruction `osnas` knows. -/
def allInsns : List Insn :=
  formSlui ++ formSjal ++ formSjalr ++ formSbeq ++ formSslli ++ formSadd ++ formSpopc ++ formSstD ++ formSfaddD ++
  formSfsqrtD ++ formSamoAddD ++ formGetsr ++ formPutsr ++ formFence ++ formBar ++ formPwait ++ formTrap ++
  formTbany ++ formTfspill ++ formTadd ++ formTmov ++ formTiota ++ formTaddS ++ formTsplat ++ formTaddI ++
  formTsllI ++ formTsplatI ++ formTcvt ++ formTextr ++ formTld ++ formTlds ++ formTldx ++ formTldseg1 ++
  formMxattach ++ formMxdetach ++ formMxop ++ formXcopy ++ formXseal ++ formXbar ++ formQdot ++ formQbest ++
  formQnarrow ++ formQst ++ formQstx ++ formQeval ++ formQcopy ++ formQmerge

def insn? (name : String) : Option Insn := allInsns.find? (fun i => i.name = name)

/-- The form of a mnemonic with `n` operands: `qradd` has two (R329). -/
def form? (name : String) (n : Nat) : Option Insn := allInsns.find? (fun i => i.name = name ∧ i.ops.length = n)

/-- May a symbol be spelt so (R51)? -/
def symbolOk (s : String) : Bool :=
  s ≠ "." && (lookup scalarNames s).isNone && (lookup tileNames s).isNone && (lookup statusNames s).isNone && (insn? s).isNone

/-! ### Statements (R52 to R54) -/

/-- A relocation that a word or a dword needs (R68): its kind, what it counts from, and the addend. -/
structure Fix where
  kind : Nat
  base : Base
  add : Word
  deriving DecidableEq, Repr

/-- The bits of a value in a signed or an unsigned field. -/
def fitSigned (w : Nat) (v : Int) : Option Nat :=
  if -(2 : Int) ^ (w - 1) ≤ v ∧ v < (2 : Int) ^ (w - 1) then some ((v % (2 : Int) ^ w).toNat) else none
def fitPlain (w : Nat) (v : Word) : Option Nat := if v.toNat < 2 ^ w then some v.toNat else none

/-- What the values of a statement depend on: the symbols, and the section and offset it stands at. -/
structure Ctx where
  look : String → Option Val
  sec : Nat
  off : Nat

def Ctx.here (c : Ctx) : Option Base := some ⟨"", some (c.sec, c.off)⟩
def Ctx.value (c : Ctx) (e : Expr) : Option Val := e.eval c.look c.here
def Ctx.absolute (c : Ctx) (e : Expr) : Option Word :=
  match c.value e with
  | some (.abs v) => some v
  | _ => none

/-- A branch or jump operand: its distance when it lies in this section, else a relocation (R52, R68). -/
def Ctx.target (c : Ctx) (w : Nat) (e : Expr) : Option (Nat × Option Fix) :=
  let reloc (b : Base) (add : Word) : Option (Nat × Option Fix) :=
    some (0, some ⟨if w = 15 then 1 else if w = 19 then 2 else 3, b, add⟩)
  match c.value e with
  | some (.rel b add) =>
    match b.place with
    | some (sec, off) =>
      if sec = c.sec then
        let d := (word off + add - word c.off).toInt
        if d % 4 = 0 then (fitSigned w (d / 4)).map (fun v => (v, none)) else none
      else reloc b add
    | none => reloc b add
  | some (.abs v) => reloc ⟨"", none⟩ v
  | none => none

/-- A signed immediate; `hi` fills an imm20 and `lo` an imm15 of a relocatable value (R57, R58). -/
def Ctx.immediate (c : Ctx) (w : Nat) (e : Expr) : Option (Nat × Option Fix) :=
  let whole := (c.absolute e).bind (fun v => (fitSigned w v.toInt).map (fun x => (x, none)))
  match e with
  | .hi x =>
    match c.value x with
    | some (.rel b add) => if w = 20 then some (0, some ⟨4, b, add⟩) else none
    | _ => whole
  | .lo x =>
    match c.value x with
    | some (.rel b add) => if w = 15 then some (0, some ⟨5, b, add⟩) else none
    | _ => whole
  | _ => whole

/-- The bits of an operand in its field. -/
def Ctx.operand (c : Ctx) (o : Oprd) (ts : List Tok) : Option (Nat × Option Fix) :=
  let register (names : List (String × Nat)) : Option (Nat × Option Fix) :=
    match ts with
    | [.sym s] => (lookup names s).bind (fun v => if v < 2 ^ o.fld.width then some (v, none) else none)
    | _ => none
  match o.kind with
  | .scalar => register scalarNames
  | .tile => register tileNames
  | .offsets => register (tileNames.drop 1)
  | .signed => (exprOf ts).bind (c.immediate o.fld.width)
  | .plain => (exprOf ts).bind (fun e => (c.absolute e).bind (fun v => (fitPlain o.fld.width v).map (fun x => (x, none))))
  | .target => (exprOf ts).bind (c.target o.fld.width)
  | .named names =>
    let look (s : String) : Option Val :=
      match lookup names s with
      | some v => some (.abs (word v))
      | none => c.look s
    (exprOf ts).bind (fun e => (({ c with look := look } : Ctx).absolute e).bind (fun v =>
      (fitPlain o.fld.width v).map (fun x => (x, none))))

/-- A statement: mnemonic, operands, named fields. -/
structure Stmt where
  name : String
  ops : List (List Tok)
  sets : List (String × Expr)
  deriving DecidableEq, Repr

/-- Cuts tokens at the commas outside parentheses. -/
def splitCommas : Nat → List Tok → List Tok → List (List Tok)
  | _, cur, [] => [cur.reverse]
  | 0, cur, .op "," :: rest => cur.reverse :: splitCommas 0 [] rest
  | d, cur, t :: rest => splitCommas (if t = .op "(" then d + 1 else if t = .op ")" then d - 1 else d) (t :: cur) rest

def argList (ts : List Tok) : List (List Tok) := if ts.isEmpty then [] else splitCommas 0 [] ts

/-- Cuts the operands from the `field=value` items that follow them. -/
def splitSets : List Tok → List Tok × List Tok
  | [] => ([], [])
  | .sym f :: .op "=" :: rest => ([], .sym f :: .op "=" :: rest)
  | t :: rest => let r := splitSets rest; (t :: r.1, r.2)

/-- The value of `m`: two binary digits or 0b form, which must fit its field (R53, R54). -/
def maskValue (cs : List Char) : Option Nat :=
  match cs with
  | '0' :: 'b' :: _ => intLit cs
  | [_, _] => intLit ('0' :: 'b' :: cs)
  | _ => none

/-- The `field=value` items. -/
def setList : Nat → List Tok → Option (List (String × Expr))
  | 0, _ => none
  | _, [] => some []
  | n + 1, .sym f :: .op "=" :: rest =>
    if f = "m" then
      match rest with
      | .num cs :: more => (maskValue cs).bind (fun v => (setList n more).map (fun l => (f, .num (word v)) :: l))
      | _ => none
    else
      match exprAt rest with
      | some (e, more) => (setList n more).map (fun l => (f, e) :: l)
      | none => none
  | _, _ => none

def stmtOf (name : String) (ts : List Tok) : Option Stmt :=
  let r := splitSets ts
  (setList (r.2.length + 1) r.2).map (fun l => ⟨name, argList r.1, l⟩)

/-- The bits and relocations of the operands in order. -/
def Ctx.operands (c : Ctx) : List Oprd → List (List Tok) → Option (List (Fld × Nat) × List Fix)
  | [], [] => some ([], [])
  | o :: os, t :: ts =>
    match c.operand o t, c.operands os ts with
    | some (v, f), some (vs, fs) => some ((o.fld, v) :: vs, f.toList ++ fs)
    | _, _ => none
  | _, _ => none

/-- Sets the named fields. The name of an operand must give the value of the operand (R53). -/
def Ctx.applySets (c : Ctx) (i : Insn) (vals : List (Fld × Nat)) : Nat → List (String × Expr) → Option Nat
  | w, [] => some w
  | w, (f, e) :: rest =>
    match c.absolute e with
    | none => none
    | some v =>
      match vals.find? (fun x => x.1.name = f) with
      | some x => if v.toNat % 2 ^ 64 = x.2 ∨ fitSigned x.1.width v.toInt = some x.2 then c.applySets i vals w rest else none
      | none =>
        match i.sets.find? (fun x => x.name = f) with
        | none => none
        | some x =>
          match fitPlain x.width v with
          | none => none
          | some b => c.applySets i vals (setBits w x.lo x.width b) rest

/-- The word of a statement, before the checks of R55, and its relocations. -/
def Ctx.word (c : Ctx) (s : Stmt) : Option (Nat × List Fix) :=
  match form? s.name s.ops.length with
  | none => none
  | some i =>
    match c.operands i.ops s.ops with
    | none => none
    | some (vals, fixes) =>
      let w := vals.foldl (fun w x => setBits w x.1.lo x.1.width x.2) i.base
      (c.applySets i vals w s.sets).map (fun w => (w, fixes))

/-! ### The checks of R55 -/

/-- The convoy that a word of the source joins: `none` before a member (R55). -/
abbrev RunState := Option Counts

/-- A `getsr` or a `putsr` that keeps its must-be-zero bits: what R234 says of its number is no check of `osnas` (R55). -/
def statusWord (w : Nat) : Bool :=
  let m := fld w 25 6
  decide (fld w 31 1 = 0) && decide (fld w 12 3 = 0) &&
    ((decide (m = 0x20) && decide (fld w 15 5 = 0)) || (decide (m = 0x21) && decide (fld w 20 5 = 0)))

/-- A word of major 0x1E whose `rm=7` is the reserved value: it traps under R42, which is no check of `osnas` (R55). -/
noncomputable def reservedRm (w : Nat) : Bool :=
  decide (fld w 25 6 = 0x1E) && decide (fld w 6 3 = 7) && (decodeWord (w - 2 ^ 6)).isSome

/-- Would the word trap at issue as far as `osnas` sees? `tty` is the type in force, `none` before the first `.type`.
The answer is the convoy so far. -/
noncomputable def checkWord (run : RunState) (tty : Option Nat) (w : Nat) : Option RunState :=
  match decodeWord w with
  | none => if statusWord w || reservedRm w then some none else none
  | some i =>
    match tileDesc? i with
    | none => some none
    | some d =>
      let before : Counts := if w.testBit 31 then Counts.zero else run.getD Counts.zero
      let after := before.add d.cls
      let typed : Bool :=
        match tty with
        | none => true
        | some t =>
          let e := Env.of 16 (BitVec.ofNat 13 t) 0 0 0 0
          d.shapeOk e && d.allotOk e 64
      if after.ok && typed then some (some after) else none

/-! ### Floating literals (R60) -/

/-- Digits with at most one point, and how many stand after the point; `_` may stand anywhere among them
(notes/assumptions/86.md). -/
def decDigits : Bool → Nat → Nat → List Char → Option (Nat × Nat × List Char)
  | _, v, k, [] => some (v, k, [])
  | point, v, k, c :: rest =>
    if isDigit c then decDigits point (v * 10 + (c.toNat - 48)) (if point then k + 1 else k) rest
    else if c.toNat == 46 && !point then decDigits true v k rest
    else if c.toNat == 95 then decDigits point v k rest
    else some (v, k, c :: rest)

/-- A decimal literal as digits and a power of ten. -/
def decimal (cs : List Char) : Option (Nat × Int) :=
  match decDigits false 0 0 cs with
  | none => none
  | some (v, k, []) => some (v, -(k : Int))
  | some (v, k, e :: rest) =>
    if e.toNat ≠ 101 ∧ e.toNat ≠ 69 then none
    else
      match rest with
      | '-' :: ds => (digits 10 false 0 ds).map (fun x => (v, -(x : Int) - k))
      | '+' :: ds => (digits 10 false 0 ds).map (fun x => (v, (x : Int) - k))
      | ds => (digits 10 false 0 ds).map (fun x => (v, (x : Int) - k))

/-- `man * 10^exp` as a binary number whose last bit stands for all that lies below it: enough bits for one rounding. -/
def binary (neg : Bool) (man : Nat) (exp : Int) : FVal :=
  if man = 0 then .zero neg
  else if 0 ≤ exp then .fin neg (man * 10 ^ exp.toNat) 0
  else
    let d := 10 ^ (-exp).toNat
    let k := Nat.log2 d + 128
    let q := man * 2 ^ k / d
    .fin neg (2 * q + (if man * 2 ^ k % d = 0 then 0 else 1)) (-(k : Int) - 1)

/-- The bits of a floating literal in a format. -/
def floatLit (F : FFmt) (ts : List Tok) : Option Nat :=
  let signed (neg : Bool) (ts : List Tok) : Option Nat :=
    match ts with
    | [.sym "inf"] =>
      match F.special with
      | .ieee => some (pack F .rne (.inf neg)).val
      | _ => none
    | [.num cs] =>
      match decimal cs with
      | none => none
      | some (m, e) =>
        let r := pack F .rne (binary neg m e)
        if r.flags &&& flagOF = 0 then some r.val else none
    | _ => none
  match ts with
  | [.num ('0' :: 'x' :: cs)] => (digits 16 false 0 cs).bind (fun v => if v < 2 ^ F.width then some v else none)
  | [.sym "nan"] => some (qnan F)
  | .op "-" :: rest => signed true rest
  | _ => signed false ts

/-! ### Sections, symbols, items -/

/-- Section kinds (R66). -/
def kText : Nat := 1
def kRodata : Nat := 2
def kData : Nat := 3
def kQminit : Nat := 4
def kRowprog : Nat := 5
def kLaunch : Nat := 6
def kRegions : Nat := 7

structure Secn where
  name : String
  kind : Nat
  size : Nat
  /-- log2 of the greatest alignment used -/
  align : Nat
  /-- of an image: its region and the first byte offset -/
  region : String
  start : Nat
  deriving DecidableEq, Repr

inductive Def where
  | undef
  | const (v : Word)
  | label (sec off : Nat)
  deriving DecidableEq, Repr

/-- A symbol: binding 0 local, 1 global, 2 extern; kind as R67 numbers them. -/
structure Sym where
  name : String
  value : Def
  bind : Nat
  kind : Nat
  deriving DecidableEq, Repr

inductive What where
  | bytes (b : List Byte)
  /-- an integer of `n` bytes -/
  | int (n : Nat) (e : Expr)
  | insn (s : Stmt)
  deriving DecidableEq, Repr

structure Item where
  sec : Nat
  off : Nat
  tty : Option Nat
  what : What
  deriving DecidableEq, Repr

structure LaunchD where
  name : String
  args : List Expr
  /-- section and offset of the location counter where the `.launch` stands: what `.` means in its operands (R51) -/
  here : Option (Nat × Nat)
  entry : Option String
  parties : Nat
  players : Nat
  seats : Nat
  allot : Nat
  det : Bool
  deriving DecidableEq, Repr

structure RegionD where
  name : String
  cls : Nat
  slab : Bool
  size : Nat
  width : Nat
  ety : Nat
  body : Nat
  side : Nat
  deriving DecidableEq, Repr

/-- `osnas` while it reads a source. Items stand in source order. -/
structure Src where
  module : Option String
  secs : List Secn
  cur : Option Nat
  syms : List Sym
  items : List Item
  tty : Option Nat
  launches : List LaunchD
  regions : List RegionD
  macros : List (String × List String × List String)
  /-- where the row program that `.rowprog` has opened begins -/
  rowStart : Option Nat
  deriving DecidableEq, Repr

def Src.start : Src := ⟨none, [], none, [], [], none, [], [], [], none⟩

def Src.look (s : Src) (name : String) : Option Val :=
  match s.syms.find? (fun y => y.name = name) with
  | none => none
  | some y =>
    match y.value with
    | .const v => some (.abs v)
    | .label sec off => some (.rel ⟨name, some (sec, off)⟩ 0)
    | .undef => some (.rel ⟨name, none⟩ 0)

/-- The symbols as an expression may use them now: one that is neither defined nor declared extern is an error. -/
def Src.known (s : Src) (name : String) : Option Val :=
  match s.syms.find? (fun y => y.name = name) with
  | none => none
  | some y => if y.value = .undef ∧ y.bind ≠ 2 then none else s.look name

def setAt {α : Type} (l : List α) (i : Nat) (f : α → α) : List α := l.mapIdx (fun j x => if j = i then f x else x)

/-- The current section, its number, and its location counter. -/
def Src.section? (s : Src) : Option (Nat × Secn) := s.cur.bind (fun i => (s.secs[i]?).map (fun x => (i, x)))
def Secn.counter (x : Secn) : Nat := x.start + x.size

def Src.ctx (s : Src) : Ctx :=
  match s.section? with
  | some (i, x) => ⟨s.known, i, x.counter⟩
  | none => ⟨s.known, 65535, 0⟩

/-- A number that must be known when it is read. -/
def Src.number (s : Src) (ts : List Tok) : Option Word := (exprOf ts).bind s.ctx.absolute
def Src.nat (s : Src) (lo hi : Nat) (ts : List Tok) : Option Nat :=
  (s.number ts).bind (fun v => if lo ≤ v.toNat ∧ v.toNat ≤ hi then some v.toNat else none)

/-- Gives a symbol its value: once. An extern of this source cannot be defined in it. -/
def Src.define (s : Src) (name : String) (v : Def) (kind : Nat) : Option Src :=
  if !symbolOk name then none
  else
    match s.syms.find? (fun y => y.name = name) with
    | none => some { s with syms := s.syms ++ [⟨name, v, 0, kind⟩] }
    | some y =>
      if y.value = .undef ∧ y.bind ≠ 2 then
        some { s with syms := s.syms.map (fun (z : Sym) => if z.name = name then { z with value := v, kind := kind } else z) }
      else none

/-- `.global`, `.local`, `.extern`. -/
def Src.bindSym (s : Src) (b : Nat) (name : String) : Option Src :=
  if !symbolOk name then none
  else
    match s.syms.find? (fun y => y.name = name) with
    | none => some { s with syms := s.syms ++ [⟨name, .undef, b, 0⟩] }
    | some y =>
      if b = 2 ∧ y.value ≠ .undef then none
      else some { s with syms := s.syms.map (fun (z : Sym) => if z.name = name then { z with bind := b } else z) }

/-- A label: code in TEXT, data elsewhere (R67). -/
def Src.label (s : Src) (name : String) : Option Src :=
  s.section?.bind (fun x => s.define name (.label x.1 x.2.counter) (if x.2.kind = kText then 1 else 2))

/-- Selects or creates a section. -/
def Src.select (s : Src) (name : String) (kind : Nat) : Option Src :=
  match s.secs.findIdx? (fun x => x.name = name) with
  | some i => if (s.secs[i]?).any (fun x => x.kind = kind) then some { s with cur := some i } else none
  | none =>
    let align := if kind = kText then 2 else if kind = kRowprog then 5 else if kind = kLaunch ∨ kind = kRegions then 3 else 0
    some { s with secs := s.secs ++ [⟨name, kind, 0, align, "", 0⟩], cur := some s.secs.length }

/-- The section of row programs that `.rowprog` opens. -/
def rowSection : String := ".rowprog"

/-- Puts an item of `n` bytes at the location counter; no byte is no item. A row program of `.rowprog` ends after 96 bytes
(R59). -/
def Src.emit (s : Src) (n : Nat) (w : What) : Option Src :=
  match s.section? with
  | none => none
  | some (i, x) =>
    if n = 0 then some s
    else if x.name = rowSection ∧ s.rowStart.any (fun r => decide (r + 96 < x.size + n)) then none
    else some { s with
      items := s.items ++ [⟨i, x.counter, s.tty, w⟩]
      secs := setAt s.secs i (fun (y : Secn) => { y with size := y.size + n }) }

/-- Pads with zeros to a multiple; in TEXT those are the words of R61. -/
def Src.padTo (s : Src) (m : Nat) : Option Src :=
  s.section?.bind (fun x =>
    let k := (m - x.2.counter % m) % m
    if k = 0 then some s else s.emit k (.bytes (zeros k)))

/-! ### Directives (R59) -/

def nameArg (ts : List Tok) : Option String :=
  match ts with
  | [.sym n] => some n
  | _ => none

/-- A name that a directive gives: spelt as a symbol (R51). -/
def symbolArg (ts : List Tok) : Option String := (nameArg ts).bind (fun n => if symbolOk n then some n else none)

/-- Folds a directive over its operands. -/
def Src.each (s : Src) (f : Src → List Tok → Option Src) : List (List Tok) → Option Src
  | [] => some s
  | a :: rest => (f s a).bind (fun t => t.each f rest)

def sectionKinds : List (String × Nat) := [("text", kText), ("rodata", kRodata), ("spad", kData), ("rowprog", kRowprog)]
def layouts : List (String × Bool) := [("spread", false), ("slab", true)]
def collectionKinds : List (String × Nat) := [("sketch", 1), ("coded", 2), ("SKETCH", 1), ("CODED", 2)]

/-- An integer item; one that is too wide for its bytes is an error when its value is known. -/
def Src.ints (s : Src) (n : Nat) (args : List (List Tok)) : Option Src :=
  if args.isEmpty then none
  else s.each (fun t a => (exprOf a).bind (fun e => t.emit n (.int n e))) args

def Src.floats (s : Src) (F : FFmt) (args : List (List Tok)) : Option Src :=
  if args.isEmpty then none
  else s.each (fun t a => (floatLit F a).bind (fun v => t.emit (F.width / 8) (.bytes (le (F.width / 8) v)))) args

/-- A region record and its symbol (R70): the page is 2 MiB, or 1 GiB from 1 GiB on. -/
def Src.addRegion (s : Src) (r : RegionD) : Option Src :=
  let back := s.cur
  match s.select ".regions" kRegions with
  | none => none
  | some t =>
    match t.section? with
    | none => none
    | some (i, x) =>
      (t.define r.name (.label i x.size) (if r.cls = 0 then 3 else 4)).map (fun u => { u with
        regions := u.regions ++ [r]
        secs := setAt u.secs i (fun (y : Secn) => { y with size := y.size + 48 })
        cur := back })

/-- `.type`: the TTY that `osnas` assumes. Counts of registers and rows are written as such. -/
def Src.typeDir (s : Src) (args : List (List Tok)) : Option Src :=
  let arg (i d : Nat) (allowed : List Nat) : Option Nat :=
    match args[i]? with
    | none => some d
    | some ts => (s.nat 0 64 ts).bind (fun v => if allowed.contains v then some v else none)
  match args with
  | [] => none
  | t :: _ =>
    match nameArg t with
    | none => none
    | some n =>
      match lookup typeNames n, arg 1 1 [1, 2, 4, 8], arg 2 1 [1, 2, 4, 8, 16, 32], arg 3 0 [0, 1], arg 4 0 [0, 1] with
      | some code, some g, some rc, some ta, some ma =>
        let v := code + Nat.log2 g * 64 + Nat.log2 rc * 256 + ta * 2048 + ma * 4096
        if args.length ≤ 5 ∧ ttyOk v then some { s with tty := some v } else none
      | _, _, _, _, _ => none

/-- Changes the launch descriptor that is open. -/
def Src.onLaunch (s : Src) (f : LaunchD → LaunchD) : Option Src :=
  match s.launches.reverse with
  | [] => none
  | l :: rest => some { s with launches := (f l :: rest).reverse }

def Src.launchDir (s : Src) (args : List (List Tok)) : Option Src :=
  match args with
  | [] => none
  | n :: rest =>
    match nameArg n, rest.mapM exprOf with
    | some name, some es =>
      if 8 < es.length then none
      else
        let back := s.cur
        (s.select ".launches" kLaunch).bind (fun t => t.section?.bind (fun x =>
          (t.define name (.label x.1 x.2.size) 6).map (fun u => { u with
            launches := u.launches ++ [⟨name, es, s.section?.map (fun y => (y.1, y.2.counter)), none, 1, 1, 1, 8, false⟩]
            secs := setAt u.secs x.1 (fun (y : Secn) => { y with size := y.size + 80 })
            cur := back })))
    | _, _ => none

/-- `.qminit region, offset`: a new image of the region, in a section of its own, so that the difference of labels of two
images is none of one section (R57; notes/assumptions/86.md). -/
def Src.qminitDir (s : Src) (r o : List Tok) : Option Src :=
  match nameArg r, s.nat 0 (2 ^ 63) o with
  | some n, some off =>
    if off % 8 ≠ 0 then none
    else some { s with
      secs := s.secs ++ [⟨".qminit" ++ toString s.secs.length, kQminit, 0, 0, n, off⟩]
      cur := some s.secs.length }
  | _, _ => none

def Src.rowprogDir (s : Src) (n : String) : Option Src :=
  (s.select rowSection kRowprog).bind (fun t => (t.padTo 96).bind (fun u => u.section?.bind (fun x =>
    (({ u with rowStart := some x.2.size } : Src).define n (.label x.1 x.2.size) 5))))

/-- `.collection`. The spec gives no default layout: the model takes `spread` (notes/assumptions/86.md). -/
def Src.collectionDir (s : Src) (args : List (List Tok)) : Option Src :=
  match args with
  | n :: k :: w :: b :: d :: rest =>
    let slab : Option Bool :=
      match rest with
      | [] => some false
      | [l] => (nameArg l).bind (lookup layouts)
      | _ => none
    match nameArg n, (nameArg k).bind (lookup collectionKinds), s.nat 0 4096 w, s.nat 0 (2 ^ 40) b, s.nat 0 (2 ^ 40) d, slab with
    | some name, some cls, some width, some body, some side, some sl =>
      let size := tombOffOf (rowBytesOf cls width) body side + 1024 * ((body + side + 8191) / 8192)
      if shapeFits cls size width body side then s.addRegion ⟨name, cls, sl, size, width, 0xFF, body, side⟩ else none
    | _, _, _, _, _, _ => none
  | _ => none

def Src.regionDir (s : Src) (args : List (List Tok)) : Option Src :=
  match args with
  | n :: b :: l :: rest =>
    let ety : Option Nat :=
      match rest with
      | [] => some 0xFF
      | [t] => (nameArg t).bind (lookup typeNames)
      | _ => none
    match nameArg n, s.nat 1024 (2 ^ 40) b, (nameArg l).bind (lookup layouts), ety with
    | some name, some bytes, some slab, some code =>
      if bytes % 1024 = 0 then s.addRegion ⟨name, 0, slab, bytes, 0, code, 0, 0⟩ else none
    | _, _, _, _ => none
  | _ => none

/-- The directives that take effect where they stand, other than those that choose lines. `.global`, `.local` and `.extern`
without a name do nothing (notes/assumptions/86.md). -/
def Src.directive (s : Src) (d : String) (args : List (List Tok)) : Option Src :=
  match d, args with
  | ".module", [a] =>
    if s.module.isSome || !s.items.isEmpty then none else (symbolArg a).map (fun n => { s with module := some n })
  | ".section", [a, k] => (symbolArg a).bind (fun n => ((nameArg k).bind (lookup sectionKinds)).bind (s.select n))
  | ".text", [] => s.select ".text" kText
  | ".spad", [] => s.select ".spad" kData
  | ".rodata", [] => s.select ".rodata" kRodata
  | ".qminit", [r, o] => s.qminitDir r o
  | ".rowprog", [a] => (nameArg a).bind s.rowprogDir
  | ".launch", _ => s.launchDir args
  | ".entry", [a] => (nameArg a).bind (fun n => s.onLaunch (fun l => { l with entry := some n }))
  | ".party", [a, b] =>
    (s.nat 1 65535 a).bind (fun p => (s.nat 1 64 b).bind (fun k => s.onLaunch (fun l => { l with parties := p, players := k })))
  | ".seat", [a] => (s.nat 1 16 a).bind (fun n => s.onLaunch (fun l => { l with seats := n }))
  | ".allot", [a] => (s.nat 8 64 a).bind (fun n => if n % 8 = 0 then s.onLaunch (fun l => { l with allot := n }) else none)
  | ".mode", [[.sym "normal"]] => s.onLaunch (fun l => { l with det := false })
  | ".mode", [[.sym "det"]] => s.onLaunch (fun l => { l with det := true })
  | ".type", _ => s.typeDir args
  | ".region", _ => s.regionDir args
  | ".collection", _ => s.collectionDir args
  | ".align", [a] =>
    (s.nat 0 30 a).bind (fun n => (s.padTo (2 ^ n)).bind (fun t =>
      t.cur.map (fun i => { t with secs := setAt t.secs i (fun (y : Secn) => { y with align := max y.align n }) })))
  | ".byte", _ => s.ints 1 args
  | ".half", _ => s.ints 2 args
  | ".word", _ => s.ints 4 args
  | ".dword", _ => s.ints 8 args
  | ".fp16", _ => s.floats FName.fp16.fmt args
  | ".bf16", _ => s.floats FName.bf16.fmt args
  | ".fp32", _ => s.floats FName.fp32.fmt args
  | ".fp64", _ => s.floats FName.fp64.fmt args
  | ".e4m3", _ => s.floats FName.e4m3.fmt args
  | ".zero", [a] => (s.nat 0 (2 ^ 40) a).bind (fun n => s.emit n (.bytes (zeros n)))
  | ".space", [a] => (s.nat 0 (2 ^ 40) a).bind (fun n => s.emit n (.bytes (zeros n)))
  | ".space", [a, v] =>
    (s.nat 0 (2 ^ 40) a).bind (fun n => (s.nat 0 255 v).bind (fun b => s.emit n (.bytes (List.replicate n (BitVec.ofNat 8 b)))))
  | ".equ", [a, e] =>
    (nameArg a).bind (fun n => (s.number e).bind (fun v =>
      if (s.syms.find? (fun y => y.name = n)).any (fun y => y.value ≠ .undef) then none else s.define n (.const v) 0))
  | ".global", _ => s.each (fun t a => (nameArg a).bind (t.bindSym 1)) args
  | ".local", _ => s.each (fun t a => (nameArg a).bind (t.bindSym 0)) args
  | ".extern", _ => s.each (fun t a => (nameArg a).bind (t.bindSym 2)) args
  | _, _ => none

def directiveNames : List String :=
  [".module", ".section", ".text", ".spad", ".rodata", ".qminit", ".rowprog", ".launch", ".entry", ".party", ".seat",
   ".allot", ".mode", ".type", ".region", ".collection", ".align", ".byte", ".half", ".word", ".dword"] ++
  [".fp16", ".bf16", ".fp32", ".fp64", ".e4m3", ".zero", ".space", ".equ", ".global", ".local", ".extern", ".rept", ".endr",
   ".macro", ".endm", ".if", ".else", ".endif", ".include"]

/-! ### Lines (R50, R61, R62) -/

/-- A line with the file it came from and how deep it stands: in macros and in files. -/
structure Line where
  text : String
  file : String
  macros : Nat
  files : Nat
  deriving DecidableEq, Repr

/-- The labels before the statement, the statement's name and its tokens. -/
def splitLine : List Tok → List String × Option String × List Tok
  | .sym l :: .op ":" :: rest => let r := splitLine rest; (l :: r.1, r.2)
  | .sym n :: rest => ([], some n, rest)
  | _ => ([], none, [])

/-- Is the line well formed: labels, then nothing or a name? -/
def lineOk : List Tok → Bool
  | [] => true
  | .sym _ :: .op ":" :: rest => lineOk rest
  | .sym _ :: _ => true
  | _ => false

/-- The labels and the name that a line begins with, read before parameters are replaced. The first argument bounds the work. -/
def lineHead : Nat → List Char → List String × Option String
  | 0, _ => ([], none)
  | n + 1, cs =>
    let cs := cs.dropWhile isBlank
    let w := cs.takeWhile symChar
    if !(w.head?).any symStart then ([], none)
    else
      let rest := (cs.drop w.length).dropWhile isBlank
      if (rest.head?).any (fun c => c.toNat == 58) then
        let r := lineHead n (rest.drop 1)
        (String.ofList w :: r.1, r.2)
      else ([], some (String.ofList w))

def Line.head (l : Line) : List String × Option String := lineHead (l.text.toList.length + 1) l.text.toList
def Line.name (l : Line) : Option String := l.head.2

/-- The labels of a line alone: a label before the word that closes a block stands in the block. -/
def Line.labels (l : Line) : List Line :=
  if l.head.1.isEmpty then [] else [{ l with text := String.join (l.head.1.map (fun x => x ++ ":")) }]

/-- The lines up to the `.endm` of a macro, and the lines behind it. -/
def macroBlock (file : String) : Nat → List Line → List Line → Option (List Line × List Line)
  | _, _, [] => none
  | d, a, l :: rest =>
    if l.name = some ".endm" then
      match d with
      | 0 => if l.file = file then some ((l.labels ++ a).reverse, rest) else none
      | d' + 1 => macroBlock file d' (l :: a) rest
    else macroBlock file (if l.name = some ".macro" then d + 1 else d) (l :: a) rest

/-- The characters with each `\p` replaced by the argument text of parameter `p`. -/
def substitute (params : List (String × List Char)) : Nat → List Char → List Char
  | 0, cs => cs
  | _, [] => []
  | n + 1, c :: rest =>
    if c.toNat == 92 then
      let w := rest.takeWhile symChar
      match lookup params (String.ofList w) with
      | some text => text ++ substitute params n (rest.drop w.length)
      | none => c :: substitute params n rest
    else c :: substitute params n rest

/-- The argument texts of a macro call: what follows the name, cut at commas, blanks at the ends removed. -/
def argTexts (name : String) (line : List Char) : List (List Char) :=
  let key := name.toList
  let strip (cs : List Char) : List Char := ((cs.dropWhile isBlank).reverse.dropWhile isBlank).reverse
  let rec after : Nat → List Char → List Char
    | 0, _ => []
    | _, [] => []
    | n + 1, cs =>
      if cs.head?.any symStart then
        let w := cs.takeWhile symChar
        if w = key then cs.drop w.length else after n (cs.drop w.length)
      else after n (cs.drop 1)
  let rec uncomment : List Char → List Char
    | [] => []
    | [c] => if c.toNat == 59 then [] else [c]
    | c :: d :: rest => if c.toNat == 59 || (c.toNat == 47 && d.toNat == 47) then [] else c :: uncomment (d :: rest)
  let rec cut : List Char → List Char → List (List Char)
    | cur, [] => [strip cur.reverse]
    | cur, c :: rest => if c.toNat == 44 then strip cur.reverse :: cut [] rest else cut (c :: cur) rest
  let text := strip (after (line.length + 1) (uncomment line))
  if text.isEmpty then [] else cut [] text

/-- `.macro`: its name, a symbol that is no directive (R51, R62), and once; its parameters and lines. -/
def Src.addMacro (s : Src) (ts : List Tok) (body : List Line) : Option Src :=
  match argList ts with
  | (.sym n :: more) :: rest =>
    let params := (if more.isEmpty then rest else more :: rest).mapM nameArg
    match params with
    | none => none
    | some ps =>
      if !symbolOk n || directiveNames.contains n || (lookup s.macros n).isSome then none
      else some { s with macros := s.macros ++ [(n, ps, body.map (fun l => l.text))] }
  | _ => none

/-- The lines a macro call stands for. A parameter without an argument is empty text, and a surplus argument is an error
(notes/assumptions/86.md). -/
def expand (l : Line) (m : String × List String × List String) : Option (List Line) :=
  let args := argTexts m.1 l.text.toList
  if l.macros ≥ 32 ∨ m.2.1.length < args.length then none
  else
    let pairs := m.2.1.zipIdx.map (fun p => (p.1, args.getD p.2 []))
    some (m.2.2.map (fun t => { l with
      text := String.ofList (substitute pairs (t.toList.length + 1) t.toList)
      macros := l.macros + 1 }))

/-- An open `.if`: its file, whether the lines read now are of the branch it takes, whether none of its branches may be, and
whether its `.else` has come. -/
structure Cond where
  file : String
  live : Bool
  never : Bool
  second : Bool
  deriving DecidableEq, Repr

/-- Are the lines read now assembled? -/
def allLive (cs : List Cond) : Bool := cs.all (fun c => c.live)

/-- Opens an `.if`: 64 may be open at once (R62). -/
def openIf (file : String) (cs : List Cond) (v : Bool) : Option (List Cond) :=
  if 64 ≤ cs.length then none else some (⟨file, v, !allLive cs, false⟩ :: cs)

def elseIf (cs : List Cond) : Option (List Cond) :=
  match cs with
  | [] => none
  | c :: rest => if c.second then none else some ({ c with live := !c.live && !c.never, second := true } :: rest)

def endIf (file : String) (cs : List Cond) : Option (List Cond) :=
  match cs with
  | [] => none
  | c :: rest => if c.file = file then some rest else none

/-- The lines up to the `.endr` of a `.rept`, and the lines behind it. Macros expand first, so that a macro may give the closing
word, which must come from the file of the opening one (R62). `open'` holds what the body has opened so far, a `.rept` as
true, an `.if` as false; `room` more `.if` may stand in one another. The first number bounds the lines read. -/
def reptBlock (macros : List (String × List String × List String)) (file : String) (room : Nat) :
    Nat → List Bool → List Line → List Line → Option (List Line × List Line)
  | 0, _, _, _ => none
  | _, _, _, [] => none
  | n + 1, open', a, l :: rest =>
    let go (o : List Bool) := reptBlock macros file room n o (l :: a) rest
    if l.name = some ".endr" then
      match open' with
      | [] => if l.file = file then some ((l.labels ++ a).reverse, rest) else none
      | true :: o => go o
      | false :: _ => none
    else if l.name = some ".rept" then go (true :: open')
    else if l.name = some ".if" then
      if room ≤ (open'.filter (fun x => !x)).length then none else go (false :: open')
    else if l.name = some ".else" then (if open'.head? = some false then go open' else none)
    else if l.name = some ".endif" then (if open'.head? = some false then go (open'.drop 1) else none)
    else if l.name = some ".macro" then
      match macroBlock l.file 0 [] rest with
      | some (body, more) =>
        reptBlock macros file room n open' ({ l with text := ".endm" } :: (body.reverse ++ l :: a)) more
      | none => none
    else
      match l.name.bind (fun x => (lookup macros x).map (fun m => (x, m))) with
      | some m =>
        match expand l m with
        | some ls => reptBlock macros file room n open' (l.labels ++ a) (ls ++ rest)
        | none => none
      | none => go open'

/-- A statement of the source that is an instruction (R61). -/
def Src.instruction (s : Src) (name : String) (ts : List Tok) : Option Src :=
  match stmtOf name ts, s.section? with
  | some st, some (_, x) => if x.kind = kText ∧ x.counter % 4 = 0 then s.emit 4 (.insn st) else none
  | _, _ => none

/-- Reads the lines under the open `.if`s; in a branch that is not taken only what opens and closes blocks is looked at, the
lines of the macros defined so far among it. The first argument bounds how many lines are read, those of expansions among
them. -/
def readUnder (files : List (String × List String)) : Nat → Src → List Cond → List Line → Option Src
  | _, s, cs, [] => if cs.isEmpty then some s else none
  | 0, _, _, _ => none
  | n + 1, s, cs, l :: rest =>
    if !allLive cs then
      match l.name with
      | none => readUnder files n s cs rest
      | some name =>
        if name = ".if" then (openIf l.file cs false).bind (fun cs => readUnder files n s cs rest)
        else if name = ".else" then (elseIf cs).bind (fun cs => readUnder files n s cs rest)
        else if name = ".endif" then (endIf l.file cs).bind (fun cs => readUnder files n s cs rest)
        else if name = ".macro" then (macroBlock l.file 0 [] rest).bind (fun b => readUnder files n s cs b.2)
        else
          match lookup s.macros name with
          | some m => (expand l (name, m)).bind (fun ls => readUnder files n s cs (ls ++ rest))
          | none => readUnder files n s cs rest
    else
      match tokens l.text with
      | none => none
      | some ts =>
        let r := splitLine ts
        match if lineOk ts then s.each (fun t a => (nameArg a).bind t.label) (r.1.map (fun x => [.sym x])) else none with
        | none => none
        | some s =>
          match r.2.1 with
          | none => readUnder files n s cs rest
          | some name =>
            let args := r.2.2
            match lookup s.macros name with
            | some m => (expand l (name, m)).bind (fun ls => readUnder files n s cs (ls ++ rest))
            | none =>
              if name = ".macro" then
                match macroBlock l.file 0 [] rest with
                | some (body, more) => (s.addMacro args body).bind (fun t => readUnder files n t cs more)
                | none => none
              else if name = ".rept" then
                match s.nat 0 65535 args, reptBlock s.macros l.file (64 - cs.length) n [] [] rest with
                | some k, some (body, more) => readUnder files n s cs ((List.replicate k body).flatten ++ more)
                | _, _ => none
              else if name = ".if" then
                (s.number args).bind (fun v => (openIf l.file cs (decide (v ≠ 0))).bind (fun cs => readUnder files n s cs rest))
              else if name = ".else" then (elseIf cs).bind (fun cs => readUnder files n s cs rest)
              else if name = ".endif" then (endIf l.file cs).bind (fun cs => readUnder files n s cs rest)
              else if name = ".include" then
                match args with
                | [.str f] =>
                  if 16 ≤ l.files then none
                  else (lookup files f).bind (fun ls =>
                    readUnder files n s cs (ls.map (fun x => ⟨x, f, l.macros, l.files + 1⟩) ++ rest))
                | _ => none
              else if (name.toList.head?).any (fun c => c.toNat == 46) then
                (s.directive name (argList args)).bind (fun t => readUnder files n t cs rest)
              else (s.instruction name args).bind (fun t => readUnder files n t cs rest)

/-- Reads the lines of a source. -/
def readLines (files : List (String × List String)) (n : Nat) (s : Src) (ls : List Line) : Option Src :=
  readUnder files n s [] ls

/-! ### The relocatable module -/

/-- A relocation with the place it patches. -/
structure Patch where
  sec : Nat
  off : Nat
  fix : Fix
  deriving DecidableEq, Repr

/-- The bytes of an integer item: signed or unsigned, it must fit; a relocatable value fills a dword (R57, R68). -/
def intBytes (n : Nat) (v : Val) : Option (List Byte × List Fix) :=
  match v with
  | .abs x =>
    if x.toNat < 2 ^ (8 * n) ∨ (-(2 : Int) ^ (8 * n - 1) ≤ x.toInt ∧ x.toInt < 0) then some (le n (x.toNat % 2 ^ (8 * n)), []) else none
  | .rel b add => if n = 8 then some (zeros 8, [⟨6, b, add⟩]) else none

/-- The contents so far: bytes by section, relocations, and for every item its section, the TTY in force and its word
(`none` for data). -/
structure Built where
  bytes : List (Nat × List Byte)
  patches : List Patch
  words : List (Nat × Option Nat × Option Nat)

/-- Assembles an item. -/
def Src.build (s : Src) (b : Built) (i : Item) : Option Built :=
  let c : Ctx := ⟨s.known, i.sec, i.off⟩
  let put (bs : List Byte) (fs : List Fix) (w : Option Nat) : Built :=
    ⟨b.bytes ++ [(i.sec, bs)], b.patches ++ fs.map (fun f => ⟨i.sec, i.off, f⟩), b.words ++ [(i.sec, i.tty, w)]⟩
  match i.what with
  | .bytes bs => some (put bs [] none)
  | .int n e => (c.value e).bind (fun v => (intBytes n v).map (fun r => put r.1 r.2 none))
  | .insn st => (c.word st).map (fun r => put (le 4 r.1) r.2 (some r.1))

def Src.buildAll (s : Src) : Built → List Item → Option Built
  | b, [] => some b
  | b, i :: rest => (s.build b i).bind (fun c => s.buildAll c rest)

/-- Do all words pass the checks of R55? `runs` holds the open run of each section: another section's items leave it open, data
in its own section ends it. -/
noncomputable def wordsOk (runs : List (Nat × Counts)) : List (Nat × Option Nat × Option Nat) → Bool
  | [] => true
  | (sec, _, none) :: rest => wordsOk (eraseNat sec runs) rest
  | (sec, tty, some w) :: rest =>
    match checkWord (lookupNat sec runs) tty w with
    | some (some c) => wordsOk (setNat sec c runs) rest
    | some none => wordsOk (eraseNat sec runs) rest
    | none => false

/-- Two images of one region that write one byte (R63). -/
def imageClash (x y : Secn) : Bool := decide (x.region = y.region) && spansMeet x.start x.size y.start y.size

/-- What the end of a source must find: every descriptor has its entry in a TEXT section, images lie in their regions and
write no byte twice. An `.entry` that names an extern is refused: `osnas` cannot see that it lies in a TEXT section
(notes/assumptions/86.md). -/
def Src.endOk (s : Src) : Bool :=
  s.launches.all (fun l =>
    match l.entry.bind s.look with
    | some (.rel b _) => b.place.any (fun p => (s.secs[p.1]?).any (fun x => x.kind = kText))
    | _ => false) &&
  (s.secs.filter (fun x => x.kind = kQminit)).all (fun x =>
    match s.regions.find? (fun r => r.name = x.region) with
    | some r => decide (x.start + x.size ≤ r.size)
    | none => (s.syms.find? (fun y => y.name = x.region)).any (fun y => y.bind = 2)) &&
  pairwiseApart imageClash (s.secs.filter (fun x => x.kind = kQminit))

end Sys2Proof.Asm
end

