-- ==== Sys2Proof/Machine/Linker.lean ====
section
/-! DEFINITION. The Osnum object module as bytes and its linking (spec/03_assembly_and_objects.md R64 to R71): the
relocatable module that `osnas` writes, the relocation arithmetic, and `osnlink`. `none` is an error of the tool. No step
of the machine reads this file; the loader of Sys2Proof/Machine/Loader.lean reads the module bytes it gives. -/

set_option Elab.async false

namespace Sys2Proof.Asm

open Sys2Proof.Machine

/-! ### Parts of a module (R64 to R70) -/

structure OSec where
  name : String
  kind : Nat
  addr : Nat
  align : Nat
  link : Nat
  assoc : Nat
  data : List Byte
  deriving DecidableEq, Repr

structure OSym where
  name : String
  sec : Nat
  bind : Nat
  kind : Nat
  value : Word
  /-- bytes, 0 when unknown (R67) -/
  size : Nat
  deriving DecidableEq, Repr

structure ORel where
  sec : Nat
  off : Nat
  sym : Nat
  kind : Nat
  add : Word
  deriving DecidableEq, Repr

structure OLaunch where
  name : String
  entry : Nat
  parties : Nat
  players : Nat
  seats : Nat
  allot : Nat
  det : Nat
  args : List Nat
  deriving DecidableEq, Repr

/-- A module: sections of kinds 1 to 7, symbols from number 1 on, relocations, and the records of the LAUNCH and REGIONS
sections. -/
structure Obj where
  name : String
  secs : List OSec
  syms : List OSym
  rels : List ORel
  launches : List OLaunch
  regions : List RegionD
  deriving DecidableEq, Repr

/-- The flags of a kind (R65, R66): loaded, writable, executable. -/
def kindFlags (k : Nat) : Nat := if k = kText then 5 else if k = kRodata ∨ k = kRowprog then 1 else if k = kData then 3 else 0

/-! ### Names -/

def nameBytes (ns : List String) : List Byte :=
  (ns.map (fun s => s.toList.map (fun c => BitVec.ofNat 8 c.toNat) ++ [0])).flatten

def nameOff (ns : List String) (s : String) : Nat := ((ns.takeWhile (fun x => x ≠ s)).map (fun x => x.length + 1)).sum

/-- The names of a module, each once, the empty one first (R66). -/
def Obj.names (o : Obj) : List String :=
  (["", o.name, ".symbols", ".relocs", ".strings"] ++ o.secs.map (fun x => x.name) ++ o.syms.map (fun x => x.name) ++
    o.launches.map (fun x => x.name) ++ o.regions.map (fun x => x.name)).eraseDups

/-! ### Records as bytes -/

def symBytes (ns : List String) (y : OSym) : List Byte :=
  le 4 (nameOff ns y.name) ++ le 2 y.sec ++ le 1 y.bind ++ le 1 y.kind ++ le 8 y.value.toNat ++ le 8 y.size

def relBytes (r : ORel) : List Byte := le 8 r.off ++ le 4 r.sym ++ le 2 r.kind ++ zeros 2 ++ le 8 r.add.toNat

def launchBytes (ns : List String) (l : OLaunch) : List Byte :=
  le 4 (nameOff ns l.name) ++ le 4 l.entry ++ le 2 l.parties ++ le 1 l.players ++ le 1 l.seats ++ le 1 l.allot ++ le 1 l.det ++
    zeros 2 ++ ((List.range 8).map (fun i => le 8 (l.args.getD i 0))).flatten

/-- The page of a region (R70). -/
def regionPage (size : Nat) : Nat := if 2 ^ 30 ≤ size then 30 else 21

def regionBytes (ns : List String) (r : RegionD) : List Byte :=
  le 4 (nameOff ns r.name) ++ le 1 r.cls ++ le 1 r.slab.toNat ++ le 1 (regionPage r.size) ++ zeros 1 ++ le 8 r.size ++
    le 4 r.width ++ le 1 r.ety ++ zeros 3 ++ le 8 r.body ++ le 8 r.side ++ zeros 8

/-- The sections in table order: those of the module, then SYMBOLS, RELOCS of each patched section, STRINGS. -/
def Obj.table (o : Obj) (exec : Bool) : List OSec :=
  let ns := o.names
  let own := o.secs.map (fun x =>
    if x.kind = kLaunch then { x with data := (o.launches.map (launchBytes ns)).flatten }
    else if x.kind = kRegions then { x with data := (o.regions.map (regionBytes ns)).flatten }
    else x)
  let patched := if exec then [] else (List.range own.length).filter (fun i => o.rels.any (fun r => r.sec = i))
  let n := own.length + 1 + patched.length
  own ++ [⟨".symbols", 8, 0, 3, n, 0, zeros 24 ++ (o.syms.map (symBytes ns)).flatten⟩] ++
    patched.map (fun i => ⟨".relocs", 9, 0, 3, i, 0, ((o.rels.filter (fun r => r.sec = i)).map relBytes).flatten⟩) ++
    [⟨".strings", 10, 0, 0, 0, 0, nameBytes ns⟩]

/-- An entry of the section table whose contents stand at `off` (R65). -/
def secEntry (ns : List String) (x : OSec) (off : Nat) : List Byte :=
  le 4 (nameOff ns x.name) ++ le 2 x.kind ++ le 2 (kindFlags x.kind) ++ le 8 (if x.data.isEmpty then 0 else off) ++
    le 8 x.data.length ++ le 8 x.data.length ++ le 8 x.addr ++ le 1 x.align ++ zeros 1 ++ le 2 x.link ++ le 4 x.assoc ++ sha x.data

def secEntries (ns : List String) : Nat → List OSec → List Byte
  | _, [] => []
  | off, x :: rest => secEntry ns x off ++ secEntries ns (off + x.data.length) rest

/-- The bytes of a module (R64 to R70). -/
def Obj.bytes (o : Obj) (exec : Bool) : Option (List Byte) :=
  let ns := o.names
  let xs := o.table exec
  let entries := secEntries ns (0x40 + 80 * xs.length) xs
  if 4096 < xs.length then none
  else some (le 4 0x4D4E534F ++ le 2 1 ++ le 2 exec.toNat ++ le 4 7 ++ le 2 xs.length ++ le 2 0x50 ++ le 8 0x40 ++
    le 4 (nameOff ns o.name) ++ le 2 (xs.length - 1) ++ zeros 2 ++ sha entries ++ entries ++ (xs.map (fun x => x.data)).flatten)

/-! ### What `osnas` writes -/

/-- Contents of section `i`: an image begins with its region offset (R66). -/
def Built.contents (b : Built) (i : Nat) (x : Secn) : List Byte :=
  (if x.kind = kQminit then le 8 x.start else []) ++ ((b.bytes.filter (fun y => y.1 = i)).map (fun y => y.2)).flatten

/-- An offset in a section's contents: a location counter counts an image from its region. -/
def Src.inSection (s : Src) (sec off : Nat) : Nat :=
  match s.secs[sec]? with
  | some x => if x.kind = kQminit then 8 + (off - x.start) else off
  | none => off

/-- The bytes of what a symbol names: a region, a row program, a launch descriptor; a label's are not known. -/
def Src.sizeOf (s : Src) (y : Sym) : Nat :=
  match y.value with
  | .label _ _ =>
    if y.kind = 3 ∨ y.kind = 4 then ((s.regions.find? (fun r => r.name = y.name)).map (fun r => r.size)).getD 0
    else if y.kind = 5 then 96
    else if y.kind = 6 then 80
    else 0
  | _ => 0

/-- The symbol entries: those of the source, then unnamed ones for the location counters and address zero that relocations
count from. -/
def Src.symTable (s : Src) (ps : List Patch) : List OSym :=
  let named := s.syms.map (fun (y : Sym) =>
    match y.value with
    | .undef => (⟨y.name, 0xFFFE, 2, y.kind, 0, 0⟩ : OSym)
    | .const v => ⟨y.name, 0xFFFF, y.bind, y.kind, v, 0⟩
    | .label sec off => ⟨y.name, sec, y.bind, y.kind, word (s.inSection sec off), s.sizeOf y⟩)
  let plain := ((ps.filter (fun p => p.fix.base.name = "")).map (fun p =>
    match p.fix.base.place with
    | some (sec, off) => (⟨"", sec, 0, 0, word (s.inSection sec off), 0⟩ : OSym)
    | none => ⟨"", 0xFFFF, 0, 0, 0, 0⟩)).eraseDups
  named ++ plain

def symIndex (ys : List OSym) (s : Src) (b : Base) : Nat :=
  let isIt (y : OSym) : Bool :=
    if b.name ≠ "" then y.name = b.name
    else
      match b.place with
      | some (sec, off) => y.name = "" && y.sec = sec && y.value = word (s.inSection sec off)
      | none => y.name = "" && y.sec = 0xFFFF
  ys.findIdx isIt + 1

/-- The launch values of a descriptor: absolute ones, and relocations of the others (R69). -/
def Src.launchArgs (s : Src) (sec i : Nat) (l : LaunchD) : Option (List Nat × List Patch) :=
  let here : Option Base := l.here.map (fun p => ⟨"", some p⟩)
  (l.args.mapM (Expr.eval s.known here)).map (fun vs =>
    (vs.map (fun v =>
      match v with
      | .abs x => x.toNat
      | .rel _ _ => 0),
     (vs.zipIdx.map (fun p =>
      match p.1 with
      | .abs _ => []
      | .rel b add => [(⟨sec, 80 * i + 16 + 8 * p.2, ⟨6, b, add⟩⟩ : Patch)])).flatten))

/-- The source read to its end: every section of row programs is filled up to whole ones (R66). -/
def Src.finish (s : Src) : Option Src :=
  (List.range s.secs.length).foldl (fun (a : Option Src) i => a.bind (fun t =>
    if (t.secs[i]?).any (fun x => x.kind = kRowprog) then ({ t with cur := some i } : Src).padTo 96 else some t)) (some s)

/-- The module of a source with the words as they were built, for the checks of R55. -/
def Src.obj (s : Src) : Option (Obj × List (Nat × Option Nat × Option Nat)) :=
  let sec := s.secs.findIdx (fun x => x.kind = kLaunch)
  let defined := s.syms.all (fun y => y.value ≠ .undef || y.bind = 2)
  match s.buildAll ⟨[], [], []⟩ s.items, s.launches.zipIdx.mapM (fun p => s.launchArgs sec p.2 p.1) with
  | some b, some as =>
    if !s.endOk || !defined then none
    else
      let ps := b.patches.map (fun (p : Patch) => { p with off := s.inSection p.sec p.off }) ++ (as.map (fun a => a.2)).flatten
      let ys := s.symTable ps
      some ({
        name := s.module.getD ""
        secs := s.secs.zipIdx.map (fun x => ⟨x.1.name, x.1.kind, 0, x.1.align, 0,
          if x.1.kind = kQminit then symIndex ys s ⟨x.1.region, none⟩ else 0, b.contents x.2 x.1⟩)
        syms := ys
        rels := ps.map (fun p => ⟨p.sec, p.off, symIndex ys s p.fix.base, p.fix.kind, p.fix.add⟩)
        launches := (s.launches.zip as).map (fun x => ⟨x.1.name, symIndex ys s ⟨x.1.entry.getD "", none⟩, x.1.parties,
          x.1.players, x.1.seats, x.1.allot, x.1.det.toNat, x.2.1⟩)
        regions := s.regions }, b.words)
  | _, _ => none

/-- `osnas`: the relocatable module of a source, which may include the named files; at most `n` lines are read. -/
noncomputable def osnas (files : List (String × List String)) (n : Nat) (src : List String) : Option (List Byte) :=
  ((readLines files n Src.start (src.map (fun t => ⟨t, "", 0, 0⟩))).bind Src.finish).bind (fun s =>
    s.obj.bind (fun o => if wordsOk [] o.2 then o.1.bytes false else none))

/-! ### Relocations (R68) -/

/-- The word that a relocation of kinds 1 to 5 makes of `w`, which stands at `p`: S + A is `v`. -/
def relocWord (kind : Nat) (w : Nat) (v p : Word) : Option Nat :=
  let d := (v - p).toInt
  let branch (n : Nat) : Option Nat := if d % 4 = 0 then (fitSigned n (d / 4)).map (setBits w 0 n) else none
  match kind with
  | 1 => branch 15
  | 2 => branch 19
  | 3 => branch 20
  | 4 => (fitSigned 20 (hiPart v).toInt).map (setBits w 0 20)
  | 5 => some (setBits w 0 15 ((loPart v).toNat % 2 ^ 15))
  | _ => none

/-- Contents with `n` bytes from `off` replaced. -/
def patchBytes (d : List Byte) (off : Nat) (bs : List Byte) : List Byte := d.take off ++ bs ++ d.drop (off + bs.length)

/-- Applies a relocation to a section's contents; `p` is the address of the patched place. -/
def relocate (d : List Byte) (r : ORel) (v p : Word) : Option (List Byte) :=
  if r.kind = 6 then (if r.off + 8 ≤ d.length then some (patchBytes d r.off (le 8 v.toNat)) else none)
  else if r.off + 4 ≤ d.length then (relocWord r.kind (field d r.off 4) v p).map (fun w => patchBytes d r.off (le 4 w))
  else none

/-! ### Reading a relocatable module -/

def strAt (strs : List Byte) (o : Nat) : String := String.ofList (((strs.drop o).takeWhile (fun b => b ≠ 0)).map (fun b => Char.ofNat b.toNat))

def readSym (strs r : List Byte) : OSym := ⟨strAt strs (field r 0 4), field r 4 2, field r 6 1, field r 7 1, word (field r 8 8),
  field r 16 8⟩
def readRel (sec : Nat) (r : List Byte) : ORel := ⟨sec, field r 0 8, field r 8 4, field r 12 2, word (field r 16 8)⟩
def readLaunch (strs r : List Byte) : OLaunch :=
  ⟨strAt strs (field r 0 4), field r 4 4, field r 8 2, field r 10 1, field r 11 1, field r 12 1, field r 13 1,
    (List.range 8).map (fun i => field r (16 + 8 * i) 8)⟩
def readRegion (strs r : List Byte) : RegionD :=
  ⟨strAt strs (field r 0 4), field r 4 1, field r 5 1 == 1, field r 8 8, field r 0x10 4, field r 0x14 1, field r 0x18 8, field r 0x20 8⟩

/-- A module as the linker reads it: all sections in table order, the symbols with the null entry, the relocations. -/
structure Input where
  name : String
  strs : List Byte
  secs : List OSec
  syms : List OSym
  rels : List ORel
  deriving DecidableEq, Repr

/-- A relocatable module; any kind outside R66 is refused. -/
def readObj (b : List Byte) : Option Input :=
  let xs := sections b
  let strs := ((xs[field b 0x1C 2]?).map (fun x => x.data)).getD []
  if field b 0 4 ≠ 0x4D4E534F ∨ field b 4 2 ≠ 1 ∨ field b 6 2 ≠ 0 ∨ field b 8 4 ≠ 7 then none
  else if !xs.all (fun x => decide (1 ≤ x.kind) && decide (x.kind ≤ 10)) then none
  else some {
    name := strAt strs (field b 0x18 4)
    strs := strs
    secs := xs.zipIdx.map (fun x =>
      ⟨strAt strs (field ((b.drop (0x40 + 80 * x.2)).take 80) 0 4), x.1.kind, 0, x.1.align, x.1.link, x.1.assoc,
        x.1.data ++ zeros (x.1.msize - x.1.size)⟩)
    syms := (records xs 8 24).map (readSym strs)
    rels := ((xs.filter (fun x => x.kind = 9)).map (fun x =>
      (List.range (x.size / 24)).map (fun i => readRel x.link ((x.data.drop (24 * i)).take 24)))).flatten }

/-! ### Linking (R71) -/

/-- A section of the executable module: the parts it is joined from (module, section, offset). -/
structure Joined where
  name : String
  kind : Nat
  align : Nat
  size : Nat
  parts : List (Nat × Nat × Nat)
  deriving DecidableEq, Repr

def roundUp (n m : Nat) : Nat := (n + m - 1) / m * m

/-- Adds section `j` of module `m`: behind the section of the same name and kind, at its alignment. -/
def joinOne (out : List Joined) (m j : Nat) (x : OSec) : List Joined :=
  match out.findIdx? (fun o => o.name = x.name ∧ o.kind = x.kind ∧ x.kind ≠ kQminit) with
  | some i => setAt out i (fun (o : Joined) =>
      let at_ := roundUp o.size (2 ^ x.align)
      { o with align := max o.align x.align, size := at_ + x.data.length, parts := o.parts ++ [(m, j, at_)] })
  | none => out ++ [⟨x.name, x.kind, x.align, x.data.length, [(m, j, 0)]⟩]

/-- The sections of kinds 1 to 7 of all modules, joined in command-line order. -/
def joinAll (ms : List Input) : List Joined :=
  ms.zipIdx.foldl (fun out m =>
    m.1.secs.zipIdx.foldl (fun out x => if x.1.kind ≤ 7 then joinOne out m.2 x.2 x.1 else out) out) []

/-- The addresses that `osnlink` assigns: one for each joined section, one for each region. -/
structure Placement where
  secs : List Nat
  regions : List Nat
  deriving DecidableEq, Repr

/-- All that resolving a symbol needs. -/
structure Linking where
  mods : List Input
  out : List Joined
  place : Placement
  deriving DecidableEq, Repr

/-- The regions of all modules: module, record offset in its REGIONS section, record. -/
def Linking.regions (k : Linking) : List (Nat × Nat × RegionD) :=
  (k.mods.zipIdx.map (fun m => ((m.1.secs.filter (fun x => x.kind = kRegions)).map (fun x =>
    (List.range (x.data.length / 48)).map (fun i => (m.2, 48 * i, readRegion m.1.strs ((x.data.drop (48 * i)).take 48))))).flatten)).flatten

/-- The base of the region whose record stands at an offset of module `m`'s REGIONS section. -/
def Linking.regionBase (k : Linking) (m off : Nat) : Option (Nat × RegionD) :=
  let rs := k.regions
  (rs.findIdx? (fun r => r.1 = m ∧ r.2.1 = off)).bind (fun i =>
    match k.place.regions[i]?, rs[i]? with
    | some a, some r => some (a, r.2.2)
    | _, _ => none)

/-- Where section `j` of module `m` ends up: joined section and offset. -/
def Linking.partOf (k : Linking) (m j : Nat) : Option (Nat × Nat) :=
  (k.out.zipIdx.find? (fun o => o.1.parts.any (fun p => p.1 = m ∧ p.2.1 = j))).bind (fun o =>
    (o.1.parts.find? (fun p => p.1 = m ∧ p.2.1 = j)).map (fun p => (o.2, p.2.2)))

/-- The address of a joined section; one that is not loaded has none. -/
def Linking.base (k : Linking) (o : Nat) : Nat :=
  if (k.out[o]?).any (fun x => kindFlags x.kind ≠ 0) then k.place.secs.getD o 0 else 0

def Linking.symAt (k : Linking) (m i : Nat) : Option OSym := (k.mods[m]?).bind (fun x => x.syms[i]?)

/-- The definition of an extern: exactly one global of its name in any module. -/
def Linking.resolve (k : Linking) (m i : Nat) : Option (Nat × Nat) :=
  (k.symAt m i).bind (fun y =>
    if y.bind ≠ 2 then some (m, i)
    else
      let found := (k.mods.zipIdx.map (fun x =>
        (x.1.syms.zipIdx.filter (fun z => z.1.bind = 1 ∧ z.1.name = y.name)).map (fun z => (x.2, z.2)))).flatten
      match found with
      | [d] => some d
      | _ => none)

/-- The final address of a symbol that a module defines: that of its place; a region's base; an image's byte in its
region. -/
def Linking.defined (k : Linking) (m i : Nat) : Option Word :=
  match k.symAt m i, k.mods[m]? with
  | some y, some x =>
    if y.sec = 0xFFFF then some y.value
    else
      match x.secs[y.sec]? with
      | none => none
      | some sec =>
        if sec.kind = kRegions then (k.regionBase m y.value.toNat).map (fun r => word r.1)
        else if sec.kind = kQminit then
          ((k.resolve m sec.assoc).bind (fun d => (k.symAt d.1 d.2).bind (fun z => k.regionBase d.1 z.value.toNat))).map
            (fun r => word (r.1 + field sec.data 0 8 + y.value.toNat - 8))
        else
          match k.partOf m y.sec with
          | none => none
          | some (o, off) => some (word (k.base o + off) + y.value)
  | _, _ => none

/-- S of R68. -/
def Linking.value (k : Linking) (m i : Nat) : Option Word := (k.resolve m i).bind (fun d => k.defined d.1 d.2)

/-- The contents of section `j` of module `m` with its relocations applied. -/
def Linking.patched (k : Linking) (m j : Nat) : Option (List Byte) :=
  match k.mods[m]?, k.partOf m j with
  | some x, some (o, off) =>
    match x.secs[j]? with
    | none => none
    | some sec =>
      (x.rels.filter (fun r => r.sec = j)).foldl (fun d r =>
        d.bind (fun d => (k.value m r.sym).bind (fun v =>
          relocate d r (v + r.add) (word (k.base o + off + r.off))))) (some sec.data)
  | _, _ => none

/-- The contents of a joined section, zeros between its parts. -/
def Linking.contents (k : Linking) (o : Joined) : Option (List Byte) :=
  o.parts.foldl (fun d p => d.bind (fun d => (k.patched p.1 p.2.1).map (fun b => d ++ zeros (p.2.2 - d.length) ++ b))) (some [])

/-- The symbols of the executable module, with where they come from: no externs, no null entries. -/
def Linking.kept (k : Linking) : List (Nat × Nat) :=
  (k.mods.zipIdx.map (fun m => (m.1.syms.zipIdx.filter (fun y => y.2 ≠ 0 ∧ y.1.bind ≠ 2)).map (fun y => (m.2, y.2)))).flatten

/-- The new number of a symbol of module `m`. -/
def Linking.newIndex (k : Linking) (m i : Nat) : Option Nat :=
  if i = 0 then some 0 else (k.resolve m i).bind (fun d => (k.kept.findIdx? (fun x => x = d)).map (fun n => n + 1))

/-- The launch descriptors of a joined LAUNCH section, their entries renumbered; a descriptor needs at most 64 seats
(R69). -/
def Linking.launchesOf (k : Linking) (o : Joined) : Option (List OLaunch) :=
  (o.parts.mapM (fun p =>
    (k.patched p.1 p.2.1).bind (fun d =>
      let strs := ((k.mods[p.1]?).map (fun x => x.strs)).getD []
      (List.range (d.length / 80)).mapM (fun i =>
        let l := readLaunch strs ((d.drop (80 * i)).take 80)
        if 64 < l.players * l.seats then none
        else (k.newIndex p.1 l.entry).map (fun n => { l with entry := n }))))).map List.flatten

def Linking.symOut (k : Linking) (d : Nat × Nat) : Option OSym :=
  match k.symAt d.1 d.2, k.defined d.1 d.2 with
  | some y, some v => some { y with sec := if y.sec = 0xFFFF then 0xFFFF else ((k.partOf d.1 y.sec).map (fun x => x.1)).getD 0, value := v }
  | _, _ => none

/-- An image as placed: region base, offset, length, size of the region. -/
def Linking.imageOf (k : Linking) (o : Joined) : Option (Nat × Nat × Nat × Nat) :=
  match o.parts with
  | [(m, j, _)] =>
    ((k.mods[m]?).bind (fun x => x.secs[j]?)).bind (fun sec =>
      (k.resolve m sec.assoc).bind (fun d => (k.symAt d.1 d.2).bind (fun y =>
        (k.regionBase d.1 y.value.toNat).map (fun r => (r.1, field sec.data 0 8, sec.data.length - 8, r.2.size)))))
  | _ => none

def imagesApart (x y : Nat × Nat × Nat × Nat) : Bool := decide (x.1 = y.1) && spansMeet x.2.1 x.2.2.1 y.2.1 y.2.2.1

/-- Is every extern of every module resolved (R71)? -/
def Linking.resolved (k : Linking) : Bool :=
  k.mods.zipIdx.all (fun m => m.1.syms.zipIdx.all (fun y => y.2 == 0 || y.1.bind != 2 || (k.resolve m.2 y.2).isSome))

/-- What a link must find: every extern resolved, no second global of a name, distinct descriptor names, bases that are multiples of the page
size, sections at their alignment, images inside their regions and apart (R63, R69 to R71). -/
def Linking.ok (k : Linking) (ls : List OLaunch) : Bool :=
  let globals := (k.mods.map (fun x => (x.syms.filter (fun y => y.bind = 1)).map (fun y => y.name))).flatten
  let images := (k.out.filter (fun o => o.kind = kQminit)).map k.imageOf
  k.resolved && decide globals.Nodup && decide (ls.map (fun l => l.name)).Nodup &&
    decide (k.place.regions.length = k.regions.length) &&
    (k.place.regions.zip k.regions).all (fun r => decide (r.1 % 2 ^ regionPage r.2.2.2.size = 0)) &&
    (k.place.secs.zip k.out).all (fun x => decide (x.1 % 2 ^ x.2.align = 0)) &&
    images.all (fun i => i.any (fun x => decide (x.2.1 + x.2.2.1 ≤ x.2.2.2))) &&
    pairwiseApart imagesApart (images.filterMap id)

/-- The association of a joined image: its region's new symbol. -/
def Linking.assocOf (k : Linking) (o : Joined) : Option Nat :=
  match decide (o.kind = kQminit), o.parts with
  | true, [(m, j, _)] => ((k.mods[m]?).bind (fun x => x.secs[j]?)).bind (fun sec => k.newIndex m sec.assoc)
  | _, _ => some 0

/-- `osnlink`: the executable module of the modules in command-line order, at the addresses assigned. -/
def osnlink (files : List (List Byte)) (place : Placement) : Option (List Byte) :=
  (files.mapM readObj).bind (fun mods =>
    let k : Linking := ⟨mods, joinAll mods, place⟩
    match (k.out.filter (fun o => o.kind = kLaunch)).mapM k.launchesOf, k.out.mapM k.contents, k.kept.mapM k.symOut,
        k.out.mapM k.assocOf with
    | some ls, some ds, some ys, some as =>
      let launches := ls.flatten
      if !k.ok launches then none
      else
        let secs := ((k.out.zip ds).zip as).zipIdx.map (fun x =>
          (⟨x.1.1.1.name, x.1.1.1.kind, k.base x.2, x.1.1.1.align, 0, x.1.2,
            x.1.1.2⟩ : OSec))
        (⟨((mods.head?).map (fun m => m.name)).getD "", secs, ys, [], launches, k.regions.map (fun r => r.2.2)⟩ : Obj).bytes true
    | _, _, _, _ => none)

end Sys2Proof.Asm
end

