-- ==== Sys2Proof/Tests/Slice0.lean ====
section
/-! SUPPORT. Tests: what WellFormed refuses; words written out from the spec's encoding tables and what they decode to;
for every statement of Sys2Proof/Certificates/Slice0/Obligations.lean, states and operands that meet its hypotheses
(theorems test_hyp_…, test_alone_…); and a few single steps worked by hand from the rules. -/

namespace Sys2Proof.Tests

set_option maxRecDepth 20000
set_option Elab.async false

open Sys2Proof Sys2Proof.Machine Sys2Proof.Claims

/-! ### What no word may hold (WellFormed) -/

theorem test_wellFormed_fence_of_nothing : (Instr.fence 1 0).wellFormed = false := by decide

theorem test_wellFormed_sfcvtx_with_rounding : (Instr.sfcvtx 1 2 3 false).wellFormed = false := by decide

theorem test_wellFormed_getsr_unmapped : (Instr.getsr 1 0x17).wellFormed = false := by decide

theorem test_wellFormed_putsr_read_only : (Instr.putsr 1 0x00).wellFormed = false := by decide

theorem test_wellFormed_qstx_as_qst : (Instr.qstx false 8 0 2).wellFormed = false := by decide

theorem test_wellFormed_accepts : (Instr.fence 1 2).wellFormed = true ∧ (Instr.getsr 1 0x35).wellFormed = true := by decide

/-! ### The states of the tests

A launched player of world 0 with one seat, the code page at 0x1000 and a writable page at 0x2000 (cluster 0, frame 1). s1 holds
0x2000, s2 holds 16, s3 holds 3. -/

def code : State := State.reset.withFetchWord 32 0x46520000

def start : State :=
  { code with
    vm := code.vm.map 0 0x2000 0 (spadEntry 1 0 true false)
    me := { code.me with sregs := ((code.me.sregs.set 1 0x2000).set 2 16).set 3 3 } }

/-- A strip of `n` elements under the type code `ty`. -/
def strip (ty n : Nat) : State :=
  let p := ({ start.me with shape := { start.me.shape with tty := BitVec.ofNat 13 ty } }).fixVlmax
  { start with me := { p with shape := { p.shape with vl := n, flim := n } } }

/-- Does a tile instruction issue alone in this state? -/
def issuesAlone (s : State) (i : Instr) : Bool :=
  match tileDesc? i with
  | none => false
  | some d =>
    match checkMember s.me d Counts.zero with
    | .error _ => false
    | .ok _ => decide (d.mode ≠ .pip) && decide (s.me.conv = none) && decide (s.me.tbad = []) &&
        decide (s.me.env.flim ≤ s.me.env.rc * s.me.env.vl) && decide (s.me.env.vl ≤ s.me.env.vlmax) &&
        decide (s.me.env.flim ≤ s.me.env.regBits)

theorem lone_of_issuesAlone {s : State} {i : Instr} (h : issuesAlone s i = true) : Lone i s := by
  unfold issuesAlone at h
  split at h
  · cases h
  · next d hd =>
    split at h
    · cases h
    · next c hc =>
      simp only [Bool.and_eq_true, decide_eq_true_eq] at h
      obtain ⟨⟨⟨⟨⟨hm, h1⟩, h2⟩, h3⟩, h4⟩, h5⟩ := h
      exact ⟨h1, h2, ⟨h3, h4, h5⟩, d, c, hd, hc, fun e => absurd e hm⟩

/-- The same player at supervisor privilege. -/
def supervisor : State :=
  { strip 2 20 with me := { (strip 2 20).me with trap := { (strip 2 20).me.trap with priv := true } } }

theorem test_alone_tile_integer : ∀ i ∈ [Instr.tadd false 8 9 10 .unmasked, .tsub false 8 9 10 .unmasked, .tand false 8 9 10 .unmasked,
      .tor false 8 9 10 .unmasked, .txor false 8 9 10 .unmasked, .tandn false 8 9 10 .unmasked,
      .tmin false 8 9 10 .unmasked, .tmax false 8 9 10 .unmasked, .tsll false 8 9 10 .unmasked,
      .tsrl false 8 9 10 .unmasked, .tsra false 8 9 10 .unmasked, .tmul false 8 9 10 .unmasked,
      .tmulh false 8 9 10 .unmasked, .tmulhsu false 8 9 10 .unmasked, .tdiv false 8 9 10 .unmasked,
      .trem false 8 9 10 .unmasked, .taddS false 8 9 3 .unmasked, .tsubS false 8 9 3 .unmasked,
      .tandS false 8 9 3 .unmasked, .torS false 8 9 3 .unmasked, .txorS false 8 9 3 .unmasked,
      .tandnS false 8 9 3 .unmasked, .tminS false 8 9 3 .unmasked, .tmaxS false 8 9 3 .unmasked,
      .tsllS false 8 9 3 .unmasked, .tsrlS false 8 9 3 .unmasked, .tsraS false 8 9 3 .unmasked,
      .tmulS false 8 9 3 .unmasked, .tmulhS false 8 9 3 .unmasked, .tmulhsuS false 8 9 3 .unmasked,
      .tdivS false 8 9 3 .unmasked, .tremS false 8 9 3 .unmasked, .trsubS false 8 9 3 .unmasked,
      .taddI false 8 9 3 .unmasked, .tandI false 8 9 3 .unmasked, .torI false 8 9 3 .unmasked,
      .txorI false 8 9 3 .unmasked, .tminI false 8 9 3 .unmasked, .tmaxI false 8 9 3 .unmasked,
      .tsllI false 8 9 3 .unmasked, .tsrlI false 8 9 3 .unmasked, .tsraI false 8 9 3 .unmasked,
      .trsubI false 8 9 3 .unmasked],
    issuesAlone (strip 2 20) i = true := by decide

theorem test_alone_tile_float : ∀ i ∈ [Instr.tfadd false 8 9 10 .unmasked, .tfsub false 8 9 10 .unmasked, .tfmul false 8 9 10 .unmasked,
      .tfdiv false 8 9 10 .unmasked, .tfmin false 8 9 10 .unmasked, .tfmax false 8 9 10 .unmasked,
      .tfsignc false 8 9 10 .unmasked, .tfsignn false 8 9 10 .unmasked, .tfsignx false 8 9 10 .unmasked,
      .tfma false 8 9 10 .unmasked, .tfms false 8 9 10 .unmasked, .tfnma false 8 9 10 .unmasked,
      .tfnms false 8 9 10 .unmasked, .tfsqrt false 8 9 .unmasked, .tfrsqe false 8 9 .unmasked,
      .tfrece false 8 9 .unmasked, .tfaddS false 8 9 3 .unmasked, .tfsubS false 8 9 3 .unmasked,
      .tfmulS false 8 9 3 .unmasked, .tfdivS false 8 9 3 .unmasked, .tfminS false 8 9 3 .unmasked,
      .tfmaxS false 8 9 3 .unmasked, .tfsigncS false 8 9 3 .unmasked, .tfsignnS false 8 9 3 .unmasked,
      .tfsignxS false 8 9 3 .unmasked, .tfmaS false 8 9 3 .unmasked, .tfmsS false 8 9 3 .unmasked,
      .tfnmaS false 8 9 3 .unmasked, .tfnmsS false 8 9 3 .unmasked, .tfrsubS false 8 9 3 .unmasked,
      .tfrdivS false 8 9 3 .unmasked],
    issuesAlone (strip 0x0A 20) i = true := by decide

theorem test_alone_tile_moves_and_compares_1 : ∀ i ∈ [Instr.tmov false 8 9 .unmasked, .tiota false 8 .unmasked, .tsplat false 8 3 .unmasked,
      .tsplatI false 8 3 .unmasked, .tsel false 8 9 10, .tselS false 8 9 3,
      .tceq false 8 9 10 .unmasked, .tcne false 8 9 10 .unmasked, .tclt false 8 9 10 .unmasked,
      .tcle false 8 9 10 .unmasked, .tcgt false 8 9 10 .unmasked, .tcge false 8 9 10 .unmasked,
      .tceqS false 8 9 3 .unmasked, .tcneS false 8 9 3 .unmasked, .tcltS false 8 9 3 .unmasked,
      .tcleS false 8 9 3 .unmasked, .tcgtS false 8 9 3 .unmasked, .tcgeS false 8 9 3 .unmasked],
    issuesAlone (strip 2 20) i = true := by decide

theorem test_alone_tile_moves_and_compares_2 : ∀ i ∈ [Instr.tcun false 8 9 10 .unmasked, .tcunS false 8 9 3 .unmasked],
    issuesAlone (strip 0x0A 20) i = true := by decide

theorem test_alone_tile_fixed_point_1 : ∀ i ∈ [Instr.tsadd false 8 9 10 .unmasked, .tssub false 8 9 10 .unmasked, .tavg false 8 9 10 .unmasked,
      .tavgsub false 8 9 10 .unmasked, .tsmul false 8 9 10 .unmasked],
    issuesAlone (strip 2 20) i = true := by decide

theorem test_alone_tile_fixed_point_2 : ∀ i ∈ [Instr.twadd false 16 8 10 .unmasked, .twsub false 16 8 10 .unmasked,
      .twmul false 16 8 10 .unmasked, .twmacc false 16 8 10 .unmasked, .tnshr false 16 8 10 .unmasked],
    issuesAlone (strip 0x42 20) i = true := by decide

theorem test_alone_tile_fixed_point_3 : ∀ i ∈ [Instr.txnorpop false 8 9 10 .unmasked, .tpext false 8 9 10 .unmasked,
      .tpins false 8 9 10 .unmasked],
    issuesAlone (strip 0x23 20) i = true := by decide

theorem test_alone_tile_conversions_1 : ∀ i ∈ [Instr.tcvt false 8 9 2 .unmasked],
    issuesAlone (strip 2 20) i = true := by decide

theorem test_alone_tile_conversions_2 : ∀ i ∈ [Instr.tcvtn false 8 20 5 .unmasked],
    issuesAlone (strip 0x86 20) i = true := by decide

theorem test_alone_tile_conversions_3 : ∀ i ∈ [Instr.tcvtw false 8 10 6 .unmasked],
    issuesAlone (strip 5 20) i = true := by decide

theorem test_alone_tile_conversions_4 : ∀ i ∈ [Instr.tcvte false 8 16 .unmasked, .tcvtes false 8 16 .unmasked],
    issuesAlone (strip 0xCA 20) i = true := by decide

theorem test_alone_tile_conversions_5 : ∀ i ∈ [Instr.tscale false 8 9 .unmasked, .tmxscale false 8 16 12 .unmasked,
      .tmxscaleB false 8 16 12 .unmasked],
    issuesAlone (strip 0x0A 20) i = true := by decide

theorem test_alone_tile_conversions_6 : ∀ i ∈ [Instr.tcvtns false 8 16 8 .unmasked],
    issuesAlone (strip 0x4A 20) i = true := by decide

theorem test_alone_tile_permutes : ∀ i ∈ [Instr.texpand false 8 9 .unmasked, .tslideup false 8 9 3 .unmasked,
      .tslidedn false 8 9 3 .unmasked, .tslideupS false 8 9 3 .unmasked,
      .tslidednS false 8 9 3 .unmasked, .trgather false 8 9 10 .unmasked, .ttrans false 8 9 .unmasked,
      .trowbc false 8 9 .unmasked, .tcolbc false 8 9 .unmasked],
    issuesAlone (strip 2 20) i = true := by decide

theorem test_alone_mask_operations : ∀ i ∈ [Instr.tmand false 8 9 10 .unmasked, .tmor false 8 9 10 .unmasked, .tmxor false 8 9 10 .unmasked,
      .tmandn false 8 9 10 .unmasked, .tmnot false 8 9 .unmasked, .tmbefore false 8 9 .unmasked,
      .tmthrough false 8 9 .unmasked, .tmonly false 8 9 .unmasked],
    issuesAlone (strip 2 20) i = true := by decide

theorem test_alone_tile_reductions : ∀ i ∈ [Instr.tredsum false 8 9 10 .unmasked, .tredosum false 8 9 10 .unmasked,
      .tredand false 8 9 10 .unmasked, .tredor false 8 9 10 .unmasked, .tredxor false 8 9 10 .unmasked,
      .tredgsum false 8 9 .unmasked, .tredmax false 8 9 10 .unmasked, .tredmin false 8 9 10 .unmasked,
      .tredmaxi false 8 9 10 .unmasked, .tredmini false 8 9 10 .unmasked],
    issuesAlone (strip 2 20) i = true := by decide

theorem test_alone_tile_scan_compress_and_scalar_results : ∀ i ∈ [Instr.tscan false 8 9 10 .unmasked, .tcompress false 8 9 .unmasked, .tmpop false 3 9 .unmasked,
      .tmfirst false 3 9 .unmasked, .textr false 3 9],
    issuesAlone (strip 2 20) i = true := by decide

theorem test_alone_tile_loads_and_stores : ∀ i ∈ [Instr.tld false 8 1 .unmasked, .tldff false 8 1 .unmasked, .tlds false 8 1 3 .unmasked,
      .tldx false 8 1 10 .unmasked, .tldxo false 8 1 10 .unmasked, .tst false 8 1 .unmasked,
      .tsts false 8 1 3 .unmasked, .tstx false 8 1 10 .unmasked, .tstxo false 8 1 10 .unmasked,
      .tldseg false 8 1 2 .unmasked 1, .tstseg false 8 1 2 .unmasked 1],
    issuesAlone (strip 2 20) i = true := by decide

theorem test_alone_tile_home_accesses : ∀ i ∈ [Instr.tldsc false 8 1 10 .unmasked, .tstsc false 8 1 10 .unmasked, .tgll false 8 1 10 .unmasked,
      .tscc false 8 1 10 false],
    issuesAlone (strip 2 20) i = true := by decide

theorem test_alone_matrix_instructions_1 : ∀ i ∈ [Instr.mxattach false 16 12 12, .mxop false 8 9 10 .unmasked false,
      .mxopn false 8 9 10 .unmasked false],
    issuesAlone (strip 0x0A 20) i = true := by decide

theorem test_alone_matrix_instructions_2 : ∀ i ∈ [Instr.mxzero false 8, .mxsync false 8 3, .mxdetach false 8 3],
    issuesAlone (strip 2 20) i = true := by decide

theorem test_alone_stream_instructions_1 : ∀ i ∈ [Instr.xcopy false 4 1 3 3, .xcopy2 false 4 1 3 3, .xcopy3 false 4 1 3 3, .xgath false 4 1 3 3,
      .xput false 4 1 3 3, .xbar false 3, .xcancel false 3],
    issuesAlone (strip 2 20) i = true := by decide

theorem test_alone_stream_instructions_2 : ∀ i ∈ [Instr.xseal false 4 1 3, .xunseal false 4 1 3],
    issuesAlone (supervisor) i = true := by decide

theorem test_alone_query_instructions : ∀ i ∈ [Instr.qdot false 8 10 3 1, .qdotm false 8 10 3 1, .qdotx false 8 10 3 1, .qgsum false 8 10 3 1,
      .qsum false 8 10 3 1, .qcount false 8 10 3 1, .qmax false 8 10 3 1, .qmin false 8 10 3 1,
      .qbest false 8 3 1, .qnarrow false 8 2 3 1],
    issuesAlone (strip 2 20) i = true := by decide

theorem test_alone_query_writes_and_management_1 : ∀ i ∈ [Instr.qst false 8 1, .qstx false 8 10 1, .qraddAdd false 8 10 1, .qraddMax false 8 10 1,
      .qraddMin false 8 10 1, .qraddOr false 8 10 1, .qraddAnd false 8 10 1, .qcas false 8 10 3 1,
      .qappend false 8 10 3 1, .qeval false 3 1, .qcopy false 4 3 1, .qmerge false 4 10 3 1],
    issuesAlone (strip 2 20) i = true := by decide

theorem test_alone_query_writes_and_management_2 : ∀ i ∈ [Instr.qhamm false 8 10 3 1],
    issuesAlone (strip 6 20) i = true := by decide

theorem test_alone_query_writes_and_management_3 : ∀ i ∈ [Instr.qcode false 8 10 3 1],
    issuesAlone (strip 0x0A 20) i = true := by decide

/-! ### Hypotheses of the statements: scalar instructions -/

theorem test_hyp_division :
    src start 4 = 0 ∧ src start 3 ≠ 0 ∧ ¬(src start 2 = BitVec.intMin 64 ∧ src start 3 = -1) := by decide

theorem test_hyp_division_overflow :
    let s := { start with me := { start.me with sregs := (start.me.sregs.set 5 (BitVec.intMin 64)).set 6 (-1) } }
    src s 5 = BitVec.intMin 64 ∧ src s 6 = -1 := by decide

theorem test_hyp_loads : checkAccess start start.me (addrOf start 1 8) 8 8 .load = .ok 0x1008 ∧
    checkAccess start start.me (addrOf start 1 4) 4 4 .load = .ok 0x1004 ∧
    checkAccess start start.me (addrOf start 1 2) 2 2 .load = .ok 0x1002 ∧
    checkAccess start start.me (addrOf start 1 0xFFF) 1 1 .load = .ok 0x1FFF := by decide

theorem test_hyp_stores : checkAccess start start.me (addrOf start 1 8) 8 8 .store = .ok 0x1008 ∧
    checkAccess start start.me (addrOf start 1 4) 4 4 .store = .ok 0x1004 ∧
    checkAccess start start.me (addrOf start 1 2) 2 2 .store = .ok 0x1002 ∧
    checkAccess start start.me (addrOf start 1 0xFFF) 1 1 .store = .ok 0x1FFF := by decide

theorem test_hyp_atomics : start.canonicalMemory ∧ checkAccess start start.me (src start 1) 8 8 .atomic = .ok 0x1000 ∧
    checkAccess start start.me (src start 1) 4 4 .atomic = .ok 0x1000 := by
  unfold State.canonicalMemory; decide

theorem test_hyp_access_traps : checkAccess start start.me (addrOf start 1 4) 8 8 .load = .error .misaligned ∧
    checkAccess start start.me (addrOf start 2 0) 4 4 .load = .error .pageFault ∧
    checkAccess start start.me (addrOf start 1 1) 2 2 .store = .error .misaligned ∧
    checkAccess start start.me (0x0100000000000000 : Word) 8 8 .load = .error .spadRange ∧
    checkAccess start start.me (0x1000 : Word) 8 8 .store = .error .pageFault ∧
    checkAccess start start.me (src start 3) 4 4 .atomic = .error .misaligned := by decide

/-- Leaves of the other spaces and of another world for the checks of an access. -/
def leaves : State :=
  { start with vm := ((start.vm.map 0 0x3000 0 (spadEntry 2 1 true false)).map 0 0x400000 1
      (BitVec.ofNat 64 (3 + 1 * 2 ^ 2))).map 0 0x5000 0 (BitVec.ofNat 64 (3 + 2 * 2 ^ 2)) }

theorem test_hyp_access_checks :
    (leaves.vm.leaf 0 0x2000).map (fun l => (l.space, l.wtag, l.w)) = some (.spad, 0, true) ∧
    (leaves.vm.leaf 0 0x3000).map (fun l => (l.space, l.wtag)) = some (.spad, 1) ∧
    (leaves.vm.leaf 0 0x400000).map (fun l => l.space) = some .qm ∧
    (leaves.vm.leaf 0 0x5000).map (fun l => l.space) = some .host ∧ leaves.vm.leaf 0 0x6000 = none ∧
    leaves.mem.spadBad = [] := by decide

/-! ### Tile accesses, matrix, stream and query instructions -/

theorem test_hyp_tile_addresses :
    (∀ f < 20, checkAccess (strip 2 20) (strip 2 20).me (unitAt (strip 2 20) 1 f) 4 4 .load = .ok (behind (strip 2 20) (unitAt (strip 2 20) 1 f))) ∧
    (∀ f < 20, checkAccess (strip 2 20) (strip 2 20).me (strideAt (strip 2 20) 1 2 f) 4 4 .store =
      .ok (behind (strip 2 20) (strideAt (strip 2 20) 1 2 f))) ∧
    (∀ f < 20, checkAccess (strip 2 20) (strip 2 20).me (indexAt (strip 2 20) 1 10 f) 4 4 .atomic =
      .ok (behind (strip 2 20) (indexAt (strip 2 20) 1 10 f))) := by
  decide +kernel

theorem test_hyp_tile_types : wholeBytes (strip 2 20).me.env ∧ (strip 0x0E 20).me.env.ty = .flt .e2m1 ∧
    (strip 0x23 20).me.env.ty.isSlice = true ∧ (src (strip 0x23 20) 1).toNat % 8 = 0 ∧
    (strip 2 20).canonicalMemory ∧ 2 ≤ (strip 2 20).me.env.vlmax := by
  unfold wholeBytes State.canonicalMemory; decide

theorem test_hyp_packed_types :
    (∀ f < 20, checkAccess (strip 0x0E 20) (strip 0x0E 20).me (src (strip 0x0E 20) 1 + word (f / 2)) 1 1 .load =
      .ok (behind (strip 0x0E 20) (src (strip 0x0E 20) 1 + word (f / 2)))) ∧
    (∀ f < 20, ∀ p < 4, checkAccess (strip 0x23 20) (strip 0x23 20).me (planeAt (strip 0x23 20) 1 f p) 1 1 .store =
      .ok (behind (strip 0x23 20) (planeAt (strip 0x23 20) 1 f p))) := by decide

/-- An attached grant of the `e4m3` family on the group at t16. -/
def attached : State :=
  let s := strip 0x0C 20
  let g : Grant := ⟨true, 0, 16, 4, 12, 12, 16, 16⟩
  { s with me := { s.me with grant := g, accum := [⟨g, 0, 0, 0, 0, 0, 0, 0, [], 0, true⟩] } }

theorem test_hyp_matrix_attach : Family.ofCodes 12 12 ≠ none ∧ (strip 0x0A 20).me.grant.att = false ∧
    (strip 0x0A 20).eng.arrivals = [] ∧
    (∀ F ∈ Family.ofCodes 12 12, (strip 0x0A 20).slotsUsed (strip 0x0A 20).me.place.cluster + (strip 0x0A 20).me.lanes * F.slots ≤ 1024) := by
  decide

theorem test_hyp_matrix_steps : attachedAt attached 16 ∧ ¬inGroup attached.me.grant 8 ∧ ¬inGroup attached.me.grant 9 ∧
    ¬inGroup attached.me.grant 2 ∧ attached.me.grant.bstep = 0 ∧ attached.me.env.code = attached.me.grant.afmt.toNat := by
  unfold attachedAt inGroup; decide

theorem test_alone_matrix_attached : ∀ i ∈ [Instr.mxop false 16 8 9 .unmasked false, .mxopn false 16 8 9 .unmasked false,
      .mxzero false 16, .mxsync false 16 2, .mxdetach false 16 2], issuesAlone attached i = true := by decide

/-- A shape for the transfers: s1 and s2 multiples of 8, chunks of 64 bytes. -/
theorem test_hyp_stream : roomAt (strip 2 20) 3 ∧
    (transfer (strip 2 20) .copy (src (strip 2 20) 1) 0x8000 (src (strip 2 20) 2) 3).check 16 = none ∧
    (transfer (strip 2 20) .gath (src (strip 2 20) 1) 0x8000 (src (strip 2 20) 2) 3).check 16 = none ∧
    (transfer (strip 2 20) .put (src (strip 2 20) 1) 0x8000 8 3).check 16 = none ∧
    (transfer (strip 2 20) .bar 0 0 0 3).check 16 = none ∧
    (transfer (strip 2 20) .xseal 0x200000 0x600000 0 3).check 16 = none := by
  unfold roomAt; decide

theorem test_hyp_stream_shapes :
    let s := { strip 2 20 with me := { (strip 2 20).me with x := { (strip 2 20).me.x with dim1 := 2, str1 := 0x4000000040, dim2 := 1 } } }
    (transfer s .copy2 0x2000 0x9000 16 3).check 16 = none ∧ (transfer s .copy3 0x2000 0x9000 16 3).check 16 = none := by decide

theorem test_hyp_stream_checks :
    let x := transfer (strip 2 20) .copy 0x2000 0x8000 16 3
    ({ x with src := 0x8004 }).check 16 = some (.misaligned, 0) ∧ ({ x with flagA := 4 }).check 16 = some (.misaligned, 0) ∧
    ({ x with op := .put, len := 3 }).check 16 = some (.misaligned, 0) ∧
    ({ x with op := .xseal, src := 0x1000 }).check 16 = some (.misaligned, 0) ∧
    ({ x with len := 2 ^ 40 }).check 16 = some (.streamFault, 3) ∧ ({ x with src := 0x2008 }).check 16 = some (.streamFault, 4) ∧
    ({ x with len := 64 * 32769, chunks := 32769 }).check 16 = some (.streamFault, 2) := by decide

theorem test_hyp_cancel : ∀ y ∈ (strip 2 20).eng.xfers, y.reading = [] := by decide

/-! ### Status registers, synchronisation, control, configuration, tile branches -/

theorem test_hyp_return : supervisor.me.trap.priv = true ∧ start.me.trap.priv = false := by decide

theorem test_hyp_status_reads : (∀ n ∈ [0x21, 0x2B, 0x35], privileged n) ∧ supervisor.me.det = false ∧
    ({ supervisor with me := { supervisor.me with det := true } } : State).me.det = true := by
  unfold privileged; decide

theorem test_hyp_status_writes : taken 0x08 5 ∧ ¬taken 0x08 6 ∧ taken 0x09 3 ∧ ¬taken 0x09 4 ∧ taken 0x25 4 ∧ ¬taken 0x25 2 ∧
    ¬taken 0x0E (BitVec.ofNat 64 (2 ^ 49)) ∧ taken 0x10 (BitVec.ofNat 64 (2 ^ 34 - 1)) := by simp [taken]

theorem test_hyp_chunk_sizes : taken 0x1C 0 ∧ taken 0x1C 64 := by
  unfold taken
  exact ⟨⟨by decide, by decide, by decide, by decide, fun _ => ⟨0, .inl (by decide)⟩, by decide⟩,
    ⟨by decide, by decide, by decide, by decide, fun _ => ⟨0, .inr ⟨6, by decide⟩⟩, by decide⟩⟩

/-- A query that a fault record holds. -/
def heldQuery : Query := { queryItem supervisor .dot 0 0 {} with fault := true }

def faulted : State :=
  { supervisor with me := { supervisor.me with afq := [⟨Cause.pageFault.code, 4, 3, 0, 0, 0, some (.query heldQuery)⟩] } }

theorem test_hyp_resume : faulted.me.oldestHeld.isSome ∧ supervisor.me.oldestHeld = none ∧ roomAt faulted 4 ∧
    faulted.qm.unav = false ∧ faulted.me.heldOf 15 ≠ none := by
  unfold roomAt; decide

theorem test_hyp_remap : supervisor.remapStatus supervisor.me.place.asid 0x7000 0x2000 ≠ 0 ∧
    supervisor.remapBusy supervisor.me.place.asid 0x7000 0x2000 = false := by decide

theorem test_hyp_fence : performedAt start 0 3 ∧ performed start 3 ∧ start.me.heldOf 3 = none ∧
    ¬performed { start with me := { start.me with wbuf := [⟨0x1000, 8, 1, 255⟩] } } 1 := by
  unfold performed
  refine ⟨?_, ?_, by decide, fun h => ?_⟩
  · unfold performedAt; decide
  · unfold performedAt; decide
  · have := (h.2.2.1 (by decide) (by decide)).1
    cases this

theorem test_hyp_wait : checkAccess start start.me (src start 1) 8 8 .load = .ok 0x1000 ∧ seesAt start 0x1000 8 = 0 ∧
    src start 3 ≠ word 0 := by decide

theorem test_hyp_pwait : (3 : TReg).val < start.me.shape.allot ∧ (src start 4).toNat % 64 = 0 ∧
    (src start 4).toNat < 2048 * start.me.lanes ∧ (start.me.tregs[(3 : TReg)]).testBit 0 = false ∧
    start.me.lostChunk 3 0 = false := by decide

theorem test_hyp_pwait_lost :
    let s := { start with me := { start.me with owners := [⟨3, 4, 7, true⟩] } }
    s.me.lostChunk 3 0 = true := by decide

/-- The watermark and the barrier dword in the writable page; the player is in launch 1. -/
def marked : State := { start with me := { start.me with wmk := 0x2000, barp := 0x2008, place := { start.me.place with launch := 1 } } }

theorem test_hyp_watermark : marked.canonicalMemory ∧ checkAccess marked marked.me marked.me.wmk 8 8 .atomic = .ok 0x1000 ∧
    checkAccess marked marked.me marked.me.barp 8 8 .atomic = .ok 0x1008 ∧ marked.me.barGen = none ∧ performed marked 3 := by
  unfold State.canonicalMemory performed performedAt; decide

theorem test_hyp_barrier_last : marked.liveCount marked.me.place.launch marked.me.place.party ≤ 1 := by decide

/-- Two players of one party. -/
def pair : State := { marked with others := [{ marked.me with id := 2, place := { marked.me.place with rank := 1 } }] }

theorem test_hyp_barrier_not_last : ¬pair.liveCount pair.me.place.launch pair.me.place.party ≤ 1 ∧ distinctPlayers pair := by
  unfold distinctPlayers; decide

theorem test_hyp_control : distinctPlayers start ∧ start.me.grant.att = false ∧ start.me.heldOf 15 = none ∧
    start.haltReady = true ∧ attached.me.grant.att = true ∧ (∃ p ∈ pair.others, pair.runnable p = true) := by
  refine ⟨by unfold distinctPlayers; decide, by decide, by decide, by decide, by decide, pair.others.head (by decide), by decide, by decide⟩

theorem test_hyp_launch : performed start 3 ∧ recordAt start (src start 1) (List.replicate 10 0) := by
  refine ⟨by unfold performed performedAt; decide, by decide, fun k hk => ⟨0x1000 + 8 * k, ?_⟩⟩
  have : ∀ k < 10, checkAccess start start.me (src start 1 + word (8 * k)) 8 8 .load = .ok (0x1000 + 8 * k) ∧
      seesAt start (0x1000 + 8 * k) 8 = (List.replicate 10 0).getD k 0 := by decide +kernel
  exact this k hk

theorem test_hyp_configuration : mayConfigure start ∧ mayConfigure { start with me := { start.me with shape := { start.me.shape with pending := some 3 } } } ∧
    checkAccess marked marked.me marked.me.wmk 8 8 .load = .ok 0x1000 := by
  unfold mayConfigure; decide

theorem test_hyp_setvl_together : distinctPlayers pair ∧ pair.me.live = true ∧ pair.me.waiting = none ∧
    (let s := { pair with others := pair.others.map (fun (p : Player) => { p with waiting := some (.setvlG 4 5) }) }
     (∀ p ∈ s.others, p.inSetvlG = some (4, 5)) ∧
      s.liveCount s.me.place.launch s.me.place.party = (s.members s.me.place.launch s.me.place.party).length ∧
      ((s.members s.me.place.launch s.me.place.party).map (fun p => p.place.rank)).Nodup ∧
      ∀ p ∈ s.members s.me.place.launch s.me.place.party, p.shape.pending = none ∧ p.shape.await = false) := by
  unfold distinctPlayers; decide

theorem test_hyp_allot : start.namesFrom start.me 32 = false ∧ 32 < start.me.shape.allot ∧
    (attached.me.grant.att = true ∧ 16 < attached.me.grant.acc.toNat + attached.me.grant.asize.toNat) := by decide

theorem test_hyp_shaped : ttyOk (strip 2 20).me.shape.tty.toNat = true ∧
    (strip 2 20).me.shape.vlmax = vlmaxOf (strip 2 20).me.shape.tty (strip 2 20).me.lanes ∧ (strip 2 20).me.trap.entering = false := by
  decide

/-- A divided fragment: the strip of 20 with the lower four bits of t0 active, bits 0 and 1 of t2. -/
def divided : State :=
  let s := strip 2 20
  { s with me := { s.me with tregs := (s.me.tregs.set 0 15).set 2 3 } }

theorem test_hyp_branches : divided.me.tregs[2] % 2 ^ 20 &&& divided.me.tregs[0] % 2 ^ 20 ≠ 0 ∧
    divided.me.tregs[2] % 2 ^ 20 &&& divided.me.tregs[0] % 2 ^ 20 ≠ divided.me.tregs[0] % 2 ^ 20 ∧
    divided.me.joins.length ≠ 8 ∧ divided.me.parked.length ≠ 8 ∧
    ({ divided with me := { divided.me with joins := List.replicate 8 0 } } : State).me.joins.length = 8 := by decide

theorem test_hyp_join :
    let s := { divided with me := { divided.me with joins := [15], parked := [⟨12, 0x1004, 1⟩] } }
    s.me.joins ≠ [] ∧ s.me.parked = [] ++ ⟨12, 0x1004, 1⟩ :: [] ∧ s.me.joins.length = 1 := by decide

theorem test_hyp_leave_level :
    let s := { divided with me := { divided.me with joins := [15] } }
    s.me.joins = 15 :: [] ∧ (∀ g ∈ s.me.parked, g.level ≠ 1) ∧ s.me.trap.nspill = 0 := by decide

theorem test_hyp_refill : supervisor.me.trap.level.toNat ≤ supervisor.me.joins.length ∧ supervisor.me.parked.length < 8 ∧
    ({ supervisor with me := { supervisor.me with trap := { supervisor.me.trap with level := 1 } } } : State).me.trap.level.toNat = 1 := by
  decide

/-! ### Waits, convoys -/

theorem test_hyp_drain :
    let s := { start with me := { start.me with wbuf := [⟨0x1000, 8, 1, 255⟩] } }
    s.player? s.me.id = some s.me ∧ s.me.wbuf[0]? = some ⟨0x1000, 8, 1, 255⟩ := by decide

theorem test_hyp_home :
    let s := { start with mem := { start.mem with arrivals := [(1, ⟨0x1000, 8, 1, 255⟩)] } }
    s.canonicalMemory ∧ s.mem.arrivals[0]? = some (1, ⟨0x1000, 8, 1, 255⟩) := by
  unfold State.canonicalMemory; decide

/-- The player waits in an instruction; with `wake`, a write has woken its monitor. -/
def waitingIn (i : Instr) (wake : Bool) : State := { marked with me := { marked.me with waiting := some i, wake := wake } }

theorem test_hyp_waits : ∀ i ∈ [Instr.fence 1 1, .pwait 4 4 3, .halt, .allot 4 2, .setvl 4 3 0, .launch 4 1 4, .wmpub 4 3, .bar,
      .waitEq 4 1 3, .waitNe 4 1 3, .waitGeu 4 1 3, .waitAny 4 1 3, .setvlw 4 3 4],
    ((waitingIn i true).player? marked.me.id).isSome ∧ ((waitingIn i true).focus marked.me.id).me.waiting = some i ∧
      ((waitingIn i true).focus marked.me.id).me.wake = true := by decide

theorem test_hyp_waits_end : performed (resumed (waitingIn .halt true) marked.me.id) 15 ∧
    mayConfigure (resumed (waitingIn .halt true) marked.me.id) ∧ (resumed (waitingIn .halt true) marked.me.id).haltReady = true ∧
    distinctPlayers (resumed (waitingIn .halt true) marked.me.id) := by
  unfold performed performedAt mayConfigure distinctPlayers; decide

theorem test_hyp_base_table :
    let s := { start with me := { start.me with q := { start.me.q with loading := true } } }
    (s.player? s.me.id).isSome ∧ (s.focus s.me.id).me.q.loading = true := by decide

theorem test_hyp_steps : working (strip 2 20) ∧ (strip 2 20).me.waiting = none ∧ activeOf (strip 2 20) .unmasked ≠ [] ∧
    (∀ x ∈ (strip 2 20).eng.arrivals, x.1 ≠ (strip 2 20).me.id) ∧ roomAt (strip 2 20) 3 ∧ roomAt (strip 2 20) 4 ∧
    (strip 2 20).me.q.loading = false ∧ (strip 2 20).eng.resumed = [] := by
  unfold working roomAt; decide

/-! ### Query memory -/

/-- An uncoded region of eleven units, one in each stack but the parity's, mapped at 0x400000; rows of four elements. -/
def rows : Region := ⟨1, 0, false, 0, 0, 1, 11, 0, 0, 0, 0, 0, 0, 0, false, false⟩

def withRegion (r : Region) : State :=
  let s := strip 2 20
  { s with
    vm := s.vm.map 0 0x400000 1 (BitVec.ofNat 64 (0x17 + 2 ^ 32))
    qm := { s.qm with regions := [r] }
    me := { s.me with
      sregs := s.me.sregs.set 1 0x400000
      q := { s.me.q with qlen := 4, qstride := 16, qratio := 4 } } }

/-- The item of an operation on that region. -/
def itemOf (op : QOp) : Query := queryItem (withRegion rows) op 0x400000 0 { tv := 8, tq := 10, dregs := 1, pip := 3 }

theorem test_hyp_query_checks : (∀ op ∈ [QOp.dot, .dotm, .sum, .count], (itemOf op).check (withRegion rows).me [(10, 1), (3, 1)] 0x1000 = none) ∧
    (∀ op ∈ [QOp.st, .raddAdd], (itemOf op).check (withRegion rows).me [(8, 1)] 0x1000 = none) := by decide +kernel

theorem test_hyp_query_traps : (itemOf .dot).check { (withRegion rows).me with q := (withRegion rows).me.q } [] 0 = none ∧
    ({ itemOf .dot with sa := 0x400002 } : Query).check (withRegion rows).me [] 0 = some ⟨.misaligned, 0, none⟩ ∧
    ({ itemOf .stx with idx := 2 * 2 ^ 64 } : Query).check (withRegion rows).me [] 0 = some ⟨.misaligned, 1, none⟩ ∧
    ({ itemOf .dot with qratio := 5 } : Query).check (withRegion rows).me [] 0 = some ⟨.replyBound, 0, some 320⟩ := by decide +kernel

theorem test_hyp_query_taken : (withRegion rows).qm.unav = false ∧ roomAt (withRegion rows) 4 := by unfold roomAt; decide

/-- The same region as a collection of 64-bit codes: five body rows, five side rows. -/
def codes : Region := ⟨1, 1, false, 0, 0, 1, 11, 0, 0, 64, 5, 5, 0x800, 0xC00, false, false⟩

theorem exists_ok {ε α : Type} {x : Except ε α} (h : x.toBool = true) : ∃ l, x = .ok l := by
  cases x with
  | error e => cases h
  | ok l => exact ⟨l, rfl⟩

/-- Does the value satisfy a test? -/
def okAnd {ε α : Type} (x : Except ε α) (f : α → Bool) : Bool :=
  match x with
  | .ok l => f l
  | .error _ => false

theorem of_okAnd {ε α : Type} {x : Except ε α} {f : α → Bool} (h : okAnd x f = true) : ∃ l, x = .ok l ∧ f l = true := by
  cases x with
  | error e => cases h
  | ok l => exact ⟨l, rfl, h⟩

theorem test_hyp_searches : (withRegion codes).ownWriteAhead (withRegion codes).me.id 0 0x400000 = false ∧
    ∃ u, (withRegion codes).searchCheck { itemOf .hamm with vec := 0, dregs := 2, tty := 6 } = .ok (some (0, u)) ∧
      u.qm.unav = false ∧ u.eng = (withRegion codes).eng := by
  refine ⟨by decide +kernel, ?_⟩
  have h : okAnd ((withRegion codes).searchCheck { itemOf .hamm with vec := 0, dregs := 2, tty := 6 })
      (fun x => x.any (fun y => decide (y.1 = 0) && !y.2.qm.unav && decide (y.2.eng = (withRegion codes).eng))) = true := by
    decide +kernel
  obtain ⟨x, hx, h0⟩ := of_okAnd h
  cases x with
  | none => cases h0
  | some y =>
    obtain ⟨n, u⟩ := y
    simp only [Option.any, Bool.and_eq_true, decide_eq_true_eq, Bool.not_eq_true'] at h0
    exact ⟨u, by rw [hx, h0.1.1], h0.1.2, h0.2⟩

theorem test_hyp_append : (withRegion codes).regionAt 0 0x400000 = some codes ∧ codes.isCollection = true ∧ (0x400000 : Word).toNat % 8 = 0 ∧
    (withRegion codes).me.q.qlen.toNat % 2 ^ 48 * codes.rowBytes * 8 ≤ 1 * (2048 * 16) := by decide +kernel

theorem test_hyp_copy :
    let q := { itemOf .copy with qlen := 1024, sd := 0x600000 }
    q.sa.toNat % 1024 = 0 ∧ q.sd.toNat % 1024 = 0 ∧ q.n % 1024 = 0 ∧ (q.n + 65535) / 65536 ≤ 2048 * 16 ∧ q.sa.toNat + q.n ≤ q.sd.toNat := by
  decide

/-- A second region at 0x600000. -/
def withTwo (r b : Region) : State :=
  let s := withRegion r
  { s with
    vm := s.vm.map 0 0x600000 1 (BitVec.ofNat 64 (0x17 + 2 * 2 ^ 32))
    qm := { s.qm with regions := [r, { b with id := 2, ubase := 1 }] } }

theorem test_hyp_merge : (withTwo codes codes).mergeOk { itemOf .merge with sd := 0x600000 } = some true := by decide +kernel

theorem test_hyp_remap_free : (withTwo rows rows).remapStatus (withTwo rows rows).me.place.asid 0x400000 0x600000 = 0 ∧
    (withTwo rows rows).remapBusy (withTwo rows rows).me.place.asid 0x400000 0x600000 = false := by decide +kernel

/-- A row program (R354) that adds 1 to elements of 64 bits. -/
def addOne : List Byte :=
  [3] ++ List.replicate 7 0 ++ [0x44, 0x70, 1, 0x80] ++ List.replicate 20 0 ++ [1] ++ List.replicate 63 0

/-- The program in the writable page. -/
def programmed : State :=
  let s := strip 2 20
  { s with mem := { s.mem with spad := s.mem.spad.writeBytes 0x1000 addOne } }

theorem test_hyp_eval_accepted : refusedByte addOne = none ∧ addOne.length = 96 ∧ programmed.me.q.loading = false ∧
    (queryItem programmed .eval 0 (src programmed 1) { prog := addOne }).n = 0 ∧ (src programmed 1).toNat % 32 = 0 ∧
    (∀ k < 12, ∃ pa, checkAccess programmed programmed.me (src programmed 1 + word (8 * k)) 8 8 .load = .ok pa ∧
      ∀ j < 8, sees programmed (pa + j) = addOne.getD (8 * k + j) 0) := by
  refine ⟨by decide +kernel, by decide, by decide, by decide, by decide, fun k hk => ⟨0x1000 + 8 * k, ?_⟩⟩
  have h : ∀ k < 12, checkAccess programmed programmed.me (src programmed 1 + word (8 * k)) 8 8 .load = .ok (0x1000 + 8 * k) ∧
      ∀ j < 8, sees programmed (0x1000 + 8 * k + j) = addOne.getD (8 * k + j) 0 := by decide +kernel
  exact h k hk

/-- A slab whose base table entry is the player's evaluation window. -/
def evaluated : State :=
  let s := withRegion { rows with slab := true, rows := 12 }
  { s with me := { s.me with q := { s.me.q with qewin := 0x400000, window := some 1 } } }

theorem test_hyp_eval_window : evaluated.windowOk evaluated.me { itemOf .eval with prog := addOne } (evalSw addOne) = true := by
  decide +kernel

/-! Items in the engine. -/

theorem settled_of {s : State} (h : ∀ q ∈ s.allQueries, q.applied = 0 ∨ q.applied = q.done) (hr : ∀ r ∈ s.qm.recon, r.2 ≤ 16)
    (hu : ∀ q ∈ s.eng.queries, q.ending = none := by decide +kernel) : settled s := by
  refine ⟨fun q hq f h1 h2 => ?_, fun q hq e => absurd (hu q hq) e, hr⟩
  rcases h q hq with e | e
  · rw [e] at h1; simp at h1
  · rw [e, h2] at h1; cases h1

/-- The items are in the engine. -/
def engines (s : State) (qs : List Query) : State := { s with eng := { s.eng with queries := qs, nextItem := 9 } }

/-- A dot product of two rows that has left the queue. -/
def aloft : Query := { itemOf .dot with sent := true, flim := 2 }

theorem test_hyp_query_send :
    let s := engines (withRegion rows) [itemOf .dot]
    settled s ∧ s.qm.lost = none ∧ s.qm.losing = none ∧ s.qm.unav = false ∧ s.query? (itemOf .dot).id = some (itemOf .dot) ∧
    (itemOf .dot).sent = false ∧ (itemOf .dot).stopped = false ∧ s.vm.closed = [] ∧
    ∀ o ∈ s.allQueries, o.owner = (itemOf .dot).owner → o.id < (itemOf .dot).id → o.op.isWrite = false := by
  refine ⟨settled_of (by decide +kernel) (by decide +kernel), by decide +kernel, by decide +kernel, by decide +kernel, by decide +kernel, by decide +kernel, by decide +kernel, by decide +kernel, by decide +kernel⟩

/-- A store ahead of a query of the same row. -/
def queued : State := engines (withRegion rows) [itemOf .st, { itemOf .dot with id := 8 }]

theorem test_hyp_query_behind : settled queued ∧ queued.query? 8 = some { itemOf .dot with id := 8 } ∧ queued.vm.closed = [] ∧
    ∃ o ∈ queued.allQueries, ∃ x y n m, o.owner = queued.me.id ∧ o.id < 8 ∧ o.op.isWrite = true ∧ .bytes x n ∈ o.writeRanges ∧
      .bytes y m ∈ ({ itemOf .dot with id := 8 } : Query).readRanges ∧ x.toNat < y.toNat + m ∧ y.toNat < x.toNat + n := by
  refine ⟨settled_of (by decide +kernel) (by decide +kernel), by decide +kernel, by decide +kernel, itemOf .st, by decide +kernel, 0x400000, 0x400000, 4, 16, by decide +kernel, by decide +kernel, by decide +kernel, by decide +kernel, by decide +kernel, by decide +kernel, by decide +kernel⟩

def flying : State := engines (withRegion rows) [aloft]

theorem found_of {s : State} {q : Query} {vas : List Word} (h : vas.all (fun va => (s.locate q.asid q.wid va false false).toBool) = true) : Found s q vas :=
  fun va hva => exists_ok (List.all_eq_true.mp h va hva)

theorem test_hyp_query_found : Found flying aloft ((aloft.positions 0).flatMap (rowOfReply aloft)) := by
  have h : ((aloft.positions 0).flatMap (rowOfReply aloft)).all (fun va => (flying.locate aloft.asid aloft.wid va false false).toBool) = true := by
    decide +kernel
  exact found_of h

theorem test_hyp_query_touch : settled flying ∧ atStack flying aloft ∧ plainQuery aloft ∧ 0 < aloft.nchunks ∧ aloft.chunks.testBit 0 = false ∧
    flying.qm.bad = [] ∧ 0x400000 ∈ (aloft.positions 0).flatMap (rowOfReply aloft) := by
  refine ⟨settled_of (by decide +kernel) (by decide +kernel), by unfold atStack; decide +kernel, by unfold plainQuery; decide +kernel,
    by decide +kernel, by decide +kernel, by decide +kernel, by decide +kernel⟩

theorem test_hyp_query_unit : okAnd (flying.locate aloft.asid aloft.wid 0x400000 false false) (fun l => decide (l.unit = rows.unit 0)) = true := by
  decide +kernel

/-- The unit of the first row cannot be read. -/
def unreadable : State := { flying with qm := { flying.qm with bad := [rows.unit 0], recon := [(1, 15)] } }

theorem test_hyp_reconstruct : settled unreadable ∧ atStack unreadable aloft ∧ unreadable.canonicalMemory ∧ unreadable.qm.bad = [rows.unit 0] ∧
    rows.unit 0 ∉ aloft.touched.map Prod.fst ∧ unitStack (rows.unit 0) < 12 ∧
    (∀ d ∈ unreadable.qm.deltas, d.pc ≠ unitPc (rows.unit 0) ∨ d.row ≠ unitRow (rows.unit 0)) ∧ (∀ r ∈ unreadable.qm.recon, r.2 < 16) := by
  refine ⟨settled_of (by decide +kernel) (by decide +kernel), by unfold atStack; decide +kernel, by unfold State.canonicalMemory; decide, by decide +kernel, by decide +kernel, by decide +kernel, by decide +kernel, by decide +kernel⟩

theorem test_hyp_reply : flying.qm.bad = [] ∧ ¬(aloft.op = .narrow ∧ aloft.env.ty ∈ [ElemTy.flt .e4m3, .flt .e5m2, .flt .e2m1]) ∧ aloft.flags = 0 ∧
    aloft.env.ty.isSlice = false ∧ aloft.env.flim ≤ aloft.env.rc * aloft.env.vl ∧ aloft.env.vl ≤ aloft.env.vlmax ∧
    aloft.valueReg + aloft.rregs ≤ 64 ∧ aloft.pip < 64 := by decide +kernel

/-! Element writes. -/

def storing : Query := { itemOf .st with sent := true }
def storesIn (q : Query) : State := engines (withRegion rows) [q]

theorem test_hyp_element_write : settled (storesIn storing) ∧ sound (storesIn storing) ∧ (storesIn storing).canonicalMemory ∧
    atStack (storesIn storing) storing ∧ elementWrite storing ∧ 0 < storing.count ∧ storing.applied.testBit 0 = false ∧
    storing.done.testBit 0 = false ∧ (storesIn storing).qm.held = [] ∧
    (∃ l, (storesIn storing).locateElem storing 0 = .ok l ∧ dataUnit l.unit ∧ l.inUnit + storing.ew ≤ 1024) ∧
    (storing.newValue 0 0).isSome ∧ (∀ g < 0, (storesIn storing).locateElem storing g = (storesIn storing).locateElem storing 0 → False) := by
  refine ⟨settled_of (by decide +kernel) (by decide +kernel), by unfold sound; decide, by unfold State.canonicalMemory; decide, by unfold atStack; decide +kernel,
    by unfold elementWrite; decide, by decide +kernel, by decide +kernel, by decide +kernel, by decide +kernel, ?_, by decide +kernel, fun g hg => absurd hg (Nat.not_lt_zero g)⟩
  have h : okAnd ((storesIn storing).locateElem storing 0) (fun l => decide (l.unit ∈ stripeUnits l.unit ∧ l.unit ≠ parityUnit l.unit ∧ l.inUnit + storing.ew ≤ 1024)) = true := by
    decide +kernel
  obtain ⟨l, hl, h0⟩ := of_okAnd h
  have := of_decide_eq_true h0
  exact ⟨l, hl, ⟨this.1, this.2.1⟩, this.2.2⟩

/-- A compare-and-swap that expects 1 where 0 stands. -/
def swapping : Query := { itemOf .cas with sent := true, exp := 1 }

theorem test_hyp_cas_refused : atStack (storesIn swapping) swapping ∧ alone (storesIn swapping) swapping ∧ swapping.newValue 0 0 = none := by
  unfold atStack alone
  refine ⟨by decide +kernel, ⟨by decide +kernel, by decide +kernel, ?_⟩, by decide +kernel⟩
  intro p hp r hr
  have : ∀ p ∈ (storesIn swapping).players, p.afq = [] := by decide +kernel
  rw [this p hp] at hr; cases hr

/-- Two elements at one address. -/
def twice : Query := { itemOf .stx with sent := true, idx := 0 }

theorem test_hyp_element_order : atStack (storesIn twice) twice ∧ 1 < twice.count ∧
    (∃ l, (storesIn twice).locateElem twice 1 = .ok l ∧ (storesIn twice).locateElem twice 0 = .ok l) ∧
    twice.applied.testBit 0 = false ∧ twice.done.testBit 0 = false := by
  unfold atStack
  have h : ∀ g < 2, okAnd ((storesIn twice).locateElem twice g) (fun l => decide (l = ⟨rows, 0⟩)) = true := by decide +kernel
  have at' : ∀ g < 2, (storesIn twice).locateElem twice g = .ok ⟨rows, 0⟩ := fun g hg => by
    obtain ⟨l, hl, h0⟩ := of_okAnd (h g hg)
    rw [hl, of_decide_eq_true h0]
  exact ⟨by decide +kernel, by decide +kernel, ⟨_, at' 1 (by decide +kernel), at' 0 (by decide +kernel)⟩, by decide +kernel, by decide +kernel⟩

/-! Parity deltas. -/

/-- A delta to parity unit 0 of stripe (0, 0), at offset 0, of element `f` of item 0. -/
def delta (f : Nat) : Delta := ⟨0, 0, 0, 0, 4, 5, 0, f⟩

/-- A delta waits for room. -/
def owing : State := { withRegion rows with qm := { (withRegion rows).qm with held := [⟨delta 0, rows.unit 0, 5⟩] } }

theorem test_hyp_delta_accept : settled owing ∧ owing.canonicalMemory ∧ owing.qm.held = [] ++ ⟨delta 0, rows.unit 0, 5⟩ :: [] ∧
    (delta 0).off + (delta 0).len ≤ 1024 ∧ (owing.qm.deltas.filter (fun x => x.stack = 0)).length < 4096 := by
  refine ⟨settled_of (by decide +kernel) (by decide +kernel), by unfold State.canonicalMemory; decide +kernel, by decide +kernel, by decide, by decide⟩

theorem test_hyp_delta_full : settled { owing with qm := { owing.qm with deltas := List.replicate 4096 (delta 0) } } ∧
    4096 ≤ ((List.replicate 4096 (delta 0)).filter (fun x => x.stack = 0)).length := by
  refine ⟨settled_of (by decide +kernel) (by decide +kernel), ?_⟩
  rw [List.filter_replicate]; simp [delta]

/-- An element of a store whose delta is in its parity queue. -/
def parityDue : State :=
  let s := engines (withRegion rows) [{ storing with applied := 1, flim := 2 }]
  { s with qm := { s.qm with deltas := [delta 0] } }

theorem test_hyp_delta_apply : parityDue.qm.deltas = [] ++ delta 0 :: [] ∧ parityDue.canonicalMemory ∧ parityDue.qm.held = [] ∧
    parityDue.allQueries = [{ storing with applied := 1, flim := 2 }] ∧ parityDue.eng.queries = [{ storing with applied := 1, flim := 2 }] ∧
    storing.id = 0 ∧ storing.op ∈ [QOp.st, .stx, .raddAdd] ∧ storing.done.testBit 0 = false ∧
    (∀ f ≠ 0, (1 : Nat).testBit f = true → storing.done.testBit f = false → owes parityDue 0 f) ∧
    (∃ f < 2, f ≠ 0 ∧ storing.done.testBit f = false) := by
  refine ⟨by decide +kernel, by unfold State.canonicalMemory; decide +kernel, by decide +kernel, by decide +kernel, by decide +kernel, by decide +kernel,
    by decide +kernel, by decide +kernel, fun f hf h => ?_, 1, by decide +kernel, by decide +kernel, by decide +kernel⟩
  cases f with
  | zero => exact absurd rfl hf
  | succ n => simp [Nat.testBit_succ] at h

theorem test_hyp_delta_order : ∃ l r, ({ parityDue with qm := { parityDue.qm with deltas := [delta 0, delta 1] } } : State).qm.deltas = l ++ delta 1 :: r ∧
    ∃ x ∈ l, x.stack = 0 ∧ x.pc = (delta 1).pc ∧ x.row = (delta 1).row :=
  ⟨[delta 0], [], by decide +kernel, delta 0, by decide +kernel, by decide, by decide, by decide⟩

/-! Writes of whole units. -/

theorem alone_of {s : State} {q : Query} (h : ∀ y ∈ s.eng.queries, y.id = q.id → y = q) (hr : ∀ x ∈ s.eng.resumed, x.2.item ≠ q.id)
    (ha : ∀ p ∈ s.players, p.afq = []) : alone s q :=
  ⟨h, hr, fun p hp r hr => by rw [ha p hp] at hr; cases hr⟩

theorem still_of {s : State} (h : sound s) (hc : s.canonicalMemory) (hd : s.qm.deltas = []) (hh : s.qm.held = [])
    (ha : ∀ q ∈ s.allQueries, q.applied = q.done) (hr : ∀ r ∈ s.qm.recon, r.2 ≤ 16)
    (hu : ∀ q ∈ s.eng.queries, q.ending = none := by decide +kernel) : still s :=
  ⟨h, hc, hd, hh, fun q hq e => absurd (hu q hq) e, fun q hq f hf => (by rw [← ha q hq]; exact hf), hr⟩

/-- One item alone in the engine, with the regions at rest. -/
def restsWith (s : State) (q : Query) : Prop := still s ∧ alone s q ∧ atStack s q ∧ q.flags = 0 ∧ q.pip < 64

theorem restsWith_of {s : State} {q : Query} (hc : s.canonicalMemory)
    (h : decide (s.qm.lost = none) && decide (s.qm.losing = none) && !s.qm.unav && decide (s.qm.bad = []) && decide (s.qm.deltas = []) &&
      decide (s.qm.held = []) && decide (s.allQueries = [q]) && decide (q.applied = q.done) && decide (s.qm.recon = []) &&
      decide (s.eng.queries = [q]) && decide (s.eng.resumed = []) && decide (s.players.map (fun p => p.afq) = [[]]) &&
      decide (s.query? q.id = some q) && q.sent && !q.stopped && (q.item.isSome || !s.namesCollection q) && decide (q.flags = 0) &&
      decide (q.pip < 64) && decide (s.qm.soft = []) && decide (q.ending = none) && decide (s.discards q.owner = false) = true) : restsWith s q := by
  simp only [Bool.and_eq_true, decide_eq_true_eq, Bool.not_eq_true', Bool.or_eq_true] at h
  obtain ⟨⟨⟨⟨⟨⟨⟨⟨⟨⟨⟨⟨⟨⟨⟨⟨⟨⟨⟨⟨h1, h2⟩, h3⟩, h4⟩, h5⟩, h6⟩, h7⟩, h8⟩, h9⟩, h10⟩, h11⟩, h12⟩, h13⟩, h14⟩, h15⟩, h16⟩, h17⟩, h18⟩, h19⟩, h20⟩, h21⟩ := h
  refine ⟨still_of ⟨h1, h2, h3, h4, h19⟩ hc h5 h6 ?_ ?_ ?_, alone_of ?_ ?_ ?_, ⟨h13, h14, h15, h20, h21, fun e => ?_⟩, h17, h18⟩
  · intro y hy; rw [h7, List.mem_singleton] at hy; rw [hy]; exact h8
  · intro r hr; rw [h9] at hr; cases hr
  · intro y hy; rw [h10, List.mem_singleton] at hy; rw [hy]; exact h20
  · intro y hy _; rw [h10, List.mem_singleton] at hy; exact hy
  · intro x hx; rw [h11] at hx; cases hx
  · intro p hp
    have : p.afq ∈ s.players.map (fun p => p.afq) := List.mem_map_of_mem hp
    rw [h12, List.mem_singleton] at this; exact this
  · rcases h16 with e' | e'
    · rw [e] at e'; cases e'
    · exact e'

theorem canonical_withRegion (q : Query) : (storesIn q).canonicalMemory := by
  have h : (withRegion rows).canonicalMemory := by unfold State.canonicalMemory; decide +kernel
  exact h

/-- A store of 1408 elements of 64 bits covers the eleven data units of a stripe. -/
def whole : Query := { itemOf .st with sent := true, flim := 1408, tty := 3 }

theorem whole_at : ∀ g < 1408, (storesIn whole).locateElem whole g = .ok ⟨rows, 8 * g⟩ := by
  have h : (List.range 1408).all (fun g => okAnd ((storesIn whole).locateElem whole g) (fun l => decide (l = ⟨rows, 8 * g⟩))) = true := by
    decide +kernel
  intro g hg
  obtain ⟨l, hl, h0⟩ := of_okAnd (List.all_eq_true.mp h g (List.mem_range.mpr hg))
  rw [hl, of_decide_eq_true h0]

theorem rows_placed : ∀ j < 11, (rows.unit j ∈ stripeUnits (rows.unit 0) ∧ rows.unit j ≠ parityUnit (rows.unit 0)) ∧
    ∀ k < 11, rows.unit j = rows.unit k → j = k := by decide +kernel

theorem test_hyp_stripe : restsWith (storesIn whole) whole ∧
    (∀ m ∈ stripeUnits (rows.unit 0), m ≠ parityUnit (rows.unit 0) → ∀ o < 1024, ∃ g < whole.count, ∃ k,
      (storesIn whole).locateElem whole g = .ok k ∧ k.unit = m ∧ k.inUnit ≤ o ∧ o < k.inUnit + whole.ew) ∧
    (∀ g < whole.count, ∀ k, (storesIn whole).locateElem whole g = .ok k → k.unit ∈ stripeUnits (rows.unit 0) →
      whole.done.testBit g = false ∧ k.unit ≠ parityUnit (rows.unit 0) ∧ k.inUnit + whole.ew ≤ 1024 ∧
      ∀ h < whole.count, ∀ j, (storesIn whole).locateElem whole h = .ok j → j.unit = k.unit → g = h ∨ j.inUnit + whole.ew ≤ k.inUnit ∨
        k.inUnit + whole.ew ≤ j.inUnit) := by
  have hc : whole.count = 1408 := by decide +kernel
  have hw : whole.ew = 8 := by decide +kernel
  have hd : whole.done = 0 := by decide +kernel
  refine ⟨restsWith_of (canonical_withRegion _) (by decide +kernel), fun m hm hp o ho => ?_, fun g hg k hk _ => ?_⟩
  · have : ∀ m ∈ stripeUnits (rows.unit 0), m ≠ parityUnit (rows.unit 0) → ∃ j < 11, rows.unit j = m := by decide +kernel
    obtain ⟨j, hj, rfl⟩ := this m hm hp
    refine ⟨128 * j + o / 8, by rw [hc]; omega, _, whole_at _ (by omega), ?_, ?_, ?_⟩
    · show rows.unit (8 * (128 * j + o / 8) / 1024) = rows.unit j
      congr 1; omega
    · show 8 * (128 * j + o / 8) % 1024 ≤ o; omega
    · rw [hw]; show o < 8 * (128 * j + o / 8) % 1024 + 8; omega
  · rw [hc] at hg
    have e : k = ⟨rows, 8 * g⟩ := by have := whole_at g hg; rw [hk] at this; exact Except.ok.inj this
    subst e
    refine ⟨by rw [hd]; simp, (rows_placed (8 * g / 1024) (by omega)).1.2, by rw [hw]; show 8 * g % 1024 + 8 ≤ 1024; omega, fun h hh j hj hu => ?_⟩
    rw [hc] at hh
    have e : j = ⟨rows, 8 * h⟩ := by have := whole_at h hh; rw [hj] at this; exact Except.ok.inj this
    subst e
    have := (rows_placed (8 * h / 1024) (by omega)).2 (8 * g / 1024) (by omega) hu
    rw [hw]; show g = h ∨ 8 * h % 1024 + 8 ≤ 8 * g % 1024 ∨ 8 * g % 1024 + 8 ≤ 8 * h % 1024
    omega

/-- One unit copied from the region at 0x400000 to the one at 0x600000. -/
def copying : Query := { itemOf .copy with sent := true, sd := 0x600000, qlen := 1024 }
def copies : State := engines (withTwo rows rows) [copying]

theorem test_hyp_copy_chunk : restsWith copies copying ∧ 0 < copying.nchunks ∧ copying.chunks.testBit 0 = false ∧ copying.copyUnits 0 = [0] ∧
    (∃ a, copies.locate copying.asid copying.wid (copying.sa + word 0) false false = .ok a ∧ a.unit = rows.unit 0) ∧
    copies.copyDst copying (copying.sd + word 0) = .ok (.here ({ rows with ubase := 1 }.unit 0)) ∧ dataUnit ({ rows with ubase := 1 }.unit 0) := by
  have h : okAnd (copies.locate copying.asid copying.wid (copying.sa + word 0) false false) (fun a => decide (a.unit = rows.unit 0)) = true := by
    decide +kernel
  have h' : okAnd (copies.copyDst copying (copying.sd + word 0)) (fun a => decide (a = .here ({ rows with ubase := 1 }.unit 0))) = true := by
    decide +kernel
  obtain ⟨a, ha, e⟩ := of_okAnd h
  obtain ⟨b, hb, e'⟩ := of_okAnd h'
  exact ⟨restsWith_of (by unfold State.canonicalMemory; decide +kernel) (by decide +kernel), by decide +kernel, by decide +kernel, by decide +kernel, ⟨a, ha, of_decide_eq_true e⟩,
    by rw [hb, of_decide_eq_true e'], by unfold dataUnit; decide +kernel⟩

/-- The program that adds 1, over a slab. -/
def adding : Query := { itemOf .eval with sent := true, prog := addOne, qlen := 2 }
def adds : State := engines evaluated [adding]

theorem test_hyp_eval_element : restsWith adds adding ∧ adds.regionAt adding.asid adding.sa = some { rows with slab := true, rows := 12 } ∧
    adding.prog.length = 96 ∧ evalTy adding.prog = some (.int true 64) ∧ evalOff adding.prog 0 = 0 ∧
    evalOps adding.prog = [0x44, 0x70, 0x01, 0x80] ++ List.replicate 20 0 ∧ 0 < adding.count ∧ adding.done.testBit 0 = false ∧
    (adding.sa - adds.regionBase adding.asid adding.sa).toNat + 8 * 0 = 0 ∧
    ∃ l, adds.locate adding.asid adding.wid (adds.regionBase adding.asid adding.sa + word 0) true false = .ok l ∧
      l.region = { rows with slab := true, rows := 12 } ∧ dataUnit l.unit ∧ l.inUnit + 8 ≤ 1024 := by
  have h : okAnd (adds.locate adding.asid adding.wid (adds.regionBase adding.asid adding.sa + word 0) true false) (fun l =>
      decide (l.region = { rows with slab := true, rows := 12 } ∧ (l.unit ∈ stripeUnits l.unit ∧ l.unit ≠ parityUnit l.unit) ∧ l.inUnit + 8 ≤ 1024)) = true := by
    decide +kernel
  obtain ⟨l, hl, e⟩ := of_okAnd h
  have e := of_decide_eq_true e
  exact ⟨restsWith_of (by unfold State.canonicalMemory; decide +kernel) (by decide +kernel), by decide +kernel, by decide +kernel, by decide +kernel,
    by decide +kernel, by decide +kernel, by decide +kernel, by decide +kernel, by decide +kernel, l, hl, e.1, ⟨e.2.1.1, e.2.1.2⟩, e.2.2⟩

/-- A compare-and-swap of two elements, both performed. -/
def swapped : Query := { itemOf .cas with sent := true, flim := 2, applied := 3, done := 3, ok := 2 }

theorem test_hyp_cas_reply : restsWith (storesIn swapped) swapped ∧ 0 < swapped.nchunks ∧ swapped.chunks.testBit 0 = false ∧
    (∀ g ∈ swapped.positions 0, swapped.done.testBit g = true) ∧ swapped.tv < 64 :=
  ⟨restsWith_of (canonical_withRegion _) (by decide +kernel), by decide +kernel, by decide +kernel, by decide +kernel, by decide +kernel⟩

/-! Collections. -/

def collection (q : Query) : State := engines (withRegion codes) [q]

theorem canonical_collection (q : Query) : (collection q).canonicalMemory := by
  have h : (withRegion codes).canonicalMemory := by unfold State.canonicalMemory; decide +kernel
  exact h

theorem test_hyp_collection : placed codes ∧ 1 ≤ codes.units ∧ codes.merging = false := by unfold placed dataUnit; decide +kernel

theorem test_hyp_item_step : beforeItemStep (collection { itemOf .hamm with sent := true }) { itemOf .hamm with sent := true } codes ∧
    QOp.hamm.isWrite = false ∧ beforeItemStep (collection { itemOf .merge with sent := true }) { itemOf .merge with sent := true } codes := by
  unfold beforeItemStep; decide +kernel

/-- Five rows are all the side list holds; six are one too many. -/
def appending (n : BitVec 49) : Query := { itemOf .append with sent := true, qlen := n }

theorem test_hyp_append_step : beforeItemStep (collection (appending 5)) (appending 5) codes ∧
    inRegionAt (collection (appending 5)) codes 0x28 8 + (appending 5).n ≤ codes.side ∧
    codes.side < inRegionAt (collection (appending 6)) codes 0x28 8 + (appending 6).n ∧ distinctPlayers (collection (appending 6)) ∧
    okAnd ((collection (appending 5)).locate 0 0 ((collection (appending 5)).regionBase 0 0x400000) true false) (fun _ => true) = true := by
  unfold beforeItemStep distinctPlayers; decide +kernel

/-- The rows of the append have been reserved. -/
def reserved : Query := { appending 4 with item := some 5 }

theorem test_hyp_append_row : restsWith (collection reserved) reserved ∧ (collection reserved).regionAt reserved.asid reserved.sa = some codes ∧
    0 < reserved.count ∧ reserved.done.testBit 0 = false ∧ 0 < codes.rowBytes ∧ codes.rowOff 5 + codes.rowBytes ≤ codes.units * 1024 ∧
    ∀ j < codes.rowBytes, (collection reserved).locate reserved.asid reserved.wid
      ((collection reserved).regionBase reserved.asid reserved.sa + word (codes.rowOff 5 + j)) true false = .ok ⟨codes, codes.rowOff 5 + j⟩ := by
  have h : ∀ j < codes.rowBytes, okAnd ((collection reserved).locate reserved.asid reserved.wid
      ((collection reserved).regionBase reserved.asid reserved.sa + word (codes.rowOff 5 + j)) true false)
      (fun l => decide (l = ⟨codes, codes.rowOff 5 + j⟩)) = true := by decide +kernel
  refine ⟨restsWith_of (canonical_collection _) (by decide +kernel), by decide +kernel, by decide +kernel, by decide +kernel, by decide +kernel, by decide +kernel, fun j hj => ?_⟩
  obtain ⟨l, hl, e⟩ := of_okAnd (h j hj)
  rw [hl, of_decide_eq_true e]

/-- All four rows stand in the side list. -/
def appended : Query := { reserved with done := 15, applied := 15 }

theorem test_hyp_count_raise : restsWith (collection appended) appended ∧ appended.count ≠ 0 ∧ appended.chunks.testBit 0 = false ∧
    (∀ f < appended.count, appended.done.testBit f = true) ∧ appended.tq < 64 ∧ codes.body ≤ 5 + appended.n ∧
    (∀ x ∈ (collection appended).allQueries, x.id = appended.id) :=
  ⟨restsWith_of (canonical_collection _) (by decide +kernel), by decide +kernel, by decide +kernel, by decide +kernel, by decide +kernel, by decide +kernel, by decide +kernel⟩

/-- A merge into a second collection. -/
def merging (done : Nat) : Query := { itemOf .merge with sent := true, item := some 0, sd := 0x600000, done := done, applied := done }
def merges (done : Nat) : State := engines (withTwo codes codes) [merging done]
def codes2 : Region := { codes with id := 2, ubase := 1 }

theorem test_hyp_merge_copy : restsWith (merges 0) (merging 0) ∧ (merges 0).regionAt (merging 0).asid (merging 0).sd = some codes2 ∧ placed codes2 ∧
    (∀ i < codes.units, ∀ j < codes2.units, unitRow (codes.unit i) ≠ unitRow (codes2.unit j)) ∧
    codes2.rowBytes = codes.rowBytes ∧
    (let rows := List.range (codes.body + inRegionAt (merges 0) codes 0x20 8)
     (rows.filter (fun i => !(inRegionAt (merges 0) codes (codes.tombOff + i / 8) 1).testBit (i % 8))).length ≤ codes2.body ∧
     ∀ i ∈ rows, codes.rowOff i + codes.rowBytes ≤ codes.units * 1024 ∧ codes.tombOff + i / 8 < codes.units * 1024) ∧
    1024 + codes2.body * codes.rowBytes ≤ codes2.units * 1024 := by
  refine ⟨restsWith_of (by unfold State.canonicalMemory; decide +kernel) (by decide +kernel), by decide +kernel, by unfold placed dataUnit; decide +kernel, by decide +kernel, by decide +kernel,
    by decide +kernel, by decide +kernel⟩

theorem test_hyp_merge_switch : restsWith (merges 1) (merging 1) ∧ (merges 1).regionAt (merging 1).asid (merging 1).sd = some codes2 ∧
    (∀ x ∈ (merges 1).allQueries, x.id = (merging 1).id) :=
  ⟨restsWith_of (by unfold State.canonicalMemory; decide +kernel) (by decide +kernel), by decide +kernel, by decide +kernel⟩

/-! ### The matrix array -/

/-- The attached player with work in its accumulator, `served` rows of the oldest step served. -/
def working' (served : Nat) (w : List MxWork) : State :=
  { attached with me := { attached.me with accum := [⟨attached.me.grant, 0, 0, 0, 0, 0, 0, 0, w, served, true⟩] } }

theorem onlyStep_of (served : Nat) (w : List MxWork) :
    OnlyStep (working' served w) (working' served w).me ⟨attached.me.grant, 0, 0, 0, 0, 0, 0, 0, w, served, true⟩ [] :=
  ⟨List.nodup_singleton _, List.mem_cons_self .., (by decide : attached.me.live = true), (by decide : attached.me.frozen = false), rfl, rfl,
    fun _ hq _ hn => absurd (congrArg Player.id (List.mem_singleton.mp hq)) hn⟩

theorem test_hyp_matrix_zero : ∃ a, a.work = .zero :: [] ∧ OnlyStep (working' 0 [.zero]) (working' 0 [.zero]).me a [] :=
  ⟨_, rfl, onlyStep_of 0 [.zero]⟩

/-- One rank-1 step with every row and column active. -/
def rankOne : MxWork := .op false false 0 0 (2 ^ 16 - 1) 0 0

theorem test_hyp_matrix_cycle : (∃ a, a.work = rankOne :: [] ∧ OnlyStep (working' 0 [rankOne]) (working' 0 [rankOne]).me a [] ∧
      a.grant.rows.toNat - a.served ≤ (rowsOf a.grant.family.group)) :=
  ⟨_, rfl, onlyStep_of 0 [rankOne], by decide⟩

/-- A grant of the `fp64` family with more rows than a cycle serves. -/
def tall : State :=
  let g : Grant := ⟨true, 0, 16, 4, 11, 11, 64, 16⟩
  { attached with me := { attached.me with grant := g, accum := [⟨g, 0, 0, 0, 0, 0, 0, 0, [rankOne], 0, true⟩] } }

theorem test_hyp_matrix_tall : (∃ a, OnlyStep tall tall.me a [] ∧ a.work = rankOne :: [] ∧ rowsOf a.grant.family.group < a.grant.rows.toNat - a.served) :=
  ⟨_, ⟨List.nodup_singleton _, List.mem_cons_self .., (by decide : attached.me.live = true), (by decide : attached.me.frozen = false), rfl, rfl,
    fun _ hq _ hn => absurd (congrArg Player.id (List.mem_singleton.mp hq)) hn⟩, rfl, by decide⟩

theorem test_hyp_matrix_back : distinctPlayers (working' 0 [.back true 3 7 0 0]) ∧ (working' 0 [.back true 3 7 0 0]).me.frozen = false ∧
    (let g := attached.me.grant
     g.acc.toNat + g.asize.toNat ≤ 64 ∧ (64 * 0 + 64) * g.family.acc.width ≤ g.asize.toNat * (2048 * g.rows.toNat) ∧
       g.rows.toNat = attached.me.lanes ∧ ∀ k < 64, (0 : Nat).testBit ((64 * 0 + k) / g.cols.toNat) = false) ∧
    (∀ (r : Nat) (h : r < 64), attached.me.tregs[r] < 2 ^ (2048 * attached.me.grant.rows.toNat)) := by
  refine ⟨by unfold distinctPlayers; decide, by decide, by decide +kernel, ?_⟩
  have h : ∀ r : Fin 64, attached.me.tregs[r] < 2 ^ (2048 * attached.me.grant.rows.toNat) := by decide +kernel
  exact fun r hr => h ⟨r, hr⟩

theorem test_hyp_matrix_poison : (∃ k < 64, (1 : Nat).testBit ((64 * 0 + k) / attached.me.grant.cols.toNat) ≠ false) ∧ attached.me.afq.length < 16 := by
  decide

/-! ### Transfers -/

/-- Eight bytes copied within the writable page. -/
def copyOne : Xfer := { transfer (strip 2 20) .copy 0x2040 0x2000 8 3 with }

/-- The transfer in the engine; a read-only host page at 0x5000. -/
def transfers (x : Xfer) : State :=
  let s := strip 2 20
  { s with vm := s.vm.map 0 0x5000 0 (BitVec.ofNat 64 (0xB + 7 * 2 ^ 12)), eng := { s.eng with xfers := [x], nextItem := 9 }
           dev := { s.dev with linkUp := true } }

theorem inEngine_of {s : State} {x : Xfer} (h : decide (s.xfer? x.id = some x) && !x.fault && !x.stopped && decide (x.pip < 64) && decide (x.ending = none) &&
    decide (s.players.map (fun p => p.wbuf) = [[]]) && decide (s.mem.arrivals = []) && decide (s.allQueries = []) &&
    decide (s.qm.recon = []) && decide (s.eng.queries = []) = true) : inEngine s x ∧ settled s := by
  simp only [Bool.and_eq_true, decide_eq_true_eq, Bool.not_eq_true'] at h
  obtain ⟨⟨⟨⟨⟨⟨⟨⟨⟨h1, h2⟩, h3⟩, h4⟩, he⟩, h5⟩, h6⟩, h7⟩, h8⟩, h9⟩ := h
  refine ⟨⟨h1, h2, he, h3, h4, fun p hp _ => ?_, fun a ha => (by rw [h6] at ha; cases ha)⟩, fun q hq => (by rw [h7] at hq; cases hq),
    fun q hq => (by rw [h9] at hq; cases hq), fun r hr => (by rw [h8] at hr; cases hr)⟩
  have : p.wbuf ∈ s.players.map (fun p => p.wbuf) := List.mem_map_of_mem hp
  rw [h5, List.mem_singleton] at this; exact this

theorem pieces_of {s : State} {x : Xfer} {c : Nat} {ps : List Piece'} (h : okAnd (s.pieces x c) (fun y => decide (y = ps)) = true) :
    s.pieces x c = .ok ps := by
  obtain ⟨y, hy, e⟩ := of_okAnd h
  rw [hy, of_decide_eq_true e]

theorem canonical_transfers (x : Xfer) : (transfers x).canonicalMemory := by
  have h : (strip 2 20).canonicalMemory := by unfold State.canonicalMemory; decide +kernel
  exact h

theorem test_hyp_chunk_in_scratchpad : inEngine (transfers copyOne) copyOne ∧ settled (transfers copyOne) ∧ mayStart (transfers copyOne) copyOne 0 ∧
    ∃ ps, (transfers copyOne).pieces copyOne 0 = .ok ps ∧ toSpad ps ∧ ∀ p ∈ ps, ∀ l ∈ p.srcs, ∀ a, l.1 ≠ .host a := by
  have h := inEngine_of (s := transfers copyOne) (x := copyOne) (by decide +kernel)
  refine ⟨h.1, h.2, by unfold mayStart writesBefore; decide +kernel, [⟨(List.range 8).map (fun i => (.spad (0x1000 + i), word (0x2000 + i))), .spad 0x1040, 0x2040⟩],
    pieces_of (by decide +kernel), ⟨?_, List.pairwise_singleton _ _⟩, ?_⟩
  · intro p hp; rw [List.mem_singleton] at hp; subst hp; exact ⟨_, rfl⟩
  · intro p hp l hl a; rw [List.mem_singleton] at hp; subst hp
    obtain ⟨i, _, rfl⟩ := List.mem_map.mp hl
    intro e; cases e

/-- The same from the host page; the second has its read under way. -/
def hostCopy : Xfer := { copyOne with src := 0x5000 }
def hostRead : Xfer := { hostCopy with reading := [0] }

theorem test_hyp_chunk_from_host : inEngine (transfers hostCopy) hostCopy ∧ mayStart (transfers hostCopy) hostCopy 0 ∧
    (transfers hostCopy).dev.linkUp = true ∧ ∃ ps, (transfers hostCopy).pieces hostCopy 0 = .ok ps ∧
      ∃ p ∈ ps, ∃ l ∈ p.srcs, ∃ a, l.1 = .host a := by
  refine ⟨(inEngine_of (by decide +kernel)).1, by unfold mayStart writesBefore; decide +kernel, by decide +kernel,
    [⟨(List.range 8).map (fun i => (.host (0x7000 + i), word (0x5000 + i))), .spad 0x1040, 0x2040⟩], pieces_of (by decide +kernel), _, List.mem_singleton.mpr rfl,
    (.host 0x7000, 0x5000), by decide, _, rfl⟩

theorem test_hyp_host_read : inEngine (transfers hostRead) hostRead ∧ settled (transfers hostRead) ∧ 0 ∈ hostRead.reading ∧ 0 ∉ hostRead.flushing ∧
    ∃ ps, (transfers hostRead).pieces hostRead 0 = .ok ps ∧ toSpad ps := by
  have h := inEngine_of (s := transfers hostRead) (x := hostRead) (by decide +kernel)
  refine ⟨h.1, h.2, by decide, by decide, [⟨(List.range 8).map (fun i => (.host (0x7000 + i), word (0x5000 + i))), .spad 0x1040, 0x2040⟩], pieces_of (by decide +kernel), ?_,
    List.pairwise_singleton _ _⟩
  intro p hp; rw [List.mem_singleton] at hp; subst hp; exact ⟨_, rfl⟩

/-- Eight bytes put to a writable host page. -/
def putOne : Xfer := { transfer (strip 2 20) .put 0x6000 5 8 3 with }
def puts (x : Xfer) : State := { transfers x with vm := (transfers x).vm.map 0 0x6000 0 (BitVec.ofNat 64 (0x1B + 8 * 2 ^ 12)) }

theorem test_hyp_put : inEngine (puts putOne) putOne ∧ settled (puts putOne) ∧ mayStart (puts putOne) putOne 0 ∧
    (puts putOne).dev.linkUp = true ∧ ∃ p, (puts putOne).pieces putOne 0 = .ok [p] ∧ p.dst = .host 0x8000 := by
  have h := inEngine_of (s := puts putOne) (x := putOne) (by decide +kernel)
  exact ⟨h.1, h.2, by unfold mayStart writesBefore; decide +kernel, by decide +kernel,
    ⟨(natToBytes 5 8).map (fun b => (.imm b, 0)), .host 0x8000, 0x6000⟩, pieces_of (by decide +kernel), rfl⟩

/-- The source is mapped nowhere. -/
def lostCopy : Xfer := { copyOne with src := 0x7000 }

theorem test_hyp_chunk_fault : inEngine (transfers lostCopy) lostCopy ∧ mayStart (transfers lostCopy) lostCopy 0 ∧
    distinctPlayers (transfers lostCopy) ∧ unremoved (transfers lostCopy) lostCopy ∧
    okAnd ((transfers lostCopy).pieces lostCopy 0) (fun _ => true) = false :=
  ⟨(inEngine_of (by decide +kernel)).1, by unfold mayStart writesBefore; decide +kernel, by unfold distinctPlayers; decide +kernel,
    by unfold unremoved; decide +kernel, by decide +kernel⟩

theorem test_hyp_chunk_lands : inEngine (transfers { copyOne with flushing := [0] }) { copyOne with flushing := [0] } ∧
    inEngine (transfers { copyOne with acking := [0] }) { copyOne with acking := [0] } ∧
    settled (transfers { copyOne with acking := [0] }) ∧ (transfers { copyOne with acking := [0] }).query? copyOne.id = none ∧
    unremoved (transfers { copyOne with acking := [0] }) { copyOne with acking := [0] } := by
  have h := inEngine_of (s := transfers { copyOne with acking := [0] }) (x := { copyOne with acking := [0] }) (by decide +kernel)
  exact ⟨(inEngine_of (by decide +kernel)).1, h.1, h.2, by decide +kernel, by unfold unremoved; decide +kernel⟩

def barrier : Xfer := transfer (strip 2 20) .bar 0 0 0 3

theorem test_hyp_xbar : inEngine (transfers barrier) barrier ∧ barrier.chunks = 1 ∧ barrier.done = 0 ∧ barrier.flagOwed = false ∧
    (transfers barrier).heldUp barrier.owner = false ∧ ∀ y ∈ (transfers barrier).eng.xfers, y.owner = barrier.owner → y.id = barrier.id :=
  ⟨(inEngine_of (by decide +kernel)).1, by decide, by decide, by decide, by decide +kernel, by decide +kernel⟩

/-- Every chunk has performed; the flag is owed. -/
def flagging : Xfer := { copyOne with done := 1, flagOwed := true, flagA := 0x2080, flagV := 7 }

theorem test_hyp_flag : inEngine (transfers flagging) flagging ∧ settled (transfers flagging) ∧ (transfers flagging).canonicalMemory ∧
    (∀ k < flagging.chunks, flagging.done.testBit k = true) ∧ (transfers flagging).allQueries = [] ∧ canonicalVa flagging.flagA = true ∧
    (∀ l, (transfers flagging).vm.leaf flagging.asid (vaIndex flagging.dst) = some l → l.space = .spad) ∧
    ∃ l, (transfers flagging).vm.leaf flagging.asid (vaIndex flagging.flagA) = some l ∧ l.space = .spad ∧ l.wtag = flagging.wid ∧
      l.w = true ∧ l.phys flagging.flagA = 0x1080 := by
  have h := inEngine_of (s := transfers flagging) (x := flagging) (by decide +kernel)
  have hl : ((transfers flagging).vm.leaf flagging.asid (vaIndex flagging.dst)).map (fun l => l.space) = some .spad := by decide +kernel
  exact ⟨h.1, h.2, canonical_transfers _, by decide +kernel, by decide +kernel, by decide +kernel, fun l e => by rw [e] at hl; exact Option.some.inj hl,
    Leaf.ofEntry 0 (spadEntry 1 0 true false), by decide +kernel⟩

/-- Port 11 is keyed and carries world 0. -/
def keyed : State :=
  let s := strip 2 20
  { s with cp := { s.cp with ports := s.cp.ports.set 11 { Port.reset with trained := true, keyed := true, world := some 0 } } }

theorem test_hyp_frame : (keyed.portAt 11).keyed = true ∧ (keyed.portAt 11).lost = false ∧ ownPages keyed 11 0x1000 8 ∧
    keyed.canonicalMemory ∧ (keyed.portAt 11).frames + 1 < 2 ^ 30 := by
  unfold State.canonicalMemory
  refine ⟨by decide +kernel, by decide +kernel, fun i hi => ⟨0, ?_, by decide +kernel⟩, by decide +kernel, by decide +kernel⟩
  have : ∀ i < 8, 0 ∈ keyed.pageTags (0x1000 + i) := by decide +kernel
  exact this i hi

theorem test_hyp_frame_astray : ¬ownPages { keyed with cp := { keyed.cp with ports := keyed.cp.ports.set 11 { Port.reset with
    trained := true, keyed := true, world := some 3 } } } 11 0x1000 8 := by
  intro h
  obtain ⟨w, h1, h2⟩ := h 0 (by decide)
  have : ∀ w ∈ keyed.pageTags 0x1000, w = 0 := by decide +kernel
  rw [this w h1] at h2; revert h2; decide +kernel

/-! ### Held instructions, remaps, translation -/

/-- A held transfer that is to be accepted again. -/
def reaccepts (h : Held) : State :=
  let s := strip 2 20
  { s with eng := { s.eng with resumed := [(s.me.id, h)], arrivals := [(s.me.id, h.eng)], nextItem := 9 } }

theorem test_hyp_reaccept : (∀ h ∈ [Held.xfer { copyOne with fault := true }, .query { itemOf .dot with fault := true }],
      ((reaccepts h).player? start.me.id).isSome ∧ ((reaccepts h).players.map (fun p => p.id)).Nodup ∧
      (reaccepts h).eng.resumed = [] ++ (start.me.id, h) :: [] ∧ (reaccepts h).eng.arrivals = (start.me.id, h.eng) :: [] ∧
      ((reaccepts h).focus start.me.id).slotFree h.eng start.me.id = true) ∧ copyOne.owner = start.me.id ∧
    (itemOf .dot).owner = start.me.id := by decide +kernel

theorem mem_of_lookupNat {α : Type} {k : Nat} {x : α} : ∀ {l : List (Nat × α)}, lookupNat k l = some x → (k, x) ∈ l
  | [], h => by cases h
  | (j, y) :: l, h => by
    unfold lookupNat at h
    split at h
    · next e => cases h; cases e; exact List.mem_cons_self ..
    · exact List.mem_cons_of_mem _ (mem_of_lookupNat h)

/-- Does a table entry point at a table? -/
def isPointer (e : BitVec 64) : Bool := e.getLsbD 0 && !e.getLsbD 1
def pointee (e : BitVec 64) : Nat := e.toNat / 2 ^ 12 % 2 ^ 45

theorem trees_of {v : Vm} (h1 : ∀ x ∈ v.tables, ∀ y ∈ v.tables, isPointer x.2 = true → isPointer y.2 = true → pointee x.2 = pointee y.2 → x.1 = y.1)
    (h2 : ∀ x ∈ v.tables, isPointer x.2 = true → entryOk x.2 = true ∧ pointee x.2 < v.nextTable ∧ ∀ r ∈ v.roots, r.2.2 ≠ pointee x.2)
    (h3 : ∀ x ∈ v.tables, x.1 < v.nextTable * 512)
    (h4 : (v.roots.map (fun r => r.1)).Nodup ∧ (v.roots.map (fun r => r.2.2)).Nodup ∧ (∀ r ∈ v.roots, r.2.2 < v.nextTable) ∧
      v.nextTable < 2 ^ 44 ∧ v.cache = []) : trees v := by
  have key : ∀ {a i t}, points v a i t → (a * 512 + i, v.entry a i) ∈ v.tables ∧ isPointer (v.entry a i) = true := by
    intro a i t ⟨_, hV, hL, _⟩
    refine ⟨?_, by unfold isPointer; rw [hV, hL]; rfl⟩
    unfold Vm.entry at hV ⊢
    cases e : lookupNat (a * 512 + i) v.tables with
    | none => rw [e] at hV; simp at hV
    | some x => exact mem_of_lookupNat e
  refine ⟨fun a i b j t ha hb => ?_, fun a i t ha => (h2 _ (key ha).1 (key ha).2).1, fun a i t ha => ?_, h4.1, h4.2.1, h4.2.2.1, fun a i ha hi => ?_, h4.2.2.2.1,
    fun c hc => (by rw [h4.2.2.2.2] at hc; cases hc)⟩
  · have := h1 _ (key ha).1 _ (key hb).1 (key ha).2 (key hb).2 (ha.2.2.2.trans hb.2.2.2.symm)
    have hi := ha.1; have hj := hb.1
    simp only at this
    omega
  · have := (h2 _ (key ha).1 (key ha).2).2
    rw [← ha.2.2.2]; exact this
  · unfold Vm.entry
    cases e : lookupNat (a * 512 + i) v.tables with
    | none => rfl
    | some x => have := h3 _ (mem_of_lookupNat e); simp only at this; omega

theorem trees_start : trees start.vm := trees_of (by decide +kernel) (by decide +kernel) (by decide +kernel) (by decide +kernel)

/-- A remap of the page at 0x400000 to the one at 0x600000, with a query under way or none. -/
def remapping (qs : List Query) : State :=
  let s := engines (withTwo rows rows) qs
  { s with me := { s.me with waiting := some (.putsrQrmv 1), q := { s.me.q with qrmt := 0x600000 } } }

theorem trees_remapping (qs : List Query) : trees (remapping qs).vm := by
  have h : trees (withTwo rows rows).vm := trees_of (by decide +kernel) (by decide +kernel) (by decide +kernel) (by decide +kernel)
  exact h

theorem test_hyp_remap_switch : WaitsIn (remapping []) start.me.id (.putsrQrmv 1) ∧ drained (remapping []) 0 ∧
    (let s := remapping []
     ∃ x y r w, s.vm.leaf 0 (vaIndex 0x400000) = some x ∧ s.vm.leaf 0 (vaIndex 0x600000) = some y ∧ x.space = .qm ∧ y.space = .qm ∧ x.level = y.level ∧
      s.qm.region? (x.frame / 2 ^ 20 % 2 ^ 16) = some r ∧ s.qm.region? (y.frame / 2 ^ 20 % 2 ^ 16) = some w ∧ r.retired = false ∧
      w.retired = false ∧ pageOf x 0x400000 ≠ pageOf y 0x600000) := by
  unfold WaitsIn drained
  refine ⟨by decide +kernel, by decide +kernel, Leaf.ofEntry 1 (BitVec.ofNat 64 (0x17 + 2 ^ 32)), Leaf.ofEntry 1 (BitVec.ofNat 64 (0x17 + 2 * 2 ^ 32)),
    rows, { rows with id := 2, ubase := 1 }, by decide +kernel⟩

theorem test_hyp_remap_waits : WaitsIn (remapping [aloft]) start.me.id (.putsrQrmv 1) ∧ ¬drained (remapping [aloft]) 0 := by
  refine ⟨by unfold WaitsIn; decide +kernel, fun h => ?_⟩
  have := h.2.1 aloft (by decide +kernel) (by decide +kernel)
  revert this; decide

theorem test_hyp_export : trees (remapping []).vm ∧ ({ remapping [] with vm := { (remapping []).vm with exporting := some (0, 0x400000) } } : State).vm.exporting =
    some (0, 0x400000) ∧ ((remapping []).vm.leaf 0 0x400000).isSome ∧ (0x400000 : Nat) < 2 ^ 57 :=
  ⟨trees_remapping _, by decide +kernel, by decide +kernel, by decide⟩

/-! ### Stacks and rows -/

theorem test_hyp_rows : rowExists 11 63 1310719 ∧ ¬rowExists 12 0 0 ∧ ¬rowExists 0 64 0 ∧ ¬rowExists 0 0 1310720 := by
  unfold rowExists; decide

theorem test_hyp_scrub : (strip 2 20).qm.unav = false ∧ (strip 2 20).qm.lost ≠ some 11 ∧ unitNo 11 63 1310719 ∉ (strip 2 20).qm.bad ∧
    unitNo 1 0 0 ∈ unreadable.qm.bad ∧ unreadable.qm.lost = none ∧ (∀ m ∈ stripeUnits (unitNo 1 0 0), m ≠ unitNo 1 0 0 → m ∉ unreadable.qm.bad) ∧
    (∀ d ∈ unreadable.qm.deltas, d.pc ≠ 0 ∨ d.row ≠ 0) ∧ (∀ x ∈ unreadable.qm.recon, x.2 < 16) := by decide +kernel

theorem test_hyp_stack_lost : 11 ∉ start.dev.lostStacks ∧ start.qm.lost = none ∧ start.qm.losing = none ∧
    ({ start with qm := { start.qm with lost := some 0 } } : State).qm.lost ≠ none := by decide

/-- Stack 0 is being lost; a delta for it still stands in its queue. -/
def losing : State := { withRegion rows with qm := { (withRegion rows).qm with losing := some 0, deltas := [delta 0] } }

theorem test_hyp_degraded : losing.qm.losing = some 0 ∧ (∀ d ∈ losing.qm.deltas, d.stack = 0) ∧ losing.qm.held = [] ∧ losing.qm.bad = [] ∧
    losing.qm.unav = false ∧ (∀ x ∈ losing.qm.recon, x.2 ≤ 16) ∧ (∀ q ∈ losing.allQueries, q.applied = q.done) ∧
    rows.unit 0 ∈ stripeUnits (rows.unit 0) ∧ stripeXor losing (rows.unit 0) = 0 ∧
    ∃ d ∈ ({ losing with qm := { losing.qm with losing := some 1 } } : State).qm.deltas, d.stack ≠ 1 := by decide +kernel

/-! ### Pre-emption -/

/-- The only party of launch 1, on cluster 0. -/
def party (saved : Nat) : Party := ⟨1, 0, 0, 0x3000, 0, 0, [(0, 2)], saved, 0⟩

def running (saved : Nat) : State := { marked with cp := { marked.cp with parties := [party saved], switching := [(0, 3)] } }

theorem test_hyp_preempt : theParty (running 0) (party 0) ∧ (party 0).saved = 0 ∧ staying (running 0) 1 ∧
    (lookupNat (party 0).cluster (running 0).cp.switching).isSome := by
  unfold theParty staying; decide +kernel

theorem test_hyp_preempt_none : let s := { running 0 with cp := { (running 0).cp with switching := [] } }
    theParty s (party 0) ∧ staying s 1 ∧ lookupNat 0 s.cp.switching = none ∧ ∀ k < 64, (party 0).level ≤ (s.queueAt k).level := by
  unfold theParty staying; decide +kernel

/-- The request waits; the player waits in an instruction or not. -/
def requested (w : Option Instr) : State := { marked with me := { marked.me with preempt := true, waiting := w, wbuf := [⟨0x1000, 8, 1, 255⟩] } }

theorem test_hyp_preempt_taken : ∀ w ∈ [none, some Instr.bar, some (.waitEq 1 2 3), some (.mxsync false 1 2)],
    let u := (requested w).focus marked.me.id
    ((requested w).player? marked.me.id).isSome ∧ u.me.live = true ∧ u.me.preempt = true ∧ u.me.hold = false ∧ u.me.frozen = false ∧
      (∀ a ∈ u.me.accum, a.served = 0) ∧ (∀ x ∈ u.eng.resumed, x.1 ≠ u.me.id) ∧ u.me.heldQueries = [] ∧ u.eng.queries = [] ∧
      u.eng.xfers = [] ∧ u.me.conv = none ∧ u.me.waiting = w := by
  decide +kernel

theorem test_hyp_broken_off : brokenOff .bar ∧ brokenOff (.waitEq 1 2 3) ∧ (tileDesc? (.mxsync false 1 2)).isSome = true ∧
    (requested none).canonicalMemory :=
  ⟨.inr (.inr (.inr rfl)), .inl ⟨1, 2, 3, .inl rfl⟩, by decide, by unfold State.canonicalMemory; decide +kernel⟩

theorem test_hyp_not_broken_off : ¬brokenOff (.fence 1 1) ∧ (tileDesc? (.fence 1 1)).isSome = false ∧
    ((requested (some (.fence 1 1))).focus marked.me.id).me.waiting = some (.fence 1 1) := by
  refine ⟨?_, by decide, by decide +kernel⟩
  rintro (⟨d, a, b, h⟩ | ⟨a, b, r, h⟩ | ⟨d, a, h⟩ | h)
  · rcases h with h | h | h | h | h <;> cases h
  · cases h
  · cases h
  · cases h

/-- The player is frozen. -/
def frozen (l : List Player) : State :=
  let s := running 1
  { s with me := { s.me with frozen := true }, others := l }

theorem test_hyp_save : distinctPlayers (frozen []) ∧ theParty (frozen []) (party 1) ∧ (frozen []).me ∈ (frozen []).players ∧ ofParty (party 1) (frozen []).me ∧
    (frozen []).me.live = true ∧ (frozen []).me.frozen = true ∧ (frozen []).me.place.wid < 65 ∧
    (frozen []).dev.warming = false ∧ (∀ y ∈ (frozen []).cp.images, y.player.id ≠ (frozen []).me.id) ∧
    (∀ y ∈ (frozen []).players, ofParty (party 1) y → y.live = true → y.id = (frozen []).me.id) := by
  unfold distinctPlayers theParty ofParty; decide +kernel

theorem test_hyp_save_first : let s := frozen [{ (frozen []).me with id := 9 }]
    distinctPlayers s ∧ ∃ y ∈ s.players, ofParty (party 1) y ∧ y.live = true ∧ y.id ≠ s.me.id ∧ ∀ i ∈ s.cp.images, i.player.id ≠ y.id := by
  unfold distinctPlayers ofParty
  exact ⟨by decide +kernel, { (frozen []).me with id := 9 }, by decide +kernel, by decide +kernel, by decide +kernel, by decide +kernel, by decide +kernel⟩

/-- An image of the party, in CONTEXT region 1. -/
def image (n : Nat) : Image := ⟨{ marked.me with id := n, frozen := true }, [], [], [], n, 1, 1⟩

/-- The region holds the header of an image of world 0 with save count 1, and nothing behind it. -/
def restoring (l : List Image) : State :=
  let s := running 3
  { s with
    cp := { s.cp with images := l }
    me := { s.me with frozen := true, preempt := true }
    qm := { s.qm with
      regions := [{ rows with cls := 3, world := 127 }]
      cells := s.qm.cells.write (rows.unit 0 * 1024) 32 (0x49585443 + 2 ^ 32 + 2 ^ (8 * 0x18)) } }

theorem test_hyp_restore : theParty (restoring [image 4]) (party 3) ∧ (party 3).saved = 3 ∧ staying (restoring [image 4]) 1 ∧
    (restoring [image 4]).dev.warming = false ∧
    image 4 ∈ (restoring [image 4]).cp.images ∧ ofParty (party 3) (image 4).player ∧
    (∀ y ∈ (restoring [image 4]).cp.images, y.context = (image 4).context → y = image 4) ∧
    (restoring [image 4]).slotsUsed (party 3).cluster ≤ 1024 ∧ distinctPlayers (restoring [image 4]) ∧
    (restoring [image 4]).eng.xfers.length ≤ 256 := by
  unfold theParty staying ofParty distinctPlayers; decide +kernel

theorem test_hyp_restore_corrected :
    (((restoring [image 4]).damage (image 4) (.soft 0)).readImage (image 4)).1 = .corrected := by decide +kernel

theorem test_hyp_restore_clean : ((restoring [image 4]).readImage (image 4)).1 = .clean := by decide +kernel

theorem test_hyp_restore_refused :
    let m := { image 4 with count := 2 }
    ((restoring [m]).readImage m).1 = .refused ∧ ((restoring [m]).readImage { m with region := 2 }).1 = .unreadable := by decide +kernel

theorem test_hyp_restore_more : let s := restoring [image 4, image 5]
    (∀ y ∈ s.cp.images, y.context = (image 4).context → y = image 4) ∧ ∃ y ∈ s.cp.images, y ≠ image 4 ∧ ofParty (party 3) y.player := by
  unfold ofParty
  refine ⟨fun y hy e => ?_, image 5, by decide +kernel, by decide +kernel, by decide +kernel⟩
  rcases List.mem_cons.mp hy with rfl | h
  · rfl
  · rw [List.mem_singleton.mp h] at e; cases e

/-! ### World switches, removal -/

/-- Serves, with the module of the code page, one launch descriptor, and queues of world 0. -/
def desc : Desc := ⟨0x1000, 1, 2, 1, 64, false, Vector.replicate 8 0⟩
def module' : Module := ⟨5, true, false, 0, 0, 0, [(0x1000, 4)], [desc], []⟩
def queue : HostQueue := { HostQueue.reset with ringBase := 0x10000, ringEntries := 16, enable := true, compBase := 0x20000, compEntries := 16, tail := 2 }

def packet : Packet := ⟨.launch, true, false, 7, 5, 0, 0, 1, 0, 0, 0, 0, 0, Vector.replicate 8 0, none, none, false, none, false⟩

def serving (h : HostQueue) : State :=
  { start with
    dev := { start.dev with ready := true, linkUp := true, stage := 7 }
    cp := { start.cp with modules := module' :: start.cp.modules, queues := start.cp.queues.set 63 h } }

/-- The head of queue 63, of world 3, may run on die 0 only, whose clusters belong to world 2 or are passing to it;
a party runs on cluster 0. -/
def contested : State :=
  let s := serving { queue with world := 3, pending := [{ packet with dies := 1 }] }
  { s with cp := { s.cp with
    modules := [{ module' with world := 3 }]
    worlds := s.cp.worlds.set 3 { World.reset with st := .live }
    owners := (List.range 16).map (fun k => (k, 2))
    switching := (List.range 15).map (fun k => (k + 1, 2))
    parties := [{ party 0 with level := 1 }] } }

theorem test_hyp_world_switch : contested.switchChoice = some (0, 3) := by decide +kernel

theorem test_hyp_world_switch_none : start.switchChoice ≠ some (0, 3) := by decide +kernel

theorem test_hyp_world_switch_clear : lookupNat 0 (running 0).cp.switching = some 3 ∧
    (∃ p ∈ (running 0).players, p.live = true ∧ p.place.cluster = 0) ∧
    (∀ p ∈ ({ running 0 with cp := { (running 0).cp with switching := [(63, 3)] } } : State).players, p.live = true → p.place.cluster ≠ 63) := by
  refine ⟨by decide, ⟨(running 0).me, by decide, by decide, by decide⟩, by decide⟩

/-- Launch 1 under removal at step `k`. -/
def removed (k : Nat) : Launch := ⟨1, 63, 7, true, 0, 0, 5, desc, false, 0, 0, 1, 0, false, 1, 1, some (k, 4, 9), []⟩
def removes (k : Nat) : State :=
  let s := serving queue
  { s with me := { s.me with place := { s.me.place with launch := 1 } }, cp := { s.cp with launches := [removed k], parties := [party 0] } }

theorem test_hyp_removal : ∀ k < 8, inRemoval (removes k) (removed k) k ∧ distinctPlayers (removes k) := by
  intro k hk
  refine ⟨⟨⟨4, 9, rfl⟩, ?_⟩, ?_⟩
  · have : ∀ k < 8, (removes k).cp.launches.find? (fun x => x.id = (removed k).id) = some (removed k) := by decide +kernel
    exact this k hk
  · have : ∀ k < 8, ((removes k).players.map (fun p => p.id)).Nodup := by decide +kernel
    exact this k hk

theorem test_hyp_removal_counts : (removes 0).canonicalMemory ∧ (∀ a ∈ (removes 1).mem.arrivals, ¬(removes 1).inLaunch 1 a.1 = true) ∧
    (∀ x ∈ (removes 2).eng.xfers, (removes 2).inLaunch 1 x.owner = true → x.reading = [] ∧ x.flushing = [] ∧ x.acking = []) ∧
    (∀ q ∈ (removes 3).eng.queries, (removes 3).inLaunch 1 q.owner = true → q.op.isWrite = true) ∧
    (∀ p ∈ (removes 4).players, p.live = true → p.place.launch = 1 → p.accum = []) ∧
    (∀ q ∈ (removes 5).eng.queries, ¬(removes 5).inLaunch 1 q.owner = true) ∧
    (∀ p ∈ (removes 5).players, p.live = true → p.place.asid = (removed 5).asid → p.place.launch = (removed 5).id) ∧
    (removed 7).device = false ∧ (removed 7).cancels = [] ∧ (removed 7).cqe = true ∧ (removed 7).queue < 64 := by
  unfold State.canonicalMemory; decide +kernel

theorem test_hyp_removal_stall : let s := { removes 1 with mem := { (removes 1).mem with arrivals := [((removes 1).me.id, ⟨0x1000, 8, 1, 255⟩)] } }
    ∃ a ∈ s.mem.arrivals, inRemoval s (removed 1) 1 ∧ s.inLaunch 1 a.1 = true := by
  refine ⟨((removes 1).me.id, ⟨0x1000, 8, 1, 255⟩), by decide +kernel, ⟨⟨4, 9, rfl⟩, by decide +kernel⟩, by decide +kernel⟩

theorem test_hyp_removal_stack :
    let q : Query := { itemOf .st with sent := true, owner := (removes 5).me.id }
    let s := { removes 5 with
      eng := { (removes 5).eng with queries := [q] }, qm := { (removes 5).qm with held := [⟨delta 0, rows.unit 0, 5⟩] } }
    q ∈ s.eng.queries ∧ inRemoval s (removed 5) 5 ∧ s.inLaunch 1 q.owner = true ∧ s.qm.held.find? (fun h =>
        (s.eng.queries.filter (fun y => s.inLaunch 1 y.owner)).any (fun y => decide (y.id = h.delta.item))) = some ⟨delta 0, rows.unit 0, 5⟩ := by
  refine ⟨List.mem_singleton.mpr rfl, ⟨⟨4, 9, rfl⟩, by decide +kernel⟩, by decide +kernel, by decide +kernel⟩

/-! ### Packets -/

/-- The bytes of a packet at the head of queue 63's ring, and of one behind it. -/
def arrived (a b : List Byte) : State :=
  let s := serving { queue with fetching := 2 }
  { s with mem := { s.mem with host := ((s.mem.host.writeBytes 0x10000 a).writeBytes 0x10080 b) } }

theorem test_hyp_fetch : serves (serving queue) ∧ (serving queue).dev.linkUp = true ∧ ((serving queue).queueAt 63).enable = true ∧
    ((serving queue).worldAt ((serving queue).queueAt 63).world).st = .live ∧
    ((serving queue).queueAt 63).fetching < (((serving queue).queueAt 63).tail - ((serving queue).queueAt 63).head).toNat := by
  unfold serves; decide +kernel

theorem test_hyp_fetch_full : 256 ≤ ({ queue with pending := List.replicate 255 packet, fetching := 1 } : HostQueue).pending.length + 0 + 1 := by
  simp

theorem test_hyp_arrived : ∀ op ∈ [0, 1, 2, 3, 4, 16, 255], Arrived (arrived [BitVec.ofNat 8 op] [1]) 63 op ∧
    packetField (arrived [BitVec.ofNat 8 op] [1]) 63 1 0 1 = 1 ∧ (arrived [BitVec.ofNat 8 op] [1]).canonicalMemory ∧
    2 ≤ (((arrived [BitVec.ofNat 8 op] [1]).queueAt 63).tail - ((arrived [BitVec.ofNat 8 op] [1]).queueAt 63).head).toNat := by
  unfold Arrived State.canonicalMemory; decide +kernel

theorem test_hyp_mode_pairs : let s := arrived ([2] ++ List.replicate 7 0 ++ [1]) [1]
    ¬(1 < packetField s 63 0 1 1 ∨ packetField s 63 0 2 2 ≠ 0 ∨ 1 < packetField s 63 0 8 8 ∨ packetField s 63 0 0x10 112 ≠ 0) ∧
    1 < packetField (arrived [2, 2] [1]) 63 0 1 1 ∧ packetField (arrived [2] [3]) 63 1 0 1 ≠ 1 := by decide +kernel

/-- A CANCEL of tag 7, with an entry of its own. -/
def cancelling : State := arrived [3, 1, 0, 0, 9, 0, 0, 0, 7] []

theorem test_hyp_cancel_unknown : let s := cancelling
    Arrived s 63 3 ∧ hasRoom s 63 ∧ ¬(1 < packetField s 63 0 1 1 ∨ packetField s 63 0 2 2 ≠ 0 ∨ packetField s 63 0 12 4 ≠ 0 ∨
      packetField s 63 0 0x10 112 ≠ 0) ∧ BitVec.ofNat 32 (packetField s 63 0 8 4) = 7 ∧
    (∀ l ∈ s.cp.launches, ¬(l.queue = 63 ∧ l.device = false ∧ l.tag = 7)) ∧
    (∀ p ∈ (s.queueAt 63).pending, ¬(p.kind = .launch ∧ p.device = none ∧ p.tag = 7 ∧ p.started = none)) := by
  unfold Arrived hasRoom; decide +kernel

theorem test_hyp_cancel_full : let s := { cancelling with cp := { cancelling.cp with queues := cancelling.cp.queues.set 63 { queue with fetching := 2, reserved := 16 } } }
    Arrived s 63 3 ∧ ¬hasRoom s 63 := by unfold Arrived hasRoom; decide +kernel

theorem test_hyp_cancel_running : let l := { removed 0 with removing := none }
    let s := { cancelling with cp := { cancelling.cp with launches := [l] } }
    Arrived s 63 3 ∧ hasRoom s 63 ∧ l ∈ s.cp.launches ∧ l.queue = 63 ∧ l.device = false ∧ l.tag = 7 ∧ l.removing = none ∧
      ∀ x ∈ s.cp.launches, x = l := by
  unfold Arrived hasRoom
  refine ⟨by decide +kernel, by decide +kernel, List.mem_singleton.mpr rfl, by decide, by decide, by decide, by decide, fun x hx => List.mem_singleton.mp hx⟩

theorem test_hyp_cancel_waiting :
    let s := arrived [3, 0, 0, 0, 9, 0, 0, 0, 7] []
    let t := { s with cp := { s.cp with queues := s.cp.queues.set 63 { queue with fetching := 2, pending := [packet] } } }
    Arrived t 63 3 ∧ hasRoom t 63 ∧ (packetField t 63 0 1 1).testBit 0 = false ∧ (t.queueAt 63).pending = [] ++ packet :: [] ∧
      packet.kind = .launch ∧ packet.device = none ∧ packet.tag = 7 ∧ packet.started = none ∧ packet.mode = none := by
  unfold Arrived hasRoom; decide +kernel

/-! ### Heads -/

/-- A packet at the head of queue 63. -/
def heads (p : Packet) : State := serving { queue with pending := [p] }

theorem test_hyp_head : ∀ p ∈ [packet, { packet with malformed := true }, { packet with operand := 6 }, { packet with descIx := 1 },
      { packet with waitA := 0x2004 }, { packet with kind := .mode }, { packet with kind := .reserved },
      { packet with kind := .summary, operand := 0x4000, descIx := 0x2000, cqe := false }],
    serves (heads p) ∧ (heads p).canonicalMemory ∧ ((heads p).queueAt 63).pending = p :: [] ∧ hasRoom (heads p) 63 ∧
      (heads p).dev.linkUp = true ∧ p.started = none ∧ p.device = none ∧ p.mode = none := by
  unfold serves State.canonicalMemory hasRoom; decide +kernel

theorem test_hyp_head_module : (heads packet).cp.modules.find? (fun x => x.handle = packet.operand.toNat) = some module' ∧
    module'.ready = true ∧ module'.world = ((heads packet).queueAt 63).world ∧ module'.asid = ((heads packet).queueAt 63).asid ∧
    packet.descIx < module'.descs.length ∧ ¬({ packet with descIx := 1 } : Packet).descIx < module'.descs.length ∧
    (∀ m ∈ (heads packet).cp.modules, m.handle ≠ 6) := by decide +kernel

theorem test_hyp_head_checks : (1 ≤ desc.parties ∧ desc.parties ≤ 65535 ∧ 1 ≤ desc.players ∧ desc.players ≤ 64 ∧ 1 ≤ desc.seats ∧
      desc.seats ≤ 16 ∧ desc.allot % 8 = 0 ∧ 8 ≤ desc.allot ∧ desc.allot ≤ 64 ∧ desc.players * desc.seats ≤ 64) ∧
    ¬({ desc with players := 5, seats := 16 } : Desc).players * ({ desc with players := 5, seats := 16 } : Desc).seats ≤ 64 ∧
    ((heads packet).dwordAt 0 0 0x2008).isSome = true ∧ ((heads packet).dwordAt 0 0 0x2004).isSome = false := by decide +kernel

theorem test_hyp_head_fits : (heads packet).couldFit packet.dies packet.window desc.players desc.seats = true := by decide +kernel

theorem test_hyp_host_writes : (BitVec.ofNat 32 16 - ((serving queue).queueAt 63).head).toNat ≤ ((serving queue).queueAt 63).ringEntries ∧
    ((serving queue).queueAt 63).ringEntries < (BitVec.ofNat 32 17 - ((serving queue).queueAt 63).head).toNat ∧
    ((serving queue).queueAt 63).entries = [] ∧ (serving queue).dev.linkUp = true ∧ ((heads packet).openHead 63).isSome := by decide +kernel

/-! ### Placement -/

/-- A head that may start; only cluster 63 is open. -/
def placing : State := { heads packet with cp := { (heads packet).cp with switching := (List.range 63).map (fun k => (k, 1)) } }

theorem test_hyp_placement : placing.nextCand = some ⟨63, none, 0⟩ ∧ placing.openHead 63 = some packet ∧ placing.moduleOf packet = some module' ∧
    placing.descOf packet = some desc ∧ packet.started = none ∧ packet.mode = none ∧ (placing.headSeats 63 packet).isSome ∧
    (∀ x ∈ placing.cp.launches, x.id ≠ placing.cp.nextLaunch) ∧ (∀ x ∈ placing.cp.parties, x.launch ≠ placing.cp.nextLaunch) := by
  decide +kernel

/-! ### Mailbox commands -/

/-- World 3 is pending, with a region; address space 9 is its; queue 63 may be bound. -/
def boxed : State :=
  let s := serving queue
  { s with
    vm := { s.vm with roots := s.vm.roots ++ [(9, 3, s.vm.nextTable)], nextTable := s.vm.nextTable + 1 }
    qm := { s.qm with regions := [{ rows with world := 3 }] }
    cp := { s.cp with worlds := s.cp.worlds.set 3 { World.reset with st := .pending } } }

/-- The doorbell has been rung for a command while the device served. -/
def ringing (code : Nat) (ops : List Operand) : State :=
  { boxed with dev := { boxed.dev with
    mbBell := true, mbTaken := true, mbCmd := code + (ops.map (fun o => o.2.2 * 2 ^ (8 * o.1))).sum } }

theorem test_hyp_asked : ∀ x ∈ [(1, dwords [64]), (2, dwords [3]), (3, dwords [3, 16383]), (4, dwords [9]), (5, dwords [0, 0x7000, 0, 19]),
      (6, dwords [0, 0x2000]), (7, dwords [63, 3, 9]), (8, dwords [0, 5, 0x4000]), (9, dwords [11, 3]),
      (0x0A, allocOperands 3 0 false 15 1024 0 0 0 0), (0x0B, dwords [1]), (0, []), (14, [])],
    asked (ringing x.1 x.2) x.1 x.2 := by
  unfold asked rang accepting; decide +kernel

theorem test_hyp_asked_too_soon :
    let s := { ringing 1 (dwords [64]) with dev := { (ringing 1 (dwords [64])).dev with mbTaken := false } }
    rang s 1 (dwords [64]) ∧ ¬accepting s ∧ ¬rang s 2 (dwords [64]) := by unfold rang accepting; decide +kernel

theorem test_hyp_asked_reports : rang (ringing 0x0C [(8, 8, 4096), (16, 4, 0x2000)]) 0x0C [(8, 8, 4096), (16, 4, 0x2000)] ∧
    rang (ringing 0x0D [(8, 8, 64), (16, 4, 1), (20, 4, 2)]) 0x0D [(8, 8, 64), (16, 4, 1), (20, 4, 2)] := by unfold rang; decide +kernel

theorem test_hyp_worlds : (boxed.worldAt 3).st ≠ .free ∧ (boxed.worldAt 64).st = .free ∧ (∀ l ∈ boxed.cp.launches, l.world ≠ 3) ∧
    (∀ k < 64, (boxed.queueAt k).world = 3 → (boxed.queueAt k).pending = []) ∧ boxed.qm.regions ≠ [] := by
  decide +kernel

theorem test_hyp_world_busy : let s := { boxed with cp := { boxed.cp with launches := [{ removed 0 with world := 3 }] } }
    { removed 0 with world := 3 } ∈ s.cp.launches ∧ (s.cp.launches.map (fun x => x.id)).Nodup := by
  exact ⟨List.mem_singleton.mpr rfl, by decide +kernel⟩

theorem trees_boxed : trees boxed.vm := trees_of (by decide +kernel) (by decide +kernel) (by decide +kernel) (by decide +kernel)

theorem test_hyp_asids : trees boxed.vm ∧ worldOf boxed 9 = some 3 ∧ worldOf boxed 16383 = none ∧ (16383 : Nat) < 2 ^ 14 ∧
    (∀ k < 64, (boxed.queueAt k).asid ≠ 9) ∧ (∀ l ∈ boxed.cp.launches, l.asid ≠ 9) ∧ (∃ k < 64, (boxed.queueAt k).asid = 0) ∧
    (boxed.allLeaves.all (fun x => decide (x.2.1 = 9 → x.2.2.2.space ≠ .qm))) = true ∧ (boxed.queueAt 63).pending = [] ∧
    (∀ l ∈ boxed.cp.launches, l.queue ≠ 63) := by
  refine ⟨trees_boxed, ?_⟩
  decide +kernel

theorem test_hyp_bind_busy : worldOf (heads packet) 0 = some 0 ∧ ((heads packet).queueAt 63).pending ≠ [] ∧ worldOf boxed 0 ≠ some 3 := by decide +kernel

/-- A leaf of level 0: scratchpad page 5, writable. -/
def leaf : Nat := (spadEntry 5 0 true false).toNat

theorem test_hyp_map : let l := Leaf.ofEntry 0 (BitVec.ofNat 64 leaf)
    leaf < 2 ^ 64 ∧ canonicalVa (word 0x7000) = true ∧ 0x7000 % (4096 * 512 ^ 0) = 0 ∧ entryOk (BitVec.ofNat 64 leaf) = true ∧
    (BitVec.ofNat 64 leaf).getLsbD 1 = true ∧ l.valid = true ∧ l.space ≠ .qm ∧ worldOf boxed 0 = some 0 ∧
    boxed.vm.leaf 0 (vaIndex (word 0x7000)) = none ∧ (boxed.vm.leaf 0 (vaIndex (word 0x2000))).isSome := by decide +kernel

theorem drained_of {s : State} {asid : Nat} (h : s.eng.xfers = [] ∧ s.eng.queries = [] ∧ ∀ p ∈ s.players, s.ownStores p = []) : drained s asid :=
  ⟨fun x hx => (by rw [h.1] at hx; cases hx), fun q hq => (by rw [h.2.1] at hq; cases hq), fun p hp _ => h.2.2 p hp⟩

theorem test_hyp_map_drained : drained boxed 0 ∧ ¬drained (remapping [aloft]) 0 := by
  refine ⟨drained_of (by decide +kernel), fun h => ?_⟩
  have := h.2.1 aloft (by decide +kernel) (by decide +kernel)
  revert this; decide

theorem test_hyp_map_foreign : ∃ x ∈ boxed.allLeaves, worldOf boxed 9 = some 3 ∧ x.1 ≠ 3 ∧
    backingsMeet x.2.2.2.backing (Leaf.ofEntry 0 (spadEntry 1 0 true false)).backing = true := by
  have h : boxed.allLeaves.any (fun x => decide (x.1 ≠ 3) && backingsMeet x.2.2.2.backing (Leaf.ofEntry 0 (spadEntry 1 0 true false)).backing) = true := by
    decide +kernel
  obtain ⟨x, hx, e⟩ := List.any_eq_true.mp h
  simp only [Bool.and_eq_true, decide_eq_true_eq] at e
  exact ⟨x, hx, by decide +kernel, e⟩

/-- The export mark of a QM page. -/
def exported : Nat := 0x57 + 2 ^ 32

theorem test_hyp_map_export : let l := Leaf.ofEntry 1 (BitVec.ofNat 64 exported)
    let s := remapping []
    l.exp = true ∧ l.space = .qm ∧ ((s.vm.leaf 0 0x400000).map (fun o => (o.space, o.exp, o.level, o.frame))) = some (.qm, false, 1, l.frame) := by
  decide +kernel

/-! ### Regions, ports, reports -/

theorem test_hyp_reports : boxed.dev.linkUp = true ∧ boxed.canonicalMemory ∧ (∀ c ∈ [0, 14], c = 0 ∨ 0x0D < c) := by
  unfold State.canonicalMemory; decide +kernel

theorem test_hyp_handlers : inUse boxed 0 ∧ inUse boxed 3 ∧ ¬inUse boxed 64 ∧ ¬inUse boxed 65 ∧
    boxed.cp.modules.find? (fun x => x.handle = 5) = some module' ∧ (∀ x ∈ boxed.cp.modules, x.handle ≠ 6) ∧
    module'.digest ∉ (boxed.worldAt 3).modules := by
  unfold inUse; decide +kernel

/-- World 3 allows port 11 with tag 8. -/
def bound : State :=
  { boxed with cp := { boxed.cp with
    worlds := boxed.cp.worlds.set 3 { World.reset with st := .pending, ports := [(11, 8, 4)] }
    ports := boxed.cp.ports.set 11 { Port.reset with peerTag := 8 } } }

theorem test_hyp_ports : inUse bound 3 ∧ ((bound.worldAt 3).ports.find? (fun a => decide (a.1 = 11) && decide (a.2.1 = (bound.portAt 11).peerTag))) = some (11, 8, 4) ∧
    (∀ a ∈ (bound.worldAt 3).ports, a.1 = 10 → a.2.1 ≠ (bound.portAt 10).peerTag) := by
  unfold inUse; decide +kernel

theorem test_hyp_region_alloc : shapeFits 0 1024 0 0 0 = true ∧ (boxed.qm.freeBand (bandOf false 15 (1024 / 1024))).isSome ∧ boxed.qm.freeRegion.isSome ∧
    still boxed := by
  refine ⟨by decide +kernel, by decide +kernel, by decide +kernel, still_of ⟨by decide +kernel, by decide +kernel, by decide +kernel, by decide +kernel⟩
    (by unfold State.canonicalMemory; decide +kernel) (by decide +kernel) (by decide +kernel) (by decide +kernel) (by decide +kernel)⟩

theorem test_hyp_region_free : boxed.qm.region? 1 = some { rows with world := 3 } ∧ rows.merging = false ∧
    (boxed.allLeaves.all (fun l => decide (l.2.2.2.space ≠ .qm))) = true ∧ (∀ x ∈ boxed.qm.regions, x.id ≠ 2) ∧
    (remapping []).allLeaves.any (fun l => decide (l.2.2.2.space = .qm ∧ l.2.2.2.frame / 2 ^ 20 % 2 ^ 16 = 1)) = true := by decide +kernel

/-! ### Loading -/

/-- An executable module of one TEXT section of four bytes, eight in memory, at 0x8000. -/
def textBytes : List Byte := [1, 2, 3, 4]
def table : List Byte := [0, 0, 0, 0, 1, 0, 5, 0, 144] ++ List.replicate 7 0 ++ [4] ++ List.replicate 7 0 ++ [8] ++ List.replicate 8 0 ++ [0x80] ++
  List.replicate 14 0 ++ sha textBytes
def object : List Byte := [0x4F, 0x53, 0x4E, 0x4D, 1, 0, 1, 0, 7, 0, 0, 0, 1, 0, 80, 0, 0x40] ++ List.replicate 15 0 ++ sha table ++ table ++ textBytes

/-- The digest of "abc" in FIPS 180-4. -/
theorem test_sha : sha [0x61, 0x62, 0x63] = [0xBA, 0x78, 0x16, 0xBF, 0x8F, 0x01, 0xCF, 0xEA, 0x41, 0x41, 0x40, 0xDE, 0x5D, 0xAE, 0x22, 0x23,
    0xB0, 0x03, 0x61, 0xA3, 0x96, 0x17, 0x7A, 0x9C, 0xB4, 0x10, 0xFF, 0x61, 0xF2, 0x00, 0x15, 0xAD] := by decide +kernel

/-- Does the load end, does it fail with a status? -/
def loads (x : Loaded) : Bool := match x with
  | .done _ => true
  | _ => false

def fails (x : Loaded) (e : Nat) : Bool := match x with
  | .failed d _ => decide (d = e)
  | _ => false

theorem exists_done {x : Loaded} (h : loads x = true) : ∃ t, x = .done t := by
  cases x with
  | done t => exact ⟨t, rfl⟩
  | failed e t => cases h
  | waits => cases h

theorem exists_failed {x : Loaded} {e : Nat} (h : fails x e = true) : ∃ t, x = .failed e t := by
  cases x with
  | failed d t => exact ⟨t, by rw [of_decide_eq_true h]⟩
  | done t => cases h
  | waits => cases h

theorem load_object : loads ((serving queue).load 0 object [63]) = true := by decide +kernel

/-- No object file at all is no object file (R73). -/
theorem test_hyp_load_refused : ∃ t, (serving queue).load 0 [] [63] = .failed 1 t := exists_failed (by decide +kernel)

theorem test_hyp_load : serves (serving queue) ∧ worldOf (serving queue) 0 = some 0 ∧ trees (serving queue).vm ∧ (serving queue).canonicalMemory ∧
    (∃ t, (serving queue).load 0 object [63] = .done t) ∧ regionRecs (sections object) = [] ∧ qmImages (sections object) = [] ∧
    (∀ x ∈ sections object, x.loaded = true → x.addr + x.msize ≤ 2 ^ 56) := by
  refine ⟨by unfold serves; decide +kernel, by decide +kernel, trees_start, by unfold State.canonicalMemory; decide +kernel, exists_done load_object,
    by decide +kernel, by decide +kernel, fun x hx _ => ?_⟩
  have : x = sectAt object 0 := List.mem_singleton.mp hx
  subst this
  decide +kernel

theorem test_hyp_load_fails : ¬serves start ∧ worldOf (serving queue) 1 = none ∧ bytesToNat (([] : List Byte).take 4) ≠ 0x4D4E534F ∧
    worldOf boxed 9 = some 3 ∧ (boxed.worldAt 3).modules = [] := by
  unfold serves; decide +kernel

theorem test_hyp_module_ready : let s := { serving queue with cp := { (serving queue).cp with modules := [{ module' with ready := false, loading := true }] } }
    serves s ∧ ∃ m ∈ s.cp.modules, m.handle = 5 ∧ m.loading = true := by
  unfold serves
  exact ⟨by decide +kernel, _, List.mem_singleton.mpr rfl, by decide⟩

/-! ### Sessions -/

/-- Session 4 on the host link is secured and owns world 3; session 5 is on port 11. -/
def sessions : State :=
  { bound with
    dev := { bound.dev with identity := true, measured := true }
    cp := { bound.cp with
      sessions := [⟨4, 2, none⟩, ⟨5, 1, some 11⟩], ide := true
      ports := bound.cp.ports.set 11 { Port.reset with trained := true }
      worlds := bound.cp.worlds.set 3 { World.reset with st := .pending, owner := some 4, handlerSet := true, path := true } } }

theorem test_hyp_sessions : answersSpdm sessions ∧ sessions.dev.linkUp = true ∧ (∀ x ∈ sessions.cp.sessions, x.id ≠ 6) ∧
    (∀ k < 65, (sessions.worldAt k).owner ≠ some 6) ∧ sessions.cp.sessions.length < 16 ∧ (sessions.portAt 11).trained = true ∧
    (sessions.portAt 11).lost = false ∧ theSession sessions ⟨4, 2, none⟩ ∧ theSession sessions ⟨5, 1, some 11⟩ ∧ ¬answersSpdm boxed := by
  unfold answersSpdm theSession; decide +kernel

theorem noTraffic_of {s : State} (h : s.eng.xfers = [] ∧ s.eng.queries = []) : noTraffic s :=
  ⟨fun x hx => (by rw [h.1] at hx; cases hx), fun q hq => (by rw [h.2] at hq; cases hq)⟩

theorem test_hyp_owner : noTraffic sessions ∧ (∃ x ∈ sessions.cp.sessions, x.id = 4 ∧ x.phase = 2 ∧ x.port = none) ∧
    (∀ x ∈ sessions.cp.sessions, x.id = 5 → x.phase ≠ 2) ∧ (sessions.worldAt 3).owner = some 4 ∧ (sessions.worldAt 3).st = .pending ∧
    (sessions.worldAt 3).handlerSet = true ∧ (sessions.worldAt 3).path = true ∧ sessions.cp.ide = true ∧ (boxed.worldAt 3).owner = none := by
  refine ⟨noTraffic_of (by decide +kernel), ⟨⟨4, 2, none⟩, by decide +kernel, rfl, rfl, rfl⟩, ?_⟩
  decide +kernel

/-! ### Starts, links, power -/

def staged (n : Nat) : State := { State.reset with dev := { State.reset.dev with stage := n } }

theorem test_hyp_stages : ∀ n ∈ [1, 2, 3, 4, 5, 6], inStage (staged n) n ∧ (staged n).dev.retired = [] ∧ (staged n).eng.xfers = [] := by
  unfold inStage; decide +kernel

theorem test_hyp_warm : (serving queue).dev.ready = true ∧ (serving queue).dev.failed = false ∧ ((removes 0).cp.launches.map (fun l => l.id)).Nodup ∧
    (let s := { serving queue with dev := { (serving queue).dev with warming := true } }
     s.dev.warming = true ∧ s.dev.stage = 7 ∧ s.cp.launches = []) ∧ State.reset.dev.ready = false := by decide +kernel

theorem test_hyp_links : boxed.dev.linkUp = true ∧ noTraffic boxed ∧ State.reset.dev.linkUp = false ∧ (staged 7).dev.linkUp = false ∧ (staged 7).dev.stage ≠ 1 ∧
    (∀ q < 64, ((staged 7).queueAt q).entries = []) ∧ sessions.cp.ide = true ∧ (sessions.cp.launches.map (fun l => l.id)).Nodup := by
  refine ⟨by decide +kernel, noTraffic_of (by decide +kernel), ?_⟩
  decide +kernel

theorem test_hyp_link_traffic : (transfers hostRead).dev.linkUp = true ∧ (transfers hostRead).eng.xfers = [hostRead] ∧ hostRead.reading ≠ [] ∧
    hostRead.flushing = [] ∧ hostRead.acking = [] ∧ distinctPlayers (transfers hostRead) ∧
    (∀ q ∈ (transfers hostRead).players, q.id = hostRead.owner → q.afq.length < 16) := by
  unfold distinctPlayers; decide +kernel

theorem test_hyp_link_entries :
    let s := { staged 7 with cp := { (staged 7).cp with queues := (staged 7).cp.queues.set 63 { queue with entries := [⟨7, 0, 63, 0⟩] } } }
    (s.queueAt 63).entries = ⟨7, 0, 63, 0⟩ :: [] ∧ (∀ k < 64, k ≠ 63 → (s.queueAt k).entries = []) ∧
      ((s.queueAt 63).compTail - (s.queueAt 63).compHead).toNat + 1 ≤ (s.queueAt 63).compEntries := by decide +kernel

theorem test_hyp_ports_drop : (sessions.portAt 11).trained = true ∧ noTraffic sessions ∧ (sessions.portAt 0).trained = false ∧
    (sessions.portAt 0).lost = false ∧ (keyed.portAt 11).keyed = true ∧ (sessions.portAt 11).keyed = false ∧
    (({ sessions with cp := { sessions.cp with ports := sessions.cp.ports.set 0 { Port.reset with fails := 2 } } } : State).portAt 0).fails = 2 := by
  refine ⟨by decide +kernel, noTraffic_of (by decide +kernel), ?_⟩
  decide +kernel

theorem test_hyp_power : State.reset.dev.failed = false ∧ State.reset.dev.cap = 2600 ∧ State.reset.dev.duty = 16 ∧
    2600 * 95 ≤ 2470 * 100 ∧ 2469 * 100 < 2600 * 95 := by decide

/-! ### Fetch, issue, steps -/

theorem test_hyp_fetch_fails : ({ code with me := { code.me with pc := 0x1002 } } : State).me.pc.toNat % 4 ≠ 0 ∧ code.me.trap.entering = false ∧
    (let s := { code with me := { code.me with pc := 0x1004 } }
     s.me.pc.toNat % 4 = 0 ∧ okAnd (fetchWord s s.me s.me.pc) (fun _ => true) = false) ∧
    (let s := { code with me := { code.me with trap := { code.me.trap with entering := true } } }
     s.me.trap.entering = true) := by decide +kernel

theorem fetch_code (w : Nat) : fetchWord (State.reset.withFetchWord 32 0x46520000) (State.reset.withFetchWord 32 0x46520000).me
    (State.reset.withFetchWord 32 0x46520000).me.pc = .ok w ↔ w = 0x46520000 := by
  have h : okAnd (fetchWord code code.me code.me.pc) (fun x => decide (x = 0x46520000)) = true := by decide +kernel
  obtain ⟨x, hx, e⟩ := of_okAnd h
  rw [of_decide_eq_true e] at hx
  exact ⟨fun k => (Except.ok.inj (k.symm.trans hx)), fun k => by rw [k]; exact hx⟩

theorem test_hyp_step : code.agenda = [] ∧ code.runnable code.me = true ∧ code.me.conv = none ∧
    fetchWord code code.me code.me.pc = .ok 0x46520000 ∧ decodeWord 0x46520000 = some (.setvl 5 4 0) ∧ tileDesc? (.setvl 5 4 0) = none :=
  ⟨by decide, by decide +kernel, by decide, (fetch_code _).mpr rfl, by decide +kernel, by decide⟩

/-- An add of two tiles in the issue queue of a strip. -/
def queuedAdd (ty : Nat) : State :=
  let s := strip ty 20
  { s with me := { s.me with queue := [⟨0x1000, 0x4C410520, some (.taddI false 8 8 10 .unmasked)⟩] } }

def addDesc : TileDesc := (tileDesc? (.taddI false 8 8 10 .unmasked)).get (by decide)

theorem passes_add : PassesChecks (queuedAdd 2).me [] addDesc := by
  intro x hx
  simp only [checks, List.mem_cons, List.not_mem_nil, or_false] at hx
  rcases hx with rfl | rfl | rfl | rfl | rfl | rfl | rfl | rfl <;> (try unfold withinLimits) <;> decide +kernel

theorem test_hyp_issue : (queuedAdd 2).runnable (queuedAdd 2).me = true ∧ (queuedAdd 2).me.conv = none ∧
    GoodMembers (queuedAdd 2).me (queuedAdd 2).me.queue [addDesc] := by
  refine ⟨by decide +kernel, by decide +kernel, .cons ⟨_, rfl, rfl⟩ .nil, fun k h => ?_⟩
  have : k = 0 := by simpa using h
  subst this
  exact passes_add

theorem test_hyp_issue_fails : (queuedAdd 10).me.queue = [] ++ ⟨0x1000, 0x4C410520, some (.taddI false 8 8 10 .unmasked)⟩ :: [] ∧
    GoodMembers (queuedAdd 10).me [] [] ∧ FailsCheck (queuedAdd 10).me [] addDesc .illegalType := by
  refine ⟨rfl, ⟨.nil, fun k h => absurd h (Nat.not_lt_zero k)⟩, [(addDesc.priv = true → (queuedAdd 10).me.trap.priv = true, .privileged)], _, _, rfl, ?_, ?_, rfl⟩
  · intro y hy; rw [List.mem_singleton] at hy; subst hy; decide +kernel
  · decide +kernel

theorem test_hyp_encode : (Instr.saddi 7 7 (-1)).wellFormed = true ∧ encode (.saddi 7 7 (-1)) = some 0x1673FFFF ∧
    decode ([0xFF, 0xFF, 0x73, 0x16] ++ [1, 2]) = some (.saddi 7 7 (-1), [1, 2]) := ⟨by decide, by decide +kernel, by decide +kernel⟩

theorem test_hyp_canonical : State.reset.canonicalMemory ∧ code.canonicalMemory := by unfold State.canonicalMemory; decide +kernel

/-! ### One step, by hand from the rules -/

/-- The next state of an outcome. -/
def nextOf (o : Host.Outcome State Fault Refusal) : State :=
  match o with
  | .next t => t
  | _ => State.reset

/-- 16 + (-17) is -1; the PC goes on by four (R221). -/
theorem test_saddi_negative : (nextOf (exec (.saddi 4 2 (-17)) start)).me.sregs[4] = 0xFFFFFFFFFFFFFFFF ∧
    (nextOf (exec (.saddi 4 2 (-17)) start)).me.pc = 0x1004 := by decide

/-- s0 discards what is written to it (R34). -/
theorem test_saddi_s0 : (nextOf (exec (.saddi 0 2 5) start)).me.sregs[0] = 0 := by decide

/-- -7 / 3 truncates to -2 with remainder -1; a divisor of zero gives all ones and the dividend (R107). -/
theorem test_sdiv_truncates : let s := { start with me := { start.me with sregs := start.me.sregs.set 4 (-7) } }
    (nextOf (exec (.sdiv 5 4 3) s)).me.sregs[5] = -2 ∧ (nextOf (exec (.srem 5 4 3) s)).me.sregs[5] = -1 ∧
      (nextOf (exec (.sdiv 5 4 0) s)).me.sregs[5] = -1 ∧ (nextOf (exec (.srem 5 4 0) s)).me.sregs[5] = -7 := by decide

/-- A branch one word back, and a jump that links (R224). -/
theorem test_branch_back : (nextOf (exec (.sbeq 0 0 (-1)) start)).me.pc = 0xFFC := by decide

theorem test_jump_links : (nextOf (exec (.sjal 5 3) start)).me.pc = 0x100C ∧ (nextOf (exec (.sjal 5 3) start)).me.sregs[5] = 0x1004 := by decide

/-- A load of eight bytes at 0x2004 traps misaligned, 0x05: EPC the load, ETVAL the address, supervisor privilege (R193, R228). -/
theorem test_load_misaligned : let t := nextOf (exec (.sldD 4 1 4) start)
    t.me.trap.ecause = 0x05 ∧ t.me.trap.epc = 0x1000 ∧ t.me.trap.etval = 0x2004 ∧ t.me.trap.priv = true ∧ t.me.sregs[4] = 0 := by
  decide

/-- A store is seen by its own player at once (R16, R19). -/
theorem test_store_seen : seesAt (nextOf (exec (.sstD 3 1 8) start)) 0x1008 8 = 3 := by decide

/-- `eret` goes to EPC at the saved privilege (R241). -/
theorem test_eret : let s := { supervisor with me := { supervisor.me with trap := { supervisor.me.trap with epc := 0x2000 } } }
    (nextOf (exec .eret s)).me.pc = 0x2000 ∧ (nextOf (exec .eret s)).me.trap.priv = false := by decide

/-- 32-bit elements -1 + 1 and 5 + 7: the sum wraps, no carry goes from element to element, a source may be the destination
(R106). -/
theorem test_tadd_wraps :
    let s := strip 2 2
    let s := { s with me := { s.me with tregs := (s.me.tregs.set 8 0x5FFFFFFFF).set 10 0x700000001 } }
    (nextOf (exec (.tadd false 8 8 10 .unmasked) s)).me.tregs[8] % 2 ^ 64 = 0xC00000000 := by decide +kernel

/-- Under a mask of element 1 alone, element 0 stays (R91). -/
theorem test_tadd_masked :
    let s := strip 2 2
    let s := { s with me := { s.me with tregs := ((s.me.tregs.set 8 0x500000009).set 10 0x700000001).set 0 2 } }
    (nextOf (exec (.tadd false 8 8 10 .masked) s)).me.tregs[8] % 2 ^ 64 = 0xC00000009 := by decide +kernel

/-- `getsr` of VL. -/
theorem test_settype_then_read : (nextOf (exec (.getsr 4 0x01) (strip 2 20))).me.sregs[4] = 20 := by decide

/-! ### What stops, what the links carry, what a later party joins -/

/-- The strip's first eight elements end at the page's end; what lies behind is mapped nowhere. -/
def edge (ty base : Nat) : State := { strip ty 20 with me := { (strip ty 20).me with sregs := (strip ty 20).me.sregs.set 1 (BitVec.ofNat 64 base) } }

theorem failsAt_of {s : State} {vas : List Word} {al n : Nat} {use : Use} {c : Cause} {va : Word} (k : Nat)
    (h : vas = vas.take k ++ va :: vas.drop (k + 1)) (hp : (vas.take k).all (fun x => decide (checkAccess s s.me x al n use = .ok (behind s x))) = true)
    (he : checkAccess s s.me va al n use = .error c) : FailsAt s vas al n use c va :=
  ⟨_, _, h, fun x hx => of_decide_eq_true (List.all_eq_true.mp hp x hx), he⟩

theorem test_hyp_load_stops : below (edge 2 0x2FE0) .unmasked 8 = List.range 8 ∧ below (edge 2 0x6000) .unmasked 0 = [] ∧
    8 ∈ activeOf (edge 2 0x2FE0) .unmasked ∧
    (∀ use ∈ [Use.load, .store], (∀ g < 8, checkAccess (edge 2 0x2FE0) (edge 2 0x2FE0).me (unitAt (edge 2 0x2FE0) 1 g) 4 4 use =
      .ok (behind (edge 2 0x2FE0) (unitAt (edge 2 0x2FE0) 1 g))) ∧
      FailsAt (edge 2 0x2FE0) [unitAt (edge 2 0x2FE0) 1 8] 4 4 use .pageFault 0x3000 ∧
      FailsAt (edge 2 0x6000) [unitAt (edge 2 0x6000) 1 0] 4 4 use .pageFault 0x6000) ∧
    (edge 2 0x2FE0).me.gtrim = false := by
  refine ⟨by decide +kernel, by decide +kernel, by decide +kernel, fun use hu => ?_, by decide +kernel⟩
  simp only [List.mem_cons, List.not_mem_nil, or_false] at hu
  rcases hu with rfl | rfl
  · exact ⟨by decide +kernel, failsAt_of 0 (by decide +kernel) (by decide +kernel) (by decide +kernel),
      failsAt_of 0 (by decide +kernel) (by decide +kernel) (by decide +kernel)⟩
  · exact ⟨by decide +kernel, failsAt_of 0 (by decide +kernel) (by decide +kernel) (by decide +kernel),
      failsAt_of 0 (by decide +kernel) (by decide +kernel) (by decide +kernel)⟩

theorem test_alone_stops : ∀ i ∈ [Instr.tld false 8 1 .unmasked, .tldff false 8 1 .unmasked, .tlds false 8 1 3 .unmasked, .tldx false 8 1 10 .unmasked,
      .tldxo false 8 1 10 .unmasked, .tst false 8 1 .unmasked, .tsts false 8 1 3 .unmasked, .tstx false 8 1 10 .unmasked, .tstxo false 8 1 10 .unmasked],
    issuesAlone (edge 2 0x2FE0) i = true := by decide +kernel

/-- `LSPOL.GTRIM` is set; a misaligned element is no cause to trim (R205). -/
theorem test_hyp_trims : (let s := edge 2 0x2FE0
      ({ s with me := { s.me with gtrim := true } } : State).me.gtrim = true) ∧
    FailsAt (edge 2 0x2002) [unitAt (edge 2 0x2002) 1 0] 4 4 .load .misaligned 0x2002 :=
  ⟨by decide +kernel, failsAt_of 0 (by decide +kernel) (by decide +kernel) (by decide +kernel)⟩

/-- Of the four planes of a sliced element the third lies beyond the page; of packed ones the third byte. -/
theorem test_hyp_load_stops_packed :
    FailsAt (edge 0x23 0x2800) ((List.range 4).map (planeAt (edge 0x23 0x2800) 1 0)) 1 1 .load .pageFault 0x3000 ∧
    (edge 0x23 0x2800).me.env.w = 4 ∧ (src (edge 0x23 0x2800) 1).toNat % 8 = 0 ∧ below (edge 0x0E 0x2FFE) .unmasked 4 = [0, 1, 2, 3] ∧
    FailsAt (edge 0x0E 0x2FFE) [src (edge 0x0E 0x2FFE) 1 + word (4 / 2)] 1 1 .store .pageFault 0x3000 :=
  ⟨failsAt_of 2 (by decide +kernel) (by decide +kernel) (by decide +kernel), by decide +kernel, by decide +kernel, by decide +kernel,
    failsAt_of 0 (by decide +kernel) (by decide +kernel) (by decide +kernel)⟩

/-- Rows of 16 bytes at 0x2000 copied to rows of 32 from 0x9000 on, in two planes. -/
def copyThree (str1 str2 : Word) : Xfer := { transfer (strip 2 20) .copy3 0x9000 0x2000 16 3 with dim1 := 2, dim2 := 2, str1 := str1, str2 := str2 }

/-- R288, R289: a stride of 12 is misaligned; rows at most 8 apart meet, and planes at most as far apart as their rows reach (48), while rows 16
and planes 48 apart do not; 0 is no size for `xput`, nor is 3 where it divides the address. -/
theorem test_hyp_stream_orders : (copyThree 0x2000000020 0x3000000040).check 16 = none ∧
    (copyThree 0x2000000020 0x2800000040).check 16 = some (.streamFault, 4) ∧ (copyThree 0x1000000020 0x3000000040).check 16 = none ∧
    (copyThree 0x800000020 0x3000000040).check 16 = some (.streamFault, 4) ∧ (copyThree 0xC00000020 0x3000000040).check 16 = some (.misaligned, 0) ∧
    ({ transfer (strip 2 20) .put 0x6000 5 3 3 with } : Xfer).check 16 = some (.streamFault, 3) ∧
    ({ transfer (strip 2 20) .put 0x6004 5 8 3 with } : Xfer).check 16 = some (.misaligned, 0) ∧
    (({ transfer (strip 2 20) .put 0x6000 5 0 3 with } : Xfer).check 16 = some (.misaligned, 0) ∨
      ({ transfer (strip 2 20) .put 0x6000 5 0 3 with } : Xfer).check 16 = some (.streamFault, 3)) := by decide +kernel
/-- Sixteen bytes copied into two places of a unit of a region. -/
def storeOne : Xfer := transfer (withRegion rows) .copy 0x400400 0x2000 16 3
def stores : State := { withRegion rows with eng := { (withRegion rows).eng with xfers := [storeOne], nextItem := 9 } }

theorem still_at_rest {s : State} (hc : s.canonicalMemory)
    (h : decide (s.qm.lost = none) && decide (s.qm.losing = none) && !s.qm.unav && decide (s.qm.bad = []) && decide (s.qm.soft = []) &&
      decide (s.qm.deltas = []) && decide (s.qm.held = []) && decide (s.allQueries = []) && decide (s.qm.recon = []) &&
      decide (s.eng.queries = []) = true) : still s := by
  simp only [Bool.and_eq_true, decide_eq_true_eq, Bool.not_eq_true'] at h
  obtain ⟨⟨⟨⟨⟨⟨⟨⟨⟨h1, h2⟩, h3⟩, h4⟩, h5⟩, h6⟩, h7⟩, h8⟩, h9⟩, h10⟩ := h
  exact still_of ⟨h1, h2, h3, h4, h5⟩ hc h6 h7 (fun q hq => (by rw [h8] at hq; cases hq)) (fun r hr => (by rw [h9] at hr; cases hr))
    (fun q hq => (by rw [h10] at hq; cases hq))

theorem test_hyp_chunk_into_qm : inEngine stores storeOne ∧ still stores ∧ mayStart stores storeOne 0 ∧ writesBefore stores storeOne ∧
    ∃ ps, stores.pieces storeOne 0 = .ok ps ∧ toQm ps := by
  refine ⟨(inEngine_of (by decide +kernel)).1, still_at_rest (by unfold State.canonicalMemory; decide +kernel) (by decide +kernel),
    by unfold mayStart writesBefore; decide +kernel, by unfold writesBefore; decide +kernel,
    [⟨(List.range 8).map (fun i => (.spad (0x1000 + i), word (0x2000 + i))), .qm ⟨rows, 1024⟩, 0x400400⟩,
      ⟨(List.range 8).map (fun i => (.spad (0x1008 + i), word (0x2008 + i))), .qm ⟨rows, 1032⟩, 0x400408⟩], pieces_of (by decide +kernel), ?_, ?_⟩
  · intro p hp
    simp only [List.mem_cons, List.not_mem_nil, or_false] at hp
    rcases hp with rfl | rfl
    · refine ⟨⟨_, rfl, by unfold dataUnit; decide +kernel, by decide +kernel⟩, fun b hb a e => ?_⟩
      obtain ⟨i, _, rfl⟩ := List.mem_map.mp hb; cases e
    · refine ⟨⟨_, rfl, by unfold dataUnit; decide +kernel, by decide +kernel⟩, fun b hb a e => ?_⟩
      obtain ⟨i, _, rfl⟩ := List.mem_map.mp hb; cases e
  · refine .cons (fun q hq k l hk hl _ => ?_) (List.pairwise_singleton _ _)
    rw [List.mem_singleton] at hq; subst hq
    cases hk; cases hl; decide +kernel

/-- The same to a scratchpad page and a query memory page of the module at port 11. -/
def peerCopy : Xfer := transfer keyed .copy 0x7000 0x2000 8 3
def peers : State := { keyed with
  vm := (keyed.vm.map 0 0x7000 0 (BitVec.ofNat 64 (0x1F + 5 * 2 ^ 12 + 11 * 2 ^ 53))).map 0 0x800000 1 (BitVec.ofNat 64 (0x1F + 5 * 2 ^ 12 + 2 ^ 52 + 11 * 2 ^ 53))
  eng := { keyed.eng with xfers := [peerCopy], nextItem := 9 } }

theorem test_hyp_chunk_to_peer : inEngine peers peerCopy ∧ settled peers ∧ peers.canonicalMemory ∧ mayStart peers peerCopy 0 ∧
    ∃ ps, peers.pieces peerCopy 0 = .ok ps ∧ toPeer ps ∧ ps ≠ [] := by
  have h := inEngine_of (s := peers) (x := peerCopy) (by decide +kernel)
  refine ⟨h.1, h.2, by unfold State.canonicalMemory; decide +kernel, by unfold mayStart writesBefore; decide +kernel,
    [⟨(List.range 8).map (fun i => (.spad (0x1000 + i), word (0x2000 + i))), .peer 11 ((5 + 11 * 2 ^ 41) * 4096), 0x7000⟩], pieces_of (by decide +kernel),
    ⟨fun p hp => ?_, List.pairwise_singleton _ _⟩, by simp⟩
  rw [List.mem_singleton] at hp; subst hp
  refine ⟨⟨_, _, rfl⟩, fun b hb a e => ?_⟩
  obtain ⟨i, _, rfl⟩ := List.mem_map.mp hb; cases e

/-- Two units copied to the peer's query memory, the chunk on its way, and acknowledged. -/
def peerUnits : Query := { itemOf .copy with sent := true, sd := 0x800000, qlen := 2048 }
def peerCopies : State := { engines (withRegion rows) [peerUnits] with
  vm := (withRegion rows).vm.map 0 0x800000 1 (BitVec.ofNat 64 (0x1F + 5 * 2 ^ 12 + 2 ^ 52 + 11 * 2 ^ 53)), cp := keyed.cp }

theorem test_hyp_copy_to_peer : restsWith peerCopies peerUnits ∧ 0 < peerUnits.nchunks ∧ peerUnits.chunks.testBit 0 = false ∧ peerUnits.acking = [] ∧
    peerUnits.copyUnits 0 = [0, 1024] ∧
    (∀ o ∈ peerUnits.copyUnits 0, okAnd (peerCopies.locate peerUnits.asid peerUnits.wid (peerUnits.sa + word o) false false) (fun _ => true) = true ∧
      peerCopies.copyDst peerUnits (peerUnits.sd + word o) = .ok (.peer 11 ((5 + 2 ^ 40 + 11 * 2 ^ 41) * 2 ^ 21 + o))) := by
  have h : (peerUnits.copyUnits 0).all (fun o => okAnd (peerCopies.locate peerUnits.asid peerUnits.wid (peerUnits.sa + word o) false false) (fun _ => true) &&
      okAnd (peerCopies.copyDst peerUnits (peerUnits.sd + word o)) (fun d => decide (d = .peer 11 ((5 + 2 ^ 40 + 11 * 2 ^ 41) * 2 ^ 21 + o)))) = true := by
    decide +kernel
  refine ⟨restsWith_of (by unfold State.canonicalMemory; decide +kernel) (by decide +kernel), by decide +kernel, by decide +kernel, by decide +kernel,
    by decide +kernel, fun o ho => ?_⟩
  have e := List.all_eq_true.mp h o ho
  simp only [Bool.and_eq_true] at e
  obtain ⟨d, hd, e'⟩ := of_okAnd e.2
  exact ⟨e.1, by rw [hd, of_decide_eq_true e']⟩

def acknowledging : Query := { peerUnits with acking := [0] }

theorem test_hyp_copy_acknowledged : restsWith { peerCopies with eng := { peerCopies.eng with queries := [acknowledging] } } acknowledging ∧
    0 < acknowledging.nchunks ∧ 0 ∈ acknowledging.acking :=
  ⟨restsWith_of (by unfold State.canonicalMemory; decide +kernel) (by decide +kernel), by decide +kernel, by decide +kernel⟩

/-- A frame for the first region, which is port 11's world's; a key that has carried one frame less than it may, and all of them. -/
theorem test_hyp_frame_region : let s := { withRegion rows with cp := keyed.cp }
    still s ∧ s.qm.region? 1 = some rows ∧ placed rows ∧ (s.portAt 11).world = some rows.world ∧ rows.retired = false ∧ rows.merging = false ∧
      rows.isCollection = false ∧ 8 + 8 ≤ rows.units * 1024 := by
  refine ⟨still_at_rest (by unfold State.canonicalMemory; decide +kernel) (by decide +kernel), by decide +kernel, by unfold placed dataUnit; decide +kernel, ?_⟩
  decide +kernel

def spent (n : Nat) : State := { keyed with cp := { keyed.cp with ports := keyed.cp.ports.set 11 { Port.reset with
  trained := true, keyed := true, world := some 0, frames := n } } }

theorem test_hyp_frame_limit : ((spent (2 ^ 30 - 1)).portAt 11).keyed = true ∧ 2 ^ 30 ≤ ((spent (2 ^ 30 - 1)).portAt 11).frames + 1 ∧
    ((spent (2 ^ 30 - 2)).portAt 11).frames + 1 < 2 ^ 30 ∧ (spent 0).dev.counters[14] < 2 ^ 64 - 1 := by decide +kernel
/-- A page of query memory of world 0, and two host pages of 2 MiB for its sealed form. -/
def page : Region := { rows with rows := 12, units := 2048 }
def sealing (x : Xfer) : State :=
  let s := withRegion page
  { s with
    vm := (s.vm.map 0 0x800000 1 (BitVec.ofNat 64 (0x1B + 0x1000 * 2 ^ 12))).map 0 0xA00000 1 (BitVec.ofNat 64 (0x1B + 0x1200 * 2 ^ 12))
    dev := { s.dev with linkUp := true }
    eng := { s.eng with xfers := [x], nextItem := 9 } }
def sealOne : Xfer := transfer (strip 2 20) .xseal 0x800000 0x400000 0 3
def unsealOne : Xfer := transfer (strip 2 20) .xunseal 0x400000 0x800000 0 3
def unsealRead : Xfer := { unsealOne with reading := [0] }

def pageList : List Nat := (List.range 2048).map page.unit
def blobList : List Nat := (List.range 513).map (fun i => 0x1000000 + 4096 * i)

theorem sealPlan_of {x : Xfer} (h : okAnd ((sealing x).sealPlan x) (fun p => decide (p = (pageList, blobList))) = true) :
    (sealing x).sealPlan x = .ok (pageList, blobList) := by
  obtain ⟨y, hy, e⟩ := of_okAnd h
  rw [hy, of_decide_eq_true e]

theorem pageUnits_alike (va : Word) (w : Bool) (l : List Nat) :
    (sealing unsealOne).pageUnits unsealOne va w l = (sealing unsealRead).pageUnits unsealRead va w l := by
  induction l with
  | nil => rfl
  | cons i l ih => rw [State.pageUnits, State.pageUnits, ih]; rfl

theorem blobPages_alike (va : Word) (w : Bool) (l : List Nat) :
    (sealing unsealOne).blobPages unsealOne va w l = (sealing unsealRead).blobPages unsealRead va w l := by
  induction l with
  | nil => rfl
  | cons i l ih => rw [State.blobPages, State.blobPages, ih]; rfl

theorem test_hyp_seal_plan : (sealing sealOne).sealPlan sealOne = .ok (pageList, blobList) ∧ (sealing unsealOne).sealPlan unsealOne = .ok (pageList, blobList) ∧
    (sealing unsealRead).sealPlan unsealRead = .ok (pageList, blobList) := by
  have h : (sealing unsealRead).sealPlan unsealRead = .ok (pageList, blobList) := sealPlan_of (by decide +kernel)
  refine ⟨sealPlan_of (by decide +kernel), ?_, h⟩
  rw [← h]
  unfold State.sealPlan
  rw [if_neg (by decide), if_neg (by decide), blobPages_alike, pageUnits_alike, show unsealOne.src = unsealRead.src from rfl,
    show unsealOne.dst = unsealRead.dst from rfl]

theorem test_hyp_seal_pages : pageList.Nodup ∧ (∀ u ∈ pageList, dataUnit u) ∧ blobList.Pairwise (fun a b => a + 4096 ≤ b ∨ b + 4096 ≤ a) := by
  have hback : pageList.map (fun n => 11 * (16 * unitRow n + unitPc n) + (unitStack n + 11 - parityStack (unitPc n) (unitRow n)) % 12) =
      List.range 2048 := by decide +kernel
  have hd : pageList.all (fun u => decide (u ∈ stripeUnits u) && decide (u ≠ parityUnit u)) = true := by decide +kernel
  refine ⟨List.Nodup.of_map _ (by rw [hback]; exact List.nodup_range), fun u hu => ?_, ?_⟩
  · have := List.all_eq_true.mp hd u hu
    simp only [Bool.and_eq_true, decide_eq_true_eq] at this
    exact this
  · rw [blobList, List.pairwise_map]
    exact List.pairwise_lt_range.imp (fun h => .inl (by omega))

theorem still_sealing (x : Xfer) (m : Memory) (hm : m.wf) : still { sealing x with mem := { (sealing x).mem with host := m } } := by
  have hc : (sealing sealOne).canonicalMemory := by unfold State.canonicalMemory; decide +kernel
  have h := still_at_rest (s := sealing sealOne) hc (by decide +kernel)
  refine ⟨h.1, ?_, h.2.2⟩
  obtain ⟨h1, _, h3⟩ := hc
  exact ⟨h1, hm, h3⟩

theorem test_hyp_seal : inEngine (sealing sealOne) sealOne ∧ inEngine (sealing unsealOne) unsealOne ∧ inEngine (sealing unsealRead) unsealRead ∧
    (∀ x ∈ [sealOne, unsealOne], mayStart (sealing x) x 0 ∧ unremoved (sealing x) x ∧ distinctPlayers (sealing x) ∧ x.wid < 65 ∧ x.chunks = 1 ∧ x.done = 0) ∧
    (sealing sealOne).dev.linkUp = true ∧ writesBefore (sealing unsealRead) unsealRead ∧ (sealing unsealRead).vm.closed = [] :=
  ⟨(inEngine_of (by decide +kernel)).1, (inEngine_of (by decide +kernel)).1, (inEngine_of (by decide +kernel)).1,
    by unfold mayStart writesBefore unremoved distinctPlayers; decide +kernel, by decide +kernel, by unfold writesBefore; decide +kernel, by decide +kernel⟩

/-- What the blob's pages hold. -/
def heldIn (m : Memory) : List Byte := (List.range blobBytes).map (fun j => m.get (blobList.getD (j / 4096) 0 + j % 4096))

theorem heldIn_get (m : Memory) : heldIn m = (List.range blobBytes).map (fun j => m.get (0x1000000 + j)) := by
  refine List.map_congr_left (fun j hj => ?_)
  have hj := List.mem_range.mp hj
  have hk : j / 4096 < 513 := by unfold blobBytes at hj; omega
  rw [blobList, List.getD_eq_getElem _ _ (by simpa using hk), List.getElem_map, List.getElem_range]
  congr 1; omega

/-- Any blob may stand in the host pages. -/
theorem heldIn_writeBytes (b : List Byte) (h : b.length = blobBytes) : heldIn (Memory.writeBytes [] 0x1000000 b) = b := by
  rw [heldIn_get]
  refine List.ext_getElem (by simpa using h.symm) (fun j hj hj' => ?_)
  rw [List.getElem_map, List.getElem_range, Memory.get_writeBytes Memory.wf_nil, if_pos (by omega), Nat.add_sub_cancel_left,
    List.getD_eq_getElem _ _ hj']

theorem deviceTag_lt : deviceTag < 2 ^ 64 := by
  refine lt_of_lt_of_le (bytesToNat_lt _) (le_trans (Nat.pow_le_pow_right (by decide) (List.length_take_le _ _)) (by decide))

/-- A blob that passes every check of R294, whatever the device's tag and key: a header of this device and world, a page of zeros, its tag. -/
theorem test_hyp_unseal_good : ∃ m : Memory, m.wf ∧ still { sealing unsealRead with mem := { (sealing unsealRead).mem with host := m } } ∧
    let blob := heldIn m
    let head := blob.take 64
    let body := (blob.drop 64).take pageBytes
    let nonce := bytesToNat ((head.drop 0x20).take 12)
    sealHeaderOk 0 head = true ∧ blob.drop (64 + pageBytes) = gcmTag ((sealing unsealRead).sealKey 0) nonce head body := by
  let head := sealHeader 0 1 0
  let body : List Byte := List.replicate pageBytes 0
  let nonce := bytesToNat ((head.drop 0x20).take 12)
  let tag := gcmTag ((sealing unsealRead).sealKey 0) nonce head body
  have ht : tag.length = 16 := by simp [tag, gcmTag, numBlock]
  have hh : head.length = 64 := by simp [head, sealHeader, le, natToBytes_length]
  have hb : body.length = pageBytes := List.length_replicate
  have hl : (head ++ (body ++ tag)).length = blobBytes := by
    rw [List.length_append, List.length_append, hh, hb, ht]; rfl
  have hw := Memory.writeBytes_wf Memory.wf_nil 0x1000000 (head ++ (body ++ tag))
  refine ⟨Memory.writeBytes [] 0x1000000 (head ++ (body ++ tag)), hw, still_sealing _ _ hw, ?_⟩
  simp only [heldIn_writeBytes _ hl]
  have e1 : (head ++ (body ++ tag)).take 64 = head := by rw [← hh]; exact List.take_left' rfl
  have e2 : (head ++ (body ++ tag)).drop 64 = body ++ tag := by rw [← hh]; exact List.drop_left' rfl
  have e3 : (body ++ tag).take pageBytes = body := by rw [← hb]; exact List.take_left' rfl
  have e4 : (head ++ (body ++ tag)).drop (64 + pageBytes) = tag := by rw [← List.drop_drop, e2, ← hb]; exact List.drop_left' rfl
  rw [e1, e2, e3, e4]
  refine ⟨?_, rfl⟩
  have f : ∀ o n v, (head.drop o).take n = le n v → v < 256 ^ n → bytesToNat ((head.drop o).take n) = v := fun o n v h hv => by
    rw [h, le, bytesToNat_natToBytes, Nat.mod_eq_of_lt hv]
  unfold sealHeaderOk
  simp only [Bool.and_eq_true, decide_eq_true_eq]
  exact ⟨⟨⟨⟨⟨⟨f 0 4 0x4C414553 rfl (by decide), f 4 2 1 rfl (by decide)⟩, f 6 2 0 rfl (by decide)⟩, f 8 8 deviceTag rfl (by simpa using deviceTag_lt)⟩,
    f 0x2C 4 0 rfl (by decide)⟩, f 0x30 8 pageBytes rfl (by decide)⟩, f 0x38 8 0 rfl (by decide)⟩

/-- Pages of zeros are no blob. -/
theorem test_hyp_unseal_bad : sealHeaderOk 0 ((heldIn (sealing unsealRead).mem.host).take 64) = false := by
  have e : (heldIn (sealing unsealRead).mem.host).take 64 = List.replicate 64 0 := by
    have h : (sealing unsealRead).mem.host = [] := by decide +kernel
    rw [heldIn_get, h, ← List.map_take, List.take_range]
    decide
  rw [e]
  have h : bytesToNat (((List.replicate 64 (0 : Byte)).drop 0).take 4) ≠ 0x4C414553 := by decide
  unfold sealHeaderOk
  simp only [Bool.and_eq_false_iff, decide_eq_false_iff_not]
  exact .inl (.inl (.inl (.inl (.inl (.inl h)))))
/-- A walk that ends above level 0 is the same for every address of the page. -/
theorem walk_page {v : Vm} {a b : Nat} (h : ∀ k, 1 ≤ k → levelIndex a k = levelIndex b k) :
    ∀ (n slot : Nat) {l : Leaf}, v.walk b n slot = some l → 1 ≤ l.level → v.walk a n slot = some l
  | 0, slot, l, hw, hl => by
    rw [Vm.walk] at hw
    split at hw
    · split at hw
      · cases hw; simp [Leaf.ofEntry] at hl
      · cases hw
    · cases hw
  | n + 1, slot, l, hw, hl => by
    rw [Vm.walk] at hw ⊢
    rw [h (n + 1) (Nat.succ_pos n)]
    split at hw
    · cases hw
    · next h1 =>
      split at hw
      · next h2 => rw [if_neg h1, if_pos h2]; exact hw
      · next h2 => rw [if_neg h1, if_neg h2]; exact walk_page h n _ hw hl

/-- The page at 0x400000 stands in the cache. -/
def cachedPage : Vm := { (withTwo rows rows).vm with cache := [(0, 0x400000, 1, BitVec.ofNat 64 (0x17 + 2 ^ 32))] }

theorem test_hyp_cached : trees cachedPage ∧ cachedPage.cached 0 0x400010 = some (Leaf.ofEntry 1 (BitVec.ofNat 64 (0x17 + 2 ^ 32))) := by
  have t := trees_remapping []
  refine ⟨⟨t.1, t.2.1, t.2.2.1, t.2.2.2.1, t.2.2.2.2.1, t.2.2.2.2.2.1, t.2.2.2.2.2.2.1, t.2.2.2.2.2.2.2.1, fun c hc => ?_⟩, by decide +kernel⟩
  have hc := List.mem_singleton.mp hc
  subst hc
  have hr : ∃ r ∈ cachedPage.roots, r.1 = 0 ∧ cachedPage.walk 0x400000 4 r.2.2 = some (Leaf.ofEntry 1 (BitVec.ofNat 64 (0x17 + 2 ^ 32))) := by
    decide +kernel
  obtain ⟨r, h1, h2, h3⟩ := hr
  refine ⟨by decide, r, h1, h2, fun va hva => walk_page (fun k hk => ?_) 4 _ h3 (by decide)⟩
  have h21 : va / 2 ^ 21 = 2 := by
    have : va / (4096 * 512 ^ 1) * (4096 * 512 ^ 1) = 0x400000 := hva
    omega
  obtain ⟨j, rfl⟩ : ∃ j, k = j + 1 := ⟨k - 1, by omega⟩
  unfold levelIndex
  rw [show 4096 * 512 ^ (j + 1) = 2 ^ 21 * 512 ^ j by rw [pow_succ]; ring, ← Nat.div_div_eq_div_mul, ← Nat.div_div_eq_div_mul, h21, show 0x400000 / 2 ^ 21 = 2 from rfl]

/-- A query of the page that has left the queue. -/
theorem test_hyp_remap_reached : reachedBy (remapping [aloft]) 0 (Leaf.ofEntry 1 (BitVec.ofNat 64 (0x17 + 2 ^ 32))) 0x400000 := by
  have h : (remapping [aloft]).eng.queries.any (fun q => q.ranges.any (fun r => match r with
      | .bytes a n => decide (q.asid = 0) && q.sent && decide (0x400000 < vaIndex a + n) && decide (vaIndex a < 0x400000 + 0x200000)
      | _ => false)) = true := by decide +kernel
  obtain ⟨q, hq, h⟩ := List.any_eq_true.mp h
  obtain ⟨r, hr, h⟩ := List.any_eq_true.mp h
  cases r with
  | bytes a n =>
    simp only [Bool.and_eq_true, decide_eq_true_eq] at h
    exact ⟨q, hq, a, n, h.1.1.1, h.1.1.2, hr, h.1.2, h.2⟩
  | _ => simp at h

/-- A row with a wrong symbol that can be corrected. -/
theorem test_hyp_scrub_corrects :
    let s := { strip 2 20 with qm := { (strip 2 20).qm with soft := [(unitNo 1 0 0, 3)] } }
    settled s ∧ unfaulted s ∧ lookupNat (unitNo 1 0 0) s.qm.soft = some 3 ∧ unitNo 1 0 0 ∉ s.qm.bad :=
  ⟨settled_of (by decide +kernel) (by decide +kernel), (by have h : (strip 2 20).eng.queries = [] := (by decide +kernel); intro q hq; rw [h] at hq; cases hq),
    by decide +kernel, by decide +kernel⟩

/-- The other rank of a party of two has halted; its window's pages are still the party's. -/
theorem test_hyp_save_halted : let q : Party := { party 1 with frames := [(0, 2), (1, 3)] }
    let s := { frozen [] with cp := { (frozen []).cp with parties := [q] } }
    theParty s q ∧ s.haltedRanks q 2 = [1] ∧ (windowOf s q 1).length = 4096 := by unfold theParty; decide +kernel

/-! Heads, placement, links, sessions, issue. -/

theorem test_hyp_head_checked : (∀ p ∈ [{ packet with checked := true }, { packet with started := some 1 }],
      serves (heads p) ∧ ((heads p).queueAt 63).pending = p :: [] ∧ hasRoom (heads p) 63 ∧ p.kind = .launch ∧ (p.started ≠ none ∨ p.checked = true)) ∧
    (let p := { packet with kind := .summary, operand := 0x4000, descIx := 0x2000, cqe := false }
     let s := { heads p with dev := { (heads p).dev with linkUp := false } }
     serves s ∧ (s.queueAt 63).pending = p :: [] ∧ s.dev.linkUp = false ∧ p.malformed = false) := by
  unfold serves hasRoom; decide +kernel

/-- The second of two parties of launch 1, whose first runs. -/
def started : Packet := { packet with started := some 1, checked := true }
def running1 : Launch := ⟨1, 63, 7, true, 0, 0, 5, { desc with parties := 2 }, false, 0, 0, 1, 0, false, 2, 1, none, []⟩
def joining : State :=
  let s := heads started
  { s with cp := { s.cp with switching := (List.range 63).map (fun k => (k, 1)), launches := [running1], parties := [party 0] } }

theorem test_hyp_later_party : joining.nextCand = some ⟨63, none, 0⟩ ∧ joining.openHead 63 = some started ∧ (joining.headSeats 63 started).isSome ∧
    started.started = some running1.id ∧ joining.cp.launches.find? (fun x => x.id = running1.id) = some running1 ∧ running1.window = started.window ∧
    running1.world = (joining.queueAt 63).world ∧ (∀ x ∈ joining.cp.parties, x.launch = running1.id → x.index < running1.placed) := by decide +kernel
/-- A port that has failed a re-keying twice, with a session of it, and one keyed. -/
def rekeying : State := { sessions with cp := { sessions.cp with ports := sessions.cp.ports.set 11 { Port.reset with trained := true, rekey := true, fails := 2 } } }

theorem test_hyp_key_exchange : (sessions.portAt 11).trained = true ∧ (sessions.portAt 11).lost = false ∧ (2 : Nat) ^ 64 ≠ deviceTag ∧ deviceTag < 2 ^ 64 ∧
    noTraffic rekeying ∧ theSession rekeying ⟨5, 1, some 11⟩ ∧ (rekeying.portAt 11).rekey = true ∧ 2 ≤ (rekeying.portAt 11).fails ∧
    (sessions.portAt 11).rekey = false ∧ ¬((sessions.cp.sessions ++ List.replicate 14 (⟨7, 1, none⟩ : Session)).length < 16) := by
  have h := deviceTag_lt
  refine ⟨by decide +kernel, by decide +kernel, by omega, h, noTraffic_of (by decide +kernel), by unfold theSession; decide +kernel, ?_⟩
  decide +kernel

theorem test_hyp_retrain : (staged 7).dev.stage ≠ 1 ∧ (staged 7).dev.failed = false ∧ ((staged 7).portAt 3).trained = false ∧ ((staged 7).portAt 3).lost = false ∧
    ((staged 7).portAt 3).fails < 2 ∧ (staged 1).dev.stage = 1 := by decide +kernel

/-- `tadd t8, t8, t10` at the PC is in flight; behind it stands `saddi s4, s2, 1`, the word of R221, or the load of R195 from s1. -/
def besideConvoy (w : Nat) : State :=
  let s := strip 2 20
  let m : Member := ⟨.tadd false 8 8 10 .unmasked, 0x1000, [], false, 0, 0, none, none, none, none, none⟩
  { s with
    mem := { s.mem with spad := s.mem.spad.write 4 4 w }
    cp := { s.cp with modules := s.cp.modules.map (fun m => { m with text := [(0x1000, 8)] }) }
    me := { s.me with conv := some ⟨0x1000, [m], s.me.shape.tty, 0, 0, 20, 20, 0x1004⟩ } }

theorem test_hyp_beside : let s : State := { besideConvoy 0x16410001 with agenda := [.saddi 4 2 1] }
    ∃ cv e, s.agenda = .saddi 4 2 1 :: [] ∧ s.me.conv = some cv ∧ early? (.saddi 4 2 1) = some e ∧ (encode (.saddi 4 2 1)).isSome ∧ fetchWord s s.me cv.next = .ok 0x16410001 ∧
      decodeWord 0x16410001 = some (.saddi 4 2 1) ∧ s.mayWork s.me = true ∧ (s.me.preempt = true → s.me.hold = true) ∧
      State.regsFree cv e = true ∧ s.accessFree cv e = true ∧ s.convoyFails cv = false := by
  refine ⟨_, _, rfl, rfl, rfl, by decide +kernel, ?_, by decide +kernel, by decide +kernel, by decide +kernel, by decide +kernel, by decide +kernel, by decide +kernel⟩
  have h : okAnd (fetchWord (besideConvoy 0x16410001) (besideConvoy 0x16410001).me 0x1004) (fun x => decide (x = 0x16410001)) = true := by decide +kernel
  obtain ⟨x, hx, e⟩ := of_okAnd h
  rw [of_decide_eq_true e] at hx
  exact hx

/-- The second word reads s4, which the first one writes: `tmpop s4, t8` and `tld t10, s4`. -/
theorem test_hyp_issue_reads : ∃ b d, tileDesc? (.tmpop false 4 8 .unmasked) = some b ∧ tileDesc? (.tld false 10 4 .unmasked) = some d ∧
    (∃ r ∈ b.outs, r ∈ d.regs) := ⟨_, _, rfl, rfl, 4, by decide +kernel, by decide +kernel⟩
/-! ### AES-256-GCM: test cases 13 and 14 of the GCM specification of McGrew and Viega (a key, nonce and block of zeros) -/

theorem test_gcm_empty : gcmTag 0 0 [] [] = [0x53, 0x0F, 0x8A, 0xFB, 0xC7, 0x45, 0x36, 0xB9, 0xA9, 0x63, 0xB4, 0xF1, 0xC4, 0xCB, 0x73, 0x8B] := by
  decide +kernel

theorem test_gcm_block : gcmCombine 0 0 (List.replicate 16 0) = [0xCE, 0xA7, 0x40, 0x3D, 0x4D, 0x60, 0x6B, 0x6E, 0x07, 0x4E, 0xC5, 0xD3, 0xBA, 0xF3, 0x9D, 0x18] ∧
    gcmTag 0 0 [] [0xCE, 0xA7, 0x40, 0x3D, 0x4D, 0x60, 0x6B, 0x6E, 0x07, 0x4E, 0xC5, 0xD3, 0xBA, 0xF3, 0x9D, 0x18] =
      [0xD0, 0xD1, 0xC8, 0xA7, 0x99, 0x99, 0x6B, 0xF0, 0x26, 0x5B, 0x98, 0xB5, 0xD4, 0x8A, 0xB9, 0x19] := by decide +kernel

/-! ### The tools (the worked examples of spec/03_assembly_and_objects.md and listings of the other files) -/

/-- The words of a source whose statements stand in one section. -/
def asmWords (src : List String) : Option (List (Option Nat)) :=
  (Asm.readLines [] 100 Asm.Src.start (src.map (fun t => ⟨t, "", 0, 0⟩))).map (fun s =>
    (s.items.filter (fun i =>
      match i.what with
      | .insn _ => true
      | _ => false)).map (fun i =>
      match i.what with
      | .insn st => ((⟨s.known, i.sec, i.off⟩ : Asm.Ctx).word st).map (fun r => r.1)
      | _ => none))

theorem test_asm_relocatable_words :
    asmWords [".extern coef, helper", ".text", "slui s12, hi(coef+8)", "saddi s12, s12, lo(coef+8)", "sld.d s13, s12, 0",
      "sjal s31, helper"] = some [some 0x02C00000, some 0x16C60000, some 0x26D60000, some 0x07F00000] := by decide +kernel

theorem test_asm_loop :
    asmWords [".text", "slui s6, 0x12", "saddi s6, s6, 0x345", "saddi s7, s0, 3", "loop: saddi s7, s7, -1 ; one less",
      "sbne s7, s0, loop"] =
      some [some 0x02600012, some 0x16630345, some 0x16700003, some 0x1673FFFF, some 0x0C707FFF] := by decide +kernel

theorem test_asm_fields :
    asmWords [".text", "tclt.s t0, t9, s0 c=1", "tadd.i t8, t8, 30 m=01", "tldseg.3 t8, s1, n8", "sfadd.w s5, s6, s7",
      "fence DEVICE, STRM", "putsr s11, QLEN", "mxop t16, t10, t11 c=1 e=1"] =
      some [some 0xD4012002, some 0x4C410F20, some 0x6240440A, some 0x3C531C20, some 0x44000028, some 0x4205800E,
        some 0xEA814594] := by decide +kernel

theorem test_asm_operand_named_otherwise : asmWords [".text", "saddi s5, s0, 100 sd=6"] = some [none] := by decide +kernel

theorem test_asm_macro_and_repeat :
    asmWords [".macro inc r, n", "saddi \\r, \\r, \\n", ".endm", ".text", ".rept 2", "inc s5, 4", ".endr", ".if 2 - 2", "halt",
      ".else", "eret", ".endif"] = some [some 0x16528004, some 0x16528004, some 0x44000280] := by decide +kernel

/-- An absolute expression's value as an integer. -/
def asmValue (text : String) : Option Int :=
  ((Asm.tokens text).bind Asm.exprOf).bind (fun e =>
    match e.eval (fun _ => none) none with
    | some (.abs v) => some v.toInt
    | _ => none)

theorem test_asm_expressions :
    asmValue "1 + 2 * 3" = some 7 ∧ asmValue "-7 / 2" = some (-3) ∧ asmValue "-7 % 2" = some (-1) ∧ asmValue "1 << 65" = some 2 ∧
      asmValue "10 - 4 - 3" = some 3 ∧ asmValue "1 / 0" = none ∧ asmValue "1 | 6 ^ 3 & 2" = some 5 := by decide +kernel

theorem test_asm_hi_lo :
    asmValue "hi(0x1_0000_4008)" = some 0x20001 ∧ asmValue "lo(0x1_0000_4008)" = some (-0x3FF8) := by decide +kernel

/-- A floating literal in a format. -/
def asmFloat (F : FFmt) (text : String) : Option Nat := (Asm.tokens text).bind (Asm.floatLit F)

theorem test_asm_floats :
    asmFloat FName.bf16.fmt "3072" = some 0x4540 ∧ asmFloat FName.bf16.fmt "-15" = some 0xC170 ∧
      asmFloat FName.bf16.fmt "-0" = some 0x8000 ∧ asmFloat FName.fp16.fmt "nan" = some 0x7E00 ∧
      asmFloat FName.e4m3.fmt "nan" = some 0x7F ∧ asmFloat FName.e4m3.fmt "inf" = none ∧ asmFloat FName.fp16.fmt "65520" = none ∧
      asmFloat FName.fp32.fmt "0.1" = some 0x3DCCCCCD ∧ asmFloat FName.fp64.fmt "-1.5e-3" = some 0xBF589374BC6A7EFA := by
  decide +kernel

/-- R44 and R45: `c=1` on a scalar word, and a third multiply in one convoy, are refused; so is a group of two that starts
at an odd register once the type is declared (R39). -/
theorem test_asm_checks :
    (Asm.checkWord none none 0x96500064).isNone = true ∧
    Asm.wordsOk [] [(0, none, some 0x4E490402), (0, none, some 0x4E490402)] = true ∧
    Asm.wordsOk [] [(0, none, some 0x4E490402), (0, none, some 0x4E490402), (1, none, none), (0, none, some 0x4E490402)] = false ∧
    Asm.wordsOk [] [(0, none, some 0x4E490402)] = true ∧ Asm.wordsOk [] [(0, some 0x4A, some 0x4E490402)] = false := by
  decide +kernel

theorem test_link_words :
    Asm.relocWord 4 0x02C00000 0x100004008 0x100000000 = some 0x02C20001 ∧
    Asm.relocWord 5 0x16C60000 0x100004008 0x100000004 = some 0x16C64008 ∧
    Asm.relocWord 3 0x07F00000 0x100000200 0x10000000C = some 0x07F0007D ∧
    Asm.relocWord 5 0x16C60000 0x100004000 0x100000004 = some 0x16C64000 ∧
    Asm.relocWord 1 0x0C700000 0x100010200 0x100000000 = none ∧ Asm.relocWord 1 0x0C700000 0x100000002 0x100000000 = none := by
  decide +kernel

/-- The module of a small source. -/
def asmObj (src : List String) : Option Asm.Obj :=
  (((Asm.readLines [] 20 Asm.Src.start (src.map (fun t => ⟨t, "", 0, 0⟩))).bind Asm.Src.finish).bind Asm.Src.obj).map (fun o => o.1)

/-- A TEXT section of one word and a launch descriptor whose second value is relocatable (R66, R67, R69). -/
theorem test_asm_module_parts :
    asmObj [".module m", ".text", "go: halt", ".launch l, 5, go", ".entry go", ".seat 2"] =
      some ⟨"m", [⟨".text", 1, 0, 2, 0, 0, [0x40, 0x02, 0x00, 0x44]⟩, ⟨".launches", 6, 0, 3, 0, 0, []⟩],
        [⟨"go", 0, 0, 1, 0, 0⟩, ⟨"l", 1, 0, 6, 0, 80⟩], [⟨1, 24, 1, 6, 0⟩], [⟨"l", 1, 1, 1, 2, 8, 0, [5, 0]⟩], []⟩ := by decide +kernel

theorem test_decode_major_01 :
    decodeWord 0x02900015 = some (.slui 9 21) := by
  rfl

theorem test_decode_major_02 :
    decodeWord 0x04900015 = some (.spcrel 9 21) := by
  rfl

theorem test_decode_major_03 :
    decodeWord 0x06900013 = some (.sjal 9 19) := by
  rfl

theorem test_decode_major_04 :
    decodeWord 0x08928015 = some (.sjalr 9 5 21) := by
  rfl

theorem test_decode_major_05 :
    decodeWord 0x0A530013 = some (.sbeq 5 6 19) := by
  rfl

theorem test_decode_major_06 :
    decodeWord 0x0C530013 = some (.sbne 5 6 19) := by
  rfl

theorem test_decode_major_07 :
    decodeWord 0x0E530013 = some (.sblt 5 6 19) := by
  rfl

theorem test_decode_major_08 :
    decodeWord 0x10530013 = some (.sbge 5 6 19) := by
  rfl

theorem test_decode_major_09 :
    decodeWord 0x12530013 = some (.sbltn 5 6 19) := by
  rfl

theorem test_decode_major_0A :
    decodeWord 0x14530013 = some (.sbgen 5 6 19) := by
  rfl

theorem test_decode_major_0B :
    decodeWord 0x16928015 = some (.saddi 9 5 21) := by
  rfl

theorem test_decode_major_0C :
    decodeWord 0x18928015 = some (.sandi 9 5 21) := by
  rfl

theorem test_decode_major_0D :
    decodeWord 0x1A928015 = some (.sori 9 5 21) := by
  rfl

theorem test_decode_major_0E :
    decodeWord 0x1C928015 = some (.sxori 9 5 21) := by
  rfl

theorem test_decode_major_0F :
    decodeWord 0x1E928015 = some (.slti 9 5 21) := by
  rfl

theorem test_decode_major_10 :
    decodeWord 0x20928015 = some (.sltin 9 5 21) := by
  rfl

theorem test_decode_major_11 :
    decodeWord 0x22928002 = some (.sslli 9 5 2) ∧
    decodeWord 0x2292A002 = some (.ssrli 9 5 2) ∧
    decodeWord 0x2292C002 = some (.ssrai 9 5 2) := by
  exact ⟨rfl, rfl, rfl⟩

theorem test_decode_major_12_0 :
    decodeWord 0x24929800 = some (.sadd 9 5 6) ∧
    decodeWord 0x24929801 = some (.ssub 9 5 6) ∧
    decodeWord 0x24929802 = some (.sand 9 5 6) ∧
    decodeWord 0x24929803 = some (.sor 9 5 6) ∧
    decodeWord 0x24929804 = some (.sxor 9 5 6) ∧
    decodeWord 0x24929805 = some (.sandn 9 5 6) ∧
    decodeWord 0x24929806 = some (.ssll 9 5 6) ∧
    decodeWord 0x24929807 = some (.ssrl 9 5 6) ∧
    decodeWord 0x24929808 = some (.ssra 9 5 6) ∧
    decodeWord 0x24929809 = some (.sslt 9 5 6) ∧
    decodeWord 0x2492980A = some (.ssltn 9 5 6) ∧
    decodeWord 0x2492980B = some (.smin 9 5 6) := by
  exact ⟨rfl, rfl, rfl, rfl, rfl, rfl, rfl, rfl, rfl, rfl, rfl, rfl⟩

theorem test_decode_major_12_1 :
    decodeWord 0x2492980C = some (.smax 9 5 6) ∧
    decodeWord 0x2492980D = some (.sminn 9 5 6) ∧
    decodeWord 0x2492980E = some (.smaxn 9 5 6) ∧
    decodeWord 0x24929810 = some (.smul 9 5 6) ∧
    decodeWord 0x24929811 = some (.smulh 9 5 6) ∧
    decodeWord 0x24929812 = some (.smulhn 9 5 6) ∧
    decodeWord 0x24929813 = some (.smulhsu 9 5 6) ∧
    decodeWord 0x24929814 = some (.sdiv 9 5 6) ∧
    decodeWord 0x24929815 = some (.sdivn 9 5 6) ∧
    decodeWord 0x24929816 = some (.srem 9 5 6) ∧
    decodeWord 0x24929817 = some (.sremn 9 5 6) ∧
    decodeWord 0x24928018 = some (.spopc 9 5) := by
  exact ⟨rfl, rfl, rfl, rfl, rfl, rfl, rfl, rfl, rfl, rfl, rfl, rfl⟩

theorem test_decode_major_12_2 :
    decodeWord 0x24928019 = some (.sclz 9 5) ∧
    decodeWord 0x2492801A = some (.sctz 9 5) := by
  exact ⟨rfl, rfl⟩

theorem test_decode_major_13 :
    decodeWord 0x26928015 = some (.sldD 9 5 21) := by
  rfl

theorem test_decode_major_14 :
    decodeWord 0x28928015 = some (.sldW 9 5 21) := by
  rfl

theorem test_decode_major_15 :
    decodeWord 0x2A928015 = some (.sldnW 9 5 21) := by
  rfl

theorem test_decode_major_16 :
    decodeWord 0x2C928015 = some (.sldH 9 5 21) := by
  rfl

theorem test_decode_major_17 :
    decodeWord 0x2E928015 = some (.sldnH 9 5 21) := by
  rfl

theorem test_decode_major_18 :
    decodeWord 0x30928015 = some (.sldB 9 5 21) := by
  rfl

theorem test_decode_major_19 :
    decodeWord 0x32928015 = some (.sldnB 9 5 21) := by
  rfl

theorem test_decode_major_1A :
    decodeWord 0x35128015 = some (.sstD 17 5 21) := by
  rfl

theorem test_decode_major_1B :
    decodeWord 0x37128015 = some (.sstW 17 5 21) := by
  rfl

theorem test_decode_major_1C :
    decodeWord 0x39128015 = some (.sstH 17 5 21) := by
  rfl

theorem test_decode_major_1D :
    decodeWord 0x3B128015 = some (.sstB 17 5 21) := by
  rfl

theorem test_decode_major_1E_0 :
    decodeWord 0x3C9298E0 = some (.sfadd 9 5 6 3 true) ∧
    decodeWord 0x3C9298E1 = some (.sfsub 9 5 6 3 true) ∧
    decodeWord 0x3C9298E2 = some (.sfmul 9 5 6 3 true) ∧
    decodeWord 0x3C9298E3 = some (.sfdiv 9 5 6 3 true) ∧
    decodeWord 0x3C9280E4 = some (.sfsqrt 9 5 3 true) ∧
    decodeWord 0x3C929825 = some (.sfmin 9 5 6 true) ∧
    decodeWord 0x3C929826 = some (.sfmax 9 5 6 true) ∧
    decodeWord 0x3C9298E7 = some (.sfma 9 5 6 3 true) ∧
    decodeWord 0x3C929828 = some (.sfsignc 9 5 6 true) ∧
    decodeWord 0x3C929829 = some (.sfsignn 9 5 6 true) ∧
    decodeWord 0x3C92982A = some (.sfsignx 9 5 6 true) ∧
    decodeWord 0x3C92982B = some (.sfeq 9 5 6 true) := by
  exact ⟨rfl, rfl, rfl, rfl, rfl, rfl, rfl, rfl, rfl, rfl, rfl, rfl⟩

theorem test_decode_major_1E_1 :
    decodeWord 0x3C92982C = some (.sflt 9 5 6 true) ∧
    decodeWord 0x3C92982D = some (.sfle 9 5 6 true) ∧
    decodeWord 0x3C9280EE = some (.sfcvti 9 5 3 true) ∧
    decodeWord 0x3C9280EF = some (.sfcvtn 9 5 3 true) ∧
    decodeWord 0x3C9280F0 = some (.sicvtf 9 5 3 true) ∧
    decodeWord 0x3C9280F1 = some (.sncvtf 9 5 3 true) ∧
    decodeWord 0x3C9280F2 = some (.sfcvtx 9 5 3 true) := by
  exact ⟨rfl, rfl, rfl, rfl, rfl, rfl, rfl⟩

theorem test_decode_major_1F :
    decodeWord 0x3E9299F0 = some (.samoAdd 9 5 6 3 3 true) ∧
    decodeWord 0x3E9299F1 = some (.samoAnd 9 5 6 3 3 true) ∧
    decodeWord 0x3E9299F2 = some (.samoOr 9 5 6 3 3 true) ∧
    decodeWord 0x3E9299F3 = some (.samoXor 9 5 6 3 3 true) ∧
    decodeWord 0x3E9299F4 = some (.samoSwap 9 5 6 3 3 true) ∧
    decodeWord 0x3E9299F5 = some (.samoMin 9 5 6 3 3 true) ∧
    decodeWord 0x3E9299F6 = some (.samoMax 9 5 6 3 3 true) ∧
    decodeWord 0x3E9299F7 = some (.samoMinn 9 5 6 3 3 true) ∧
    decodeWord 0x3E9299F8 = some (.samoMaxn 9 5 6 3 3 true) ∧
    decodeWord 0x3E9299F9 = some (.samoCas 9 5 6 3 3 true) := by
  exact ⟨rfl, rfl, rfl, rfl, rfl, rfl, rfl, rfl, rfl, rfl⟩

theorem test_decode_major_20 :
    decodeWord 0x40900018 = some (.getsr 9 0x18) := by
  rfl

theorem test_decode_major_21 :
    decodeWord 0x42028018 = some (.putsr 5 0x18) ∧
    decodeWord 0x42028007 = some (.putsrFlags 5) ∧
    decodeWord 0x4202802C = some (.putsrEafq 5) ∧
    decodeWord 0x42028033 = some (.putsrEafqrResume 5) ∧
    decodeWord 0x42028033 = some (.putsrEafqrResume 5) ∧
    decodeWord 0x42028035 = some (.putsrQrmv 5) ∧
    decodeWord 0x4202802F = some (.putsrQewin 5) := by
  exact ⟨rfl, rfl, rfl, rfl, rfl, rfl, rfl⟩

theorem test_decode_major_22_0 :
    decodeWord 0x44000035 = some (.fence 3 5) ∧
    decodeWord 0x44000040 = some (.bar) ∧
    decodeWord 0x44929880 = some (.waitEq 9 5 6) ∧
    decodeWord 0x44929890 = some (.waitNe 9 5 6) ∧
    decodeWord 0x449298A0 = some (.waitGeu 9 5 6) ∧
    decodeWord 0x449298B0 = some (.waitAny 9 5 6) ∧
    decodeWord 0x440298C3 = some (.pwait 5 6 3) ∧
    decodeWord 0x44928100 = some (.wmpub 9 5) ∧
    decodeWord 0x44000202 = some (.trap 2) ∧
    decodeWord 0x44000240 = some (.halt) ∧
    decodeWord 0x44000280 = some (.eret) ∧
    decodeWord 0x440002C0 = some (.yield) := by
  exact ⟨rfl, rfl, rfl, rfl, rfl, rfl, rfl, rfl, rfl, rfl, rfl, rfl⟩

theorem test_decode_major_22_1 :
    decodeWord 0x44929B00 = some (.launch 9 5 6) := by
  rfl

theorem test_decode_major_23 :
    decodeWord 0x46929800 = some (.setvl 9 5 6) ∧
    decodeWord 0x46928001 = some (.setvlG 9 5) ∧
    decodeWord 0x46929802 = some (.setvlw 9 5 6) ∧
    decodeWord 0x46928003 = some (.settype 9 5) ∧
    decodeWord 0x46928004 = some (.reseat 9 5) ∧
    decodeWord 0x46928005 = some (.allot 9 5) := by
  exact ⟨rfl, rfl, rfl, rfl, rfl, rfl⟩

theorem test_decode_major_24_0 :
    decodeWord 0xC848A340 = some (.tadd true 9 5 6 .inverse) ∧
    decodeWord 0xC848A341 = some (.tsub true 9 5 6 .inverse) ∧
    decodeWord 0xC848A342 = some (.tand true 9 5 6 .inverse) ∧
    decodeWord 0xC848A343 = some (.tor true 9 5 6 .inverse) ∧
    decodeWord 0xC848A344 = some (.txor true 9 5 6 .inverse) ∧
    decodeWord 0xC848A345 = some (.tandn true 9 5 6 .inverse) ∧
    decodeWord 0xC848A346 = some (.tmin true 9 5 6 .inverse) ∧
    decodeWord 0xC848A347 = some (.tmax true 9 5 6 .inverse) ∧
    decodeWord 0xC848A348 = some (.tsll true 9 5 6 .inverse) ∧
    decodeWord 0xC848A349 = some (.tsrl true 9 5 6 .inverse) ∧
    decodeWord 0xC848A34A = some (.tsra true 9 5 6 .inverse) ∧
    decodeWord 0xC848A34B = some (.tmul true 9 5 6 .inverse) := by
  exact ⟨rfl, rfl, rfl, rfl, rfl, rfl, rfl, rfl, rfl, rfl, rfl, rfl⟩

theorem test_decode_major_24_1 :
    decodeWord 0xC848A34C = some (.tmulh true 9 5 6 .inverse) ∧
    decodeWord 0xC848A34D = some (.tmulhsu true 9 5 6 .inverse) ∧
    decodeWord 0xC848A34E = some (.tdiv true 9 5 6 .inverse) ∧
    decodeWord 0xC848A34F = some (.trem true 9 5 6 .inverse) ∧
    decodeWord 0xC848A310 = some (.tsel true 9 5 6) ∧
    decodeWord 0xC848A051 = some (.tmov true 9 5 .inverse) ∧
    decodeWord 0xC8480052 = some (.tiota true 9 .inverse) := by
  exact ⟨rfl, rfl, rfl, rfl, rfl, rfl, rfl⟩

theorem test_decode_major_25_0 :
    decodeWord 0xCA48A640 = some (.taddS true 9 5 6 .inverse) ∧
    decodeWord 0xCA48A641 = some (.tsubS true 9 5 6 .inverse) ∧
    decodeWord 0xCA48A642 = some (.tandS true 9 5 6 .inverse) ∧
    decodeWord 0xCA48A643 = some (.torS true 9 5 6 .inverse) ∧
    decodeWord 0xCA48A644 = some (.txorS true 9 5 6 .inverse) ∧
    decodeWord 0xCA48A645 = some (.tandnS true 9 5 6 .inverse) ∧
    decodeWord 0xCA48A646 = some (.tminS true 9 5 6 .inverse) ∧
    decodeWord 0xCA48A647 = some (.tmaxS true 9 5 6 .inverse) ∧
    decodeWord 0xCA48A648 = some (.tsllS true 9 5 6 .inverse) ∧
    decodeWord 0xCA48A649 = some (.tsrlS true 9 5 6 .inverse) ∧
    decodeWord 0xCA48A64A = some (.tsraS true 9 5 6 .inverse) ∧
    decodeWord 0xCA48A64B = some (.tmulS true 9 5 6 .inverse) := by
  exact ⟨rfl, rfl, rfl, rfl, rfl, rfl, rfl, rfl, rfl, rfl, rfl, rfl⟩

theorem test_decode_major_25_1 :
    decodeWord 0xCA48A64C = some (.tmulhS true 9 5 6 .inverse) ∧
    decodeWord 0xCA48A64D = some (.tmulhsuS true 9 5 6 .inverse) ∧
    decodeWord 0xCA48A64E = some (.tdivS true 9 5 6 .inverse) ∧
    decodeWord 0xCA48A64F = some (.tremS true 9 5 6 .inverse) ∧
    decodeWord 0xCA480650 = some (.tsplat true 9 6 .inverse) ∧
    decodeWord 0xCA48A651 = some (.trsubS true 9 5 6 .inverse) ∧
    decodeWord 0xCA48A612 = some (.tselS true 9 5 6) := by
  exact ⟨rfl, rfl, rfl, rfl, rfl, rfl, rfl⟩

theorem test_decode_major_26 :
    decodeWord 0xCC48AAC0 = some (.taddI true 9 5 21 .inverse) ∧
    decodeWord 0xCC48AAC2 = some (.tandI true 9 5 21 .inverse) ∧
    decodeWord 0xCC48AAC3 = some (.torI true 9 5 21 .inverse) ∧
    decodeWord 0xCC48AAC4 = some (.txorI true 9 5 21 .inverse) ∧
    decodeWord 0xCC48AAC6 = some (.tminI true 9 5 21 .inverse) ∧
    decodeWord 0xCC48AAC7 = some (.tmaxI true 9 5 21 .inverse) ∧
    decodeWord 0xCC48AAC8 = some (.tsllI true 9 5 21 .inverse) ∧
    decodeWord 0xCC48AAC9 = some (.tsrlI true 9 5 21 .inverse) ∧
    decodeWord 0xCC48AACA = some (.tsraI true 9 5 21 .inverse) ∧
    decodeWord 0xCC480AD0 = some (.tsplatI true 9 21 .inverse) ∧
    decodeWord 0xCC48AAD1 = some (.trsubI true 9 5 21 .inverse) := by
  exact ⟨rfl, rfl, rfl, rfl, rfl, rfl, rfl, rfl, rfl, rfl, rfl⟩

theorem test_decode_major_27_0 :
    decodeWord 0xCE48A340 = some (.tfadd true 9 5 6 .inverse) ∧
    decodeWord 0xCE48A341 = some (.tfsub true 9 5 6 .inverse) ∧
    decodeWord 0xCE48A342 = some (.tfmul true 9 5 6 .inverse) ∧
    decodeWord 0xCE48A343 = some (.tfdiv true 9 5 6 .inverse) ∧
    decodeWord 0xCE48A344 = some (.tfmin true 9 5 6 .inverse) ∧
    decodeWord 0xCE48A345 = some (.tfmax true 9 5 6 .inverse) ∧
    decodeWord 0xCE48A046 = some (.tfsqrt true 9 5 .inverse) ∧
    decodeWord 0xCE48A047 = some (.tfrsqe true 9 5 .inverse) ∧
    decodeWord 0xCE48A048 = some (.tfrece true 9 5 .inverse) ∧
    decodeWord 0xCE48A349 = some (.tfsignc true 9 5 6 .inverse) ∧
    decodeWord 0xCE48A34A = some (.tfsignn true 9 5 6 .inverse) ∧
    decodeWord 0xCE48A34B = some (.tfsignx true 9 5 6 .inverse) := by
  exact ⟨rfl, rfl, rfl, rfl, rfl, rfl, rfl, rfl, rfl, rfl, rfl, rfl⟩

theorem test_decode_major_27_1 :
    decodeWord 0xCE48A34C = some (.tfma true 9 5 6 .inverse) ∧
    decodeWord 0xCE48A34D = some (.tfms true 9 5 6 .inverse) ∧
    decodeWord 0xCE48A34E = some (.tfnma true 9 5 6 .inverse) ∧
    decodeWord 0xCE48A34F = some (.tfnms true 9 5 6 .inverse) := by
  exact ⟨rfl, rfl, rfl, rfl⟩

theorem test_decode_major_28_0 :
    decodeWord 0xD048A640 = some (.tfaddS true 9 5 6 .inverse) ∧
    decodeWord 0xD048A641 = some (.tfsubS true 9 5 6 .inverse) ∧
    decodeWord 0xD048A642 = some (.tfmulS true 9 5 6 .inverse) ∧
    decodeWord 0xD048A643 = some (.tfdivS true 9 5 6 .inverse) ∧
    decodeWord 0xD048A644 = some (.tfminS true 9 5 6 .inverse) ∧
    decodeWord 0xD048A645 = some (.tfmaxS true 9 5 6 .inverse) ∧
    decodeWord 0xD048A649 = some (.tfsigncS true 9 5 6 .inverse) ∧
    decodeWord 0xD048A64A = some (.tfsignnS true 9 5 6 .inverse) ∧
    decodeWord 0xD048A64B = some (.tfsignxS true 9 5 6 .inverse) ∧
    decodeWord 0xD048A64C = some (.tfmaS true 9 5 6 .inverse) ∧
    decodeWord 0xD048A64D = some (.tfmsS true 9 5 6 .inverse) ∧
    decodeWord 0xD048A64E = some (.tfnmaS true 9 5 6 .inverse) := by
  exact ⟨rfl, rfl, rfl, rfl, rfl, rfl, rfl, rfl, rfl, rfl, rfl, rfl⟩

theorem test_decode_major_28_1 :
    decodeWord 0xD048A64F = some (.tfnmsS true 9 5 6 .inverse) ∧
    decodeWord 0xD048A650 = some (.tfrsubS true 9 5 6 .inverse) ∧
    decodeWord 0xD048A651 = some (.tfrdivS true 9 5 6 .inverse) := by
  exact ⟨rfl, rfl, rfl⟩

theorem test_decode_major_29 :
    decodeWord 0xD248A340 = some (.tceq true 9 5 6 .inverse) ∧
    decodeWord 0xD248A341 = some (.tcne true 9 5 6 .inverse) ∧
    decodeWord 0xD248A342 = some (.tclt true 9 5 6 .inverse) ∧
    decodeWord 0xD248A343 = some (.tcle true 9 5 6 .inverse) ∧
    decodeWord 0xD248A344 = some (.tcgt true 9 5 6 .inverse) ∧
    decodeWord 0xD248A345 = some (.tcge true 9 5 6 .inverse) ∧
    decodeWord 0xD248A346 = some (.tcun true 9 5 6 .inverse) := by
  exact ⟨rfl, rfl, rfl, rfl, rfl, rfl, rfl⟩

theorem test_decode_major_2A :
    decodeWord 0xD448A640 = some (.tceqS true 9 5 6 .inverse) ∧
    decodeWord 0xD448A641 = some (.tcneS true 9 5 6 .inverse) ∧
    decodeWord 0xD448A642 = some (.tcltS true 9 5 6 .inverse) ∧
    decodeWord 0xD448A643 = some (.tcleS true 9 5 6 .inverse) ∧
    decodeWord 0xD448A644 = some (.tcgtS true 9 5 6 .inverse) ∧
    decodeWord 0xD448A645 = some (.tcgeS true 9 5 6 .inverse) ∧
    decodeWord 0xD448A646 = some (.tcunS true 9 5 6 .inverse) := by
  exact ⟨rfl, rfl, rfl, rfl, rfl, rfl, rfl⟩

theorem test_decode_major_2B :
    decodeWord 0xD648A340 = some (.tsadd true 9 5 6 .inverse) ∧
    decodeWord 0xD648A341 = some (.tssub true 9 5 6 .inverse) ∧
    decodeWord 0xD648A342 = some (.tavg true 9 5 6 .inverse) ∧
    decodeWord 0xD648A343 = some (.tavgsub true 9 5 6 .inverse) ∧
    decodeWord 0xD648A344 = some (.tsmul true 9 5 6 .inverse) ∧
    decodeWord 0xD648A345 = some (.twadd true 9 5 6 .inverse) ∧
    decodeWord 0xD648A346 = some (.twsub true 9 5 6 .inverse) ∧
    decodeWord 0xD648A347 = some (.twmul true 9 5 6 .inverse) ∧
    decodeWord 0xD648A348 = some (.twmacc true 9 5 6 .inverse) ∧
    decodeWord 0xD648A349 = some (.tnshr true 9 5 6 .inverse) := by
  exact ⟨rfl, rfl, rfl, rfl, rfl, rfl, rfl, rfl, rfl, rfl⟩

theorem test_decode_major_2C :
    decodeWord 0xD848A240 = some (.tcvt true 9 5 4 .inverse) ∧
    decodeWord 0xD848A241 = some (.tcvtn true 9 5 4 .inverse) ∧
    decodeWord 0xD848A242 = some (.tcvtw true 9 5 4 .inverse) ∧
    decodeWord 0xD848A043 = some (.tcvte true 9 5 .inverse) ∧
    decodeWord 0xD848A044 = some (.tscale true 9 5 .inverse) ∧
    decodeWord 0xD848A245 = some (.tcvtns true 9 5 4 .inverse) ∧
    decodeWord 0xD848A046 = some (.tcvtes true 9 5 .inverse) ∧
    decodeWord 0xD848A247 = some (.tmxscale true 9 5 4 .inverse) ∧
    decodeWord 0xD848A248 = some (.tmxscaleB true 9 5 4 .inverse) := by
  exact ⟨rfl, rfl, rfl, rfl, rfl, rfl, rfl, rfl, rfl⟩

theorem test_decode_major_2D :
    decodeWord 0xDA48A340 = some (.tredsum true 9 5 6 .inverse) ∧
    decodeWord 0xDA48A341 = some (.tredosum true 9 5 6 .inverse) ∧
    decodeWord 0xDA48A042 = some (.tredgsum true 9 5 .inverse) ∧
    decodeWord 0xDA48A343 = some (.tscan true 9 5 6 .inverse) ∧
    decodeWord 0xDA48A344 = some (.tredmax true 9 5 6 .inverse) ∧
    decodeWord 0xDA48A345 = some (.tredmin true 9 5 6 .inverse) ∧
    decodeWord 0xDA48A346 = some (.tredmaxi true 9 5 6 .inverse) ∧
    decodeWord 0xDA48A347 = some (.tredmini true 9 5 6 .inverse) ∧
    decodeWord 0xDA48A348 = some (.tredand true 9 5 6 .inverse) ∧
    decodeWord 0xDA48A349 = some (.tredor true 9 5 6 .inverse) ∧
    decodeWord 0xDA48A34A = some (.tredxor true 9 5 6 .inverse) := by
  exact ⟨rfl, rfl, rfl, rfl, rfl, rfl, rfl, rfl, rfl, rfl, rfl⟩

theorem test_decode_major_2E :
    decodeWord 0xDC48A040 = some (.tcompress true 9 5 .inverse) ∧
    decodeWord 0xDC48A041 = some (.texpand true 9 5 .inverse) ∧
    decodeWord 0xDC48AAC2 = some (.tslideup true 9 5 21 .inverse) ∧
    decodeWord 0xDC48AAC3 = some (.tslidedn true 9 5 21 .inverse) ∧
    decodeWord 0xDC48A744 = some (.tslideupS true 9 5 7 .inverse) ∧
    decodeWord 0xDC48A745 = some (.tslidednS true 9 5 7 .inverse) ∧
    decodeWord 0xDC48A346 = some (.trgather true 9 5 6 .inverse) ∧
    decodeWord 0xDC48A047 = some (.ttrans true 9 5 .inverse) ∧
    decodeWord 0xDC48A048 = some (.trowbc true 9 5 .inverse) ∧
    decodeWord 0xDC48A049 = some (.tcolbc true 9 5 .inverse) ∧
    decodeWord 0xDC70A00A = some (.textr true 7 5) := by
  exact ⟨rfl, rfl, rfl, rfl, rfl, rfl, rfl, rfl, rfl, rfl, rfl⟩

theorem test_decode_major_2F :
    decodeWord 0xDE48A340 = some (.tmand true 9 5 6 .inverse) ∧
    decodeWord 0xDE48A341 = some (.tmor true 9 5 6 .inverse) ∧
    decodeWord 0xDE48A342 = some (.tmxor true 9 5 6 .inverse) ∧
    decodeWord 0xDE48A343 = some (.tmandn true 9 5 6 .inverse) ∧
    decodeWord 0xDE48A044 = some (.tmnot true 9 5 .inverse) ∧
    decodeWord 0xDE48A045 = some (.tmbefore true 9 5 .inverse) ∧
    decodeWord 0xDE48A046 = some (.tmthrough true 9 5 .inverse) ∧
    decodeWord 0xDE48A047 = some (.tmonly true 9 5 .inverse) ∧
    decodeWord 0xDE70A048 = some (.tmpop true 7 5 .inverse) ∧
    decodeWord 0xDE70A049 = some (.tmfirst true 7 5 .inverse) := by
  exact ⟨rfl, rfl, rfl, rfl, rfl, rfl, rfl, rfl, rfl, rfl⟩

theorem test_decode_major_30 :
    decodeWord 0xE048A340 = some (.txnorpop true 9 5 6 .inverse) ∧
    decodeWord 0xE048A341 = some (.tpext true 9 5 6 .inverse) ∧
    decodeWord 0xE048A342 = some (.tpins true 9 5 6 .inverse) := by
  exact ⟨rfl, rfl, rfl⟩

theorem test_decode_major_31 :
    decodeWord 0xE2894040 = some (.tld true 17 5 .inverse) ∧
    decodeWord 0xE2894741 = some (.tlds true 17 5 7 .inverse) ∧
    decodeWord 0xE2894C42 = some (.tldx true 17 5 12 .inverse) ∧
    decodeWord 0xE2894CC2 = some (.tldxo true 17 5 12 .inverse) ∧
    decodeWord 0xE2894043 = some (.tldff true 17 5 .inverse) ∧
    decodeWord 0xE289444A = some (.tldseg true 17 5 4 .inverse 2) := by
  exact ⟨rfl, rfl, rfl, rfl, rfl, rfl⟩

theorem test_decode_major_32 :
    decodeWord 0xE4894040 = some (.tst true 17 5 .inverse) ∧
    decodeWord 0xE4894741 = some (.tsts true 17 5 7 .inverse) ∧
    decodeWord 0xE4894C42 = some (.tstx true 17 5 12 .inverse) ∧
    decodeWord 0xE4894CC2 = some (.tstxo true 17 5 12 .inverse) ∧
    decodeWord 0xE489444A = some (.tstseg true 17 5 4 .inverse 2) := by
  exact ⟨rfl, rfl, rfl, rfl, rfl⟩

theorem test_decode_major_33 :
    decodeWord 0xE6894C40 = some (.tldsc true 17 5 12 .inverse) ∧
    decodeWord 0xE6894C41 = some (.tstsc true 17 5 12 .inverse) ∧
    decodeWord 0xE6894C42 = some (.tgll true 17 5 12 .inverse) ∧
    decodeWord 0xE6894C23 = some (.tscc true 17 5 12 true) := by
  exact ⟨rfl, rfl, rfl, rfl⟩

theorem test_decode_major_34 :
    decodeWord 0x68380013 = some (.tbany 7 19) ∧
    decodeWord 0x68780013 = some (.tball 7 19) ∧
    decodeWord 0x68B80013 = some (.tbnone 7 19) ∧
    decodeWord 0x68F80013 = some (.tbdiv 7 19) ∧
    decodeWord 0x69000000 = some (.tjoin) ∧
    decodeWord 0x69780000 = some (.tfspill 7) ∧
    decodeWord 0x69B80000 = some (.tffill 7) := by
  exact ⟨rfl, rfl, rfl, rfl, rfl, rfl, rfl⟩

theorem test_decode_major_35 :
    decodeWord 0xEA48A300 = some (.mxattach true 9 5 6) ∧
    decodeWord 0xEA480181 = some (.mxdetach true 9 3) ∧
    decodeWord 0xEA480002 = some (.mxzero true 9) ∧
    decodeWord 0xEA480183 = some (.mxsync true 9 3) ∧
    decodeWord 0xEA48A354 = some (.mxop true 9 5 6 .inverse true) ∧
    decodeWord 0xEA48A355 = some (.mxopn true 9 5 6 .inverse true) := by
  exact ⟨rfl, rfl, rfl, rfl, rfl, rfl⟩

theorem test_decode_major_36 :
    decodeWord 0xEC929830 = some (.xcopy true 9 5 6 3) ∧
    decodeWord 0xEC929831 = some (.xcopy2 true 9 5 6 3) ∧
    decodeWord 0xEC929832 = some (.xcopy3 true 9 5 6 3) ∧
    decodeWord 0xEC929833 = some (.xgath true 9 5 6 3) ∧
    decodeWord 0xEC929834 = some (.xput true 9 5 6 3) ∧
    decodeWord 0xEC928035 = some (.xseal true 9 5 3) ∧
    decodeWord 0xEC928036 = some (.xunseal true 9 5 3) ∧
    decodeWord 0xEC000037 = some (.xbar true 3) ∧
    decodeWord 0xEC000038 = some (.xcancel true 3) := by
  exact ⟨rfl, rfl, rfl, rfl, rfl, rfl, rfl, rfl, rfl⟩

theorem test_decode_major_37 :
    decodeWord 0xEE896194 = some (.qdot true 17 11 3 5) ∧
    decodeWord 0xEE896195 = some (.qdotm true 17 11 3 5) ∧
    decodeWord 0xEE896196 = some (.qdotx true 17 11 3 5) ∧
    decodeWord 0xEE896197 = some (.qsum true 17 11 3 5) := by
  exact ⟨rfl, rfl, rfl, rfl⟩

theorem test_decode_major_38 :
    decodeWord 0xF0896194 = some (.qcount true 17 11 3 5) ∧
    decodeWord 0xF0896195 = some (.qmax true 17 11 3 5) ∧
    decodeWord 0xF0896196 = some (.qmin true 17 11 3 5) ∧
    decodeWord 0xF0880197 = some (.qbest true 17 3 5) := by
  exact ⟨rfl, rfl, rfl, rfl⟩

theorem test_decode_major_39 :
    decodeWord 0xF2896194 = some (.qhamm true 17 11 3 5) ∧
    decodeWord 0xF2896195 = some (.qcode true 17 11 3 5) ∧
    decodeWord 0xF2888196 = some (.qnarrow true 17 4 3 5) ∧
    decodeWord 0xF2896197 = some (.qgsum true 17 11 3 5) := by
  exact ⟨rfl, rfl, rfl, rfl⟩

theorem test_decode_major_3A :
    decodeWord 0xF4880014 = some (.qst true 17 5) ∧
    decodeWord 0xF4896014 = some (.qstx true 17 11 5) ∧
    decodeWord 0xF4896015 = some (.qraddAdd true 17 11 5) ∧
    decodeWord 0xF4896095 = some (.qraddMax true 17 11 5) ∧
    decodeWord 0xF4896115 = some (.qraddMin true 17 11 5) ∧
    decodeWord 0xF4896195 = some (.qraddOr true 17 11 5) ∧
    decodeWord 0xF4896215 = some (.qraddAnd true 17 11 5) ∧
    decodeWord 0xF4896196 = some (.qappend true 17 11 3 5) ∧
    decodeWord 0xF4896197 = some (.qcas true 17 11 3 5) := by
  exact ⟨rfl, rfl, rfl, rfl, rfl, rfl, rfl, rfl, rfl⟩

theorem test_decode_major_3B :
    decodeWord 0xF6700014 = some (.qeval true 7 5) ∧
    decodeWord 0xF6900195 = some (.qcopy true 9 3 5) ∧
    decodeWord 0xF6916196 = some (.qmerge true 9 11 3 5) := by
  exact ⟨rfl, rfl, rfl⟩

end Sys2Proof.Tests
end

section
/-! Proofs. Configuration of strip, type, seats and registers (spec/04_tile_programs.md R80 to R98): `prepare` finds the
reseated state, every instruction goes on as R93 to R98 say, and a completed one leaves a strip inside its registers. -/

namespace Sys2Proof.Machine

open Sys2Proof.Claims

/-! ### The model's operations in the terms of the statements -/

theorem wr_eq (p : Player) (r : SReg) (v : Word) :
    p.wr r v = { p with sregs := if r = 0 then p.sregs else p.sregs.set r v } := by
  unfold Player.wr
  split <;> rfl

theorem finishWr_eq_wrote (s : State) (d : SReg) (v : Word) : s.finishWr d v = .next (wrote s d v) := by
  rw [State.finishWr, State.wr, wr_eq]
  rfl

theorem rd_eq_src (s : State) (r : SReg) : s.rd r = src s r := rfl

theorem correctSpad_eq_corrected (s : State) (pa n : Nat) : s.correctSpad pa n = corrected s pa n := by
  unfold State.correctSpad corrected
  simp only [State.count_eq]

/-- Eight-bit digits: the recursive read of the model is the sum of the statements. -/
theorem spadRead_eq_seesAt (s : State) (a n : Nat) : s.spadRead s.me a n = seesAt s a n := by
  induction n generalizing a with
  | zero => rfl
  | succ n ih =>
    have hdigit : ∀ i, (sees s (a + 1 + i)).toNat * 2 ^ (8 * i) * 256 = (sees s (a + (i + 1))).toNat * 2 ^ (8 * (i + 1)) := by
      intro i
      rw [show a + 1 + i = a + (i + 1) by omega]
      ring
    rw [State.spadRead, ih, seesAt, seesAt, List.range_succ_eq_map, List.map_cons, List.sum_cons, List.map_map,
      Nat.mul_comm 256, ← List.sum_map_mul_right]
    simp only [hdigit, Nat.mul_zero, pow_zero, Nat.mul_one, Nat.add_zero]
    rfl

/-! ### Pending reseats (R80, R82) -/

theorem applyReseat_eq_seated (s : State) : s.applyReseat = seated s := by
  unfold State.applyReseat seated
  cases s.me.shape.pending with
  | none => rfl
  | some req =>
    change (if s.grantedSeats s.me req ≠ 0 ∧ s.grantedSeats s.me req ≠ s.me.shape.seat then _ else _) =
      if s.grantedSeats s.me req = 0 ∨ s.grantedSeats s.me req = s.me.shape.seat then _ else _
    rw [← ite_not]
    simp only [not_and_or, not_not]
    rfl

/-- A reseat changes the tile registers, their errors and the shape alone. -/
theorem seated_eq (s : State) : seated s = { s with me := { s.me with
    tregs := (seated s).me.tregs, tbad := (seated s).me.tbad, tsoft := (seated s).me.tsoft, shape := (seated s).me.shape } } := by
  unfold seated
  split
  · rfl
  · dsimp only
    split <;> rfl

theorem seated_of_none {s : State} (h : s.me.shape.pending = none) : seated s = s := by
  unfold seated
  rw [h]

@[simp] theorem seated_await (s : State) : (seated s).me.shape.await = s.me.shape.await := by
  unfold seated
  split
  · rfl
  · dsimp only
    split <;> rfl

/-- What the preparation of a configuration instruction changes: the tile registers, their errors and the shape. -/
theorem reseated_eq (s : State) : reseated s = { s with me := { s.me with
    tregs := (reseated s).me.tregs, tbad := (reseated s).me.tbad, tsoft := (reseated s).me.tsoft
    shape := (reseated s).me.shape } } := by
  unfold reseated
  dsimp only
  split
  · conv_lhs => rw [seated_eq]
    rfl
  · exact seated_eq s

@[simp] theorem reseated_src (s : State) (r : SReg) : src (reseated s) r = src s r := by rw [reseated_eq]; rfl
@[simp] theorem reseated_det (s : State) : (reseated s).me.det = s.me.det := by rw [reseated_eq]
@[simp] theorem reseated_seesAt (s : State) (pa n : Nat) : seesAt (reseated s) pa n = seesAt s pa n := by
  rw [reseated_eq]; rfl

/-- The three outcomes of settling a retired seat (R82). -/
theorem settleSeats_eq (s : State) : (seated s).settleSeats =
    if s.me.shape.await = true ∧ (seated s).me.shape.seat = 0 then .trap .dataError (seated s) else .go (reseated s) := by
  unfold State.settleSeats reseated
  rw [seated_await]
  by_cases ha : s.me.shape.await = true
  · by_cases h0 : (seated s).me.shape.seat = 0
    · rw [if_pos ha, if_pos h0, if_pos ⟨ha, h0⟩]
    · rw [if_pos ha, if_neg h0, if_neg (fun h => h0 h.2)]
      dsimp only
      rw [seated_await, if_pos ha]
      rfl
  · rw [if_neg ha, if_neg (fun h => ha h.1)]
    dsimp only
    rw [seated_await, if_neg ha]

/-- A configuration instruction that may go on finds the reseated state. -/
theorem prepare_of_mayConfigure {s : State} (h : mayConfigure s) : s.prepare = .go (reseated s) := by
  obtain ⟨hreseat, hretired⟩ := h
  have hsettle : (seated s).settleSeats = .go (reseated s) := by
    rw [settleSeats_eq, if_neg (fun ⟨ha, h0⟩ => hretired ha h0)]
  unfold State.prepare
  split
  case h_1 hnone => rw [← hsettle, seated_of_none hnone]
  case h_2 req hsome =>
    obtain ⟨hquiet, hgrant⟩ := hreseat (by rw [hsome]; exact Option.some_ne_none req)
    rw [hquiet, hgrant, applyReseat_eq_seated, hsettle]
    rfl

/-- Where the preparation goes on at all, it goes on from the reseated state. -/
theorem eq_reseated_of_prepare {s t : State} (h : s.prepare = .go t) : t = reseated s := by
  have hsettle : (seated s).settleSeats = .go t → t = reseated s := by
    rw [settleSeats_eq]
    split
    · exact fun hc => Prep.noConfusion hc
    · exact fun hc => (Prep.go.inj hc).symm
  unfold State.prepare at h
  split at h
  case h_1 hnone => exact hsettle (by rw [seated_of_none hnone]; exact h)
  case h_2 =>
    rw [applyReseat_eq_seated] at h
    split at h
    · exact Prep.noConfusion h
    · split at h
      · exact Prep.noConfusion h
      · exact hsettle h

/-! ### Strips (R93) -/

theorem rc_eq (p : Player) : p.rc = 2 ^ (p.shape.tty.toNat / 2 ^ 8 % 8) := rfl

theorem setvlLimit_eq_stripLimit (det : Bool) (a b : Nat) : setvlLimit det a b = stripLimit det a b := by
  unfold setvlLimit stripLimit
  by_cases h : b = 0 ∨ a ≤ b
  · rw [if_neg (by omega), if_pos h]
  · rw [if_pos (by omega), if_neg h]
    cases det with
    | true => rfl
    | false => exact Nat.min_eq_right (show b ≤ a by omega)

/-! ### setvl, setvlw, settype, reseat and allot -/

theorem setvl_goes {s : State} (d a b : SReg) (h : mayConfigure s) :
    let t := mine (reseated s) (withStrip (stripLimit s.me.det (src s a).toNat (src s b).toNat))
    Goes (.setvl d a b) s (wrote t d (word t.me.shape.flim)) := by
  change execSetvl d a b s = _
  unfold execSetvl
  simp only [prepare_of_mayConfigure h, finishWr_eq_wrote, setvlLimit_eq_stripLimit, reseated_det, rd_eq_src, reseated_src]
  rfl

/-- `setvlw` past its checks: the strip is set, and the watermark decides between completion and the wait (R95). -/
theorem execSetvlw_eq {s : State} {d a b : SReg} {pa : Nat} (hpa : checkAccess s s.me s.me.wmk 8 8 .load = .ok pa)
    (h : mayConfigure s) :
    let t := mine (reseated s) (withStrip (src s a).toNat)
    let w := corrected t pa 8
    execSetvlw d a b s = if (src s b).toNat + t.me.shape.flim ≤ seesAt s pa 8
      then .next (mine (wrote w d (word t.me.shape.flim)) (fun p => { p with armed := none, wake := false }))
      else .next (mine w (fun p => { p with waiting := some (.setvlw d a b), armed := some (pa / 64), wake := false })) := by
  intro t w
  have hb : src t b = src s b := reseated_src s b
  have hsees : seesAt t pa 8 = seesAt s pa 8 := reseated_seesAt s pa 8
  unfold execSetvlw
  simp only [hpa, prepare_of_mayConfigure h, rd_eq_src, reseated_src]
  change (if (src t b).toNat + t.me.shape.flim ≤ t.spadRead t.me pa 8 then _ else _) = _
  rw [hb, spadRead_eq_seesAt, hsees, finishWr_eq_wrote]
  simp only [correctSpad_eq_corrected]
  rfl

theorem ttyOk_iff (v : Nat) : ttyOk v = true ↔
    v < 2 ^ 13 ∧ v / 2 ^ 8 % 8 < 6 ∧ ∃ e, ElemTy.ofCode (v % 64) = some e ∧ 2 ^ (v / 2 ^ 6 % 4) ≤ e.width := by
  unfold ttyOk getBits
  simp only [pow_zero, Nat.div_one, Bool.and_eq_true, decide_eq_true_eq, and_assoc]
  cases ElemTy.ofCode (v % 2 ^ 6) <;> simp

/-- A new type on a player: `VLMAX` and the strip that the limit gives under it (R96). -/
theorem setStrip_of_type (p : Player) {v : Nat} (hv : v < 2 ^ 13) :
    let vm := vlmaxOf (BitVec.ofNat 13 v) p.lanes
    let r := stripOf vm (2 ^ (v / 2 ^ 8 % 8)) p.shape.limit
    (({ p with shape := { p.shape with tty := BitVec.ofNat 13 v } }).fixVlmax).setStrip p.shape.limit =
      { p with shape := { p.shape with tty := BitVec.ofNat 13 v, vlmax := vm, vl := r.1, flim := r.2 } } := by
  have htty : (BitVec.ofNat 13 v).toNat = v := by rw [BitVec.toNat_ofNat, Nat.mod_eq_of_lt hv]
  simp only [Player.setStrip, Player.fixVlmax, rc_eq, htty]
  rfl

theorem settype_goes {s : State} (d a : SReg) (h : ttyOk (src s a).toNat = true) :
    let A := (src s a).toNat
    let vm := vlmaxOf (BitVec.ofNat 13 A) s.me.lanes
    let r := stripOf vm (2 ^ (A / 2 ^ 8 % 8)) s.me.shape.limit
    Goes (.settype d a) s (wrote (mine s (fun p => { p with shape := { p.shape with
      tty := BitVec.ofNat 13 A, vlmax := vm, vl := r.1, flim := r.2 } })) d (word vm)) := by
  have hstrip := setStrip_of_type s.me ((ttyOk_iff _).1 h).1
  change execSettype d a s = _
  unfold execSettype
  simp only [rd_eq_src, h, if_true, finishWr_eq_wrote]
  exact congrArg (fun q : Player => Host.Outcome.next (wrote (s.withMe q) d (word q.shape.vlmax))) hstrip

theorem settype_traps {s : State} (d a : SReg) (h : ¬ttyOk (src s a).toNat = true) :
    Traps (.settype d a) s .illegalType s.me.pc := by
  change execSettype d a s = _
  unfold execSettype
  exact if_neg h

theorem reseat_refuses {s : State} (d a : SReg) (h : (src s a).toNat = 0 ∨ 2 ^ 16 ≤ (src s a).toNat) :
    Goes (.reseat d a) s (wrote s d 0) := by
  change execReseat d a s = _
  unfold execReseat
  simp only [rd_eq_src, if_pos h, finishWr_eq_wrote]

theorem reseat_records {s : State} (d a : SReg) (h0 : 0 < (src s a).toNat) (h : (src s a).toNat < 2 ^ 16) :
    Goes (.reseat d a) s (wrote (mine s (fun p => { p with shape := { p.shape with
      pending := some (BitVec.ofNat 16 (src s a).toNat) } })) d 1) := by
  change execReseat d a s = _
  unfold execReseat
  exact (if_neg (show ¬((src s a).toNat = 0 ∨ 2 ^ 16 ≤ (src s a).toNat) by omega)).trans (finishWr_eq_wrote _ d 1)

theorem allotOk_iff (v : Nat) : allotOk v = true ↔ v % 8 = 0 ∧ 8 ≤ v ∧ v ≤ 64 := by
  simp [allotOk, and_assoc]

/-- The player after an `allot` of `n` registers: those it drops read zero without errors (R98). -/
def Player.allotted (p : Player) (n : Nat) : Player :=
  { p with
    tregs := if n < p.shape.allot then zeroFrom p.tregs n else p.tregs
    tbad := if n < p.shape.allot then p.tbad.filter (fun b => b.1 < n) else p.tbad
    tsoft := if n < p.shape.allot then p.tsoft.filter (fun b => b.1 < n) else p.tsoft
    shape := { p.shape with allot := n } }

theorem mem_allotted_tbad (p : Player) (n : Nat) (b : Nat × Nat) :
    b ∈ (p.allotted n).tbad ↔ b ∈ p.tbad ∧ (n < p.shape.allot → b.1 < n) := by
  by_cases h : n < p.shape.allot <;> simp [Player.allotted, h]

theorem mem_allotted_tsoft (p : Player) (n : Nat) (b : Nat × Nat) :
    b ∈ (p.allotted n).tsoft ↔ b ∈ p.tsoft ∧ (n < p.shape.allot → b.1 < n) := by
  by_cases h : n < p.shape.allot <;> simp [Player.allotted, h]

theorem allotted_tregs (p : Player) (n k : Nat) (hk : k < 64) :
    (p.allotted n).tregs[k] = if n ≤ k ∧ n < p.shape.allot then 0 else p.tregs[k] := by
  by_cases h : n < p.shape.allot
  · by_cases hn : k < n
    · simp [Player.allotted, zeroFrom, h, hn]
    · simp [Player.allotted, zeroFrom, h, hn, not_lt.1 hn]
  · simp [Player.allotted, h]

/-- The test that `allot` makes first: a value that R83 does not name, or a grant that holds registers it would drop. -/
theorem allotGuard_iff (p : Player) (v : Nat) :
    (!allotOk v || (decide (v < p.shape.allot) && p.grant.att && decide (v < p.grant.acc.toNat + p.grant.asize.toNat))) = true ↔
      ¬(v % 8 = 0 ∧ 8 ≤ v ∧ v ≤ 64) ∨
        v < p.shape.allot ∧ p.grant.att = true ∧ v < p.grant.acc.toNat + p.grant.asize.toNat := by
  rw [← allotOk_iff]
  simp [and_assoc]

section
variable {s : State} {d a : SReg}

theorem allot_traps (h : ¬((src s a).toNat % 8 = 0 ∧ 8 ≤ (src s a).toNat ∧ (src s a).toNat ≤ 64) ∨
    (src s a).toNat < s.me.shape.allot ∧ s.me.grant.att = true ∧
      (src s a).toNat < s.me.grant.acc.toNat + s.me.grant.asize.toNat) :
    Traps (.allot d a) s .registerAllotment s.me.pc := by
  change execAllot d a s = _
  exact if_pos ((allotGuard_iff s.me _).2 h)

theorem allot_goes (hok : (src s a).toNat % 8 = 0 ∧ 8 ≤ (src s a).toNat ∧ (src s a).toNat ≤ 64)
    (hheld : ¬((src s a).toNat < s.me.shape.allot ∧ s.me.grant.att = true ∧
      (src s a).toNat < s.me.grant.acc.toNat + s.me.grant.asize.toNat))
    (hnames : (src s a).toNat < s.me.shape.allot → s.namesFrom s.me (src s a).toNat = false) :
    Goes (.allot d a) s (wrote (mine s (fun p => p.allotted (src s a).toNat)) d (word (src s a).toNat)) := by
  have hguard := mt (allotGuard_iff s.me (src s a).toNat).1 (not_or_intro (not_not_intro hok) hheld)
  have hquiet : ¬((src s a).toNat < s.me.shape.allot ∧ s.namesFrom s.me (src s a).toNat = true) := fun ⟨hlt, hn⟩ => by
    rw [hnames hlt] at hn; exact Bool.noConfusion hn
  change execAllot d a s = _
  unfold execAllot
  rw [rd_eq_src]
  dsimp only
  rw [if_neg hguard, if_neg hquiet, finishWr_eq_wrote]
  by_cases hlt : (src s a).toNat < s.me.shape.allot
  · simp only [State.withMe, mine, Player.allotted, Player.zeroAbove, if_pos hlt]
  · simp only [State.withMe, mine, Player.allotted, if_neg hlt]

end

/-! ### The strip lies inside its registers (R84 to R86, R93, R96) -/

/-- The type is one that `settype` takes, and `VLMAX` is what type, lanes and shape give. -/
def Player.shaped (p : Player) : Prop := ttyOk p.shape.tty.toNat = true ∧ p.shape.vlmax = vlmaxOf p.shape.tty p.lanes

theorem stripOk_congr {p q : Player} (h : p.shape = q.shape) : p.stripOk ↔ q.stripOk := by
  simp only [Player.stripOk, Player.env, Env.of, Env.regBits, Player.lanes, h]

theorem shaped_congr {p q : Player} (h : p.shape = q.shape) : p.shaped ↔ q.shaped := by
  simp only [Player.shaped, Player.lanes, h]

/-- R96: a group has no more registers than an element has bits. -/
theorem group_le_width {p : Player} (h : ttyOk p.shape.tty.toNat = true) : p.env.g ≤ p.env.w := by
  obtain ⟨-, -, e, he, hg⟩ := (ttyOk_iff _).1 h
  have he' : ElemTy.ofCode (getBits p.shape.tty.toNat 0 6) = some e := by
    rw [getBits, pow_zero, Nat.div_one]
    exact he
  simp only [Player.env, Env.of, Env.w, he', Option.getD_some]
  exact hg

/-- Every row of a full strip fits, so a mask register has a bit for each element. -/
theorem rows_le_regBits {p : Player} (h : ttyOk p.shape.tty.toNat = true) : p.env.rc * p.env.vlmax ≤ p.env.regBits := by
  have hw := env_w_pos p
  have hg := group_le_width h
  refine Nat.le_of_mul_le_mul_right ?_ hw
  calc p.env.rc * p.env.vlmax * p.env.w = p.env.vlmax * (p.env.w * p.env.rc) := by ring
    _ ≤ 2048 * p.env.lanes * p.env.g := vlmax_le p
    _ ≤ p.env.regBits * p.env.w := Nat.mul_le_mul_left _ hg

theorem setStrip_shaped {p : Player} (h : p.shaped) (lim : Nat) : (p.setStrip lim).shaped := h

theorem setStrip_stripOk {p : Player} (h : p.shaped) (lim : Nat) : (p.setStrip lim).stripOk := by
  obtain ⟨htty, hvm⟩ := h
  have hrows : (p.setStrip lim).env.flim ≤ (p.setStrip lim).env.rc * (p.setStrip lim).env.vl := Nat.min_le_right _ _
  have hcols : (p.setStrip lim).env.vl ≤ (p.setStrip lim).env.vlmax := by
    refine le_trans (Nat.min_le_left _ _) (le_of_eq hvm)
  exact ⟨hrows, hcols, hrows.trans ((Nat.mul_le_mul_left _ hcols).trans (rows_le_regBits (p := p.setStrip lim) htty))⟩

theorem afresh_shaped {p : Player} (h : ttyOk p.shape.tty.toNat = true) : (afresh p).shaped := ⟨h, rfl⟩

theorem seated_shaped {s : State} (h : s.me.shaped) : (seated s).me.shaped := by
  unfold seated
  split
  · exact h
  · dsimp only
    split
    · exact h
    · exact afresh_shaped h.1

theorem reseated_shaped {s : State} (h : s.me.shaped) : (reseated s).me.shaped := by
  have hseated := seated_shaped h
  unfold reseated
  dsimp only
  split
  · exact afresh_shaped hseated.1
  · exact hseated

/-! ### A configuration instruction that completes -/

/-- Neither trapped nor waiting: the player stands at the next word and its trap registers are as before. -/
structure Completed (s t : State) : Prop where
  pc : t.me.pc = s.me.pc + 4
  trap : t.me.trap = s.me.trap

/-- A player that is not between a trap and its handler has not completed where it has trapped (R228, R238). -/
theorem not_completed_of_trapHere {s t u : State} {c : Cause} {i v : Word} (h : trapHere c i v u = .next t)
    (hs : s.me.trap.entering = false) (hc : Completed s t) : False := by
  cases h
  have : (true : Bool) = s.me.trap.entering := congrArg Trap.entering hc.trap
  rw [hs] at this
  exact Bool.noConfusion this

/-- A player that waits in an instruction stays at its word and has not completed it. -/
theorem not_completed_of_waiting {s t : State} {i : Instr} (hc : Completed s t)
    (h : (.next (mine s (fun p => { p with waiting := some i })) : Out) = .next t) : False := by
  cases h
  have h4 : s.me.pc = s.me.pc + 4 := hc.pc
  bv_omega

theorem setvl_completed {s t : State} {d a b : SReg} (h : execSetvl d a b s = .next t) (hs : s.me.trap.entering = false)
    (hc : Completed s t) : ∃ lim, t.me.shape = ((reseated s).me.ownStrip lim).shape := by
  unfold execSetvl at h
  split at h
  · exact (not_completed_of_waiting hc h).elim
  · exact (not_completed_of_trapHere h hs hc).elim
  · next u hu =>
    obtain rfl := eq_reseated_of_prepare hu
    dsimp only at h
    rw [finishWr_eq_wrote] at h
    cases h
    exact ⟨_, rfl⟩

theorem setvlw_completed {s t : State} {d a b : SReg} (h : execSetvlw d a b s = .next t) (hs : s.me.trap.entering = false)
    (hc : Completed s t) : ∃ lim, t.me.shape = ((reseated s).me.ownStrip lim).shape := by
  unfold execSetvlw at h
  split at h
  · exact (not_completed_of_trapHere h hs hc).elim
  · split at h
    · exact (not_completed_of_waiting hc h).elim
    · exact (not_completed_of_trapHere h hs hc).elim
    · next u hu =>
      obtain rfl := eq_reseated_of_prepare hu
      dsimp only at h
      rw [finishWr_eq_wrote] at h
      split at h <;> (cases h; exact ⟨_, rfl⟩)

theorem settype_completed {s t : State} {d a : SReg} (h : execSettype d a s = .next t) (hs : s.me.trap.entering = false)
    (hc : Completed s t) : ∃ p : Player, p.shaped ∧ ∃ lim, t.me.shape = (p.setStrip lim).shape := by
  by_cases hv : ttyOk (src s a).toNat = true
  · unfold execSettype at h
    simp only [rd_eq_src, hv, if_true, finishWr_eq_wrote] at h
    cases h
    refine ⟨_, ⟨?_, rfl⟩, _, rfl⟩
    change ttyOk (BitVec.ofNat 13 (src s a).toNat).toNat = true
    rwa [BitVec.toNat_ofNat, Nat.mod_eq_of_lt ((ttyOk_iff _).1 hv).1]
  · have htrap : execSettype d a s = trapHere .illegalType 0 s.me.pc s := if_neg hv
    exact (not_completed_of_trapHere (htrap ▸ h) hs hc).elim

end Sys2Proof.Machine
end

section
/-! Proofs. The party collective of `setvl.g` (spec/04_tile_programs.md R81, R94): handing the turn over permutes the players,
the members are prepared one after another, and the cuts are a fold over the members in rank order. -/

namespace Sys2Proof.Machine

open Sys2Proof.Claims

/-! ### Sorting by a key -/

section
variable {α : Type} (key : α → Nat)

theorem insertBy_perm (x : α) (l : List α) : (insertBy key x l).Perm (x :: l) := by
  induction l with
  | nil => exact List.Perm.refl _
  | cons y rest ih =>
    unfold insertBy
    split
    · exact List.Perm.refl _
    · exact (ih.cons y).trans (List.Perm.swap x y rest)

theorem insertBy_sorted (x : α) {l : List α} (h : l.Pairwise (fun a b => key a ≤ key b)) :
    (insertBy key x l).Pairwise (fun a b => key a ≤ key b) := by
  induction l with
  | nil => exact List.pairwise_singleton _ _
  | cons y rest ih =>
    obtain ⟨hy, hrest⟩ := List.pairwise_cons.1 h
    unfold insertBy
    split
    case isTrue hlt =>
      refine List.pairwise_cons.2 ⟨fun z hz => ?_, h⟩
      rcases List.mem_cons.1 hz with rfl | hz
      · exact le_of_lt hlt
      · exact (le_of_lt hlt).trans (hy z hz)
    case isFalse hge =>
      refine List.pairwise_cons.2 ⟨fun z hz => ?_, ih hrest⟩
      rcases List.mem_cons.1 ((insertBy_perm key x rest).mem_iff.1 hz) with rfl | hz
      · exact not_lt.1 hge
      · exact hy z hz

theorem sortBy_perm (l : List α) : (sortBy key l).Perm l := by
  have hfold : ∀ acc : List α, (l.foldl (fun acc x => insertBy key x acc) acc).Perm (acc ++ l) := by
    induction l with
    | nil => intro acc; simp
    | cons x rest ih =>
      intro acc
      exact (ih _).trans (((insertBy_perm key x acc).append_right rest).trans List.perm_middle.symm)
  exact hfold []

theorem sortBy_sorted (l : List α) : (sortBy key l).Pairwise (fun a b => key a ≤ key b) :=
  List.foldlRecOn l _ List.Pairwise.nil (fun _ h x _ => insertBy_sorted key x h)

/-- Distinct keys rise strictly. -/
theorem sortBy_strict {l : List α} (h : (l.map key).Nodup) : (sortBy key l).Pairwise (fun a b => key a < key b) := by
  have hne : (sortBy key l).Pairwise (fun a b => key a ≠ key b) :=
    List.pairwise_map.1 (((sortBy_perm key l).map key).nodup_iff.2 h)
  exact (List.Pairwise.and (sortBy_sorted key l) hne).imp (fun ⟨hle, hn⟩ => lt_of_le_of_ne hle hn)

end

/-- In a list of strictly rising keys, the entries with a smaller key than `x` are those in front of it. -/
theorem filter_lt_of_strict {α : Type} {key : α → Nat} {front back : List α} {x : α}
    (h : (front ++ x :: back).Pairwise (fun a b => key a < key b)) :
    (front ++ x :: back).filter (fun y => key y < key x) = front := by
  obtain ⟨-, hback, hcross⟩ := List.pairwise_append.1 h
  have hfront : front.filter (fun y => key y < key x) = front :=
    List.filter_eq_self.2 (fun y hy => decide_eq_true (hcross y hy x List.mem_cons_self))
  have hrest : (x :: back).filter (fun y => key y < key x) = [] :=
    List.filter_eq_nil_iff.2 (fun y hy => by
      rcases List.mem_cons.1 hy with rfl | hy
      · simp
      · simp [le_of_lt ((List.pairwise_cons.1 hback).1 y hy)])
  rw [List.filter_append, hfront, hrest, List.append_nil]

/-! ### Turns between players -/

theorem find_swap_perm {l : List Player} {id : Nat} {p : Player} (x : Player) (hn : (l.map (fun q => q.id)).Nodup)
    (hp : l.find? (fun q => q.id = id) = some p) :
    (p :: l.map (fun q => if q.id = id then x else q)).Perm (x :: l) := by
  induction l with
  | nil => simp at hp
  | cons y rest ih =>
    obtain ⟨hy, hrest⟩ := List.nodup_cons.1 hn
    by_cases h : y.id = id
    · have hpy : y = p := by simpa [h] using hp
      have hother : ∀ q ∈ rest, q.id ≠ id := fun q hq he => hy (List.mem_map.2 ⟨q, hq, he.trans h.symm⟩)
      have hsame : rest.map (fun q => if q.id = id then x else q) = rest :=
        (List.map_congr_left (fun q hq => if_neg (hother q hq))).trans (List.map_id' rest)
      rw [List.map_cons, if_pos h, hsame, ← hpy]
      exact List.Perm.swap x y rest
    · have hp' : rest.find? (fun q => q.id = id) = some p := by simpa [h] using hp
      rw [List.map_cons, if_neg h]
      exact (List.Perm.swap y p _).trans (((ih hrest hp').cons y).trans (List.Perm.swap x y rest))

/-- Handing the turn over keeps the players: only who is current changes. -/
theorem focus_players_perm {s : State} (hd : distinctPlayers s) (hl : s.me.live = true) (id : Nat) :
    (s.focus id).players.Perm s.players := by
  simp only [State.focus, hl, if_true]
  split
  · exact List.Perm.refl _
  · split
    · exact List.Perm.refl _
    case h_2 p hp => exact find_swap_perm s.me (List.nodup_cons.1 hd).2 hp

theorem distinctPlayers_of_perm {s t : State} (h : t.players.Perm s.players) (hd : distinctPlayers s) : distinctPlayers t :=
  show (t.players.map (fun p => p.id)).Nodup from (h.map _).nodup_iff.2 hd

theorem players_inj {s : State} (hd : distinctPlayers s) {p q : Player} (hp : p ∈ s.players) (hq : q ∈ s.players)
    (h : p.id = q.id) : p = q := List.inj_on_of_nodup_map hd hp hq h

/-- The turn goes to the player that is named. -/
theorem focus_me {s : State} (hd : distinctPlayers s) {p : Player} (hp : p ∈ s.players) : (s.focus p.id).me = p := by
  unfold State.focus
  split
  case isTrue h => exact players_inj hd List.mem_cons_self hp h
  case isFalse h =>
    have hmem : p ∈ s.others := (List.mem_cons.1 hp).resolve_left (fun he => h (by rw [he]))
    split
    case h_1 hnone => exact absurd (decide_eq_true rfl) (List.find?_eq_none.1 hnone p hmem)
    case h_2 q hq =>
      have hid : q.id = p.id := by simpa using List.find?_some hq
      exact players_inj hd (List.mem_cons_of_mem _ (List.mem_of_find?_eq_some hq)) hp hid

/-! ### The collective's preparation (R80, R82, R94) -/

/-- With no reseat pending and no retired seat, a configuration instruction goes on as it stands. -/
theorem prepare_of_settled {s : State} (hp : s.me.shape.pending = none) (ha : s.me.shape.await = false) :
    s.prepare = .go s := by
  unfold State.prepare State.settleSeats
  rw [hp, ha]
  rfl

/-- Members without a reseat and without a retired seat are all prepared; nothing of a player changes. -/
theorem prepareAll_settled {s : State} (hd : distinctPlayers s) (hl : s.me.live = true) {ps : List Player}
    (hps : ∀ p ∈ ps, p ∈ s.players ∧ p.live = true ∧ p.shape.pending = none ∧ p.shape.await = false) :
    ∃ t, prepareAll (ps.map (fun p => p.id)) s = (true, t) ∧ t.players.Perm s.players ∧ t.me.live = true := by
  induction ps generalizing s with
  | nil => exact ⟨s, rfl, List.Perm.refl _, hl⟩
  | cons p rest ih =>
    obtain ⟨hmem, hlive, hpend, hawait⟩ := hps p List.mem_cons_self
    have hme := focus_me hd hmem
    have hperm := focus_players_perm hd hl p.id
    have hrest : ∀ q ∈ rest, q ∈ (s.focus p.id).players ∧ q.live = true ∧ q.shape.pending = none ∧ q.shape.await = false :=
      fun q hq => (hps q (List.mem_cons_of_mem _ hq)).imp_left hperm.mem_iff.2
    obtain ⟨t, ht, htp, htl⟩ := ih (distinctPlayers_of_perm hperm hd) (by rw [hme]; exact hlive) hrest
    refine ⟨t, ?_, htp.trans hperm, htl⟩
    rw [List.map_cons, prepareAll, prepare_of_settled (by rw [hme]; exact hpend) (by rw [hme]; exact hawait)]
    exact ht

theorem members_perm {s t : State} (h : t.players.Perm s.players) (launch index : Nat) :
    (t.members launch index).Perm (s.members launch index) := h.filter _

theorem mem_members {s : State} {launch index : Nat} {p : Player} : p ∈ s.members launch index ↔
    p ∈ s.players ∧ p.live = true ∧ p.place.launch = launch ∧ p.place.party = index := by
  simp [State.members, and_assoc]

/-! ### The cuts (R94) -/

/-- The elements a member's registers hold: rows times `VLMAX`. -/
def Player.room (p : Player) : Nat := p.rc * p.shape.vlmax

/-- The elements that the members of a list hold together. -/
def rooms (ps : List Player) : Nat := (ps.map Player.room).sum

theorem cutStrips_total (n before : Nat) (ps : List Player) :
    (cutStrips n (min n before) ps).2 = min n (before + rooms ps) := by
  induction ps generalizing before with
  | nil => rfl
  | cons p rest ih =>
    have hoff : min n before + min p.room (n - min n before) = min n (before + p.room) := by omega
    rw [cutStrips]
    dsimp only
    rw [← Player.room, hoff, ih, rooms, rooms, List.map_cons, List.sum_cons, Nat.add_assoc]

theorem cutStrips_ids (n off : Nat) (ps : List Player) : (cutStrips n off ps).1.map Prod.fst = ps.map (fun p => p.id) := by
  induction ps generalizing off with
  | nil => rfl
  | cons p rest ih => rw [cutStrips]; dsimp only; rw [List.map_cons, List.map_cons, ih]

/-- A member's cut: what is left of the count behind the members in front of it. -/
theorem cut_mem_cutStrips (n before : Nat) (front back : List Player) (p : Player) :
    (p.id, cut n (before + rooms front) p.room) ∈ (cutStrips n (min n before) (front ++ p :: back)).1 := by
  induction front generalizing before with
  | nil =>
    have hlen : min p.room (n - min n before) = min p.room (n - before) := by omega
    rw [List.nil_append, cutStrips]
    dsimp only
    rw [← Player.room, hlen]
    exact List.mem_cons_self
  | cons q rest ih =>
    have hoff : min n before + min q.room (n - min n before) = min n (before + q.room) := by omega
    rw [List.cons_append, cutStrips]
    dsimp only
    rw [← Player.room, hoff, rooms, List.map_cons, List.sum_cons, ← Nat.add_assoc]
    exact List.mem_cons_of_mem _ (ih _)

/-! ### The members receive their strips -/

theorem takeStrip_eq {p : Player} {r : SReg × SReg} (h : p.inSetvlG = some r) (base len total : Nat) :
    p.takeStrip base len total = { p with
      shape := { p.shape with
        limit := len, vl := (stripOf p.shape.vlmax p.rc len).1, flim := len, gbase := base, gstep := total }
      waiting := none
      pc := p.pc + 4
      sregs := if r.1 = 0 then p.sregs else p.sregs.set r.1 (word len) } := by
  unfold Player.takeStrip
  rw [h]
  dsimp only
  rw [wr_eq]
  rfl

theorem takeStrip_id (p : Player) (base len total : Nat) : (p.takeStrip base len total).id = p.id := by
  cases h : p.inSetvlG with
  | none => rw [Player.takeStrip, h]
  | some da => rw [takeStrip_eq h]

theorem updPlayer_players (s : State) (id : Nat) (f : Player → Player) :
    (s.updPlayer id f).players = s.players.map (fun p => if p.id = id then f p else p) := rfl

section
variable (total : Nat)

/-- One cut is handed to its member. -/
def State.giveStrip (s : State) (c : Nat × Nat × Nat) : State := s.updPlayer c.1 (fun p => p.takeStrip c.2.1 c.2.2 total)

theorem mem_giveStrips_of_not_mem {cuts : List (Nat × Nat × Nat)} {s : State} {p : Player} (hp : p ∈ s.players)
    (h : p.id ∉ cuts.map Prod.fst) : p ∈ (cuts.foldl (State.giveStrip total) s).players := by
  induction cuts generalizing s with
  | nil => exact hp
  | cons c rest ih =>
    obtain ⟨hne, hrest⟩ := not_or.1 (mt List.mem_cons.2 h)
    refine ih ?_ hrest
    rw [State.giveStrip, updPlayer_players]
    exact List.mem_map.2 ⟨p, hp, if_neg hne⟩

/-- Where no player is named twice, every member has received its own cut. -/
theorem takeStrip_mem_giveStrips {cuts : List (Nat × Nat × Nat)} (hn : (cuts.map Prod.fst).Nodup) {s : State} {p : Player}
    (hp : p ∈ s.players) {base len : Nat} (hc : (p.id, base, len) ∈ cuts) :
    p.takeStrip base len total ∈ (cuts.foldl (State.giveStrip total) s).players := by
  induction cuts generalizing s with
  | nil => exact absurd hc List.not_mem_nil
  | cons c rest ih =>
    obtain ⟨hc0, hrest⟩ := List.nodup_cons.1 hn
    rcases List.mem_cons.1 hc with rfl | hc
    · refine mem_giveStrips_of_not_mem total (cuts := rest) ?_ (by rwa [takeStrip_id])
      rw [State.giveStrip, updPlayer_players]
      exact List.mem_map.2 ⟨p, hp, if_pos rfl⟩
    · have hne : p.id ≠ c.1 := fun he => hc0 (List.mem_map.2 ⟨_, hc, he⟩)
      refine ih hrest ?_ hc
      rw [State.giveStrip, updPlayer_players]
      exact List.mem_map.2 ⟨p, hp, if_neg hne⟩

end

/-! ### The collective (R94) -/

/-- The count that a member of a collective names. -/
def Player.asked (p : Player) : Nat :=
  match p.inSetvlG with
  | some (_, a) => (p.rd a).toNat
  | none => 0

theorem asked_eq {p : Player} {r : SReg × SReg} (h : p.inSetvlG = some r) : p.asked = (p.rd r.2).toNat := by
  unfold Player.asked
  rw [h]

/-- What `tryCollective` finds when the party is complete and nothing holds it up. -/
structure Gathered (s : State) (launch index : Nat) : Prop where
  distinct : distinctPlayers s
  live : s.me.live = true
  some_member : s.members launch index ≠ []
  all_wait : ∀ p ∈ s.members launch index, p.inSetvlG.isSome = true
  all_here : s.liveCount launch index = (s.members launch index).length
  ranks : ((s.members launch index).map (fun p => p.place.rank)).Nodup
  settled : ∀ p ∈ s.members launch index, p.shape.pending = none ∧ p.shape.await = false

section
variable {s : State} {launch index : Nat}

/-- The strips are cut among the members in rank order, by the count of the lowest. -/
theorem tryCollective_eq (h : Gathered s launch index) : ∃ t : State, ∃ low : Player, ∃ higher : List Player,
    t.players.Perm s.players ∧
    (low :: higher).Perm (s.members launch index) ∧
    (low :: higher).Pairwise (fun p q => p.place.rank < q.place.rank) ∧
    s.tryCollective launch index = (cutStrips low.asked 0 (low :: higher)).1.foldl
      (State.giveStrip (cutStrips low.asked 0 (low :: higher)).2) t := by
  have hmem : ∀ p ∈ sortBy (fun (x : Player) => x.place.core * 16 + x.place.slot) (s.members launch index),
      p ∈ s.players ∧ p.live = true ∧ p.shape.pending = none ∧ p.shape.await = false := fun p hp =>
    have hp' := (sortBy_perm _ _).mem_iff.1 hp
    ⟨(mem_members.1 hp').1, (mem_members.1 hp').2.1, h.settled p hp'⟩
  obtain ⟨r, hr, hrp, hrl⟩ := prepareAll_settled h.distinct h.live hmem
  have htp : (r.focus s.me.id).players.Perm s.players :=
    (focus_players_perm (distinctPlayers_of_perm hrp h.distinct) hrl _).trans hrp
  have hms := members_perm htp launch index
  have hsort := (sortBy_perm (fun (x : Player) => x.place.rank) ((r.focus s.me.id).members launch index)).trans hms
  have hstrict := sortBy_strict (fun (x : Player) => x.place.rank) ((hms.map _).nodup_iff.2 h.ranks)
  have hgo : ((s.members launch index).isEmpty || !((s.members launch index).all (fun p => p.inSetvlG.isSome)) ||
      decide (s.liveCount launch index ≠ (s.members launch index).length)) = false := by
    simpa [h.all_here, h.some_member] using h.all_wait
  unfold State.tryCollective
  dsimp only
  rw [if_neg (by rw [hgo]; exact Bool.false_ne_true), orderedIds, hr]
  dsimp only
  rw [if_pos rfl]
  generalize sortBy (fun (x : Player) => x.place.rank) ((r.focus s.me.id).members launch index) = ranked at hsort hstrict ⊢
  cases ranked with
  | nil => exact absurd (List.nil_perm.1 hsort) h.some_member
  | cons low higher => exact ⟨r.focus s.me.id, low, higher, htp, hsort, hstrict, rfl⟩

theorem rooms_perm {ps qs : List Player} (h : ps.Perm qs) : rooms ps = rooms qs := (h.map _).sum_eq

/-- R94: every member takes the cut behind the rooms of the members of lower rank, of the count that the lowest names. -/
theorem tryCollective_cuts (h : Gathered s launch index) {low : Player} (hlow : low ∈ s.members launch index)
    (hmin : ∀ p ∈ s.members launch index, low.place.rank ≤ p.place.rank) {p : Player} (hp : p ∈ s.members launch index) :
    let ms := s.members launch index
    let c := cut low.asked (rooms (ms.filter (fun x => x.place.rank < p.place.rank))) p.room
    p.takeStrip c.1 c.2 (min low.asked (rooms ms)) ∈ (s.tryCollective launch index).players := by
  obtain ⟨t, low', higher, htp, hperm, hstrict, heq⟩ := tryCollective_eq h
  have hlow' : low' = low := by
    rcases List.mem_cons.1 (hperm.mem_iff.2 hlow) with he | he
    · exact he.symm
    · have hlt := (List.pairwise_cons.1 hstrict).1 low he
      have hle := hmin low' (hperm.mem_iff.1 List.mem_cons_self)
      omega
  subst hlow'
  obtain ⟨front, back, hsplit⟩ := List.append_of_mem (hperm.mem_iff.2 hp)
  have hbefore : rooms ((s.members launch index).filter (fun x => x.place.rank < p.place.rank)) = rooms front := by
    rw [← rooms_perm (hperm.filter _), hsplit]
    exact congrArg rooms (filter_lt_of_strict (key := fun x : Player => x.place.rank) (hsplit ▸ hstrict))
  have hcut := cut_mem_cutStrips low'.asked 0 front back p
  have htotal := cutStrips_total low'.asked 0 (low' :: higher)
  rw [Nat.min_zero, Nat.zero_add, ← hsplit] at hcut
  rw [Nat.min_zero, Nat.zero_add, rooms_perm hperm] at htotal
  have hids : ((cutStrips low'.asked 0 (low' :: higher)).1.map Prod.fst).Nodup := by
    rw [cutStrips_ids]
    exact ((hperm.map _).nodup_iff).2 (h.distinct.sublist (List.filter_sublist.map _))
  dsimp only
  rw [heq, hbefore, ← htotal]
  exact takeStrip_mem_giveStrips _ hids (htp.mem_iff.2 (mem_members.1 hp).1) hcut

end

end Sys2Proof.Machine
end

section
/-! Proofs. The last arrival at a `setvl.g` in the terms of the statements, and the obligation on the configuration
instructions. -/

namespace Sys2Proof.Machine

open Sys2Proof.Claims

/-! ### The member that arrives last (R94) -/

/-- The current player has entered `setvl.g`. -/
def State.arriving (s : State) (d a : SReg) : State := mine s (fun p => { p with waiting := some (.setvlG d a) })

/-- A player's record once the current player has entered `setvl.g`. -/
def State.onArrival (s : State) (d a : SReg) (p : Player) : Player :=
  if p.id = s.me.id then { p with waiting := some (.setvlG d a) } else p

/-- The destination and the count register that a member of the collective names. -/
def State.regsOf (s : State) (d a : SReg) (p : Player) : SReg × SReg :=
  if p.id = s.me.id then (d, a) else p.inSetvlG.getD (0, 0)

theorem execSetvlG_eq (d a : SReg) (s : State) :
    execSetvlG d a s = .next ((s.arriving d a).tryCollective s.me.place.launch s.me.place.party) := rfl

section
variable (s : State) (d a : SReg)

theorem onArrival_eq (p : Player) : s.onArrival d a p = { p with waiting := (s.onArrival d a p).waiting } := by
  unfold State.onArrival
  split <;> rfl

@[simp] theorem onArrival_id (p : Player) : (s.onArrival d a p).id = p.id := by rw [onArrival_eq]
@[simp] theorem onArrival_live (p : Player) : (s.onArrival d a p).live = p.live := by rw [onArrival_eq]
@[simp] theorem onArrival_place (p : Player) : (s.onArrival d a p).place = p.place := by rw [onArrival_eq]
@[simp] theorem onArrival_shape (p : Player) : (s.onArrival d a p).shape = p.shape := by rw [onArrival_eq]
@[simp] theorem onArrival_rd (p : Player) (r : SReg) : (s.onArrival d a p).rd r = p.rd r := by rw [onArrival_eq]; rfl
@[simp] theorem onArrival_room (p : Player) : (s.onArrival d a p).room = p.room := by rw [onArrival_eq]; rfl

theorem rooms_onArrival (ps : List Player) : rooms (ps.map (s.onArrival d a)) = rooms ps := by
  simp [rooms, Function.comp_def]

end

section
variable {s : State} (d a : SReg)

theorem arriving_players (hd : distinctPlayers s) : (s.arriving d a).players = s.players.map (s.onArrival d a) := by
  have hme : ∀ p ∈ s.others, p.id ≠ s.me.id := fun p hp he => (List.nodup_cons.1 hd).1 (List.mem_map.2 ⟨p, hp, he⟩)
  have hothers : s.others.map (s.onArrival d a) = s.others :=
    (List.map_congr_left (fun p hp => if_neg (hme p hp))).trans (List.map_id' s.others)
  rw [State.players, State.players, List.map_cons, hothers, State.onArrival, if_pos rfl]
  rfl

theorem arriving_members (hd : distinctPlayers s) (launch index : Nat) :
    (s.arriving d a).members launch index = (s.members launch index).map (s.onArrival d a) := by
  rw [State.members, arriving_players d a hd, List.filter_map, State.members]
  simp [Function.comp_def]

theorem arriving_liveCount (hd : distinctPlayers s) (launch index : Nat) :
    (s.arriving d a).liveCount launch index = s.liveCount launch index := by
  unfold State.liveCount
  rw [arriving_members d a hd]
  simp only [List.length_map, List.any_map, Function.comp_def, onArrival_id]
  rfl

/-- Every other live member of the party of the current player waits in `setvl.g`. -/
def State.othersWait (s : State) : Prop :=
  ∀ p ∈ s.others, p.live = true ∧ p.place.launch = s.me.place.launch ∧ p.place.party = s.me.place.party →
    ∃ x y, p.waiting = some (.setvlG x y)

theorem inSetvlG_onArrival (hw : s.othersWait) {p : Player}
    (hp : p ∈ s.members s.me.place.launch s.me.place.party) :
    (s.onArrival d a p).inSetvlG = some (s.regsOf d a p) := by
  unfold State.onArrival State.regsOf
  by_cases h : p.id = s.me.id
  · rw [if_pos h, if_pos h]; rfl
  · obtain ⟨hplayer, hparty⟩ := mem_members.1 hp
    have hother : p ∈ s.others := (List.mem_cons.1 hplayer).resolve_left (fun he => h (by rw [he]))
    obtain ⟨x, y, hxy⟩ := hw p hother hparty
    have hin : p.inSetvlG = some (x, y) := by rw [Player.inSetvlG, hxy]
    rw [if_neg h, if_neg h, hin]
    rfl

/-- The arrival of the last member completes the party. -/
theorem gathered_of_arrival (hd : distinctPlayers s) (hl : s.me.live = true) (hw : s.othersWait)
    (hcount : s.liveCount s.me.place.launch s.me.place.party = (s.members s.me.place.launch s.me.place.party).length)
    (hranks : ((s.members s.me.place.launch s.me.place.party).map (fun p => p.place.rank)).Nodup)
    (hsettled : ∀ p ∈ s.members s.me.place.launch s.me.place.party, p.shape.pending = none ∧ p.shape.await = false) :
    Gathered (s.arriving d a) s.me.place.launch s.me.place.party where
  distinct := hd
  live := hl
  some_member := by
    have hme : s.me ∈ s.members s.me.place.launch s.me.place.party := mem_members.2 ⟨List.mem_cons_self, hl, rfl, rfl⟩
    rw [arriving_members d a hd]
    exact List.ne_nil_of_mem (List.mem_map_of_mem hme)
  all_wait := by
    rw [arriving_members d a hd, List.forall_mem_map]
    intro p hp
    rw [inSetvlG_onArrival d a hw hp]
    rfl
  all_here := by rw [arriving_liveCount d a hd, arriving_members d a hd, List.length_map, hcount]
  ranks := by simpa [arriving_members d a hd, Function.comp_def] using hranks
  settled := by simpa [arriving_members d a hd] using hsettled

/-- The count of the lowest member, its strip as R94 gives it, and the record that `takeStrip` leaves. -/
theorem arrival_cuts (hd : distinctPlayers s) (hw : s.othersWait)
    (hg : Gathered (s.arriving d a) s.me.place.launch s.me.place.party) {low : Player}
    (hlow : low ∈ s.members s.me.place.launch s.me.place.party)
    (hmin : ∀ p ∈ s.members s.me.place.launch s.me.place.party, low.place.rank ≤ p.place.rank) {p : Player}
    (hp : p ∈ s.members s.me.place.launch s.me.place.party) :
    let ms := s.members s.me.place.launch s.me.place.party
    let n := (low.rd (s.regsOf d a low).2).toNat
    let c := cut n (rooms (ms.filter (fun x => x.place.rank < p.place.rank))) p.room
    (s.onArrival d a p).takeStrip c.1 c.2 (min n (rooms ms)) ∈
      ((s.arriving d a).tryCollective s.me.place.launch s.me.place.party).players := by
  intro ms n c
  have hmem : ∀ q ∈ ms, s.onArrival d a q ∈ (s.arriving d a).members s.me.place.launch s.me.place.party := fun q hq => by
    rw [arriving_members d a hd]
    exact List.mem_map_of_mem hq
  have hmin' : ∀ q ∈ (s.arriving d a).members s.me.place.launch s.me.place.party,
      (s.onArrival d a low).place.rank ≤ q.place.rank := by
    simpa [arriving_members d a hd] using hmin
  have hasked : (s.onArrival d a low).asked = n := by
    rw [asked_eq (inSetvlG_onArrival d a hw hlow), onArrival_rd]
  have hcuts := tryCollective_cuts hg (hmem low hlow) hmin' (hmem p hp)
  simpa only [arriving_members d a hd, List.filter_map, Function.comp_def, rooms_onArrival, onArrival_place, onArrival_room,
    hasked] using hcuts

end

/-- R94: the last member of a party to arrive in `setvl.g` lets every member go on with its strip. -/
theorem setvlG_goes {s : State} (d a : SReg) (hd : distinctPlayers s) (hl : s.me.live = true) (hw : s.othersWait)
    (hcount : s.liveCount s.me.place.launch s.me.place.party = (s.members s.me.place.launch s.me.place.party).length)
    (hranks : ((s.members s.me.place.launch s.me.place.party).map (fun p => p.place.rank)).Nodup)
    (hsettled : ∀ p ∈ s.members s.me.place.launch s.me.place.party, p.shape.pending = none ∧ p.shape.await = false) :
    ∃ t, Goes (.setvlG d a) s t ∧
      let ms := s.members s.me.place.launch s.me.place.party
      ∀ low ∈ ms, (∀ p ∈ ms, low.place.rank ≤ p.place.rank) →
        let n := (low.rd (s.regsOf d a low).2).toNat
        ∀ p ∈ ms, ∃ q ∈ t.players, q.id = p.id ∧ q.waiting = none ∧ q.pc = p.pc + 4 ∧
          let c := cut n (rooms (ms.filter (fun x => x.place.rank < p.place.rank))) p.room
          q.shape.gbase = c.1 ∧ q.shape.flim = c.2 ∧ q.shape.gstep = min n (rooms ms) ∧
          q.shape.vl = (stripOf p.shape.vlmax p.rc c.2).1 ∧
          q.sregs = (if (s.regsOf d a p).1 = 0 then p.sregs else p.sregs.set (s.regsOf d a p).1 (word c.2)) ∧
          q.tregs = p.tregs ∧ q.flags = p.flags := by
  have hg := gathered_of_arrival d a hd hl hw hcount hranks hsettled
  refine ⟨_, execSetvlG_eq d a s, fun low hlow hmin p hp => ⟨_, arrival_cuts d a hd hw hg hlow hmin hp, ?_⟩⟩
  rw [takeStrip_eq (inSetvlG_onArrival d a hw hp), onArrival_eq]
  exact ⟨rfl, rfl, rfl, rfl, rfl, rfl, rfl, rfl, rfl, rfl⟩

end Sys2Proof.Machine

open Sys2Proof Sys2Proof.Machine Sys2Proof.Claims

/-- Settles O30: each instruction goes on from the reseated state, the collective's cuts follow the rank order, and a strip
of a type that `settype` takes fits the registers because a group has no more registers than an element has bits. -/
theorem configuration : Obligations.Configuration := by
  unfold Obligations.Configuration
  refine ⟨fun s d a b => ⟨setvl_goes d a b, fun pa hpa hmay => ?setvlw, ⟨?settype, ?notype⟩, reseat_refuses d a,
    reseat_records d a, ⟨allot_traps, fun hok hheld hnames => ?allot⟩, fun hd hl _ hw hcount hranks hsettled => ?setvlG⟩, ?strip⟩
  case setvlw =>
    have heq := execSetvlw_eq (d := d) (a := a) (b := b) hpa hmay
    exact ⟨fun hle => heq.trans (if_pos hle), fun hlt => heq.trans (if_neg (not_le.2 hlt))⟩
  case settype => exact fun hok => settype_goes d a ((ttyOk_iff _).2 hok)
  case notype => exact fun hbad => settype_traps d a (mt (ttyOk_iff _).1 hbad)
  case allot =>
    exact ⟨_, allot_goes hok hheld hnames, rfl, mem_allotted_tbad s.me _, mem_allotted_tsoft s.me _,
      allotted_tregs s.me _⟩
  case setvlG => exact setvlG_goes d a hd hl hw hcount hranks hsettled
  case strip =>
    intro s t d a b shaped hshaped hs i hi hgo hpc htrap
    have hc : Completed s t := ⟨hpc, htrap⟩
    have hown : ∀ lim, t.me.shape = ((reseated s).me.ownStrip lim).shape → t.me.stripOk ∧ t.me.shaped := fun lim h =>
      ⟨(stripOk_congr h).2 (setStrip_stripOk (reseated_shaped hshaped) lim),
        (shaped_congr h).2 (setStrip_shaped (reseated_shaped hshaped) lim)⟩
    simp only [List.mem_cons, List.not_mem_nil, or_false] at hi
    rcases hi with rfl | rfl | rfl
    · obtain ⟨lim, h⟩ := setvl_completed hgo hs hc
      exact hown lim h
    · obtain ⟨lim, h⟩ := setvlw_completed hgo hs hc
      exact hown lim h
    · obtain ⟨p, hp, lim, h⟩ := settype_completed hgo hs hc
      exact ⟨(stripOk_congr h).2 (setStrip_stripOk hp lim), (shaped_congr h).2 (setStrip_shaped hp lim)⟩
end

section
/-! Proofs. The immediate forms, branches and jumps of the control engine (spec/09_control_scalar_system.md R221 to R225): the
model's word operations as arithmetic on integers, one rule for each shape of instruction, and the two obligations. -/

namespace Sys2Proof.Machine

open Sys2Proof.Claims

/-! ### Word operations as arithmetic (R219, R221) -/

/-- Two's complement: adding words adds the integers they stand for. -/
theorem add_ofInt (x : Word) (z : Int) : x + BitVec.ofInt 64 z = BitVec.ofInt 64 (x.toInt + z) := by
  rw [BitVec.ofInt_add, BitVec.ofInt_toInt]

theorem ofInt_shiftLeft (z : Int) (n : Nat) : BitVec.ofInt 64 z <<< n = BitVec.ofInt 64 (z * 2 ^ n) := by
  have hpow : BitVec.twoPow 64 n = BitVec.ofInt 64 (2 ^ n : Nat) := by
    rw [BitVec.ofInt_natCast]
    exact BitVec.eq_of_toNat_eq (by simp)
  rw [BitVec.shiftLeft_eq_mul_twoPow, hpow, ← BitVec.ofInt_mul, Nat.cast_pow, Nat.cast_ofNat]

theorem shiftLeft_eq_word (x : Word) (n : Nat) : x <<< n = word (x.toNat * 2 ^ n) := by
  rw [← Nat.shiftLeft_eq]
  rfl

theorem ushiftRight_eq_word (x : Word) (n : Nat) : x >>> n = word (x.toNat / 2 ^ n) := by
  rw [← Nat.shiftRight_eq_div_pow, ← BitVec.toNat_ushiftRight, word, BitVec.ofNat_toNat, BitVec.setWidth_eq]

theorem sshiftRight_eq_ofInt (x : Word) (n : Nat) : x.sshiftRight n = BitVec.ofInt 64 (x.toInt / 2 ^ n) := by
  rw [BitVec.sshiftRight, Int.shiftRight_eq_div_pow, Nat.cast_pow, Nat.cast_ofNat]

/-! ### Immediates (R32, R221 to R223) -/

theorem imm15_toInt (i : BitVec 15) : (imm15 i).toInt = i.toInt := BitVec.toInt_signExtend_of_le (by decide)

theorem add_imm15 (x : Word) (i : BitVec 15) : x + imm15 i = BitVec.ofInt 64 (x.toInt + i.toInt) := add_ofInt x i.toInt

theorem imm20_shiftLeft (u : BitVec 20) (n : Nat) : imm20 u <<< n = BitVec.ofInt 64 (u.toInt * 2 ^ n) :=
  ofInt_shiftLeft u.toInt n

theorem boolWord_decide (c : Prop) [Decidable c] : boolWord (decide c) = flag c := by
  by_cases h : c <;> simp [boolWord, flag, h]

theorem boolWord_slt_imm15 (x : Word) (i : BitVec 15) : boolWord (x.slt (imm15 i)) = flag (x.toInt < i.toInt) := by
  rw [← imm15_toInt]
  exact boolWord_decide _

/-- An instruction whose meaning is to write a value and go on writes that value, in whatever form it is stated. -/
theorem goes_wrote {i : Instr} {s : State} {d : SReg} {v w : Word} (hexec : exec i s = s.finishWr d v) (hval : v = w) :
    Goes i s (wrote s d w) := by
  rw [Goes, hexec, finishWr_eq_wrote, hval]

/-! ### Branches and jumps (R224, R225) -/

/-- A word offset of either width counts four bytes (R224, R225). -/
theorem target_ofInt (s : State) (z : Int) : s.target (BitVec.ofInt 64 z) = BitVec.ofInt 64 (s.me.pc.toInt + z * 4) := by
  rw [State.target, ofInt_shiftLeft, add_ofInt]
  rfl

theorem target_imm15 (s : State) (o : BitVec 15) :
    s.target (imm15 o) = BitVec.ofInt 64 (s.me.pc.toInt + o.toInt * 4) := target_ofInt s o.toInt

theorem target_imm20 (s : State) (u : BitVec 20) :
    s.target (imm20 u) = BitVec.ofInt 64 (s.me.pc.toInt + u.toInt * 4) := target_ofInt s u.toInt

/-- A compare and branch moves the PC alone: to the target when the comparison holds, to the next word otherwise. -/
theorem goes_went_of_branchIf {i : Instr} {s : State} {b : Bool} {o : BitVec 15} {c : Prop} [Decidable c]
    (hexec : exec i s = branchIf b o s) (hcond : b = true ↔ c) :
    Goes i s (went s (if c then BitVec.ofInt 64 (s.me.pc.toInt + o.toInt * 4) else s.me.pc + 4)) := by
  rw [Goes, hexec, branchIf, target_imm15]
  by_cases hc : c
  · rw [if_pos (hcond.2 hc), if_pos hc]
    rfl
  · rw [if_neg (mt hcond.1 hc), if_neg hc]
    rfl

/-- A jump writes its link register and moves the PC to a target named beforehand. -/
theorem goes_went_of_link {i : Instr} {s : State} {d : SReg} {a b : Word}
    (hexec : exec i s = .next ((s.wr d (s.me.pc + 4)).setPc a)) (htarget : a = b) :
    Goes i s (went (wrote s d (s.me.pc + 4)) b) := by
  rw [Goes, hexec, htarget, State.wr, wr_eq]
  rfl

theorem not_slt_iff (x y : Word) : (!x.slt y) = true ↔ y.toInt ≤ x.toInt := by
  simp [BitVec.slt]

theorem not_ult_iff (x y : Word) : (!x.ult y) = true ↔ y.toNat ≤ x.toNat := by
  simp [BitVec.ult]

end Sys2Proof.Machine

open Sys2Proof Sys2Proof.Machine Sys2Proof.Claims

/-- Settles O3: each form writes one value, which the word arithmetic above puts in the terms of R221 to R223. -/
theorem scalarImmediateForms : Obligations.ScalarImmediateForms := by
  unfold Obligations.ScalarImmediateForms
  intro s d a i n u x k
  refine ⟨?saddi, ?sandi, ?sori, ?sxori, ?slti, ?sltin, ?sslli, ?ssrli, ?ssrai, ?slui, ?spcrel⟩
  case saddi => exact goes_wrote rfl (add_imm15 x i)
  case sandi | sori | sxori => exact goes_wrote rfl rfl
  case slti => exact goes_wrote rfl (boolWord_slt_imm15 x i)
  case sltin => exact goes_wrote rfl (boolWord_decide _)
  case sslli => exact goes_wrote rfl (shiftLeft_eq_word x n.toNat)
  case ssrli => exact goes_wrote rfl (ushiftRight_eq_word x n.toNat)
  case ssrai => exact goes_wrote rfl (sshiftRight_eq_ofInt x n.toNat)
  case slui => exact goes_wrote rfl (imm20_shiftLeft u 15)
  case spcrel => exact goes_wrote rfl (by rw [imm20_shiftLeft, add_ofInt])

/-- Settles O4: a branch goes where its comparison says, and a jump's target is computed from the state before the link. -/
theorem branchesAndJumps : Obligations.BranchesAndJumps := by
  unfold Obligations.BranchesAndJumps
  intro s d a b o u x y there next
  refine ⟨?sbeq, ?sbne, ?sblt, ?sbge, ?sbltn, ?sbgen, ?sjal, ?sjalr⟩
  case sbeq => exact goes_went_of_branchIf rfl beq_iff_eq
  case sbne => exact goes_went_of_branchIf rfl bne_iff_ne
  case sblt => exact goes_went_of_branchIf rfl BitVec.slt_iff_toInt_lt
  case sbge => exact goes_went_of_branchIf rfl (not_slt_iff x y)
  case sbltn => exact goes_went_of_branchIf rfl BitVec.ult_iff_toNat_lt
  case sbgen => exact goes_went_of_branchIf rfl (not_ult_iff x y)
  case sjal => exact goes_went_of_link rfl (target_imm20 s u)
  case sjalr => exact goes_went_of_link rfl (add_imm15 x o)
end
